-- ==== Sys2Proof/Word.lean ====
section
/-! DEFINITION. The word types of the Omrid machine (R4): a byte, a halfword, the 64-bit word that the manual calls *word*,
and the 2,048-bit vector register of R137. -/

namespace Sys2Proof

/-- One byte of memory (R4). -/
abbrev Byte := BitVec 8

/-- A *word* of the manual: 64 bits unless a width is given (R4). -/
abbrev Word := BitVec 64

/-- A vector register: 256 bytes, 2,048 bits (R137). -/
abbrev VWord := BitVec 2048

end Sys2Proof
end

