-- ==== Sys2Proof/Syntax.lean ====
section
/-! DEFINITION. The abstract syntax of Omrid: one constructor of `Instr` for every row of spec/opcode_table.json.
The rows with an encoding carry the operand fields of that encoding (chapter 11, Tables 2, 3, 5 and 6).
The rows without one are the steps of the units that no program fetches; each carries the numbers that name
its agents and the piece of work in flight that it acts on. -/

namespace Sys2Proof

/-- Format codes (R19, Table 2), which are also the type codes of R203. -/
inductive Fmt where
  | untyped | fp64 | fp32 | fp16 | bf16 | cf32 | int8 | int16 | int32 | nat8 | nat16 | nat32 | k8a | k8b | k8t | e8
  deriving DecidableEq, Repr

/-- Scopes (R203, Table 3). -/
inductive Scope where
  | strand | core | panel | package | system
  deriving DecidableEq, Repr

/-- Ordering attributes (R203, Table 3). -/
inductive Order where
  | none | acquire | release | acqRel
  deriving DecidableEq, Repr

/-- Conditions (R203, Table 3); code 7 is reserved. -/
inductive Cond where
  | eq | ne | lt | le | ltn | len | un
  deriving DecidableEq, Repr

/-- Operations of VRED and VSCAN (R274, Table 5). -/
inductive RedOp where
  | add | adds | min | max | and | or | xor
  deriving DecidableEq, Repr

/-- Accumulator modes (R284, Table 1). -/
inductive AccMode where
  | none | nar | int | p32 | pcx | p64
  deriving DecidableEq, Repr

/-- The two kinds of processor that execute encodings (R210): a strand of a core or foreman, and a footing core. -/
inductive Proc where
  | strand | footing
  deriving DecidableEq, Repr

/-- Every instruction and every step of spec/opcode_table.json. -/
inductive Instr where
  /-- `ADD` (R241). Writes the 64-bit wrapping sum of w(a) and w(b) to w(d). -/
  | add (g : Fin 8) (d : Fin 32) (a : Fin 32) (b : Fin 32)
  /-- `SUB` (R241). Writes w(a) minus w(b), wrapping, to w(d). -/
  | sub (g : Fin 8) (d : Fin 32) (a : Fin 32) (b : Fin 32)
  /-- `MUL` (R241). Writes the low 64 bits of the product of w(a) and w(b) to w(d). -/
  | mul (g : Fin 8) (d : Fin 32) (a : Fin 32) (b : Fin 32)
  /-- `MULH` (R241). Writes the high 64 bits of the signed 128-bit product to w(d). -/
  | mulh (g : Fin 8) (d : Fin 32) (a : Fin 32) (b : Fin 32)
  /-- `MULHN` (R241). Writes the high 64 bits of the unsigned 128-bit product to w(d). -/
  | mulhn (g : Fin 8) (d : Fin 32) (a : Fin 32) (b : Fin 32)
  /-- `DIV` (R242). Signed division truncating toward zero; a zero divisor traps 0x15. -/
  | div (g : Fin 8) (d : Fin 32) (a : Fin 32) (b : Fin 32)
  /-- `DIVN` (R242). Unsigned division; a zero divisor traps 0x15. -/
  | divn (g : Fin 8) (d : Fin 32) (a : Fin 32) (b : Fin 32)
  /-- `REM` (R242). Signed remainder with the sign of the dividend; a zero divisor traps 0x15. -/
  | rem (g : Fin 8) (d : Fin 32) (a : Fin 32) (b : Fin 32)
  /-- `REMN` (R242). Unsigned remainder; a zero divisor traps 0x15. -/
  | remn (g : Fin 8) (d : Fin 32) (a : Fin 32) (b : Fin 32)
  /-- `AND` (R241). Writes the bitwise AND of w(a) and w(b) to w(d). -/
  | and (g : Fin 8) (d : Fin 32) (a : Fin 32) (b : Fin 32)
  /-- `OR` (R241). Writes the bitwise OR of w(a) and w(b) to w(d). -/
  | or (g : Fin 8) (d : Fin 32) (a : Fin 32) (b : Fin 32)
  /-- `XOR` (R241). Writes the bitwise XOR of w(a) and w(b) to w(d). -/
  | xor (g : Fin 8) (d : Fin 32) (a : Fin 32) (b : Fin 32)
  /-- `SHL` (R241). Shifts w(a) left by w(b)[5:0], shifting in zeros. -/
  | shl (g : Fin 8) (d : Fin 32) (a : Fin 32) (b : Fin 32)
  /-- `SHR` (R241). Shifts w(a) right by w(b)[5:0], shifting in zeros. -/
  | shr (g : Fin 8) (d : Fin 32) (a : Fin 32) (b : Fin 32)
  /-- `SAR` (R241). Shifts w(a) right arithmetically by w(b)[5:0]. -/
  | sar (g : Fin 8) (d : Fin 32) (a : Fin 32) (b : Fin 32)
  /-- `ROT` (R241). Rotates w(a) left by w(b)[5:0]. -/
  | rot (g : Fin 8) (d : Fin 32) (a : Fin 32) (b : Fin 32)
  /-- `MIN` (R241). Writes the signed minimum of w(a) and w(b). -/
  | min (g : Fin 8) (d : Fin 32) (a : Fin 32) (b : Fin 32)
  /-- `MAX` (R241). Writes the signed maximum of w(a) and w(b). -/
  | max (g : Fin 8) (d : Fin 32) (a : Fin 32) (b : Fin 32)
  /-- `MINN` (R241). Writes the unsigned minimum of w(a) and w(b). -/
  | minn (g : Fin 8) (d : Fin 32) (a : Fin 32) (b : Fin 32)
  /-- `MAXN` (R241). Writes the unsigned maximum of w(a) and w(b). -/
  | maxn (g : Fin 8) (d : Fin 32) (a : Fin 32) (b : Fin 32)
  /-- `PADD` (R252). Adds a signed register offset to a fat pointer's address and keeps its tag; overflow traps 0x0B. -/
  | padd (g : Fin 8) (d : Fin 32) (a : Fin 32) (b : Fin 32)
  /-- `PTAG` (R253). Replaces the tag of w(a) with w(b)[7:0] without checking it. -/
  | ptag (g : Fin 8) (d : Fin 32) (a : Fin 32) (b : Fin 32)
  /-- `PFMT` (R254). Decodes the tag of w(a) into block length, element size, BLK and FMT; a reserved tag traps 0x03. -/
  | pfmt (g : Fin 8) (d : Fin 32) (a : Fin 32)
  /-- `SEL` (R245). Copies w(b) to w(d) when k(a)[0] is 1, and otherwise leaves w(d) unwritten. -/
  | sel (g : Fin 8) (d : Fin 32) (a : Fin 32) (b : Fin 32)
  /-- `CLZ` (R243). Counts the leading zeros of w(a), 0 to 64. -/
  | clz (g : Fin 8) (d : Fin 32) (a : Fin 32)
  /-- `CTZ` (R243). Counts the trailing zeros of w(a), 0 to 64. -/
  | ctz (g : Fin 8) (d : Fin 32) (a : Fin 32)
  /-- `POPC` (R243). Counts the set bits of w(a). -/
  | popc (g : Fin 8) (d : Fin 32) (a : Fin 32)
  /-- `MOV` (R241). Copies w(a) to w(d). -/
  | mov (g : Fin 8) (d : Fin 32) (a : Fin 32)
  /-- `SEXT` (R244). Sign-extends the low 8, 16 or 32 bits of w(a). -/
  | sext (g : Fin 8) (n : Fin 3) (d : Fin 32) (a : Fin 32)
  /-- `ZEXT` (R244). Zero-extends the low 8, 16 or 32 bits of w(a). -/
  | zext (g : Fin 8) (n : Fin 3) (d : Fin 32) (a : Fin 32)
  /-- `CMP` (R246). Compares w(a) with w(b) under a condition and writes all ones or zero to k(d). -/
  | cmp (g : Fin 8) (c : Cond) (d : Fin 32) (a : Fin 32) (b : Fin 32)
  /-- `ADDI` (R247). Adds a sign-extended 12-bit immediate, extendable by IMMX, to w(a). -/
  | addi (g : Fin 8) (i : BitVec 12) (d : Fin 32) (a : Fin 32)
  /-- `ANDI` (R247). Computes the AND of w(a) with a sign-extended immediate. -/
  | andi (g : Fin 8) (i : BitVec 12) (d : Fin 32) (a : Fin 32)
  /-- `ORI` (R247). Computes the OR of w(a) with a sign-extended immediate. -/
  | ori (g : Fin 8) (i : BitVec 12) (d : Fin 32) (a : Fin 32)
  /-- `XORI` (R247). Computes the XOR of w(a) with a sign-extended immediate. -/
  | xori (g : Fin 8) (i : BitVec 12) (d : Fin 32) (a : Fin 32)
  /-- `SHLI` (R248). Shifts w(a) left by an immediate amount of 0 to 63. -/
  | shli (g : Fin 8) (m : Fin 64) (d : Fin 32) (a : Fin 32)
  /-- `SHRI` (R248). Shifts w(a) right logically by an immediate amount. -/
  | shri (g : Fin 8) (m : Fin 64) (d : Fin 32) (a : Fin 32)
  /-- `SARI` (R248). Shifts w(a) right arithmetically by an immediate amount. -/
  | sari (g : Fin 8) (m : Fin 64) (d : Fin 32) (a : Fin 32)
  /-- `CMPI` (R249). Compares w(a) with a sign-extended 9-bit immediate and writes k(d). -/
  | cmpi (g : Fin 8) (i : BitVec 9) (c : Cond) (d : Fin 32) (a : Fin 32)
  /-- `PADDI` (R252). Adds a signed immediate to a fat pointer's address and keeps its tag; overflow traps 0x0B. -/
  | paddi (g : Fin 8) (i : BitVec 12) (d : Fin 32) (a : Fin 32)
  /-- `MOVI` (R250). Writes a sign-extended 17-bit immediate, extendable to 64 bits, to w(d). -/
  | movi (g : Fin 8) (i : BitVec 17) (d : Fin 32)
  /-- `KAND` (R255). Writes the AND of k(a) and k(b) to k(d). -/
  | kand (g : Fin 8) (d : Fin 8) (a : Fin 8) (b : Fin 8)
  /-- `KOR` (R255). Writes the OR of k(a) and k(b) to k(d). -/
  | kor (g : Fin 8) (d : Fin 8) (a : Fin 8) (b : Fin 8)
  /-- `KXOR` (R255). Writes the XOR of k(a) and k(b) to k(d). -/
  | kxor (g : Fin 8) (d : Fin 8) (a : Fin 8) (b : Fin 8)
  /-- `KNOT` (R255). Writes the complement of k(a) to k(d). -/
  | knot (g : Fin 8) (d : Fin 8) (a : Fin 8)
  /-- `KMOV` (R255). Copies k(a) to k(d). -/
  | kmov (g : Fin 8) (d : Fin 8) (a : Fin 8)
  /-- `KSET` (R255). Copies w(a) to k(d). -/
  | kset (g : Fin 8) (d : Fin 8) (a : Fin 32)
  /-- `KGET` (R255). Copies k(a) to w(d). -/
  | kget (g : Fin 8) (d : Fin 32) (a : Fin 8)
  /-- `KPOP` (R255). Writes the number of set bits of k(a) to w(d). -/
  | kpop (g : Fin 8) (d : Fin 32) (a : Fin 8)
  /-- `CSRR` (R257). Reads a control register into w(d), waiting for earlier flag-setting instructions when it reads FFLAGS. -/
  | csrr (g : Fin 8) (c : BitVec 12) (d : Fin 32)
  /-- `CSRW` (R257). Writes w(a) to a control register; a write to DQBASE or DQLIM waits for the deque unit and empties the deque. -/
  | csrw (g : Fin 8) (c : BitVec 12) (a : Fin 32)
  /-- `MOVS_READ` (R260). Reads a message or build register into w(d). -/
  | movsRead (g : Fin 8) (m : Fin 16) (d : Fin 32)
  /-- `MOVS_WRITE` (R260). Writes w(a) to a build register 8 to 15; numbers 0 to 7 are illegal. -/
  | movsWrite (g : Fin 8) (m : Fin 16) (a : Fin 32)
  /-- `TMSET` (R261). Writes bytes 0 to 63 of v(a) to a tensor-map entry as one write. -/
  | tmset (g : Fin 8) (d : Fin 16) (a : Fin 16)
  /-- `LD` (R225). Loads 1, 2, 4 or 8 bytes, sign-extended, into w(d). -/
  | ld (g : Fin 8) (o : BitVec 10) (s : Fin 4) (d : Fin 32) (a : Fin 32)
  /-- `LDN` (R225). Loads 1, 2 or 4 bytes, zero-extended, into w(d). -/
  | ldn (g : Fin 8) (o : BitVec 10) (s : Fin 3) (d : Fin 32) (a : Fin 32)
  /-- `ST` (R225). Stores the low 1, 2, 4 or 8 bytes of w(d). -/
  | st (g : Fin 8) (o : BitVec 10) (s : Fin 4) (d : Fin 32) (a : Fin 32)
  /-- `LDP` (R226). Loads 16 bytes into the register pair w(d), w(d+1) as one access. -/
  | ldp (g : Fin 8) (o : BitVec 10) (d : Fin 32) (a : Fin 32)
  /-- `STP` (R226). Stores the register pair w(d), w(d+1) as one 16-byte access. -/
  | stp (g : Fin 8) (o : BitVec 10) (d : Fin 32) (a : Fin 32)
  /-- `LDA` (R227). Loads with acquire at a scope, as a synchronisation access. -/
  | lda (g : Fin 8) (c : Scope) (s : Fin 4) (d : Fin 32) (a : Fin 32)
  /-- `STL` (R227). Stores with release at a scope, as a synchronisation access. -/
  | stl (g : Fin 8) (c : Scope) (s : Fin 4) (a : Fin 32) (b : Fin 32)
  /-- `PFM` (R227). Hints that the line of ea may be brought into the L2. -/
  | pfm (g : Fin 8) (a : Fin 32)
  /-- `ZERO` (R227). Stores 64 zero bytes to an aligned line, allocating it without reading HBM. -/
  | zero (g : Fin 8) (a : Fin 32)
  /-- `FENCE` (R228). Orders the strand's accesses as acquire, release or both at a scope. -/
  | fence (g : Fin 8) (o : Order) (c : Scope)
  /-- `FENCEP` (R229). Waits for the strand's remote operations, writes and counts its sticky per-peer bits, and clears them. -/
  | fencep (g : Fin 8) (d : Fin 32) (a : Fin 32)
  /-- `ATADD` (R230). Atomically adds w(b) to the 8-byte word and returns its old value. -/
  | atadd (g : Fin 8) (o : Order) (c : Scope) (d : Fin 32) (a : Fin 32) (b : Fin 32)
  /-- `ATAND` (R230). Atomically ANDs w(b) into the word and returns its old value. -/
  | atand (g : Fin 8) (o : Order) (c : Scope) (d : Fin 32) (a : Fin 32) (b : Fin 32)
  /-- `ATOR` (R230). Atomically ORs w(b) into the word and returns its old value. -/
  | ator (g : Fin 8) (o : Order) (c : Scope) (d : Fin 32) (a : Fin 32) (b : Fin 32)
  /-- `ATXOR` (R230). Atomically XORs w(b) into the word and returns its old value. -/
  | atxor (g : Fin 8) (o : Order) (c : Scope) (d : Fin 32) (a : Fin 32) (b : Fin 32)
  /-- `ATMIN` (R230). Atomically stores the signed minimum and returns the old value. -/
  | atmin (g : Fin 8) (o : Order) (c : Scope) (d : Fin 32) (a : Fin 32) (b : Fin 32)
  /-- `ATMAX` (R230). Atomically stores the signed maximum and returns the old value. -/
  | atmax (g : Fin 8) (o : Order) (c : Scope) (d : Fin 32) (a : Fin 32) (b : Fin 32)
  /-- `ATMINN` (R230). Atomically stores the unsigned minimum and returns the old value. -/
  | atminn (g : Fin 8) (o : Order) (c : Scope) (d : Fin 32) (a : Fin 32) (b : Fin 32)
  /-- `ATMAXN` (R230). Atomically stores the unsigned maximum and returns the old value. -/
  | atmaxn (g : Fin 8) (o : Order) (c : Scope) (d : Fin 32) (a : Fin 32) (b : Fin 32)
  /-- `ATSWP` (R230). Atomically swaps w(b) with the word. -/
  | atswp (g : Fin 8) (o : Order) (c : Scope) (d : Fin 32) (a : Fin 32) (b : Fin 32)
  /-- `ATCAS` (R230). Atomically stores w(b) if the word equals w(d), and returns the old value. -/
  | atcas (g : Fin 8) (o : Order) (c : Scope) (d : Fin 32) (a : Fin 32) (b : Fin 32)
  /-- `ATFADD_FP64` (R230). Atomically adds an FP64 value with rne and returns the old word. -/
  | atfaddFp64 (g : Fin 8) (o : Order) (c : Scope) (d : Fin 32) (a : Fin 32) (b : Fin 32)
  /-- `ATFADD_FP32` (R230). Atomically adds an FP32 value to a 4-byte word with rne and returns the old word. -/
  | atfaddFp32 (g : Fin 8) (o : Order) (c : Scope) (d : Fin 32) (a : Fin 32) (b : Fin 32)
  /-- `MINIT` (R233). Issues mortar INIT with the parameter image in v(b), translating a slot base or bound lock first. -/
  | minit (g : Fin 8) (o : Order) (c : Scope) (d : Fin 32) (a : Fin 32) (b : Fin 16)
  /-- `MREAD` (R233). Issues mortar READ and writes the object's 64 bytes and the status to v(d). -/
  | mread (g : Fin 8) (o : Order) (c : Scope) (d : Fin 16) (a : Fin 32)
  /-- `MCANCEL` (R234). Issues mortar CANCEL with the selector in w(b). -/
  | mcancel (g : Fin 8) (o : Order) (c : Scope) (d : Fin 32) (a : Fin 32) (b : Fin 32)
  /-- `MCTR_ADD` (R231). Issues CTR.ADD with addend w(b). -/
  | mctrAdd (g : Fin 8) (o : Order) (c : Scope) (d : Fin 32) (a : Fin 32) (b : Fin 32)
  /-- `MCTR_FADD` (R231). Issues CTR.FADD and receives the old VALUE. -/
  | mctrFadd (g : Fin 8) (o : Order) (c : Scope) (d : Fin 32) (a : Fin 32) (b : Fin 32)
  /-- `MCTR_WAIT` (R231). Issues CTR.WAIT with threshold w(b) and waits for completion. -/
  | mctrWait (g : Fin 8) (o : Order) (c : Scope) (d : Fin 32) (a : Fin 32) (b : Fin 32)
  /-- `MCTR_CHUNK` (R231). Issues CTR.CHUNK and receives a start and a length. -/
  | mctrChunk (g : Fin 8) (o : Order) (c : Scope) (d : Fin 32) (a : Fin 32)
  /-- `MBAR_ARRIVE` (R231). Issues BAR.ARRIVE with count w(b)[31:0]. -/
  | mbarArrive (g : Fin 8) (o : Order) (c : Scope) (d : Fin 32) (a : Fin 32) (b : Fin 32)
  /-- `MBAR_AWAIT` (R231). Issues BAR.AWAIT with a count and waits for the phase to pass. -/
  | mbarAwait (g : Fin 8) (o : Order) (c : Scope) (d : Fin 32) (a : Fin 32) (b : Fin 32)
  /-- `MBAR_WAITP` (R231). Issues BAR.WAITP for a phase and waits until it has passed. -/
  | mbarWaitp (g : Fin 8) (o : Order) (c : Scope) (d : Fin 32) (a : Fin 32) (b : Fin 32)
  /-- `MLOCK_ACQ` (R231). Issues LOCK.ACQ and waits for the grant. -/
  | mlockAcq (g : Fin 8) (o : Order) (c : Scope) (d : Fin 32) (a : Fin 32)
  /-- `MLOCK_TRY` (R231). Issues LOCK.TRY. -/
  | mlockTry (g : Fin 8) (o : Order) (c : Scope) (d : Fin 32) (a : Fin 32)
  /-- `MLOCK_REL` (R231). Issues LOCK.REL. -/
  | mlockRel (g : Fin 8) (o : Order) (c : Scope) (d : Fin 32) (a : Fin 32)
  /-- `MQUE_ENQ` (R231). Issues QUE.ENQ with length w(d) and data from v(b), waiting for room. -/
  | mqueEnq (g : Fin 8) (o : Order) (c : Scope) (d : Fin 32) (a : Fin 32) (b : Fin 16)
  /-- `MQUE_TENQ` (R231). Issues QUE.TENQ, which returns FULL when there is no room. -/
  | mqueTenq (g : Fin 8) (o : Order) (c : Scope) (d : Fin 32) (a : Fin 32) (b : Fin 16)
  /-- `MQUE_ENQR` (R231). Issues QUE.ENQR and receives a reserved index, waiting for room. -/
  | mqueEnqr (g : Fin 8) (o : Order) (c : Scope) (d : Fin 32) (a : Fin 32)
  /-- `MQUE_TENQR` (R231). Issues QUE.TENQR without waiting. -/
  | mqueTenqr (g : Fin 8) (o : Order) (c : Scope) (d : Fin 32) (a : Fin 32)
  /-- `MQUE_COMMIT` (R231). Issues QUE.COMMIT for the index in w(b). -/
  | mqueCommit (g : Fin 8) (o : Order) (c : Scope) (d : Fin 32) (a : Fin 32) (b : Fin 32)
  /-- `MQUE_DEQ` (R231). Issues QUE.DEQ and receives the slot bytes into v(b), waiting for work. -/
  | mqueDeq (g : Fin 8) (o : Order) (c : Scope) (d : Fin 32) (a : Fin 32) (b : Fin 16)
  /-- `MQUE_TDEQ` (R231). Issues QUE.TDEQ, which returns EMPTY when there is no work. -/
  | mqueTdeq (g : Fin 8) (o : Order) (c : Scope) (d : Fin 32) (a : Fin 32) (b : Fin 16)
  /-- `MQUE_DEQR` (R231). Issues QUE.DEQR and receives an index, waiting for work. -/
  | mqueDeqr (g : Fin 8) (o : Order) (c : Scope) (d : Fin 32) (a : Fin 32)
  /-- `MQUE_TDEQR` (R231). Issues QUE.TDEQR without waiting. -/
  | mqueTdeqr (g : Fin 8) (o : Order) (c : Scope) (d : Fin 32) (a : Fin 32)
  /-- `MQUE_FREE` (R231). Issues QUE.FREE for the index in w(b). -/
  | mqueFree (g : Fin 8) (o : Order) (c : Scope) (d : Fin 32) (a : Fin 32) (b : Fin 32)
  /-- `MCOND_WAIT` (R231). Issues COND.WAIT and waits until the lock is reacquired. -/
  | mcondWait (g : Fin 8) (o : Order) (c : Scope) (d : Fin 32) (a : Fin 32)
  /-- `MCOND_SIG` (R231). Issues COND.SIG. -/
  | mcondSig (g : Fin 8) (o : Order) (c : Scope) (d : Fin 32) (a : Fin 32)
  /-- `MCOND_BCAST` (R231). Issues COND.BCAST. -/
  | mcondBcast (g : Fin 8) (o : Order) (c : Scope) (d : Fin 32) (a : Fin 32)
  /-- `CPY` (R236). Checks and queues a copy request from w(a) to w(a+3), stalling while the queue is full. -/
  | cpy (g : Fin 8) (a : Fin 32)
  /-- `CPYNB` (R236). Queues a copy request, or writes BUSY to k(d) without queuing when the queue is full. -/
  | cpynb (g : Fin 8) (d : Fin 8) (a : Fin 32)
  /-- `CPX` (R236). Checks and queues an exchange request. -/
  | cpx (g : Fin 8) (a : Fin 32)
  /-- `CPQ` (R237). Reads the copy engine's status word into w(d). -/
  | cpq (g : Fin 8) (d : Fin 32)
  /-- `CPQ_TAG` (R237). Reads and clears one abort-mask bit in one step. -/
  | cpqTag (g : Fin 8) (d : Fin 32) (a : Fin 32)
  /-- `VADD` (R264). Adds the active lanes of v(a) and v(b). -/
  | vadd (g : Fin 8) (t : Fmt) (d : Fin 16) (a : Fin 16) (b : Fin 16)
  /-- `VSUB` (R264). Subtracts v(b) from v(a) lane by lane. -/
  | vsub (g : Fin 8) (t : Fmt) (d : Fin 16) (a : Fin 16) (b : Fin 16)
  /-- `VMUL` (R264). Multiplies the active lanes. -/
  | vmul (g : Fin 8) (t : Fmt) (d : Fin 16) (a : Fin 16) (b : Fin 16)
  /-- `VFMA` (R264). Computes x times y plus d with one rounding. -/
  | vfma (g : Fin 8) (t : Fmt) (d : Fin 16) (a : Fin 16) (b : Fin 16)
  /-- `VFMS` (R264). Computes d minus x times y with one rounding. -/
  | vfms (g : Fin 8) (t : Fmt) (d : Fin 16) (a : Fin 16) (b : Fin 16)
  /-- `VMIN` (R264). Writes the lane-wise minimum. -/
  | vmin (g : Fin 8) (t : Fmt) (d : Fin 16) (a : Fin 16) (b : Fin 16)
  /-- `VMAX` (R264). Writes the lane-wise maximum. -/
  | vmax (g : Fin 8) (t : Fmt) (d : Fin 16) (a : Fin 16) (b : Fin 16)
  /-- `VDIV` (R264). Divides the active lanes, rounding once. -/
  | vdiv (g : Fin 8) (t : Fmt) (d : Fin 16) (a : Fin 16) (b : Fin 16)
  /-- `VABS` (R265). Writes the absolute value of each active lane. -/
  | vabs (g : Fin 8) (t : Fmt) (d : Fin 16) (a : Fin 16)
  /-- `VNEG` (R265). Negates each active lane. -/
  | vneg (g : Fin 8) (t : Fmt) (d : Fin 16) (a : Fin 16)
  /-- `VSQRT` (R266). Writes the correctly rounded square root. -/
  | vsqrt (g : Fin 8) (t : Fmt) (d : Fin 16) (a : Fin 16)
  /-- `VRCP` (R266). Writes the correctly rounded reciprocal. -/
  | vrcp (g : Fin 8) (t : Fmt) (d : Fin 16) (a : Fin 16)
  /-- `VRSQ` (R266). Writes the correctly rounded reciprocal square root. -/
  | vrsq (g : Fin 8) (t : Fmt) (d : Fin 16) (a : Fin 16)
  /-- `VEXP2` (R266). Writes the correctly rounded 2^x. -/
  | vexp2 (g : Fin 8) (t : Fmt) (d : Fin 16) (a : Fin 16)
  /-- `VLOG2` (R266). Writes the correctly rounded log2 x. -/
  | vlog2 (g : Fin 8) (t : Fmt) (d : Fin 16) (a : Fin 16)
  /-- `VMOV` (R265). Copies the bits of each active lane unchanged. -/
  | vmov (g : Fin 8) (t : Fmt) (d : Fin 16) (a : Fin 16)
  /-- `VAND` (R267). ANDs v(a) and v(b) byte by byte. -/
  | vand (g : Fin 8) (d : Fin 16) (a : Fin 16) (b : Fin 16)
  /-- `VOR` (R267). ORs v(a) and v(b) byte by byte. -/
  | vor (g : Fin 8) (d : Fin 16) (a : Fin 16) (b : Fin 16)
  /-- `VXOR` (R267). XORs v(a) and v(b) byte by byte. -/
  | vxor (g : Fin 8) (d : Fin 16) (a : Fin 16) (b : Fin 16)
  /-- `VSHL` (R267). Shifts each integer lane left. -/
  | vshl (g : Fin 8) (t : Fmt) (d : Fin 16) (a : Fin 16) (b : Fin 16)
  /-- `VSHR` (R267). Shifts each integer lane right logically. -/
  | vshr (g : Fin 8) (t : Fmt) (d : Fin 16) (a : Fin 16) (b : Fin 16)
  /-- `VSAR` (R267). Shifts each integer lane right arithmetically. -/
  | vsar (g : Fin 8) (t : Fmt) (d : Fin 16) (a : Fin 16) (b : Fin 16)
  /-- `VROTL` (R267). Rotates each integer lane left. -/
  | vrotl (g : Fin 8) (t : Fmt) (d : Fin 16) (a : Fin 16) (b : Fin 16)
  /-- `VCMP` (R268). Compares the lanes under a condition and writes mask bits of k(d). -/
  | vcmp (g : Fin 8) (c : Cond) (t : Fmt) (d : Fin 8) (a : Fin 16) (b : Fin 16)
  /-- `VCVT` (R269). Converts the low lanes of v(a) from the source type to the destination type. -/
  | vcvt (g : Fin 8) (t : Fmt) (s : Fmt) (d : Fin 16) (a : Fin 16)
  /-- `VDEC8` (R270). Decodes K8 codes through a table into wider lanes. -/
  | vdec8 (g : Fin 8) (t : Fmt) (k : Fin 3) (q : Fin 8) (d : Fin 16) (a : Fin 16)
  /-- `VENC8` (R271). Encodes the active lanes into K8 codes placed in bytes of v(d). -/
  | venc8 (g : Fin 8) (t : Fmt) (k : Fin 3) (q : Fin 8) (d : Fin 16) (a : Fin 16)
  /-- `TBLLD` (R272). Loads the core's K8T decode table from v(a) to v(a+3) and recomputes TBLSTAT. -/
  | tblld (g : Fin 8) (a : Fin 16)
  /-- `VPERM` (R273). Permutes the lanes of v(a) by the indices in v(b). -/
  | vperm (g : Fin 8) (t : Fmt) (d : Fin 16) (a : Fin 16) (b : Fin 16)
  /-- `VBCAST` (R273). Broadcasts one lane of v(a) to every active lane. -/
  | vbcast (g : Fin 8) (t : Fmt) (d : Fin 16) (a : Fin 16) (b : Fin 32)
  /-- `VSPLAT` (R273). Copies the low bits of w(a) to every active lane. -/
  | vsplat (g : Fin 8) (t : Fmt) (d : Fin 16) (a : Fin 32)
  /-- `VEXT` (R273). Extracts one lane of v(a) into w(d). -/
  | vext (g : Fin 8) (t : Fmt) (d : Fin 32) (a : Fin 16) (b : Fin 32)
  /-- `VINS` (R273). Inserts w(a) into one lane of v(d). -/
  | vins (g : Fin 8) (t : Fmt) (d : Fin 16) (a : Fin 32) (b : Fin 32)
  /-- `VSEL` (R273). Selects 4-byte groups from v(a) or v(b) by k(c). -/
  | vsel (g : Fin 8) (c : Fin 8) (d : Fin 16) (a : Fin 16) (b : Fin 16)
  /-- `VCLR` (R273). Clears the active lanes of v(d). -/
  | vclr (g : Fin 8) (d : Fin 16)
  /-- `VRED` (R274). Reduces the active lanes by a fixed tree into w(d). -/
  | vred (g : Fin 8) (o : RedOp) (t : Fmt) (d : Fin 32) (a : Fin 16)
  /-- `VSCAN` (R274). Scans the active lanes left to right into v(d). -/
  | vscan (g : Fin 8) (o : RedOp) (t : Fmt) (d : Fin 16) (a : Fin 16)
  /-- `VCMUL` (R275). Multiplies CF32 lanes with one rounding per component. -/
  | vcmul (g : Fin 8) (d : Fin 16) (a : Fin 16) (b : Fin 16)
  /-- `VCFMA` (R275). Adds the product of CF32 lanes to d with one rounding per component. -/
  | vcfma (g : Fin 8) (d : Fin 16) (a : Fin 16) (b : Fin 16)
  /-- `VLD` (R277). Loads the active lanes from contiguous addresses. -/
  | vld (g : Fin 8) (o : BitVec 8) (t : Fmt) (d : Fin 16) (a : Fin 32)
  /-- `VST` (R277). Stores the active lanes to contiguous addresses. -/
  | vst (g : Fin 8) (o : BitVec 8) (t : Fmt) (d : Fin 16) (a : Fin 32)
  /-- `VLDS` (R278). Loads the active lanes at a signed stride. -/
  | vlds (g : Fin 8) (t : Fmt) (d : Fin 16) (a : Fin 32) (b : Fin 32)
  /-- `VSTS` (R278). Stores the active lanes at a signed stride. -/
  | vsts (g : Fin 8) (t : Fmt) (d : Fin 16) (a : Fin 32) (b : Fin 32)
  /-- `VLDX` (R278). Gathers the active lanes by the indices in v(b). -/
  | vldx (g : Fin 8) (t : Fmt) (d : Fin 16) (a : Fin 32) (b : Fin 16)
  /-- `VSTX` (R278). Scatters the active lanes by the indices in v(b). -/
  | vstx (g : Fin 8) (t : Fmt) (d : Fin 16) (a : Fin 32) (b : Fin 16)
  /-- `VLDT` (R279). Loads one row of a tensor-map tile. -/
  | vldt (g : Fin 8) (t : Fmt) (d : Fin 16) (a : Fin 16) (b : Fin 32)
  /-- `VSTT` (R279). Stores one row of a tensor-map tile. -/
  | vstt (g : Fin 8) (t : Fmt) (d : Fin 16) (a : Fin 16) (b : Fin 32)
  /-- `VSAVE` (R280). Stores cnt vector registers in order from VRESUME, recording progress on a fault. -/
  | vsave (g : Fin 8) (n : Fin 16) (d : Fin 16) (a : Fin 32)
  /-- `VLOAD` (R280). Loads cnt vector registers in order from VRESUME, recording progress on a fault. -/
  | vload (g : Fin 8) (n : Fin 16) (d : Fin 16) (a : Fin 32)
  /-- `SETST` (R285). Checks and queues a command that fires a stationary bank from a tensor map. -/
  | setst (g : Fin 8) (t : Fmt) (x : Bool) (c : Fin 16) (k : Fin 2) (a : Fin 16)
  /-- `RELST` (R286). Queues the release of a stationary bank. -/
  | relst (g : Fin 8) (d : Fin 2)
  /-- `ACLR` (R286). Queues the clearing of an accumulator tile. -/
  | aclr (g : Fin 8) (d : Fin 4)
  /-- `AST` (R291). Queues the read-out of an accumulator through a tensor map. -/
  | ast (g : Fin 8) (t : Fmt) (d : Fin 16) (a : Fin 4)
  /-- `ALD` (R292). Queues the loading of an accumulator in a mode from a tensor map. -/
  | ald (g : Fin 8) (t : Fmt) (m : AccMode) (d : Fin 4) (a : Fin 16)
  /-- `MMA` (R287). Queues a matrix multiply of an A tile by a slot of the active bank into an accumulator. -/
  | mma (g : Fin 8) (t : Fmt) (s : Fin 16) (d : Fin 4) (a : Fin 16)
  /-- `MMAG` (R288). Queues a gang multiply across the course of a bond. -/
  | mmag (g : Fin 8) (t : Fmt) (s : Fin 16) (d : Fin 4) (a : Fin 16)
  /-- `MROT` (R289). Queues one Cannon step taking A from a tensor map. -/
  | mrot (g : Fin 8) (t : Fmt) (s : Fin 16) (d : Fin 4) (a : Fin 16)
  /-- `MROT_BUF` (R289). Queues one Cannon step taking A from the rotation buffer. -/
  | mrotBuf (g : Fin 8) (t : Fmt) (s : Fin 16) (d : Fin 4)
  /-- `FLOADO` (R294). Sends an overlay-load command to a footing unit and marks w(d) pending. -/
  | floado (g : Fin 8) (d : Fin 32) (a : Fin 32) (b : Fin 32)
  /-- `FSTART` (R294). Sends a start command to a footing unit. -/
  | fstart (g : Fin 8) (d : Fin 32) (a : Fin 32) (b : Fin 32)
  /-- `FCMD` (R294). Sends a command with a bank mask and arguments to a footing unit. -/
  | fcmd (g : Fin 8) (d : Fin 32) (a : Fin 32) (b : Fin 32)
  /-- `FRED` (R295). Checks DEST and hands a parameter block to the reduction engine of its stack, or writes REMOTE. -/
  | fred (g : Fin 8) (d : Fin 32) (a : Fin 32)
  /-- `FOPEN` (R297). Opens a channel-local block in a bank of the footing unit. -/
  | fopen (n : Fin 16) (a : Fin 16)
  /-- `FACC` (R297). Accumulates 64 FP32 elements of the open block into a bank accumulator. -/
  | facc (n : Fin 16) (a : Fin 16)
  /-- `FACCF` (R297). Accumulates 64 BF16 elements of the open block into a bank accumulator. -/
  | faccf (n : Fin 16) (a : Fin 16)
  /-- `FRDO` (R297). Writes the read-out of a bank accumulator into the open block and returns its flags. -/
  | frdo (n : Fin 16) (d : Fin 16) (a : Fin 16)
  /-- `FCLRA` (R297). Clears a bank accumulator and its flags. -/
  | fclra (n : Fin 16)
  /-- `FREPLY` (R297). Sets the reply value of the current command. -/
  | freply (a : Fin 16)
  /-- `FWAITC` (R298). Ends the current command, sends its reply and waits for the next FCMD. -/
  | fwaitc (d : Fin 16)
  /-- `SEND` (R300). Sends the build registers as a message when an allowance is held, and otherwise writes 1 to k(d). -/
  | send (g : Fin 8) (d : Fin 8)
  /-- `SENDT` (R300). Sends the build registers, trapping 0x0D when no allowance is held. -/
  | sendt (g : Fin 8)
  /-- `SENDR` (R300). Sends a DIRECT reply in the RSP class using the reserved reply or an RSP allowance. -/
  | sendr (g : Fin 8) (d : Fin 8)
  /-- `BCLR` (R302). Zeroes all build registers. -/
  | bclr (g : Fin 8)
  /-- `DQPUSH` (R304). Pushes the build registers onto the local end of the core's deque. -/
  | dqpush (g : Fin 8) (d : Fin 8)
  /-- `DQPOP` (R304). Pops the newest deque entry into the build registers. -/
  | dqpop (g : Fin 8) (d : Fin 8)
  /-- `DQSTEAL` (R304). Takes the oldest entry of a target core's deque into the build registers. -/
  | dqsteal (g : Fin 8) (d : Fin 8) (a : Fin 32)
  /-- `HODNEW` (R307). Builds a hod from an image in a free landing slot. -/
  | hodnew (g : Fin 8) (d : Fin 32) (a : Fin 32)
  /-- `HODNEXT` (R308). Forwards a hod to its next stop by the forward protocol. -/
  | hodnext (g : Fin 8) (a : Fin 32)
  /-- `HODSET` (R309). Rewrites stop n of a hod. -/
  | hodset (g : Fin 8) (n : Fin 8) (a : Fin 32) (b : Fin 32)
  /-- `HODINS` (R309). Inserts a stop at position n. -/
  | hodins (g : Fin 8) (n : Fin 8) (a : Fin 32) (b : Fin 32)
  /-- `HODDEL` (R309). Deletes stop n. -/
  | hoddel (g : Fin 8) (n : Fin 8) (a : Fin 32)
  /-- `HODGET` (R310). Reads the field of a hod named by a selector. -/
  | hodget (g : Fin 8) (s : Fin 16) (d : Fin 32) (a : Fin 32)
  /-- `HODPARK` (R311). Parks a BUILT or RUNNING hod with a cause. -/
  | hodpark (g : Fin 8) (a : Fin 32) (b : Fin 32)
  /-- `HODRESUME` (R311). Re-injects a parked hod, or finishes it when CUR equals NSTOP. -/
  | hodresume (g : Fin 8) (a : Fin 32)
  /-- `BR` (R312). Branches when the predicate equals not F. -/
  | br (g : Fin 8) (f : Bool) (o : BitVec 16)
  /-- `CALL` (R312). Writes the return address to w(d) and branches. -/
  | call (g : Fin 8) (o : BitVec 16) (d : Fin 32)
  /-- `LOOP` (R312). Decrements w(a) and branches while it is not zero. -/
  | loop (g : Fin 8) (o : BitVec 12) (a : Fin 32)
  /-- `END` (R314). Ends the activation, releasing its class and claims and parking any hod it holds. -/
  | endAct (g : Fin 8)
  /-- `YIELD` (R315). Gives up the strand and leaves a continuation of the activation. -/
  | yield (g : Fin 8)
  /-- `BRK` (R321). Raises trap 0x1C, breakpoint, after retiring. -/
  | brk (g : Fin 8)
  /-- `CALLI` (R313). Calls the address in w(a), linking into w(d). -/
  | calli (g : Fin 8) (d : Fin 32) (a : Fin 32)
  /-- `JR` (R313). Jumps to the address in w(a). -/
  | jr (g : Fin 8) (a : Fin 32)
  /-- `RET` (R313). Returns to the address in w(a). -/
  | ret (g : Fin 8) (a : Fin 32)
  /-- `GANG` (R316). Joins the core to a bond and waits at its joint. -/
  | gang (g : Fin 8) (a : Fin 32)
  /-- `UNGANG` (R317). Dissolves the bond at a joint of all members. -/
  | ungang (g : Fin 8)
  /-- `FOLLOW` (R318). Makes the strand follow the leader's strand of the same number. -/
  | follow (g : Fin 8)
  /-- `DETACH` (R319). Detaches every follower of the leader strand. -/
  | detach (g : Fin 8)
  /-- `REJOIN` (R319). Rejoins detached strands with their leader at marker n. -/
  | rejoin (g : Fin 8) (n : Fin 16)
  /-- `TRAP` (R321). Raises trap 0x16 with detail from w(a), after retiring. -/
  | trap (g : Fin 8) (a : Fin 32)
  /-- `SVC` (R321). Raises trap 0x17 with detail from w(a), after retiring. -/
  | svc (g : Fin 8) (a : Fin 32)
  /-- `RTE` (R322). Resumes or ends the trapped strand and then ends the class-63 activation. -/
  | rte (g : Fin 8) (a : Fin 32)
  /-- `RESUME` (R323). Foreman only: sends a resume or end, or abort, action to a strand, engine or unit and waits for the reply. -/
  | resume (g : Fin 8) (d : Fin 32) (a : Fin 32) (b : Fin 32)
  /-- `PREEMPT` (R323). Foreman only: pre-empts, pre-empts and saves, or resumes a core. -/
  | preempt (g : Fin 8) (d : Fin 32) (a : Fin 32) (b : Fin 32)
  /-- `WAITX` (R324). Stalls until the selected conditions hold or a cycle count expires. -/
  | waitx (g : Fin 8) (d : Fin 32) (a : Fin 32)
  /-- `TLBINV` (R325). Starts a shootdown at a scope and stalls until it is acknowledged. -/
  | tlbinv (g : Fin 8) (c : Scope) (d : Fin 32) (a : Fin 32) (b : Fin 32)
  /-- `RTSET` (R326). Writes a routine-table entry as one write. -/
  | rtset (g : Fin 8) (a : Fin 32) (b : Fin 32)
  /-- `CTXSAVE` (R327). Foreman only: copies a pre-empted core's saved state to memory. -/
  | ctxsave (g : Fin 8) (d : Fin 32) (a : Fin 32) (b : Fin 32)
  /-- `CTXLOAD` (R327). Foreman only: copies a core image back into a zeroed core. -/
  | ctxload (g : Fin 8) (d : Fin 32) (a : Fin 32) (b : Fin 32)
  /-- `IMMX` (R207). Prefix that widens the immediate of the next extendable instruction, forming one instruction with it. -/
  | immx (x : BitVec 27)
  /-- `MOV_16` (R208). 16-bit form of MOV on w8 to w15. -/
  | movC (p : Fin 8) (q : Fin 8)
  /-- `ADD_16` (R208). 16-bit form of ADD with d equal to a. -/
  | addC (p : Fin 8) (q : Fin 8)
  /-- `SUB_16` (R208). 16-bit form of SUB. -/
  | subC (p : Fin 8) (q : Fin 8)
  /-- `AND_16` (R208). 16-bit form of AND. -/
  | andC (p : Fin 8) (q : Fin 8)
  /-- `OR_16` (R208). 16-bit form of OR. -/
  | orC (p : Fin 8) (q : Fin 8)
  /-- `XOR_16` (R208). 16-bit form of XOR. -/
  | xorC (p : Fin 8) (q : Fin 8)
  /-- `SHL_16` (R208). 16-bit form of SHL. -/
  | shlC (p : Fin 8) (q : Fin 8)
  /-- `SHR_16` (R208). 16-bit form of SHR. -/
  | shrC (p : Fin 8) (q : Fin 8)
  /-- `SAR_16` (R208). 16-bit form of SAR. -/
  | sarC (p : Fin 8) (q : Fin 8)
  /-- `MUL_16` (R208). 16-bit form of MUL. -/
  | mulC (p : Fin 8) (q : Fin 8)
  /-- `ADDI_16` (R208). 16-bit form of ADDI with an immediate of -16 to 15. -/
  | addiC (i : BitVec 5) (p : Fin 8) (q : Fin 8)
  /-- `MOVI_16` (R208). 16-bit form of MOVI with an 8-bit immediate. -/
  | moviC (i : BitVec 8) (p : Fin 8)
  /-- `LD64_16` (R208). 16-bit form of LD.64. -/
  | ld64C (i : Fin 32) (p : Fin 8) (q : Fin 8)
  /-- `ST64_16` (R208). 16-bit form of ST.64. -/
  | st64C (i : Fin 32) (p : Fin 8) (q : Fin 8)
  /-- `LD32_16` (R208). 16-bit form of LD.32. -/
  | ld32C (i : Fin 32) (p : Fin 8) (q : Fin 8)
  /-- `ST32_16` (R208). 16-bit form of ST.32. -/
  | st32C (i : Fin 32) (p : Fin 8) (q : Fin 8)
  /-- `BR_16` (R208). 16-bit unconditional branch. -/
  | brC (o : BitVec 11)
  /-- `SHLI_16` (R208). 16-bit form of SHLI. -/
  | shliC (i : Fin 32) (p : Fin 8) (q : Fin 8)
  /-- `VADD_16` (R208). 16-bit form of VADD.FP32 on v0 to v7. -/
  | vaddC (p : Fin 8) (q : Fin 8)
  /-- `VSUB_16` (R208). 16-bit form of VSUB.FP32. -/
  | vsubC (p : Fin 8) (q : Fin 8)
  /-- `VMUL_16` (R208). 16-bit form of VMUL.FP32. -/
  | vmulC (p : Fin 8) (q : Fin 8)
  /-- `VMOV_16` (R208). 16-bit form of VMOV with type 0. -/
  | vmovC (p : Fin 8) (q : Fin 8)
  /-- `VCLR_16` (R208). 16-bit form of VCLR. -/
  | vclrC (p : Fin 8)
  /-- `VLD_16` (R208). 16-bit form of VLD.FP32. -/
  | vldC (i : Fin 32) (p : Fin 8) (q : Fin 8)
  /-- `VST_16` (R208). 16-bit form of VST.FP32. -/
  | vstC (i : Fin 32) (p : Fin 8) (q : Fin 8)
  /-- `JR_16` (R208). 16-bit JR on w8 to w15. -/
  | jrC (p : Fin 8)
  /-- `LOOP_16` (R208). 16-bit LOOP with a backward offset of 1 to 255 halfwords. -/
  | loopC (u : Fin 256) (p : Fin 8)
  /-- `NOP` (R313). Does nothing except advance PC. -/
  | nop
  /-- `NOP_16` (R208). 16-bit NOP, 0x001C. -/
  | nopC
  /-- `END_16` (R208). 16-bit END, 0x081C. -/
  | endC
  /-- `YIELD_16` (R208). 16-bit YIELD, 0x101C. -/
  | yieldC
  /-- `BRK_16` (R208). 16-bit BRK. -/
  | brkC
  /-- `LAUNCH` (R348). A foreman receives a launch packet, checks it and queues or refuses it. -/
  | launch (p : Nat)
  /-- `LAUNCH_START` (R348). A queued launch whose rectangle is free is translated, checked, loaded into its cores and started with class-0 messages. -/
  | launchStart (p : Nat)
  /-- `LAUNCH_END` (R360). A LAUNCH END names a running launch, which then ends at its next quiescence. -/
  | launchEnd (p : Nat)
  /-- `LAUNCH_ABORT` (R361). A LAUNCH ABORT stops every strand, discards queued work, parks hods, cancels requests and aborts commands. -/
  | launchAbort (p : Nat)
  /-- `LAUNCH_QUIESCENCE` (R362). A launch reaches quiescence and is ended: bonds dissolve, units are released, FO marks are removed, cores are zeroed and the status is written. -/
  | launchQuiescence (l : Nat)
  /-- `DISPATCH` (R353). In a cycle, a core starts at most one eligible candidate on its lowest free strand by aged priority. -/
  | dispatch (c : Nat)
  /-- `IDLE_STEP` (R356). An idle core pops its own deque or tries one steal victim, at most once every 16 cycles. -/
  | idleStep (c : Nat)
  /-- `DEQUE_STEAL_REQUEST` (R305). A target deque unit performs a steal of its oldest entry and replies. -/
  | dequeStealRequest (r : Nat)
  /-- `STRAND_ACTION` (R366). The foreman receives a supervisor's request to resume or end a parked strand and acts by RESUME if entitled. -/
  | strandAction (p : Nat)
  /-- `STRAND_RESUME` (R367). A resume packet restarts a parked strand at TRAPPC, or after it for causes 0x16, 0x17 and 0x1C. -/
  | strandResume (r : Nat)
  /-- `STRAND_END` (R367). A resume packet ends a parked strand's activation as END does. -/
  | strandEnd (r : Nat)
  /-- `PREEMPT_CORE` (R368). Every strand stops at its next boundary and is saved, and later arrivals go to the spill rings. -/
  | preemptCore (r : Nat)
  /-- `PREEMPT_SAVE` (R370). The core is pre-empted and prepared for another domain after its pending work drains. -/
  | preemptSave (r : Nat)
  /-- `PREEMPT_RESUME` (R368). Each strand is restored from its save area and the spill rings are redelivered. -/
  | preemptResume (r : Nat)
  /-- `MESSAGE_ARRIVAL` (R187). A message is accepted into its inbox partition, or into its spill ring when the partition is full or the core is pre-empted. -/
  | messageArrival (f : Nat)
  /-- `SPILL_REDELIVERY` (R188). When a slot frees, the head of the spill ring is moved into it. -/
  | spillRedelivery (c : Nat) (p : Nat)
  /-- `SPILL_RETRY` (R191). A failed spill access is retried once every 2^K cycles or after a shootdown. -/
  | spillRetry (c : Nat) (p : Nat)
  /-- `COUNTER_MESSAGE` (R192). A COUNTER message decrements a counter-table entry, firing an activation of its class at zero. -/
  | counterMessage (f : Nat)
  /-- `LATE_MESSAGE` (R409). A message reaching a core whose launch has ended is refused, discarded or handed on, never delivered. -/
  | lateMessage (f : Nat)
  /-- `ALLOWANCE_RETURN` (R186). An RSP flit returns an allowance to its sender when the target accepts the message. -/
  | allowanceReturn (r : Nat)
  /-- `WAKE_UP` (R99). A wake-up flit completes a parked mortar instruction at its issuer and writes its result. -/
  | wakeUp (r : Nat)
  /-- `FOOTING_REPLY` (R51). A footing or reduction reply writes the pending frame word and clears its mark. -/
  | footingReply (r : Nat)
  /-- `FLIT_HOP` (R177). A router assigns each arriving flit to a productive output by age, or deflects it. -/
  | flitHop (r : Nat)
  /-- `FLIT_INJECTION` (R179). A router injects a waiting flit in a cycle that leaves an output free. -/
  | flitInjection (f : Nat)
  /-- `INJECTION_STARVATION` (R179). After 128 cycles of waiting, a router signals its neighbours to stop injecting. -/
  | injectionStarvation (r : Nat)
  /-- `FLIT_EJECTION` (R178). A flit is ejected, resequenced by SEQ and delivered in order to its endpoint. -/
  | flitEjection (f : Nat)
  /-- `MORTAR_INIT` (R90). The home mortar processor initialises an object of a type from its parameters. -/
  | mortarInit (r : Nat)
  /-- `MORTAR_READ` (R82). The mortar processor returns all 64 bytes of the object from one point in its order. -/
  | mortarRead (r : Nat)
  /-- `MORTAR_CANCEL` (R100). The mortar processor completes selected parked requests with CANCELLED. -/
  | mortarCancel (r : Nat)
  /-- `CTR_ADD` (R91). Adds to a counter and completes satisfied waiters. -/
  | ctrAdd (r : Nat)
  /-- `CTR_FADD` (R91). Adds to a counter and returns the old VALUE. -/
  | ctrFadd (r : Nat)
  /-- `CTR_WAIT` (R91). Completes when VALUE reaches the threshold, and otherwise parks. -/
  | ctrWait (r : Nat)
  /-- `CTR_CHUNK` (R91). Hands out the next chunk of the iteration space by guided self-scheduling. -/
  | ctrChunk (r : Nat)
  /-- `BAR_ARRIVE` (R92). Counts arrivals on a phased barrier and advances the phase at zero, completing waiters. -/
  | barArrive (r : Nat)
  /-- `BAR_AWAIT` (R92). Arrives on a barrier and parks until the arrival phase has passed. -/
  | barAwait (r : Nat)
  /-- `BAR_WAITP` (R92). Completes when a phase has passed, and otherwise parks. -/
  | barWaitp (r : Nat)
  /-- `LOCK_ACQ` (R93). Takes a ticket and holds the lock, or parks until served. -/
  | lockAcq (r : Nat)
  /-- `LOCK_TRY` (R93). Takes a free lock or returns BUSY. -/
  | lockTry (r : Nat)
  /-- `LOCK_REL` (R93). Releases a lock and grants the next ticket. -/
  | lockRel (r : Nat)
  /-- `QUE_ENQ` (R94). Enqueues data into the next slot, or parks without room. -/
  | queEnq (r : Nat)
  /-- `QUE_TENQ` (R94). Enqueues data or returns FULL. -/
  | queTenq (r : Nat)
  /-- `QUE_ENQR` (R94). Reserves a slot index, or parks without room. -/
  | queEnqr (r : Nat)
  /-- `QUE_TENQR` (R94). Reserves a slot index or returns FULL. -/
  | queTenqr (r : Nat)
  /-- `QUE_COMMIT` (R94). Commits a reserved slot and advances TAIL. -/
  | queCommit (r : Nat)
  /-- `QUE_DEQ` (R94). Dequeues and frees a slot, or parks without work. -/
  | queDeq (r : Nat)
  /-- `QUE_TDEQ` (R94). Dequeues a slot or returns EMPTY. -/
  | queTdeq (r : Nat)
  /-- `QUE_DEQR` (R94). Claims a slot index, or parks without work. -/
  | queDeqr (r : Nat)
  /-- `QUE_TDEQR` (R94). Claims a slot index or returns EMPTY. -/
  | queTdeqr (r : Nat)
  /-- `QUE_FREE` (R94). Frees a claimed slot and advances HEAD. -/
  | queFree (r : Nat)
  /-- `COND_WAIT` (R95). Parks on a condition and releases the bound lock on the waiter's behalf. -/
  | condWait (r : Nat)
  /-- `COND_SIG` (R95). Moves the oldest waiter off the condition to reacquire the lock. -/
  | condSig (r : Nat)
  /-- `COND_BCAST` (R95). Moves every waiter off the condition to reacquire the lock. -/
  | condBcast (r : Nat)
  /-- `COND_REACQUIRE` (R95). A moved waiter's re-issued LOCK.ACQ reaches the bound lock's home. -/
  | condReacquire (r : Nat)
  /-- `MORTAR_UNSUPPORTED` (R88). A request whose code is not in Table 7 completes with UNSUPPORTED. -/
  | mortarUnsupported (r : Nat)
  /-- `COPY_ACTIVATE` (R108). A queued copy becomes active, decodes its tags and checks alignment, length and conversion, or is refused. -/
  | copyActivate (c : Nat)
  /-- `COPY_BURST` (R108). The copy engine translates, reads and writes one burst, converting formats on the way. -/
  | copyBurst (c : Nat)
  /-- `COPY_COMPLETE` (R110). When all writes are acknowledged, the copy completes by barrier arrive, message or both. -/
  | copyComplete (c : Nat)
  /-- `COPY_COMPLETION_MESSAGE` (R111). The engine sends its completion message once it holds an allowance. -/
  | copyCompletionMessage (c : Nat)
  /-- `CPX_PAIRING` (R114). An active exchange meets its partner's matching exchange, or both pause on a mismatch. -/
  | cpxPairing (c : Nat)
  /-- `COPY_RESUME` (R117). A resume packet clears PAUSED and retries the faulting burst. -/
  | copyResume (r : Nat)
  /-- `COPY_ABORT` (R117). A resume packet ends the paused request with status ABORTED. -/
  | copyAbort (r : Nat)
  /-- `FRED_CHECK` (R56). The reduction engine reads and checks the parameter block, or completes with MALFORMED. -/
  | fredCheck (k : Nat)
  /-- `FRED_CHUNK` (R58). The engine translates, reads and tree-sums one chunk of 64 elements into the destination. -/
  | fredChunk (k : Nat)
  /-- `FRED_COMPLETION` (R59). After the last chunk's writes are acknowledged, the engine stores the flag or arrives and replies. -/
  | fredCompletion (k : Nat)
  /-- `FRED_RESUME` (R59). The foreman's resume retranslates a parked chunk or performs the completion again. -/
  | fredResume (r : Nat)
  /-- `FRED_ABORT` (R37). The foreman aborts a parked FRED, which replies ABORTED. -/
  | fredAbort (r : Nat)
  /-- `FOOTING_COMMAND_RESUME` (R37). A parked footing command translates again from the faulting address. -/
  | footingCommandResume (r : Nat)
  /-- `FOOTING_COMMAND_ABORT` (R37). A parked footing command completes with ABORTED. -/
  | footingCommandAbort (r : Nat)
  /-- `FLOADO_COMMAND` (R296). At the head of the queue, loads a 4 KiB overlay and leaves the core HALTED. -/
  | floadoCommand (u : Nat)
  /-- `FSTART_COMMAND` (R296). At the head of the queue, sets the PC and starts the footing core. -/
  | fstartCommand (u : Nat)
  /-- `FCMD_COMMAND` (R296). At the head of the queue, completes a waiting FWAITC with the command, or ends with HALTED. -/
  | fcmdCommand (u : Nat)
  /-- `BASE_DIE_TRANSLATION` (R35). A base-die TLB miss sends a translation request to the owning die's walker. -/
  | baseDieTranslation (k : Nat) (dom : Nat) (va : Nat)
  /-- `SETST_FILL` (R126). At the head of the matrix queue, SETST converts tiles into slots and fires the bank. -/
  | setstFill (c : Nat)
  /-- `RELST_DRAIN` (R124). At the head of the queue, RELST makes a fired bank DRAINING. -/
  | relstDrain (c : Nat)
  /-- `BANK_DRAIN_END` (R124). Zeroing of a draining bank ends 64 cycles later and the bank becomes ORDINARY. -/
  | bankDrainEnd (c : Nat) (k : Nat)
  /-- `ACLR_EXECUTE` (R286). At the head of the queue, clears an accumulator to mode NONE. -/
  | aclrExecute (c : Nat)
  /-- `MMA_EXECUTE` (R287). At the head of the queue, streams A rows through the active bank into the accumulator. -/
  | mmaExecute (c : Nat)
  /-- `MMAG_JOINT` (R288). When every course member has an MMAG at its queue head, the joint forms and the gang multiply runs. -/
  | mmagJoint (c : Nat)
  /-- `MROT_JOINT` (R289). When every bond member has an MROT at its head, the step multiplies and exchanges tiles. -/
  | mrotJoint (c : Nat)
  /-- `AST_EXECUTE` (R291). At the head of the queue, rounds the accumulator rows into memory and ORs flags into FFLAGS. -/
  | astExecute (c : Nat)
  /-- `ALD_EXECUTE` (R292). At the head of the queue, loads accumulator elements from memory in a mode. -/
  | aldExecute (c : Nat)
  /-- `GANG_JOINT` (R316). When every core of the rectangle has issued GANG, the bond forms. -/
  | gangJoint (c : Nat)
  /-- `UNGANG_JOINT` (R317). When all members reach UNGANG with no gang commands queued, the bond dissolves. -/
  | ungangJoint (c : Nat)
  /-- `FOLLOW_JOINT` (R318). When strand s of every member has issued FOLLOW, the members follow the leader. -/
  | followJoint (c : Nat) (n : Nat)
  /-- `REJOIN_JOINT` (R319). The leader's REJOIN meets the detached strands, which follow again. -/
  | rejoinJoint (c : Nat) (n : Nat)
  /-- `HOD_PULL` (R196). When a landing slot is free, the target's hod engine pulls the hod, checks it and lands it. -/
  | hodPull (c : Nat)
  /-- `HOD_ACK` (R196). The landing acknowledgement makes the holder zero its slot and clear BUSY. -/
  | hodAck (r : Nat)
  /-- `PAGE_WALK` (R29). The die's walker reads the four levels and checks each entry, filling the TLBs or ending in a fault kind. -/
  | pageWalk (c : Nat) (va : Nat)
  /-- `SHOOTDOWN_ARRIVAL` (R38). A shootdown removes the named translations from every TLB and walk cache in its scope. -/
  | shootdownArrival (r : Nat) (g : Nat)
  /-- `SHOOTDOWN_ACK` (R39). A shootdown is acknowledged once every agent has ended its burst and dropped the translation. -/
  | shootdownAck (r : Nat)
  /-- `L2_ACCESS` (R68). The home slice performs an access to a local line in the line's single order. -/
  | l2Access (r : Nat) (lo : Nat) (n : Nat)
  /-- `REMOTE_LINE_FILL` (R71). A remote-partition fill delivers the line, setting valid bits only for bytes that are not dirty. -/
  | remoteLineFill (r : Nat)
  /-- `FO_ACCESS` (R60). An access to an FO page is performed uncached at the pseudo-channel controller. -/
  | foAccess (r : Nat) (lo : Nat) (n : Nat)
  /-- `PREFETCH` (R61). The L2 prefetcher fetches local lines within the trigger's 64 KiB frame. -/
  | prefetch (g : Nat) (pa : Nat)
  /-- `SCRATCHPAD_ACCESS` (R122). A core's scratchpad port performs an access after the checks of R26. -/
  | scratchpadAccess (r : Nat) (lo : Nat) (n : Nat)
  /-- `SCRUB` (R130). The scrubber reads every word of both banks once in 2^20 cycles, correcting or reporting errors. -/
  | scrub (c : Nat)
  /-- `ERROR_WINDOW_END` (R79). At the end of each 2^24-cycle window, counts move to LAST, reports are sent and health scores are updated. -/
  | errorWindowEnd (g : Nat)
  /-- `WATCHDOG_STALL` (R359). A launch still for 2^22 cycles has its wait entries written to REPVA and a stall reported. -/
  | watchdogStall (l : Nat)
  /-- `REPLAY` (R376). The foreman replays a ring entry on a spare core and compares digests, replaying again on a mismatch. -/
  | replay (g : Nat)
  /-- `QUARANTINE_MOVE` (R377). A core reaching score 64 has its row moved one physical column toward the spare. -/
  | quarantineMove (p : Nat) (h : Nat)
  /-- `REMOTE_LOAD` (R380). The target port performs handler 0, a load, as plain or acquire. -/
  | remoteLoad (r : Nat)
  /-- `REMOTE_STORE` (R380). The target port performs handler 1, a store, as plain or release. -/
  | remoteStore (r : Nat)
  /-- `REMOTE_ATADD` (R380). The target port performs handler 2, ATADD. -/
  | remoteAtadd (r : Nat)
  /-- `REMOTE_ATAND` (R380). The target port performs handler 3, ATAND. -/
  | remoteAtand (r : Nat)
  /-- `REMOTE_ATOR` (R380). The target port performs handler 4, ATOR. -/
  | remoteAtor (r : Nat)
  /-- `REMOTE_ATXOR` (R380). The target port performs handler 5, ATXOR. -/
  | remoteAtxor (r : Nat)
  /-- `REMOTE_ATMIN` (R380). The target port performs handler 6, ATMIN. -/
  | remoteAtmin (r : Nat)
  /-- `REMOTE_ATMAX` (R380). The target port performs handler 7, ATMAX. -/
  | remoteAtmax (r : Nat)
  /-- `REMOTE_ATMINN` (R380). The target port performs handler 8, ATMINN. -/
  | remoteAtminn (r : Nat)
  /-- `REMOTE_ATMAXN` (R380). The target port performs handler 9, ATMAXN. -/
  | remoteAtmaxn (r : Nat)
  /-- `REMOTE_ATSWP` (R380). The target port performs handler 10, ATSWP. -/
  | remoteAtswp (r : Nat)
  /-- `REMOTE_ATCAS` (R380). The target port performs handler 11, ATCAS. -/
  | remoteAtcas (r : Nat)
  /-- `REMOTE_ATFADD_FP64` (R380). The target port performs handler 12, ATFADD.FP64. -/
  | remoteAtfaddFp64 (r : Nat)
  /-- `REMOTE_ATFADD_FP32` (R380). The target port performs handler 13, ATFADD.FP32. -/
  | remoteAtfaddFp32 (r : Nat)
  /-- `REMOTE_MORTAR` (R380). The target port hands handler 14, a mortar operation, to the home slice. -/
  | remoteMortar (r : Nat)
  /-- `REMOTE_RC_WRITEBACK` (R380). The target port performs handler 15, a write-back under byte mask. -/
  | remoteRcWriteback (g : Nat) (line : Nat)
  /-- `REMOTE_MESSAGE` (R380). Handlers 16 to 79 deliver a DIRECT message into the target core's REQ partition. -/
  | remoteMessage (f : Nat)
  /-- `REMOTE_COUNTER` (R380). Handler 80 applies a COUNTER message at the target core. -/
  | remoteCounter (f : Nat)
  /-- `LINK_TRAINING` (R382). Ports exchange capability words and the foreman records them in the peer table. -/
  | linkTraining (g : Nat) (peer : Nat) (cap : Word)
  /-- `LANE_FAILURE` (R387). A change of port capacity drops BULK or fences the link and reroutes traffic. -/
  | laneFailure (port : Nat) (lane : Nat) (bank : Bool)
  /-- `CXL_MEM_ACCESS` (R388). A host CXL.mem access is performed at the home slice, the controller or a scratchpad port. -/
  | cxlMemAccess (g : Nat) (addr : Nat) (bytes : Nat) (data : Option Nat)
  /-- `INBOX_APERTURE_WRITE` (R390). A full-line host write enqueues one SYSTEM message for the foreman, or is discarded and counted. -/
  | inboxApertureWrite (p : Nat) (off : Nat) (bytes : Nat) (data : Nat)
  /-- `POWER_DOWN` (R392). A POWER request powers down a pseudo-channel, unforced or forced. -/
  | powerDown (g : Nat)
  /-- `SELF_REFRESH` (R392). A POWER request puts a pseudo-channel in self-refresh, unforced or forced. -/
  | selfRefresh (g : Nat)
  /-- `POWER_EXIT` (R392). A POWER request wakes a pseudo-channel and restores any spilled state. -/
  | powerExit (g : Nat)
  /-- `FOOTING_STOP_TIMEOUT` (R64). After 65,536 cycles without FWAITC, the footing core is stopped at an instruction boundary. -/
  | footingStopTimeout (u : Nat)
  /-- `CHANNEL_WAKE` (R65). An access reaching a powered-down channel wakes it and is served after the exit. -/
  | channelWake (u : Nat)
  /-- `MODE_REMOTE_CACHE` (R75). A MODE request sets a die's remote-partition size. -/
  | modeRemoteCache (g : Nat)
  /-- `MODE_L2_PARTITIONING` (R76). A MODE request turns L2 domain partitioning on or off. -/
  | modeL2Partitioning (g : Nat)
  /-- `MODE_L2_PARTITION_CLASS` (R76). A MODE request writes an L2 partition class. -/
  | modeL2PartitionClass (g : Nat)
  /-- `MODE_CIM_POWER` (R131). A MODE request selects full rate or narrow-only for the matrix arrays. -/
  | modeCimPower (g : Nat)
  /-- `MODE_WAIT_LIST_CAP` (R97). A MODE request sets the per-slice wait-list cap. -/
  | modeWaitListCap (g : Nat)
  /-- `MODE_AGING_INTERVAL` (R355). A MODE request sets the aging interval of a panel. -/
  | modeAgingInterval (g : Nat)
  /-- `MODE_VC_RESERVE_POLICY` (R385). A MODE request selects the Nelyen virtual-channel reserve policy. -/
  | modeVcReservePolicy (g : Nat)
  /-- `MODE_CHANGE_APPLY` (R15). A held mode change takes effect once its scope is quiescent, and its reply is written. -/
  | modeChangeApply (g : Nat)
  /-- `PORT_RESERVE_APPLY` (R15). A port applies new channel reserves once the traffic it holds fits them. -/
  | portReserveApply (port : Nat)
  /-- `CLOCK_THROTTLE` (R391). The foreman lowers or raises the core clock in 100 MHz steps against the power limit. -/
  | clockThrottle (g : Nat) (watts : Nat)
  /-- `PACKAGE_RESET` (R394). Reset starts the signed boot chain, which verifies and measures each stage or stops. -/
  | packageReset (g : Nat) (good : Nat)
  /-- `SPDM_GET_VERSION` (R395). Answers the SPDM GET_VERSION request. -/
  | spdmGetVersion (g : Nat) (req : Nat)
  /-- `SPDM_GET_CAPABILITIES` (R395). Answers the SPDM GET_CAPABILITIES request. -/
  | spdmGetCapabilities (g : Nat) (req : Nat)
  /-- `SPDM_NEGOTIATE_ALGORITHMS` (R395). Answers the SPDM NEGOTIATE_ALGORITHMS request with P-384 and SHA-384. -/
  | spdmNegotiateAlgorithms (g : Nat) (req : Nat)
  /-- `SPDM_GET_DIGESTS` (R395). Answers the SPDM GET_DIGESTS request. -/
  | spdmGetDigests (g : Nat) (req : Nat)
  /-- `SPDM_GET_CERTIFICATE` (R395). Answers the SPDM GET_CERTIFICATE request. -/
  | spdmGetCertificate (g : Nat) (req : Nat)
  /-- `SPDM_CHALLENGE` (R395). Answers the SPDM CHALLENGE request with the device identity key. -/
  | spdmChallenge (g : Nat) (req : Nat)
  /-- `SPDM_GET_MEASUREMENTS` (R395). Returns measurement blocks 1 to 5. -/
  | spdmGetMeasurements (g : Nat) (req : Nat)
  /-- `SPDM_UNSUPPORTED_REQUEST` (R395). Answers any other SPDM request with the error UnsupportedRequest. -/
  | spdmUnsupportedRequest (g : Nat) (req : Nat)
  /-- `CONTROL_REGISTER_WRITE` (R6). The foreman writes a control-space register that has no row of its own, by its access codes. -/
  | controlRegisterWrite (g : Nat) (addr : Nat) (v : Word)
  /-- `ILLEGAL_INSTRUCTION` (R212). A strand or footing core decodes an encoding the map does not assign and takes trap 0x01 with its detail. -/
  | illegalInstruction (detail : Nat)
  /-- `FETCH_FAULT` (R201). A fetch at or beyond 0x1_0000, or of a second halfword there, raises trap 0x08 with TRAPPC and TRAPA set. -/
  | fetchFault (addr : Word)
  /-- `LOAD_REPLY` (R224). The reply to a load or atomic, or a store's acknowledgement, reaches the issuing strand and completes the access; a remote failure writes 0 and sets the sticky bit. -/
  | loadReply (r : Nat)
  /-- `MORTAR_REPLY` (R232). The reply to a mortar operation that did not park reaches the issuing strand, writes its status and result, or raises trap 0x0C or 0x0F. -/
  | mortarReply (r : Nat)
  /-- `COND_RELEASE_REPLY` (R95). The result of the LOCK.REL sent for a COND.WAIT returns to the condition's home, which keeps the waiter parked, or completes it with NOTHELD or trap 0x0C. -/
  | condReleaseReply (r : Nat)
  /-- `BULK_TRANSFER` (R380). A target Nelyen port takes a BULK frame, such as a copy burst, CPX half, hod pull, RC fill or spill access, translating a CPX partner buffer and performing or refusing it. -/
  | bulkTransfer (r : Nat)
  deriving DecidableEq, Repr

end Sys2Proof
end

