-- ==== Sys2Proof/Machine/Classes.lean ====
section
/-! DEFINITION. The operand classes of Omrid (R203, R204, R214): the codes of the shared fields, which types and conditions an
instruction accepts, and which control registers exist. -/

namespace Sys2Proof

/-- The format with a code (R19); codes 16 and above are cut to their low four bits. -/
def Fmt.ofCode (n : Nat) : Fmt :=
  match n % 16 with
  | 0 => .untyped | 1 => .fp64 | 2 => .fp32 | 3 => .fp16 | 4 => .bf16 | 5 => .cf32 | 6 => .int8 | 7 => .int16 | 8 => .int32
  | 9 => .nat8 | 10 => .nat16 | 11 => .nat32 | 12 => .k8a | 13 => .k8b | 14 => .k8t | _ => .e8

/-- The code of a format (R19, Table 2). -/
def Fmt.code : Fmt → Nat
  | .untyped => 0 | .fp64 => 1 | .fp32 => 2 | .fp16 => 3 | .bf16 => 4 | .cf32 => 5 | .int8 => 6 | .int16 => 7 | .int32 => 8
  | .nat8 => 9 | .nat16 => 10 | .nat32 => 11 | .k8a => 12 | .k8b => 13 | .k8t => 14 | .e8 => 15

/-- Element bytes of a format (R19, Table 2). -/
def Fmt.size : Fmt → Nat
  | .fp64 | .cf32 => 8
  | .fp32 | .int32 | .nat32 => 4
  | .fp16 | .bf16 | .int16 | .nat16 => 2
  | .untyped | .int8 | .nat8 | .k8a | .k8b | .k8t | .e8 => 1

/-- Lanes of a vector register of a type: 256 ÷ e (R262). -/
def Fmt.lanes (t : Fmt) : Nat := 256 / t.size

/-- The formats whose BLK may be non-zero (R19, Table 2). -/
def Fmt.blkAllowed : Fmt → Bool
  | .untyped | .cf32 | .e8 => false
  | _ => true

/-- FP64, FP32, FP16 and BF16. -/
def Fmt.isFp : Fmt → Bool
  | .fp64 | .fp32 | .fp16 | .bf16 => true
  | _ => false

/-- INT8 to INT32. -/
def Fmt.isSigned : Fmt → Bool
  | .int8 | .int16 | .int32 => true
  | _ => false

/-- NAT8 to NAT32. -/
def Fmt.isNat : Fmt → Bool
  | .nat8 | .nat16 | .nat32 => true
  | _ => false

/-- INT8 to INT32 and NAT8 to NAT32. -/
def Fmt.isInt (t : Fmt) : Bool := t.isSigned || t.isNat

/-- The narrow K8 code formats. -/
def Fmt.isK8 : Fmt → Bool
  | .k8a | .k8b | .k8t => true
  | _ => false

/-- Types of VADD and VSUB (R264, Table 1). -/
def Fmt.isAddType (t : Fmt) : Bool := t.isFp || t.isInt || decide (t = .cf32)

/-- Types of VMUL, VMIN and VMAX (R264, Table 1). -/
def Fmt.isMulType (t : Fmt) : Bool := t.isFp || t.isInt

/-- Types of VABS (R265, Table 2). -/
def Fmt.isAbsType (t : Fmt) : Bool := t.isFp || t.isSigned

/-- Types of VNEG (R265, Table 2). -/
def Fmt.isNegType (t : Fmt) : Bool := t.isAbsType || decide (t = .cf32)

/-- Source types of VENC8 (R271). -/
def Fmt.isEncType : Fmt → Bool
  | .fp32 | .fp16 | .bf16 => true
  | _ => false

/-- Types of SETST and of MMA, MMAG and MROT (R285, R287). -/
def Fmt.isMatrix : Fmt → Bool
  | .k8a | .k8b | .k8t | .bf16 | .fp16 | .int8 | .fp32 | .cf32 | .fp64 => true
  | _ => false

/-- The matrix types that the narrow-only setting gates (R131). -/
def Fmt.isGated : Fmt → Bool
  | .fp32 | .cf32 | .fp64 => true
  | _ => false

/-- Types in class for AST (R291). -/
def Fmt.isAst : Fmt → Bool
  | .fp64 | .fp32 | .fp16 | .bf16 | .cf32 | .int8 | .int16 | .int32 => true
  | _ => false

/-- The scope with a code; codes 5 to 7 are out of class and never reach this (R203). -/
def Scope.ofCode (n : Nat) : Scope :=
  match n with
  | 0 => .strand | 1 => .core | 2 => .panel | 3 => .package | _ => .system

/-- The code of a scope (R203). -/
def Scope.code : Scope → Nat
  | .strand => 0 | .core => 1 | .panel => 2 | .package => 3 | .system => 4

/-- TLBINV takes every scope but STRAND (R320). -/
def Scope.notStrand : Scope → Bool
  | .strand => false
  | _ => true

/-- The order with a code (R203). -/
def Order.ofCode (n : Nat) : Order :=
  match n with
  | 0 => .none | 1 => .acquire | 2 => .release | _ => .acqRel

/-- The code of an order (R203). -/
def Order.code : Order → Nat
  | .none => 0 | .acquire => 1 | .release => 2 | .acqRel => 3

/-- Order 0 is out of class in FENCE (R228). -/
def Order.isFence : Order → Bool
  | .none => false
  | _ => true

/-- The attribute holds an acquire. -/
def Order.acq : Order → Bool
  | .acquire | .acqRel => true
  | _ => false

/-- The attribute holds a release. -/
def Order.rel : Order → Bool
  | .release | .acqRel => true
  | _ => false

/-- The condition with a code; code 7 is out of class and never reaches this (R203). -/
def Cond.ofCode (n : Nat) : Cond :=
  match n with
  | 0 => .eq | 1 => .ne | 2 => .lt | 3 => .le | 4 => .ltn | 5 => .len | _ => .un

/-- The code of a condition (R203). -/
def Cond.code : Cond → Nat
  | .eq => 0 | .ne => 1 | .lt => 2 | .le => 3 | .ltn => 4 | .len => 5 | .un => 6

/-- CMP and CMPI take conditions 0 to 5 (R203, R241, R249). -/
def Cond.inCmp : Cond → Bool
  | .un => false
  | _ => true

/-- The reduction with an op code; code 7 is unlisted and never reaches this (R274). -/
def RedOp.ofCode (n : Nat) : RedOp :=
  match n with
  | 0 => .add | 1 => .adds | 2 => .min | 3 => .max | 4 => .and | 5 => .or | _ => .xor

/-- The op code of a reduction (R209, row 0x29). -/
def RedOp.code : RedOp → Nat
  | .add => 0 | .adds => 1 | .min => 2 | .max => 3 | .and => 4 | .or => 5 | .xor => 6

/-- The accumulator mode with a code (R284). -/
def AccMode.ofCode (n : Nat) : AccMode :=
  match n with
  | 1 => .nar | 2 => .int | 3 => .p32 | 4 => .pcx | 5 => .p64 | _ => .none

/-- The code of an accumulator mode (R284). -/
def AccMode.code : AccMode → Nat
  | .none => 0 | .nar => 1 | .int => 2 | .p32 => 3 | .pcx => 4 | .p64 => 5

/-- An even register (R214). -/
def evenReg (r : Fin 32) : Bool := decide (r.val % 2 = 0)

/-- A register whose number is a multiple of four (R214). -/
def quadReg (r : Fin 32) : Bool := decide (r.val % 4 = 0)

/-- The control-register numbers of Table 3 of chapter 08 (R143). -/
def csrListed (c : Nat) : Bool :=
  decide (c ≤ 0x005 ∨ (0x010 ≤ c ∧ c ≤ 0x013) ∨ (0x020 ≤ c ∧ c ≤ 0x025) ∨ (0x030 ≤ c ∧ c ≤ 0x031) ∨
    (0x040 ≤ c ∧ c ≤ 0x044) ∨ (0x050 ≤ c ∧ c ≤ 0x052))

/-- The pairings of VCMP (R268). -/
def cmpAccepts (c : Cond) (t : Fmt) : Bool :=
  match c with
  | .eq | .ne => t.isFp || t.isInt || decide (t = .cf32)
  | .lt | .le => t.isFp || t.isInt
  | .un => t.isFp
  | .ltn | .len => false

/-- The pairs of VCVT: those of Table 4 of chapter 09 without K8A, K8B, K8T, E8, CF32 and type 0, and never an
equal pair (R269, R165). -/
def cvtAccepts (src dst : Fmt) : Bool :=
  (src.isFp || src.isInt) && (dst.isFp || dst.isInt) && decide (src ≠ dst)

/-- The types of each reduction (R274, Table 5). -/
def redAccepts (o : RedOp) (t : Fmt) : Bool :=
  match o with
  | .add => t.isAddType
  | .adds => t.isInt
  | .min | .max => t.isMulType
  | .and | .or | .xor => t.isInt

/-- The accepted pairs of ALD (R292). -/
def aldAccepts (m : AccMode) (t : Fmt) : Bool :=
  match m, t with
  | .nar, .fp32 | .nar, .fp16 | .nar, .bf16 | .int, .int32 | .p32, .fp32 | .pcx, .cf32 | .p64, .fp64 | .p64, .fp32 => true
  | _, _ => false

/-- Operands in class for a core or foreman strand (R204, R214): what the field widths of `Instr` leave to check. -/
def Instr.strandOk : Instr → Bool
  | .add _ _ _ _ => true
  | .sub _ _ _ _ => true
  | .mul _ _ _ _ => true
  | .mulh _ _ _ _ => true
  | .mulhn _ _ _ _ => true
  | .div _ _ _ _ => true
  | .divn _ _ _ _ => true
  | .rem _ _ _ _ => true
  | .remn _ _ _ _ => true
  | .and _ _ _ _ => true
  | .or _ _ _ _ => true
  | .xor _ _ _ _ => true
  | .shl _ _ _ _ => true
  | .shr _ _ _ _ => true
  | .sar _ _ _ _ => true
  | .rot _ _ _ _ => true
  | .min _ _ _ _ => true
  | .max _ _ _ _ => true
  | .minn _ _ _ _ => true
  | .maxn _ _ _ _ => true
  | .padd _ _ _ _ => true
  | .ptag _ _ _ _ => true
  | .pfmt _ _ _ => true
  | .sel _ _ a _ => decide (a.val < 8)
  | .clz _ _ _ => true
  | .ctz _ _ _ => true
  | .popc _ _ _ => true
  | .mov _ _ _ => true
  | .sext _ _ _ _ => true
  | .zext _ _ _ _ => true
  | .cmp _ c d _ _ => c.inCmp && decide (d.val < 8)
  | .addi _ _ _ _ => true
  | .andi _ _ _ _ => true
  | .ori _ _ _ _ => true
  | .xori _ _ _ _ => true
  | .shli _ _ _ _ => true
  | .shri _ _ _ _ => true
  | .sari _ _ _ _ => true
  | .cmpi _ _ c d _ => c.inCmp && decide (d.val < 8)
  | .paddi _ _ _ _ => true
  | .movi _ _ _ => true
  | .kand _ _ _ _ => true
  | .kor _ _ _ _ => true
  | .kxor _ _ _ _ => true
  | .knot _ _ _ => true
  | .kmov _ _ _ => true
  | .kset _ _ _ => true
  | .kget _ _ _ => true
  | .kpop _ _ _ => true
  | .csrr _ c _ => csrListed c.toNat
  | .csrw _ c _ => csrListed c.toNat
  | .movsRead _ _ _ => true
  | .movsWrite _ _ _ => true
  | .tmset _ _ _ => true
  | .ld _ _ _ _ _ => true
  | .ldn _ _ _ _ _ => true
  | .st _ _ _ _ _ => true
  | .ldp _ _ d _ => evenReg d
  | .stp _ _ d _ => evenReg d
  | .lda _ _ _ _ _ => true
  | .stl _ _ _ _ _ => true
  | .pfm _ _ => true
  | .zero _ _ => true
  | .fence _ o _ => o.isFence
  | .fencep _ _ _ => true
  | .atadd _ _ _ _ _ _ => true
  | .atand _ _ _ _ _ _ => true
  | .ator _ _ _ _ _ _ => true
  | .atxor _ _ _ _ _ _ => true
  | .atmin _ _ _ _ _ _ => true
  | .atmax _ _ _ _ _ _ => true
  | .atminn _ _ _ _ _ _ => true
  | .atmaxn _ _ _ _ _ _ => true
  | .atswp _ _ _ _ _ _ => true
  | .atcas _ _ _ _ _ _ => true
  | .atfaddFp64 _ _ _ _ _ _ => true
  | .atfaddFp32 _ _ _ _ _ _ => true
  | .minit _ _ _ d _ _ => evenReg d
  | .mread _ _ _ _ _ => true
  | .mcancel _ _ _ d _ _ => evenReg d
  | .mctrAdd _ _ _ d _ _ => evenReg d
  | .mctrFadd _ _ _ d _ _ => evenReg d
  | .mctrWait _ _ _ d _ _ => evenReg d
  | .mctrChunk _ _ _ d _ => quadReg d
  | .mbarArrive _ _ _ d _ _ => evenReg d
  | .mbarAwait _ _ _ d _ _ => evenReg d
  | .mbarWaitp _ _ _ d _ _ => evenReg d
  | .mlockAcq _ _ _ d _ => evenReg d
  | .mlockTry _ _ _ d _ => evenReg d
  | .mlockRel _ _ _ d _ => evenReg d
  | .mqueEnq _ _ _ d _ _ => evenReg d
  | .mqueTenq _ _ _ d _ _ => evenReg d
  | .mqueEnqr _ _ _ d _ => evenReg d
  | .mqueTenqr _ _ _ d _ => evenReg d
  | .mqueCommit _ _ _ d _ _ => evenReg d
  | .mqueDeq _ _ _ d _ _ => evenReg d
  | .mqueTdeq _ _ _ d _ _ => evenReg d
  | .mqueDeqr _ _ _ d _ => evenReg d
  | .mqueTdeqr _ _ _ d _ => evenReg d
  | .mqueFree _ _ _ d _ _ => evenReg d
  | .mcondWait _ _ _ d _ => evenReg d
  | .mcondSig _ _ _ d _ => evenReg d
  | .mcondBcast _ _ _ d _ => evenReg d
  | .cpy _ a => quadReg a
  | .cpynb _ _ a => quadReg a
  | .cpx _ a => quadReg a
  | .cpq _ _ => true
  | .cpqTag _ _ _ => true
  | .vadd _ t _ _ _ => t.isAddType
  | .vsub _ t _ _ _ => t.isAddType
  | .vmul _ t _ _ _ => t.isMulType
  | .vfma _ t _ _ _ => t.isFp
  | .vfms _ t _ _ _ => t.isFp
  | .vmin _ t _ _ _ => t.isMulType
  | .vmax _ t _ _ _ => t.isMulType
  | .vdiv _ t _ _ _ => t.isFp
  | .vabs _ t _ _ => t.isAbsType
  | .vneg _ t _ _ => t.isNegType
  | .vsqrt _ t _ _ => t.isFp
  | .vrcp _ t _ _ => t.isFp
  | .vrsq _ t _ _ => t.isFp
  | .vexp2 _ t _ _ => t.isFp
  | .vlog2 _ t _ _ => t.isFp
  | .vmov _ _ _ _ => true
  | .vand _ _ _ _ => true
  | .vor _ _ _ _ => true
  | .vxor _ _ _ _ => true
  | .vshl _ t _ _ _ => t.isInt
  | .vshr _ t _ _ _ => t.isInt
  | .vsar _ t _ _ _ => t.isInt
  | .vrotl _ t _ _ _ => t.isInt
  | .vcmp _ c t _ _ _ => cmpAccepts c t
  | .vcvt _ t s _ _ => cvtAccepts s t
  | .vdec8 _ t _ q _ _ => t.isFp && decide (q.val < t.size)
  | .venc8 _ t _ q _ _ => t.isEncType && decide (q.val < t.size)
  | .tblld _ a => decide (a.val % 4 = 0)
  | .vperm _ _ _ _ _ => true
  | .vbcast _ _ _ _ _ => true
  | .vsplat _ _ _ _ => true
  | .vext _ _ _ _ _ => true
  | .vins _ _ _ _ _ => true
  | .vsel _ _ _ _ _ => true
  | .vclr _ _ => true
  | .vred _ o t _ _ => redAccepts o t
  | .vscan _ o t _ _ => redAccepts o t
  | .vcmul _ _ _ _ => true
  | .vcfma _ _ _ _ => true
  | .vld _ _ _ _ _ => true
  | .vst _ _ _ _ _ => true
  | .vlds _ _ _ _ _ => true
  | .vsts _ _ _ _ _ => true
  | .vldx _ _ _ _ _ => true
  | .vstx _ _ _ _ _ => true
  | .vldt _ _ _ _ _ => true
  | .vstt _ _ _ _ _ => true
  | .vsave _ n d _ => decide (d.val + n.val < 16)
  | .vload _ n d _ => decide (d.val + n.val < 16)
  | .setst _ t _ _ _ _ => t.isMatrix
  | .relst _ _ => true
  | .aclr _ _ => true
  | .ast _ t _ _ => t.isAst
  | .ald _ t m _ _ => aldAccepts m t
  | .mma _ t _ _ _ => t.isMatrix
  | .mmag _ t _ _ _ => t.isMatrix
  | .mrot _ t _ _ _ => t.isMatrix
  | .mrotBuf _ t _ _ => t.isMatrix
  | .floado _ _ _ _ => true
  | .fstart _ _ _ _ => true
  | .fcmd _ _ _ _ => true
  | .fred _ _ _ => true
  | .fopen _ _ => true
  | .facc _ _ => true
  | .faccf _ _ => true
  | .frdo _ _ _ => true
  | .fclra _ => true
  | .freply _ => true
  | .fwaitc d => decide (d.val % 2 = 0) && decide (d.val < 14)
  | .send _ _ => true
  | .sendt _ => true
  | .sendr _ _ => true
  | .bclr _ => true
  | .dqpush _ _ => true
  | .dqpop _ _ => true
  | .dqsteal _ _ _ => true
  | .hodnew _ _ _ => true
  | .hodnext _ _ => true
  | .hodset _ _ _ b => evenReg b
  | .hodins _ _ _ b => evenReg b
  | .hoddel _ _ _ => true
  | .hodget _ _ _ _ => true
  | .hodpark _ _ _ => true
  | .hodresume _ _ => true
  | .br _ _ _ => true
  | .call _ _ _ => true
  | .loop _ _ _ => true
  | .nop => true
  | .endAct _ => true
  | .yield _ => true
  | .brk _ => true
  | .calli _ _ _ => true
  | .jr _ _ => true
  | .ret _ _ => true
  | .gang _ _ => true
  | .ungang _ => true
  | .follow _ => true
  | .detach _ => true
  | .rejoin _ _ => true
  | .trap _ _ => true
  | .svc _ _ => true
  | .rte _ _ => true
  | .resume _ _ _ _ => true
  | .preempt _ _ _ _ => true
  | .waitx _ _ _ => true
  | .tlbinv _ c _ _ _ => c.notStrand
  | .rtset _ _ b => evenReg b
  | .ctxsave _ _ _ _ => true
  | .ctxload _ _ _ _ => true
  | .immx _ => true
  | .movC _ _ => true
  | .addC _ _ => true
  | .subC _ _ => true
  | .andC _ _ => true
  | .orC _ _ => true
  | .xorC _ _ => true
  | .shlC _ _ => true
  | .shrC _ _ => true
  | .sarC _ _ => true
  | .mulC _ _ => true
  | .addiC _ _ _ => true
  | .moviC _ _ => true
  | .ld64C _ _ _ => true
  | .st64C _ _ _ => true
  | .ld32C _ _ _ => true
  | .st32C _ _ _ => true
  | .brC _ => true
  | .shliC _ _ _ => true
  | .vaddC _ _ => true
  | .vsubC _ _ => true
  | .vmulC _ _ => true
  | .vmovC _ _ => true
  | .vclrC _ => true
  | .vldC _ _ _ => true
  | .vstC _ _ _ => true
  | .nopC => true
  | .endC => true
  | .yieldC => true
  | .jrC _ => true
  | .brkC => true
  | .loopC _ _ => true
  | .launch _ => true
  | .launchStart _ => true
  | .launchEnd _ => true
  | .launchAbort _ => true
  | .launchQuiescence _ => true
  | .dispatch _ => true
  | .idleStep _ => true
  | .dequeStealRequest _ => true
  | .strandAction _ => true
  | .strandResume _ => true
  | .strandEnd _ => true
  | .preemptCore _ => true
  | .preemptSave _ => true
  | .preemptResume _ => true
  | .messageArrival _ => true
  | .spillRedelivery _ _ => true
  | .spillRetry _ _ => true
  | .counterMessage _ => true
  | .lateMessage _ => true
  | .allowanceReturn _ => true
  | .wakeUp _ => true
  | .footingReply _ => true
  | .flitHop _ => true
  | .flitInjection _ => true
  | .injectionStarvation _ => true
  | .flitEjection _ => true
  | .mortarInit _ => true
  | .mortarRead _ => true
  | .mortarCancel _ => true
  | .ctrAdd _ => true
  | .ctrFadd _ => true
  | .ctrWait _ => true
  | .ctrChunk _ => true
  | .barArrive _ => true
  | .barAwait _ => true
  | .barWaitp _ => true
  | .lockAcq _ => true
  | .lockTry _ => true
  | .lockRel _ => true
  | .queEnq _ => true
  | .queTenq _ => true
  | .queEnqr _ => true
  | .queTenqr _ => true
  | .queCommit _ => true
  | .queDeq _ => true
  | .queTdeq _ => true
  | .queDeqr _ => true
  | .queTdeqr _ => true
  | .queFree _ => true
  | .condWait _ => true
  | .condSig _ => true
  | .condBcast _ => true
  | .condReacquire _ => true
  | .mortarUnsupported _ => true
  | .copyActivate _ => true
  | .copyBurst _ => true
  | .copyComplete _ => true
  | .copyCompletionMessage _ => true
  | .cpxPairing _ => true
  | .copyResume _ => true
  | .copyAbort _ => true
  | .fredCheck _ => true
  | .fredChunk _ => true
  | .fredCompletion _ => true
  | .fredResume _ => true
  | .fredAbort _ => true
  | .footingCommandResume _ => true
  | .footingCommandAbort _ => true
  | .floadoCommand _ => true
  | .fstartCommand _ => true
  | .fcmdCommand _ => true
  | .baseDieTranslation _ _ _ => true
  | .setstFill _ => true
  | .relstDrain _ => true
  | .bankDrainEnd _ _ => true
  | .aclrExecute _ => true
  | .mmaExecute _ => true
  | .mmagJoint _ => true
  | .mrotJoint _ => true
  | .astExecute _ => true
  | .aldExecute _ => true
  | .gangJoint _ => true
  | .ungangJoint _ => true
  | .followJoint _ _ => true
  | .rejoinJoint _ _ => true
  | .hodPull _ => true
  | .hodAck _ => true
  | .pageWalk _ _ => true
  | .shootdownArrival _ _ => true
  | .shootdownAck _ => true
  | .l2Access _ _ _ => true
  | .remoteLineFill _ => true
  | .foAccess _ _ _ => true
  | .prefetch _ _ => true
  | .scratchpadAccess _ _ _ => true
  | .scrub _ => true
  | .errorWindowEnd _ => true
  | .watchdogStall _ => true
  | .replay _ => true
  | .quarantineMove _ _ => true
  | .remoteLoad _ => true
  | .remoteStore _ => true
  | .remoteAtadd _ => true
  | .remoteAtand _ => true
  | .remoteAtor _ => true
  | .remoteAtxor _ => true
  | .remoteAtmin _ => true
  | .remoteAtmax _ => true
  | .remoteAtminn _ => true
  | .remoteAtmaxn _ => true
  | .remoteAtswp _ => true
  | .remoteAtcas _ => true
  | .remoteAtfaddFp64 _ => true
  | .remoteAtfaddFp32 _ => true
  | .remoteMortar _ => true
  | .remoteRcWriteback _ _ => true
  | .remoteMessage _ => true
  | .remoteCounter _ => true
  | .linkTraining _ _ _ => true
  | .laneFailure _ _ _ => true
  | .cxlMemAccess _ _ _ _ => true
  | .inboxApertureWrite _ _ _ _ => true
  | .powerDown _ => true
  | .selfRefresh _ => true
  | .powerExit _ => true
  | .footingStopTimeout _ => true
  | .channelWake _ => true
  | .modeRemoteCache _ => true
  | .modeL2Partitioning _ => true
  | .modeL2PartitionClass _ => true
  | .modeCimPower _ => true
  | .modeWaitListCap _ => true
  | .modeAgingInterval _ => true
  | .modeVcReservePolicy _ => true
  | .modeChangeApply _ => true
  | .portReserveApply _ => true
  | .clockThrottle _ _ => true
  | .packageReset _ _ => true
  | .spdmGetVersion _ _ => true
  | .spdmGetCapabilities _ _ => true
  | .spdmNegotiateAlgorithms _ _ => true
  | .spdmGetDigests _ _ => true
  | .spdmGetCertificate _ _ => true
  | .spdmChallenge _ _ => true
  | .spdmGetMeasurements _ _ => true
  | .spdmUnsupportedRequest _ _ => true
  | .controlRegisterWrite _ _ _ => true
  | .illegalInstruction _ => true
  | .fetchFault _ => true
  | .loadReply _ => true
  | .mortarReply _ => true
  | .condReleaseReply _ => true
  | .bulkTransfer _ => true

/-- The repertoire of a footing core (R47, R210): its instructions, with every register among w0–w15 and guard k0. -/
def Instr.footingOk : Instr → Bool
  | .add g d a b => decide (g.val = 0) && decide (d.val < 16) && decide (a.val < 16) && decide (b.val < 16)
  | .sub g d a b => decide (g.val = 0) && decide (d.val < 16) && decide (a.val < 16) && decide (b.val < 16)
  | .mul g d a b => decide (g.val = 0) && decide (d.val < 16) && decide (a.val < 16) && decide (b.val < 16)
  | .mulh g d a b => decide (g.val = 0) && decide (d.val < 16) && decide (a.val < 16) && decide (b.val < 16)
  | .mulhn g d a b => decide (g.val = 0) && decide (d.val < 16) && decide (a.val < 16) && decide (b.val < 16)
  | .div g d a b => decide (g.val = 0) && decide (d.val < 16) && decide (a.val < 16) && decide (b.val < 16)
  | .divn g d a b => decide (g.val = 0) && decide (d.val < 16) && decide (a.val < 16) && decide (b.val < 16)
  | .rem g d a b => decide (g.val = 0) && decide (d.val < 16) && decide (a.val < 16) && decide (b.val < 16)
  | .remn g d a b => decide (g.val = 0) && decide (d.val < 16) && decide (a.val < 16) && decide (b.val < 16)
  | .and g d a b => decide (g.val = 0) && decide (d.val < 16) && decide (a.val < 16) && decide (b.val < 16)
  | .or g d a b => decide (g.val = 0) && decide (d.val < 16) && decide (a.val < 16) && decide (b.val < 16)
  | .xor g d a b => decide (g.val = 0) && decide (d.val < 16) && decide (a.val < 16) && decide (b.val < 16)
  | .shl g d a b => decide (g.val = 0) && decide (d.val < 16) && decide (a.val < 16) && decide (b.val < 16)
  | .shr g d a b => decide (g.val = 0) && decide (d.val < 16) && decide (a.val < 16) && decide (b.val < 16)
  | .sar g d a b => decide (g.val = 0) && decide (d.val < 16) && decide (a.val < 16) && decide (b.val < 16)
  | .rot g d a b => decide (g.val = 0) && decide (d.val < 16) && decide (a.val < 16) && decide (b.val < 16)
  | .min g d a b => decide (g.val = 0) && decide (d.val < 16) && decide (a.val < 16) && decide (b.val < 16)
  | .max g d a b => decide (g.val = 0) && decide (d.val < 16) && decide (a.val < 16) && decide (b.val < 16)
  | .minn g d a b => decide (g.val = 0) && decide (d.val < 16) && decide (a.val < 16) && decide (b.val < 16)
  | .maxn g d a b => decide (g.val = 0) && decide (d.val < 16) && decide (a.val < 16) && decide (b.val < 16)
  | .padd _ _ _ _ => false
  | .ptag _ _ _ _ => false
  | .pfmt _ _ _ => false
  | .sel g d a b => decide (g.val = 0) && decide (d.val < 16) && decide (a.val < 16) && decide (b.val < 16)
  | .clz g d a => decide (g.val = 0) && decide (d.val < 16) && decide (a.val < 16)
  | .ctz g d a => decide (g.val = 0) && decide (d.val < 16) && decide (a.val < 16)
  | .popc g d a => decide (g.val = 0) && decide (d.val < 16) && decide (a.val < 16)
  | .mov g d a => decide (g.val = 0) && decide (d.val < 16) && decide (a.val < 16)
  | .sext g _ d a => decide (g.val = 0) && decide (d.val < 16) && decide (a.val < 16)
  | .zext g _ d a => decide (g.val = 0) && decide (d.val < 16) && decide (a.val < 16)
  | .cmp g c d a b => decide (g.val = 0) && decide (d.val < 16) && decide (a.val < 16) && decide (b.val < 16) && c.inCmp
  | .addi g _ d a => decide (g.val = 0) && decide (d.val < 16) && decide (a.val < 16)
  | .andi g _ d a => decide (g.val = 0) && decide (d.val < 16) && decide (a.val < 16)
  | .ori g _ d a => decide (g.val = 0) && decide (d.val < 16) && decide (a.val < 16)
  | .xori g _ d a => decide (g.val = 0) && decide (d.val < 16) && decide (a.val < 16)
  | .shli g _ d a => decide (g.val = 0) && decide (d.val < 16) && decide (a.val < 16)
  | .shri g _ d a => decide (g.val = 0) && decide (d.val < 16) && decide (a.val < 16)
  | .sari g _ d a => decide (g.val = 0) && decide (d.val < 16) && decide (a.val < 16)
  | .cmpi g _ c d a => decide (g.val = 0) && decide (d.val < 16) && decide (a.val < 16) && c.inCmp
  | .paddi _ _ _ _ => false
  | .movi g _ d => decide (g.val = 0) && decide (d.val < 16)
  | .kand _ _ _ _ => false
  | .kor _ _ _ _ => false
  | .kxor _ _ _ _ => false
  | .knot _ _ _ => false
  | .kmov _ _ _ => false
  | .kset _ _ _ => false
  | .kget _ _ _ => false
  | .kpop _ _ _ => false
  | .csrr _ _ _ => false
  | .csrw _ _ _ => false
  | .movsRead _ _ _ => false
  | .movsWrite _ _ _ => false
  | .tmset _ _ _ => false
  | .ld g _ _ d a => decide (g.val = 0) && decide (d.val < 16) && decide (a.val < 16)
  | .ldn _ _ _ _ _ => false
  | .st g _ _ d a => decide (g.val = 0) && decide (d.val < 16) && decide (a.val < 16)
  | .ldp _ _ _ _ => false
  | .stp _ _ _ _ => false
  | .lda _ _ _ _ _ => false
  | .stl _ _ _ _ _ => false
  | .pfm _ _ => false
  | .zero _ _ => false
  | .fence _ _ _ => false
  | .fencep _ _ _ => false
  | .atadd _ _ _ _ _ _ => false
  | .atand _ _ _ _ _ _ => false
  | .ator _ _ _ _ _ _ => false
  | .atxor _ _ _ _ _ _ => false
  | .atmin _ _ _ _ _ _ => false
  | .atmax _ _ _ _ _ _ => false
  | .atminn _ _ _ _ _ _ => false
  | .atmaxn _ _ _ _ _ _ => false
  | .atswp _ _ _ _ _ _ => false
  | .atcas _ _ _ _ _ _ => false
  | .atfaddFp64 _ _ _ _ _ _ => false
  | .atfaddFp32 _ _ _ _ _ _ => false
  | .minit _ _ _ _ _ _ => false
  | .mread _ _ _ _ _ => false
  | .mcancel _ _ _ _ _ _ => false
  | .mctrAdd _ _ _ _ _ _ => false
  | .mctrFadd _ _ _ _ _ _ => false
  | .mctrWait _ _ _ _ _ _ => false
  | .mctrChunk _ _ _ _ _ => false
  | .mbarArrive _ _ _ _ _ _ => false
  | .mbarAwait _ _ _ _ _ _ => false
  | .mbarWaitp _ _ _ _ _ _ => false
  | .mlockAcq _ _ _ _ _ => false
  | .mlockTry _ _ _ _ _ => false
  | .mlockRel _ _ _ _ _ => false
  | .mqueEnq _ _ _ _ _ _ => false
  | .mqueTenq _ _ _ _ _ _ => false
  | .mqueEnqr _ _ _ _ _ => false
  | .mqueTenqr _ _ _ _ _ => false
  | .mqueCommit _ _ _ _ _ _ => false
  | .mqueDeq _ _ _ _ _ _ => false
  | .mqueTdeq _ _ _ _ _ _ => false
  | .mqueDeqr _ _ _ _ _ => false
  | .mqueTdeqr _ _ _ _ _ => false
  | .mqueFree _ _ _ _ _ _ => false
  | .mcondWait _ _ _ _ _ => false
  | .mcondSig _ _ _ _ _ => false
  | .mcondBcast _ _ _ _ _ => false
  | .cpy _ _ => false
  | .cpynb _ _ _ => false
  | .cpx _ _ => false
  | .cpq _ _ => false
  | .cpqTag _ _ _ => false
  | .vadd _ _ _ _ _ => false
  | .vsub _ _ _ _ _ => false
  | .vmul _ _ _ _ _ => false
  | .vfma _ _ _ _ _ => false
  | .vfms _ _ _ _ _ => false
  | .vmin _ _ _ _ _ => false
  | .vmax _ _ _ _ _ => false
  | .vdiv _ _ _ _ _ => false
  | .vabs _ _ _ _ => false
  | .vneg _ _ _ _ => false
  | .vsqrt _ _ _ _ => false
  | .vrcp _ _ _ _ => false
  | .vrsq _ _ _ _ => false
  | .vexp2 _ _ _ _ => false
  | .vlog2 _ _ _ _ => false
  | .vmov _ _ _ _ => false
  | .vand _ _ _ _ => false
  | .vor _ _ _ _ => false
  | .vxor _ _ _ _ => false
  | .vshl _ _ _ _ _ => false
  | .vshr _ _ _ _ _ => false
  | .vsar _ _ _ _ _ => false
  | .vrotl _ _ _ _ _ => false
  | .vcmp _ _ _ _ _ _ => false
  | .vcvt _ _ _ _ _ => false
  | .vdec8 _ _ _ _ _ _ => false
  | .venc8 _ _ _ _ _ _ => false
  | .tblld _ _ => false
  | .vperm _ _ _ _ _ => false
  | .vbcast _ _ _ _ _ => false
  | .vsplat _ _ _ _ => false
  | .vext _ _ _ _ _ => false
  | .vins _ _ _ _ _ => false
  | .vsel _ _ _ _ _ => false
  | .vclr _ _ => false
  | .vred _ _ _ _ _ => false
  | .vscan _ _ _ _ _ => false
  | .vcmul _ _ _ _ => false
  | .vcfma _ _ _ _ => false
  | .vld _ _ _ _ _ => false
  | .vst _ _ _ _ _ => false
  | .vlds _ _ _ _ _ => false
  | .vsts _ _ _ _ _ => false
  | .vldx _ _ _ _ _ => false
  | .vstx _ _ _ _ _ => false
  | .vldt _ _ _ _ _ => false
  | .vstt _ _ _ _ _ => false
  | .vsave _ _ _ _ => false
  | .vload _ _ _ _ => false
  | .setst _ _ _ _ _ _ => false
  | .relst _ _ => false
  | .aclr _ _ => false
  | .ast _ _ _ _ => false
  | .ald _ _ _ _ _ => false
  | .mma _ _ _ _ _ => false
  | .mmag _ _ _ _ _ => false
  | .mrot _ _ _ _ _ => false
  | .mrotBuf _ _ _ _ => false
  | .floado _ _ _ _ => false
  | .fstart _ _ _ _ => false
  | .fcmd _ _ _ _ => false
  | .fred _ _ _ => false
  | .fopen _ _ => true
  | .facc _ _ => true
  | .faccf _ _ => true
  | .frdo _ _ _ => true
  | .fclra _ => true
  | .freply _ => true
  | .fwaitc d => decide (d.val % 2 = 0) && decide (d.val < 14)
  | .send _ _ => false
  | .sendt _ => false
  | .sendr _ _ => false
  | .bclr _ => false
  | .dqpush _ _ => false
  | .dqpop _ _ => false
  | .dqsteal _ _ _ => false
  | .hodnew _ _ _ => false
  | .hodnext _ _ => false
  | .hodset _ _ _ _ => false
  | .hodins _ _ _ _ => false
  | .hoddel _ _ _ => false
  | .hodget _ _ _ _ => false
  | .hodpark _ _ _ => false
  | .hodresume _ _ => false
  | .br g f _ => decide (g.val = 0) && !f
  | .call g _ d => decide (g.val = 0) && decide (d.val < 16)
  | .loop g _ a => decide (g.val = 0) && decide (a.val < 16)
  | .nop => true
  | .endAct _ => false
  | .yield _ => false
  | .brk _ => false
  | .calli g d a => decide (g.val = 0) && decide (d.val < 16) && decide (a.val < 16)
  | .jr g a => decide (g.val = 0) && decide (a.val < 16)
  | .ret g a => decide (g.val = 0) && decide (a.val < 16)
  | .gang _ _ => false
  | .ungang _ => false
  | .follow _ => false
  | .detach _ => false
  | .rejoin _ _ => false
  | .trap _ _ => false
  | .svc _ _ => false
  | .rte _ _ => false
  | .resume _ _ _ _ => false
  | .preempt _ _ _ _ => false
  | .waitx _ _ _ => false
  | .tlbinv _ _ _ _ _ => false
  | .rtset _ _ _ => false
  | .ctxsave _ _ _ _ => false
  | .ctxload _ _ _ _ => false
  | .immx _ => true
  | .movC _ _ => true
  | .addC _ _ => true
  | .subC _ _ => true
  | .andC _ _ => true
  | .orC _ _ => true
  | .xorC _ _ => true
  | .shlC _ _ => true
  | .shrC _ _ => true
  | .sarC _ _ => true
  | .mulC _ _ => true
  | .addiC _ _ _ => true
  | .moviC _ _ => true
  | .ld64C _ _ _ => true
  | .st64C _ _ _ => true
  | .ld32C _ _ _ => true
  | .st32C _ _ _ => true
  | .brC _ => true
  | .shliC _ _ _ => true
  | .vaddC _ _ => false
  | .vsubC _ _ => false
  | .vmulC _ _ => false
  | .vmovC _ _ => false
  | .vclrC _ => false
  | .vldC _ _ _ => false
  | .vstC _ _ _ => false
  | .nopC => true
  | .endC => false
  | .yieldC => false
  | .jrC _ => true
  | .brkC => false
  | .loopC _ _ => true
  | .launch _ => false
  | .launchStart _ => false
  | .launchEnd _ => false
  | .launchAbort _ => false
  | .launchQuiescence _ => false
  | .dispatch _ => false
  | .idleStep _ => false
  | .dequeStealRequest _ => false
  | .strandAction _ => false
  | .strandResume _ => false
  | .strandEnd _ => false
  | .preemptCore _ => false
  | .preemptSave _ => false
  | .preemptResume _ => false
  | .messageArrival _ => false
  | .spillRedelivery _ _ => false
  | .spillRetry _ _ => false
  | .counterMessage _ => false
  | .lateMessage _ => false
  | .allowanceReturn _ => false
  | .wakeUp _ => false
  | .footingReply _ => false
  | .flitHop _ => false
  | .flitInjection _ => false
  | .injectionStarvation _ => false
  | .flitEjection _ => false
  | .mortarInit _ => false
  | .mortarRead _ => false
  | .mortarCancel _ => false
  | .ctrAdd _ => false
  | .ctrFadd _ => false
  | .ctrWait _ => false
  | .ctrChunk _ => false
  | .barArrive _ => false
  | .barAwait _ => false
  | .barWaitp _ => false
  | .lockAcq _ => false
  | .lockTry _ => false
  | .lockRel _ => false
  | .queEnq _ => false
  | .queTenq _ => false
  | .queEnqr _ => false
  | .queTenqr _ => false
  | .queCommit _ => false
  | .queDeq _ => false
  | .queTdeq _ => false
  | .queDeqr _ => false
  | .queTdeqr _ => false
  | .queFree _ => false
  | .condWait _ => false
  | .condSig _ => false
  | .condBcast _ => false
  | .condReacquire _ => false
  | .mortarUnsupported _ => false
  | .copyActivate _ => false
  | .copyBurst _ => false
  | .copyComplete _ => false
  | .copyCompletionMessage _ => false
  | .cpxPairing _ => false
  | .copyResume _ => false
  | .copyAbort _ => false
  | .fredCheck _ => false
  | .fredChunk _ => false
  | .fredCompletion _ => false
  | .fredResume _ => false
  | .fredAbort _ => false
  | .footingCommandResume _ => false
  | .footingCommandAbort _ => false
  | .floadoCommand _ => false
  | .fstartCommand _ => false
  | .fcmdCommand _ => false
  | .baseDieTranslation _ _ _ => false
  | .setstFill _ => false
  | .relstDrain _ => false
  | .bankDrainEnd _ _ => false
  | .aclrExecute _ => false
  | .mmaExecute _ => false
  | .mmagJoint _ => false
  | .mrotJoint _ => false
  | .astExecute _ => false
  | .aldExecute _ => false
  | .gangJoint _ => false
  | .ungangJoint _ => false
  | .followJoint _ _ => false
  | .rejoinJoint _ _ => false
  | .hodPull _ => false
  | .hodAck _ => false
  | .pageWalk _ _ => false
  | .shootdownArrival _ _ => false
  | .shootdownAck _ => false
  | .l2Access _ _ _ => false
  | .remoteLineFill _ => false
  | .foAccess _ _ _ => false
  | .prefetch _ _ => false
  | .scratchpadAccess _ _ _ => false
  | .scrub _ => false
  | .errorWindowEnd _ => false
  | .watchdogStall _ => false
  | .replay _ => false
  | .quarantineMove _ _ => false
  | .remoteLoad _ => false
  | .remoteStore _ => false
  | .remoteAtadd _ => false
  | .remoteAtand _ => false
  | .remoteAtor _ => false
  | .remoteAtxor _ => false
  | .remoteAtmin _ => false
  | .remoteAtmax _ => false
  | .remoteAtminn _ => false
  | .remoteAtmaxn _ => false
  | .remoteAtswp _ => false
  | .remoteAtcas _ => false
  | .remoteAtfaddFp64 _ => false
  | .remoteAtfaddFp32 _ => false
  | .remoteMortar _ => false
  | .remoteRcWriteback _ _ => false
  | .remoteMessage _ => false
  | .remoteCounter _ => false
  | .linkTraining _ _ _ => false
  | .laneFailure _ _ _ => false
  | .cxlMemAccess _ _ _ _ => false
  | .inboxApertureWrite _ _ _ _ => false
  | .powerDown _ => false
  | .selfRefresh _ => false
  | .powerExit _ => false
  | .footingStopTimeout _ => false
  | .channelWake _ => false
  | .modeRemoteCache _ => false
  | .modeL2Partitioning _ => false
  | .modeL2PartitionClass _ => false
  | .modeCimPower _ => false
  | .modeWaitListCap _ => false
  | .modeAgingInterval _ => false
  | .modeVcReservePolicy _ => false
  | .modeChangeApply _ => false
  | .portReserveApply _ => false
  | .clockThrottle _ _ => false
  | .packageReset _ _ => false
  | .spdmGetVersion _ _ => false
  | .spdmGetCapabilities _ _ => false
  | .spdmNegotiateAlgorithms _ _ => false
  | .spdmGetDigests _ _ => false
  | .spdmGetCertificate _ _ => false
  | .spdmChallenge _ _ => false
  | .spdmGetMeasurements _ _ => false
  | .spdmUnsupportedRequest _ _ => false
  | .controlRegisterWrite _ _ _ => false
  | .illegalInstruction _ => true
  | .fetchFault _ => true
  | .loadReply _ => false
  | .mortarReply _ => false
  | .condReleaseReply _ => false
  | .bulkTransfer _ => false

end Sys2Proof
end

