-- ==== Sys2Proof/WellFormed.lean ====
section
/-! DEFINITION. Well-formed instructions: operands in class for the processor that executes them (R203, R204, R210, R214). -/

namespace Sys2Proof

/-- The instruction is one that a processor of the given kind may decode (R211, step 2). -/
def WellFormed (p : Proc) (i : Instr) : Bool :=
  match p with
  | .strand => i.strandOk
  | .footing => i.footingOk

end Sys2Proof
end

