-- ==== Sys2Proof/Decode.lean ====
section
/-! DEFINITION. The decoder of Omrid, total on any halfwords, and after it the encoder (chapter 11, R200 to R214). An encoding that
the map does not assign is rejected with the detail of trap 0x01 (R213, Table 7). -/

namespace Sys2Proof

/-- Why an encoding is refused, by Table 7 of chapter 11 (R213). -/
inductive DecodeError where
  /-- 0x00: unassigned major, selector code or 16-bit pattern. -/
  | unassigned
  /-- 0x01: reserved or zero field not zero. -/
  | reservedField
  /-- 0x02: operand out of class, or unlisted control register. -/
  | outOfClass
  /-- 0x03: IMMX misuse. -/
  | immxMisuse
  /-- 0x05: outside the repertoire of this processor. -/
  | repertoire
  /-- 0x06: MOVS write to a message register. -/
  | movsWrite
  /-- The bytes end before the instruction does. -/
  | short
  deriving DecidableEq, Repr

/-- The detail of trap 0x01 (R213, Table 7). -/
def DecodeError.detail : DecodeError → Nat
  | .unassigned => 0 | .reservedField => 1 | .outOfClass => 2 | .immxMisuse => 3 | .repertoire => 5 | .movsWrite => 6
  | .short => 0

namespace Decoding

/-- A listed row: its zero fields are checked first, then its operand ranges (R213: the lowest detail is recorded). -/
def mk (zero range : Bool) (i : Instr) : Except DecodeError Instr :=
  if zero then (if range then .ok i else .error .outOfClass) else .error .reservedField

/-- A row of major 0x32, which takes no guard: a footing core knows no guard but k0, and a strand none of its rows (R47, R210, R297). -/
def mkUnit (g : Nat) (zero range : Bool) (i : Instr) : Except DecodeError Instr :=
  if g = 0 then mk zero range i
  else match mk zero range i with | .ok _ => .error .repertoire | .error e => .error e

/-- Major 0x01 of Table 6 (R209). -/
def major01 (fn g b a d : Nat) : Except DecodeError Instr :=
  if fn = 0 then mk (true) (true) (.add (Fin.ofNat 8 g) (Fin.ofNat 32 d) (Fin.ofNat 32 a) (Fin.ofNat 32 b))
  else if fn = 1 then mk (true) (true) (.sub (Fin.ofNat 8 g) (Fin.ofNat 32 d) (Fin.ofNat 32 a) (Fin.ofNat 32 b))
  else if fn = 2 then mk (true) (true) (.mul (Fin.ofNat 8 g) (Fin.ofNat 32 d) (Fin.ofNat 32 a) (Fin.ofNat 32 b))
  else if fn = 3 then mk (true) (true) (.mulh (Fin.ofNat 8 g) (Fin.ofNat 32 d) (Fin.ofNat 32 a) (Fin.ofNat 32 b))
  else if fn = 4 then mk (true) (true) (.mulhn (Fin.ofNat 8 g) (Fin.ofNat 32 d) (Fin.ofNat 32 a) (Fin.ofNat 32 b))
  else if fn = 5 then mk (true) (true) (.div (Fin.ofNat 8 g) (Fin.ofNat 32 d) (Fin.ofNat 32 a) (Fin.ofNat 32 b))
  else if fn = 6 then mk (true) (true) (.divn (Fin.ofNat 8 g) (Fin.ofNat 32 d) (Fin.ofNat 32 a) (Fin.ofNat 32 b))
  else if fn = 7 then mk (true) (true) (.rem (Fin.ofNat 8 g) (Fin.ofNat 32 d) (Fin.ofNat 32 a) (Fin.ofNat 32 b))
  else if fn = 8 then mk (true) (true) (.remn (Fin.ofNat 8 g) (Fin.ofNat 32 d) (Fin.ofNat 32 a) (Fin.ofNat 32 b))
  else if fn = 9 then mk (true) (true) (.and (Fin.ofNat 8 g) (Fin.ofNat 32 d) (Fin.ofNat 32 a) (Fin.ofNat 32 b))
  else if fn = 10 then mk (true) (true) (.or (Fin.ofNat 8 g) (Fin.ofNat 32 d) (Fin.ofNat 32 a) (Fin.ofNat 32 b))
  else if fn = 11 then mk (true) (true) (.xor (Fin.ofNat 8 g) (Fin.ofNat 32 d) (Fin.ofNat 32 a) (Fin.ofNat 32 b))
  else if fn = 12 then mk (true) (true) (.shl (Fin.ofNat 8 g) (Fin.ofNat 32 d) (Fin.ofNat 32 a) (Fin.ofNat 32 b))
  else if fn = 13 then mk (true) (true) (.shr (Fin.ofNat 8 g) (Fin.ofNat 32 d) (Fin.ofNat 32 a) (Fin.ofNat 32 b))
  else if fn = 14 then mk (true) (true) (.sar (Fin.ofNat 8 g) (Fin.ofNat 32 d) (Fin.ofNat 32 a) (Fin.ofNat 32 b))
  else if fn = 15 then mk (true) (true) (.rot (Fin.ofNat 8 g) (Fin.ofNat 32 d) (Fin.ofNat 32 a) (Fin.ofNat 32 b))
  else if fn = 16 then mk (true) (true) (.min (Fin.ofNat 8 g) (Fin.ofNat 32 d) (Fin.ofNat 32 a) (Fin.ofNat 32 b))
  else if fn = 17 then mk (true) (true) (.max (Fin.ofNat 8 g) (Fin.ofNat 32 d) (Fin.ofNat 32 a) (Fin.ofNat 32 b))
  else if fn = 18 then mk (true) (true) (.minn (Fin.ofNat 8 g) (Fin.ofNat 32 d) (Fin.ofNat 32 a) (Fin.ofNat 32 b))
  else if fn = 19 then mk (true) (true) (.maxn (Fin.ofNat 8 g) (Fin.ofNat 32 d) (Fin.ofNat 32 a) (Fin.ofNat 32 b))
  else if fn = 20 then mk (true) (true) (.padd (Fin.ofNat 8 g) (Fin.ofNat 32 d) (Fin.ofNat 32 a) (Fin.ofNat 32 b))
  else if fn = 21 then mk (true) (true) (.ptag (Fin.ofNat 8 g) (Fin.ofNat 32 d) (Fin.ofNat 32 a) (Fin.ofNat 32 b))
  else if fn = 22 then mk (decide (b = 0)) (true) (.pfmt (Fin.ofNat 8 g) (Fin.ofNat 32 d) (Fin.ofNat 32 a))
  else if fn = 23 then mk (true) (true) (.sel (Fin.ofNat 8 g) (Fin.ofNat 32 d) (Fin.ofNat 32 a) (Fin.ofNat 32 b))
  else if fn = 24 then mk (decide (b = 0)) (true) (.clz (Fin.ofNat 8 g) (Fin.ofNat 32 d) (Fin.ofNat 32 a))
  else if fn = 25 then mk (decide (b = 0)) (true) (.ctz (Fin.ofNat 8 g) (Fin.ofNat 32 d) (Fin.ofNat 32 a))
  else if fn = 26 then mk (decide (b = 0)) (true) (.popc (Fin.ofNat 8 g) (Fin.ofNat 32 d) (Fin.ofNat 32 a))
  else if fn = 27 then mk (decide (b = 0)) (true) (.mov (Fin.ofNat 8 g) (Fin.ofNat 32 d) (Fin.ofNat 32 a))
  else if fn = 28 then mk (true) (decide (b < 3)) (.sext (Fin.ofNat 8 g) (Fin.ofNat 3 b) (Fin.ofNat 32 d) (Fin.ofNat 32 a))
  else if fn = 29 then mk (true) (decide (b < 3)) (.zext (Fin.ofNat 8 g) (Fin.ofNat 3 b) (Fin.ofNat 32 d) (Fin.ofNat 32 a))
  else if fn / 8 = 4 then mk (true) (decide ((fn % 8) < 7)) (.cmp (Fin.ofNat 8 g) (Cond.ofCode (fn % 8)) (Fin.ofNat 32 d) (Fin.ofNat 32 a) (Fin.ofNat 32 b))
  else .error .unassigned

/-- Major 0x02 of Table 6 (R209). -/
def major02 (fn g b a d : Nat) : Except DecodeError Instr :=
  mk (true) (true) (.addi (Fin.ofNat 8 g) (BitVec.ofNat 12 (fn * 32 + b)) (Fin.ofNat 32 d) (Fin.ofNat 32 a))

/-- Major 0x03 of Table 6 (R209). -/
def major03 (fn g b a d : Nat) : Except DecodeError Instr :=
  mk (true) (true) (.andi (Fin.ofNat 8 g) (BitVec.ofNat 12 (fn * 32 + b)) (Fin.ofNat 32 d) (Fin.ofNat 32 a))

/-- Major 0x04 of Table 6 (R209). -/
def major04 (fn g b a d : Nat) : Except DecodeError Instr :=
  mk (true) (true) (.ori (Fin.ofNat 8 g) (BitVec.ofNat 12 (fn * 32 + b)) (Fin.ofNat 32 d) (Fin.ofNat 32 a))

/-- Major 0x05 of Table 6 (R209). -/
def major05 (fn g b a d : Nat) : Except DecodeError Instr :=
  mk (true) (true) (.xori (Fin.ofNat 8 g) (BitVec.ofNat 12 (fn * 32 + b)) (Fin.ofNat 32 d) (Fin.ofNat 32 a))

/-- Major 0x06 of Table 6 (R209). -/
def major06 (fn g b a d : Nat) : Except DecodeError Instr :=
  if fn / 2 % 4 = 0 then mk (decide (fn / 8 = 0)) (true) (.shli (Fin.ofNat 8 g) (Fin.ofNat 64 ((fn % 2) * 32 + b)) (Fin.ofNat 32 d) (Fin.ofNat 32 a))
  else if fn / 2 % 4 = 1 then mk (decide (fn / 8 = 0)) (true) (.shri (Fin.ofNat 8 g) (Fin.ofNat 64 ((fn % 2) * 32 + b)) (Fin.ofNat 32 d) (Fin.ofNat 32 a))
  else if fn / 2 % 4 = 2 then mk (decide (fn / 8 = 0)) (true) (.sari (Fin.ofNat 8 g) (Fin.ofNat 64 ((fn % 2) * 32 + b)) (Fin.ofNat 32 d) (Fin.ofNat 32 a))
  else .error .unassigned

/-- Major 0x07 of Table 6 (R209). -/
def major07 (fn g b a d : Nat) : Except DecodeError Instr :=
  mk (true) (decide ((fn % 8) < 7)) (.cmpi (Fin.ofNat 8 g) (BitVec.ofNat 9 ((fn / 8) * 32 + b)) (Cond.ofCode (fn % 8)) (Fin.ofNat 32 d) (Fin.ofNat 32 a))

/-- Major 0x08 of Table 6 (R209). -/
def major08 (fn g b a d : Nat) : Except DecodeError Instr :=
  mk (true) (true) (.paddi (Fin.ofNat 8 g) (BitVec.ofNat 12 (fn * 32 + b)) (Fin.ofNat 32 d) (Fin.ofNat 32 a))

/-- Major 0x09 of Table 6 (R209). -/
def major09 (fn g b a d : Nat) : Except DecodeError Instr :=
  mk (true) (true) (.movi (Fin.ofNat 8 g) (BitVec.ofNat 17 (fn * 1024 + b * 32 + a)) (Fin.ofNat 32 d))

/-- Major 0x0A of Table 6 (R209). -/
def major0A (fn g b a d : Nat) : Except DecodeError Instr :=
  if fn = 0 then mk (true) (decide (b < 8 ∧ a < 8 ∧ d < 8)) (.kand (Fin.ofNat 8 g) (Fin.ofNat 8 d) (Fin.ofNat 8 a) (Fin.ofNat 8 b))
  else if fn = 1 then mk (true) (decide (b < 8 ∧ a < 8 ∧ d < 8)) (.kor (Fin.ofNat 8 g) (Fin.ofNat 8 d) (Fin.ofNat 8 a) (Fin.ofNat 8 b))
  else if fn = 2 then mk (true) (decide (b < 8 ∧ a < 8 ∧ d < 8)) (.kxor (Fin.ofNat 8 g) (Fin.ofNat 8 d) (Fin.ofNat 8 a) (Fin.ofNat 8 b))
  else if fn = 3 then mk (decide (b = 0)) (decide (a < 8 ∧ d < 8)) (.knot (Fin.ofNat 8 g) (Fin.ofNat 8 d) (Fin.ofNat 8 a))
  else if fn = 4 then mk (decide (b = 0)) (decide (a < 8 ∧ d < 8)) (.kmov (Fin.ofNat 8 g) (Fin.ofNat 8 d) (Fin.ofNat 8 a))
  else if fn = 5 then mk (decide (b = 0)) (decide (d < 8)) (.kset (Fin.ofNat 8 g) (Fin.ofNat 8 d) (Fin.ofNat 32 a))
  else if fn = 6 then mk (decide (b = 0)) (decide (a < 8)) (.kget (Fin.ofNat 8 g) (Fin.ofNat 32 d) (Fin.ofNat 8 a))
  else if fn = 7 then mk (decide (b = 0)) (decide (a < 8)) (.kpop (Fin.ofNat 8 g) (Fin.ofNat 32 d) (Fin.ofNat 8 a))
  else .error .unassigned

/-- Major 0x0B of Table 6 (R209). -/
def major0B (fn g b a d : Nat) : Except DecodeError Instr :=
  mk (decide (a = 0)) (true) (.csrr (Fin.ofNat 8 g) (BitVec.ofNat 12 (fn * 32 + b)) (Fin.ofNat 32 d))

/-- Major 0x0C of Table 6 (R209). -/
def major0C (fn g b a d : Nat) : Except DecodeError Instr :=
  mk (decide (d = 0)) (true) (.csrw (Fin.ofNat 8 g) (BitVec.ofNat 12 (fn * 32 + b)) (Fin.ofNat 32 a))

/-- Major 0x0D of Table 6 (R209). -/
def major0D (fn g b a d : Nat) : Except DecodeError Instr :=
  if fn = 0 then mk (decide (b = 0)) (decide (a < 16)) (.movsRead (Fin.ofNat 8 g) (Fin.ofNat 16 a) (Fin.ofNat 32 d))
  else if fn = 1 then if d < 8 ∧ b = 0 then .error .movsWrite else mk (decide (b = 0)) (decide (d < 16)) (.movsWrite (Fin.ofNat 8 g) (Fin.ofNat 16 d) (Fin.ofNat 32 a))
  else if fn = 2 then mk (decide (b = 0)) (decide (a < 16 ∧ d < 16)) (.tmset (Fin.ofNat 8 g) (Fin.ofNat 16 d) (Fin.ofNat 16 a))
  else .error .unassigned

/-- Major 0x10 of Table 6 (R209). -/
def major10 (fn g b a d : Nat) : Except DecodeError Instr :=
  mk (true) (true) (.ld (Fin.ofNat 8 g) (BitVec.ofNat 10 (fn * 8 + (b / 4))) (Fin.ofNat 4 (b % 4)) (Fin.ofNat 32 d) (Fin.ofNat 32 a))

/-- Major 0x11 of Table 6 (R209). -/
def major11 (fn g b a d : Nat) : Except DecodeError Instr :=
  if (b % 4) < 3 then mk (true) (true) (.ldn (Fin.ofNat 8 g) (BitVec.ofNat 10 (fn * 8 + (b / 4))) (Fin.ofNat 3 (b % 4)) (Fin.ofNat 32 d) (Fin.ofNat 32 a))
  else .error .unassigned

/-- Major 0x12 of Table 6 (R209). -/
def major12 (fn g b a d : Nat) : Except DecodeError Instr :=
  mk (true) (true) (.st (Fin.ofNat 8 g) (BitVec.ofNat 10 (fn * 8 + (b / 4))) (Fin.ofNat 4 (b % 4)) (Fin.ofNat 32 d) (Fin.ofNat 32 a))

/-- Major 0x13 of Table 6 (R209). -/
def major13 (fn g b a d : Nat) : Except DecodeError Instr :=
  if b % 4 = 0 then mk (true) (true) (.ldp (Fin.ofNat 8 g) (BitVec.ofNat 10 (fn * 8 + (b / 4))) (Fin.ofNat 32 d) (Fin.ofNat 32 a))
  else if b % 4 = 1 then mk (true) (true) (.stp (Fin.ofNat 8 g) (BitVec.ofNat 10 (fn * 8 + (b / 4))) (Fin.ofNat 32 d) (Fin.ofNat 32 a))
  else .error .unassigned

/-- Major 0x14 of Table 6 (R209). -/
def major14 (fn g b a d : Nat) : Except DecodeError Instr :=
  if fn / 32 = 0 then mk (decide (b = 0)) (decide ((fn / 4 % 8) < 5)) (.lda (Fin.ofNat 8 g) (Scope.ofCode (fn / 4 % 8)) (Fin.ofNat 4 (fn % 4)) (Fin.ofNat 32 d) (Fin.ofNat 32 a))
  else if fn / 32 = 1 then mk (decide (d = 0)) (decide ((fn / 4 % 8) < 5)) (.stl (Fin.ofNat 8 g) (Scope.ofCode (fn / 4 % 8)) (Fin.ofNat 4 (fn % 4)) (Fin.ofNat 32 a) (Fin.ofNat 32 b))
  else if fn / 32 = 2 then mk (decide (fn % 32 = 0 ∧ b = 0 ∧ d = 0)) (true) (.pfm (Fin.ofNat 8 g) (Fin.ofNat 32 a))
  else if fn / 32 = 3 then mk (decide (fn % 32 = 0 ∧ b = 0 ∧ d = 0)) (true) (.zero (Fin.ofNat 8 g) (Fin.ofNat 32 a))
  else .error .unassigned

/-- Major 0x15 of Table 6 (R209). -/
def major15 (fn g b a d : Nat) : Except DecodeError Instr :=
  if fn % 4 = 0 then mk (decide (b = 0 ∧ a = 0 ∧ d = 0)) (decide ((fn / 4 % 8) < 5)) (.fence (Fin.ofNat 8 g) (Order.ofCode (fn / 32)) (Scope.ofCode (fn / 4 % 8)))
  else if fn % 4 = 1 then mk (decide (fn / 4 = 0 ∧ b = 0)) (true) (.fencep (Fin.ofNat 8 g) (Fin.ofNat 32 d) (Fin.ofNat 32 a))
  else .error .unassigned

/-- Major 0x16 of Table 6 (R209). -/
def major16 (fn g b a d : Nat) : Except DecodeError Instr :=
  if fn % 4 = 0 then mk (true) (decide ((fn / 4 % 8) < 5)) (.atadd (Fin.ofNat 8 g) (Order.ofCode (fn / 32)) (Scope.ofCode (fn / 4 % 8)) (Fin.ofNat 32 d) (Fin.ofNat 32 a) (Fin.ofNat 32 b))
  else if fn % 4 = 1 then mk (true) (decide ((fn / 4 % 8) < 5)) (.atand (Fin.ofNat 8 g) (Order.ofCode (fn / 32)) (Scope.ofCode (fn / 4 % 8)) (Fin.ofNat 32 d) (Fin.ofNat 32 a) (Fin.ofNat 32 b))
  else if fn % 4 = 2 then mk (true) (decide ((fn / 4 % 8) < 5)) (.ator (Fin.ofNat 8 g) (Order.ofCode (fn / 32)) (Scope.ofCode (fn / 4 % 8)) (Fin.ofNat 32 d) (Fin.ofNat 32 a) (Fin.ofNat 32 b))
  else if fn % 4 = 3 then mk (true) (decide ((fn / 4 % 8) < 5)) (.atxor (Fin.ofNat 8 g) (Order.ofCode (fn / 32)) (Scope.ofCode (fn / 4 % 8)) (Fin.ofNat 32 d) (Fin.ofNat 32 a) (Fin.ofNat 32 b))
  else .error .unassigned

/-- Major 0x17 of Table 6 (R209). -/
def major17 (fn g b a d : Nat) : Except DecodeError Instr :=
  if fn % 4 = 0 then mk (true) (decide ((fn / 4 % 8) < 5)) (.atmin (Fin.ofNat 8 g) (Order.ofCode (fn / 32)) (Scope.ofCode (fn / 4 % 8)) (Fin.ofNat 32 d) (Fin.ofNat 32 a) (Fin.ofNat 32 b))
  else if fn % 4 = 1 then mk (true) (decide ((fn / 4 % 8) < 5)) (.atmax (Fin.ofNat 8 g) (Order.ofCode (fn / 32)) (Scope.ofCode (fn / 4 % 8)) (Fin.ofNat 32 d) (Fin.ofNat 32 a) (Fin.ofNat 32 b))
  else if fn % 4 = 2 then mk (true) (decide ((fn / 4 % 8) < 5)) (.atminn (Fin.ofNat 8 g) (Order.ofCode (fn / 32)) (Scope.ofCode (fn / 4 % 8)) (Fin.ofNat 32 d) (Fin.ofNat 32 a) (Fin.ofNat 32 b))
  else if fn % 4 = 3 then mk (true) (decide ((fn / 4 % 8) < 5)) (.atmaxn (Fin.ofNat 8 g) (Order.ofCode (fn / 32)) (Scope.ofCode (fn / 4 % 8)) (Fin.ofNat 32 d) (Fin.ofNat 32 a) (Fin.ofNat 32 b))
  else .error .unassigned

/-- Major 0x18 of Table 6 (R209). -/
def major18 (fn g b a d : Nat) : Except DecodeError Instr :=
  if fn % 4 = 0 then mk (true) (decide ((fn / 4 % 8) < 5)) (.atswp (Fin.ofNat 8 g) (Order.ofCode (fn / 32)) (Scope.ofCode (fn / 4 % 8)) (Fin.ofNat 32 d) (Fin.ofNat 32 a) (Fin.ofNat 32 b))
  else if fn % 4 = 1 then mk (true) (decide ((fn / 4 % 8) < 5)) (.atcas (Fin.ofNat 8 g) (Order.ofCode (fn / 32)) (Scope.ofCode (fn / 4 % 8)) (Fin.ofNat 32 d) (Fin.ofNat 32 a) (Fin.ofNat 32 b))
  else if fn % 4 = 2 then mk (true) (decide ((fn / 4 % 8) < 5)) (.atfaddFp64 (Fin.ofNat 8 g) (Order.ofCode (fn / 32)) (Scope.ofCode (fn / 4 % 8)) (Fin.ofNat 32 d) (Fin.ofNat 32 a) (Fin.ofNat 32 b))
  else if fn % 4 = 3 then mk (true) (decide ((fn / 4 % 8) < 5)) (.atfaddFp32 (Fin.ofNat 8 g) (Order.ofCode (fn / 32)) (Scope.ofCode (fn / 4 % 8)) (Fin.ofNat 32 d) (Fin.ofNat 32 a) (Fin.ofNat 32 b))
  else .error .unassigned

/-- Major 0x19 of Table 6 (R209). -/
def major19 (fn g b a d : Nat) : Except DecodeError Instr :=
  if fn % 4 = 0 then mk (true) (decide ((fn / 4 % 8) < 5 ∧ b < 16)) (.minit (Fin.ofNat 8 g) (Order.ofCode (fn / 32)) (Scope.ofCode (fn / 4 % 8)) (Fin.ofNat 32 d) (Fin.ofNat 32 a) (Fin.ofNat 16 b))
  else if fn % 4 = 1 then mk (decide (b = 0)) (decide ((fn / 4 % 8) < 5 ∧ d < 16)) (.mread (Fin.ofNat 8 g) (Order.ofCode (fn / 32)) (Scope.ofCode (fn / 4 % 8)) (Fin.ofNat 16 d) (Fin.ofNat 32 a))
  else if fn % 4 = 2 then mk (true) (decide ((fn / 4 % 8) < 5)) (.mcancel (Fin.ofNat 8 g) (Order.ofCode (fn / 32)) (Scope.ofCode (fn / 4 % 8)) (Fin.ofNat 32 d) (Fin.ofNat 32 a) (Fin.ofNat 32 b))
  else .error .unassigned

/-- Major 0x1A of Table 6 (R209). -/
def major1A (fn g b a d : Nat) : Except DecodeError Instr :=
  if fn % 4 = 0 then mk (true) (decide ((fn / 4 % 8) < 5)) (.mctrAdd (Fin.ofNat 8 g) (Order.ofCode (fn / 32)) (Scope.ofCode (fn / 4 % 8)) (Fin.ofNat 32 d) (Fin.ofNat 32 a) (Fin.ofNat 32 b))
  else if fn % 4 = 1 then mk (true) (decide ((fn / 4 % 8) < 5)) (.mctrFadd (Fin.ofNat 8 g) (Order.ofCode (fn / 32)) (Scope.ofCode (fn / 4 % 8)) (Fin.ofNat 32 d) (Fin.ofNat 32 a) (Fin.ofNat 32 b))
  else if fn % 4 = 2 then mk (true) (decide ((fn / 4 % 8) < 5)) (.mctrWait (Fin.ofNat 8 g) (Order.ofCode (fn / 32)) (Scope.ofCode (fn / 4 % 8)) (Fin.ofNat 32 d) (Fin.ofNat 32 a) (Fin.ofNat 32 b))
  else if fn % 4 = 3 then mk (decide (b = 0)) (decide ((fn / 4 % 8) < 5)) (.mctrChunk (Fin.ofNat 8 g) (Order.ofCode (fn / 32)) (Scope.ofCode (fn / 4 % 8)) (Fin.ofNat 32 d) (Fin.ofNat 32 a))
  else .error .unassigned

/-- Major 0x1B of Table 6 (R209). -/
def major1B (fn g b a d : Nat) : Except DecodeError Instr :=
  if fn % 4 = 0 then mk (true) (decide ((fn / 4 % 8) < 5)) (.mbarArrive (Fin.ofNat 8 g) (Order.ofCode (fn / 32)) (Scope.ofCode (fn / 4 % 8)) (Fin.ofNat 32 d) (Fin.ofNat 32 a) (Fin.ofNat 32 b))
  else if fn % 4 = 1 then mk (true) (decide ((fn / 4 % 8) < 5)) (.mbarAwait (Fin.ofNat 8 g) (Order.ofCode (fn / 32)) (Scope.ofCode (fn / 4 % 8)) (Fin.ofNat 32 d) (Fin.ofNat 32 a) (Fin.ofNat 32 b))
  else if fn % 4 = 2 then mk (true) (decide ((fn / 4 % 8) < 5)) (.mbarWaitp (Fin.ofNat 8 g) (Order.ofCode (fn / 32)) (Scope.ofCode (fn / 4 % 8)) (Fin.ofNat 32 d) (Fin.ofNat 32 a) (Fin.ofNat 32 b))
  else .error .unassigned

/-- Major 0x1C of Table 6 (R209). -/
def major1C (fn g b a d : Nat) : Except DecodeError Instr :=
  if fn % 4 = 0 then mk (decide (b = 0)) (decide ((fn / 4 % 8) < 5)) (.mlockAcq (Fin.ofNat 8 g) (Order.ofCode (fn / 32)) (Scope.ofCode (fn / 4 % 8)) (Fin.ofNat 32 d) (Fin.ofNat 32 a))
  else if fn % 4 = 1 then mk (decide (b = 0)) (decide ((fn / 4 % 8) < 5)) (.mlockTry (Fin.ofNat 8 g) (Order.ofCode (fn / 32)) (Scope.ofCode (fn / 4 % 8)) (Fin.ofNat 32 d) (Fin.ofNat 32 a))
  else if fn % 4 = 2 then mk (decide (b = 0)) (decide ((fn / 4 % 8) < 5)) (.mlockRel (Fin.ofNat 8 g) (Order.ofCode (fn / 32)) (Scope.ofCode (fn / 4 % 8)) (Fin.ofNat 32 d) (Fin.ofNat 32 a))
  else .error .unassigned

/-- Major 0x1D of Table 6 (R209). -/
def major1D (fn g b a d : Nat) : Except DecodeError Instr :=
  if fn % 4 = 0 then mk (true) (decide ((fn / 4 % 8) < 5 ∧ b < 16)) (.mqueEnq (Fin.ofNat 8 g) (Order.ofCode (fn / 32)) (Scope.ofCode (fn / 4 % 8)) (Fin.ofNat 32 d) (Fin.ofNat 32 a) (Fin.ofNat 16 b))
  else if fn % 4 = 1 then mk (true) (decide ((fn / 4 % 8) < 5 ∧ b < 16)) (.mqueTenq (Fin.ofNat 8 g) (Order.ofCode (fn / 32)) (Scope.ofCode (fn / 4 % 8)) (Fin.ofNat 32 d) (Fin.ofNat 32 a) (Fin.ofNat 16 b))
  else if fn % 4 = 2 then mk (decide (b = 0)) (decide ((fn / 4 % 8) < 5)) (.mqueEnqr (Fin.ofNat 8 g) (Order.ofCode (fn / 32)) (Scope.ofCode (fn / 4 % 8)) (Fin.ofNat 32 d) (Fin.ofNat 32 a))
  else if fn % 4 = 3 then mk (decide (b = 0)) (decide ((fn / 4 % 8) < 5)) (.mqueTenqr (Fin.ofNat 8 g) (Order.ofCode (fn / 32)) (Scope.ofCode (fn / 4 % 8)) (Fin.ofNat 32 d) (Fin.ofNat 32 a))
  else .error .unassigned

/-- Major 0x1E of Table 6 (R209). -/
def major1E (fn g b a d : Nat) : Except DecodeError Instr :=
  if fn % 4 = 0 then mk (true) (decide ((fn / 4 % 8) < 5)) (.mqueCommit (Fin.ofNat 8 g) (Order.ofCode (fn / 32)) (Scope.ofCode (fn / 4 % 8)) (Fin.ofNat 32 d) (Fin.ofNat 32 a) (Fin.ofNat 32 b))
  else if fn % 4 = 1 then mk (true) (decide ((fn / 4 % 8) < 5 ∧ b < 16)) (.mqueDeq (Fin.ofNat 8 g) (Order.ofCode (fn / 32)) (Scope.ofCode (fn / 4 % 8)) (Fin.ofNat 32 d) (Fin.ofNat 32 a) (Fin.ofNat 16 b))
  else if fn % 4 = 2 then mk (true) (decide ((fn / 4 % 8) < 5 ∧ b < 16)) (.mqueTdeq (Fin.ofNat 8 g) (Order.ofCode (fn / 32)) (Scope.ofCode (fn / 4 % 8)) (Fin.ofNat 32 d) (Fin.ofNat 32 a) (Fin.ofNat 16 b))
  else if fn % 4 = 3 then mk (decide (b = 0)) (decide ((fn / 4 % 8) < 5)) (.mqueDeqr (Fin.ofNat 8 g) (Order.ofCode (fn / 32)) (Scope.ofCode (fn / 4 % 8)) (Fin.ofNat 32 d) (Fin.ofNat 32 a))
  else .error .unassigned

/-- Major 0x1F of Table 6 (R209). -/
def major1F (fn g b a d : Nat) : Except DecodeError Instr :=
  if fn % 4 = 0 then mk (decide (b = 0)) (decide ((fn / 4 % 8) < 5)) (.mqueTdeqr (Fin.ofNat 8 g) (Order.ofCode (fn / 32)) (Scope.ofCode (fn / 4 % 8)) (Fin.ofNat 32 d) (Fin.ofNat 32 a))
  else if fn % 4 = 1 then mk (true) (decide ((fn / 4 % 8) < 5)) (.mqueFree (Fin.ofNat 8 g) (Order.ofCode (fn / 32)) (Scope.ofCode (fn / 4 % 8)) (Fin.ofNat 32 d) (Fin.ofNat 32 a) (Fin.ofNat 32 b))
  else .error .unassigned

/-- Major 0x20 of Table 6 (R209). -/
def major20 (fn g b a d : Nat) : Except DecodeError Instr :=
  if fn % 4 = 0 then mk (decide (b = 0)) (decide ((fn / 4 % 8) < 5)) (.mcondWait (Fin.ofNat 8 g) (Order.ofCode (fn / 32)) (Scope.ofCode (fn / 4 % 8)) (Fin.ofNat 32 d) (Fin.ofNat 32 a))
  else if fn % 4 = 1 then mk (decide (b = 0)) (decide ((fn / 4 % 8) < 5)) (.mcondSig (Fin.ofNat 8 g) (Order.ofCode (fn / 32)) (Scope.ofCode (fn / 4 % 8)) (Fin.ofNat 32 d) (Fin.ofNat 32 a))
  else if fn % 4 = 2 then mk (decide (b = 0)) (decide ((fn / 4 % 8) < 5)) (.mcondBcast (Fin.ofNat 8 g) (Order.ofCode (fn / 32)) (Scope.ofCode (fn / 4 % 8)) (Fin.ofNat 32 d) (Fin.ofNat 32 a))
  else .error .unassigned

/-- Major 0x21 of Table 6 (R209). -/
def major21 (fn g b a d : Nat) : Except DecodeError Instr :=
  if fn % 4 = 0 then mk (decide (fn / 8 = 0 ∧ fn / 4 % 2 = 0 ∧ b = 0 ∧ d = 0)) (true) (.cpy (Fin.ofNat 8 g) (Fin.ofNat 32 a))
  else if fn % 4 = 1 then mk (decide (fn / 8 = 0 ∧ fn / 4 % 2 = 0 ∧ b = 0)) (decide (d < 8)) (.cpynb (Fin.ofNat 8 g) (Fin.ofNat 8 d) (Fin.ofNat 32 a))
  else if fn % 4 = 2 then mk (decide (fn / 8 = 0 ∧ fn / 4 % 2 = 0 ∧ b = 0 ∧ d = 0)) (true) (.cpx (Fin.ofNat 8 g) (Fin.ofNat 32 a))
  else if fn / 4 % 2 = 0 ∧ fn % 4 = 3 then mk (decide (fn / 8 = 0 ∧ b = 0 ∧ a = 0)) (true) (.cpq (Fin.ofNat 8 g) (Fin.ofNat 32 d))
  else if fn / 4 % 2 = 1 ∧ fn % 4 = 3 then mk (decide (fn / 8 = 0 ∧ b = 0)) (true) (.cpqTag (Fin.ofNat 8 g) (Fin.ofNat 32 d) (Fin.ofNat 32 a))
  else .error .unassigned

/-- Major 0x22 of Table 6 (R209). -/
def major22 (fn g b a d : Nat) : Except DecodeError Instr :=
  if fn / 16 = 0 then mk (true) (decide (b < 16 ∧ a < 16 ∧ d < 16)) (.vadd (Fin.ofNat 8 g) (Fmt.ofCode (fn % 16)) (Fin.ofNat 16 d) (Fin.ofNat 16 a) (Fin.ofNat 16 b))
  else if fn / 16 = 1 then mk (true) (decide (b < 16 ∧ a < 16 ∧ d < 16)) (.vsub (Fin.ofNat 8 g) (Fmt.ofCode (fn % 16)) (Fin.ofNat 16 d) (Fin.ofNat 16 a) (Fin.ofNat 16 b))
  else if fn / 16 = 2 then mk (true) (decide (b < 16 ∧ a < 16 ∧ d < 16)) (.vmul (Fin.ofNat 8 g) (Fmt.ofCode (fn % 16)) (Fin.ofNat 16 d) (Fin.ofNat 16 a) (Fin.ofNat 16 b))
  else if fn / 16 = 3 then mk (true) (decide (b < 16 ∧ a < 16 ∧ d < 16)) (.vfma (Fin.ofNat 8 g) (Fmt.ofCode (fn % 16)) (Fin.ofNat 16 d) (Fin.ofNat 16 a) (Fin.ofNat 16 b))
  else if fn / 16 = 4 then mk (true) (decide (b < 16 ∧ a < 16 ∧ d < 16)) (.vfms (Fin.ofNat 8 g) (Fmt.ofCode (fn % 16)) (Fin.ofNat 16 d) (Fin.ofNat 16 a) (Fin.ofNat 16 b))
  else if fn / 16 = 5 then mk (true) (decide (b < 16 ∧ a < 16 ∧ d < 16)) (.vmin (Fin.ofNat 8 g) (Fmt.ofCode (fn % 16)) (Fin.ofNat 16 d) (Fin.ofNat 16 a) (Fin.ofNat 16 b))
  else if fn / 16 = 6 then mk (true) (decide (b < 16 ∧ a < 16 ∧ d < 16)) (.vmax (Fin.ofNat 8 g) (Fmt.ofCode (fn % 16)) (Fin.ofNat 16 d) (Fin.ofNat 16 a) (Fin.ofNat 16 b))
  else if fn / 16 = 7 then mk (true) (decide (b < 16 ∧ a < 16 ∧ d < 16)) (.vdiv (Fin.ofNat 8 g) (Fmt.ofCode (fn % 16)) (Fin.ofNat 16 d) (Fin.ofNat 16 a) (Fin.ofNat 16 b))
  else .error .unassigned

/-- Major 0x23 of Table 6 (R209). -/
def major23 (fn g b a d : Nat) : Except DecodeError Instr :=
  if fn / 16 = 0 then mk (decide (b = 0)) (decide (a < 16 ∧ d < 16)) (.vabs (Fin.ofNat 8 g) (Fmt.ofCode (fn % 16)) (Fin.ofNat 16 d) (Fin.ofNat 16 a))
  else if fn / 16 = 1 then mk (decide (b = 0)) (decide (a < 16 ∧ d < 16)) (.vneg (Fin.ofNat 8 g) (Fmt.ofCode (fn % 16)) (Fin.ofNat 16 d) (Fin.ofNat 16 a))
  else if fn / 16 = 2 then mk (decide (b = 0)) (decide (a < 16 ∧ d < 16)) (.vsqrt (Fin.ofNat 8 g) (Fmt.ofCode (fn % 16)) (Fin.ofNat 16 d) (Fin.ofNat 16 a))
  else if fn / 16 = 3 then mk (decide (b = 0)) (decide (a < 16 ∧ d < 16)) (.vrcp (Fin.ofNat 8 g) (Fmt.ofCode (fn % 16)) (Fin.ofNat 16 d) (Fin.ofNat 16 a))
  else if fn / 16 = 4 then mk (decide (b = 0)) (decide (a < 16 ∧ d < 16)) (.vrsq (Fin.ofNat 8 g) (Fmt.ofCode (fn % 16)) (Fin.ofNat 16 d) (Fin.ofNat 16 a))
  else if fn / 16 = 5 then mk (decide (b = 0)) (decide (a < 16 ∧ d < 16)) (.vexp2 (Fin.ofNat 8 g) (Fmt.ofCode (fn % 16)) (Fin.ofNat 16 d) (Fin.ofNat 16 a))
  else if fn / 16 = 6 then mk (decide (b = 0)) (decide (a < 16 ∧ d < 16)) (.vlog2 (Fin.ofNat 8 g) (Fmt.ofCode (fn % 16)) (Fin.ofNat 16 d) (Fin.ofNat 16 a))
  else if fn / 16 = 7 then mk (decide (b = 0)) (decide (a < 16 ∧ d < 16)) (.vmov (Fin.ofNat 8 g) (Fmt.ofCode (fn % 16)) (Fin.ofNat 16 d) (Fin.ofNat 16 a))
  else .error .unassigned

/-- Major 0x24 of Table 6 (R209). -/
def major24 (fn g b a d : Nat) : Except DecodeError Instr :=
  if fn / 16 = 0 then mk (true) (decide (fn % 16 = 0 ∧ b < 16 ∧ a < 16 ∧ d < 16)) (.vand (Fin.ofNat 8 g) (Fin.ofNat 16 d) (Fin.ofNat 16 a) (Fin.ofNat 16 b))
  else if fn / 16 = 1 then mk (true) (decide (fn % 16 = 0 ∧ b < 16 ∧ a < 16 ∧ d < 16)) (.vor (Fin.ofNat 8 g) (Fin.ofNat 16 d) (Fin.ofNat 16 a) (Fin.ofNat 16 b))
  else if fn / 16 = 2 then mk (true) (decide (fn % 16 = 0 ∧ b < 16 ∧ a < 16 ∧ d < 16)) (.vxor (Fin.ofNat 8 g) (Fin.ofNat 16 d) (Fin.ofNat 16 a) (Fin.ofNat 16 b))
  else if fn / 16 = 3 then mk (true) (decide (b < 16 ∧ a < 16 ∧ d < 16)) (.vshl (Fin.ofNat 8 g) (Fmt.ofCode (fn % 16)) (Fin.ofNat 16 d) (Fin.ofNat 16 a) (Fin.ofNat 16 b))
  else if fn / 16 = 4 then mk (true) (decide (b < 16 ∧ a < 16 ∧ d < 16)) (.vshr (Fin.ofNat 8 g) (Fmt.ofCode (fn % 16)) (Fin.ofNat 16 d) (Fin.ofNat 16 a) (Fin.ofNat 16 b))
  else if fn / 16 = 5 then mk (true) (decide (b < 16 ∧ a < 16 ∧ d < 16)) (.vsar (Fin.ofNat 8 g) (Fmt.ofCode (fn % 16)) (Fin.ofNat 16 d) (Fin.ofNat 16 a) (Fin.ofNat 16 b))
  else if fn / 16 = 6 then mk (true) (decide (b < 16 ∧ a < 16 ∧ d < 16)) (.vrotl (Fin.ofNat 8 g) (Fmt.ofCode (fn % 16)) (Fin.ofNat 16 d) (Fin.ofNat 16 a) (Fin.ofNat 16 b))
  else .error .unassigned

/-- Major 0x25 of Table 6 (R209). -/
def major25 (fn g b a d : Nat) : Except DecodeError Instr :=
  mk (true) (decide ((fn / 16) < 7 ∧ b < 16 ∧ a < 16 ∧ d < 8)) (.vcmp (Fin.ofNat 8 g) (Cond.ofCode (fn / 16)) (Fmt.ofCode (fn % 16)) (Fin.ofNat 8 d) (Fin.ofNat 16 a) (Fin.ofNat 16 b))

/-- Major 0x26 of Table 6 (R209). -/
def major26 (fn g b a d : Nat) : Except DecodeError Instr :=
  mk (decide (fn / 16 = 0 ∧ b / 16 = 0)) (decide (a < 16 ∧ d < 16)) (.vcvt (Fin.ofNat 8 g) (Fmt.ofCode (fn % 16)) (Fmt.ofCode (b % 16)) (Fin.ofNat 16 d) (Fin.ofNat 16 a))

/-- Major 0x27 of Table 6 (R209). -/
def major27 (fn g b a d : Nat) : Except DecodeError Instr :=
  if fn / 16 = 0 then mk (true) (decide ((b / 8) < 3 ∧ a < 16 ∧ d < 16)) (.vdec8 (Fin.ofNat 8 g) (Fmt.ofCode (fn % 16)) (Fin.ofNat 3 (b / 8)) (Fin.ofNat 8 (b % 8)) (Fin.ofNat 16 d) (Fin.ofNat 16 a))
  else if fn / 16 = 1 then mk (true) (decide ((b / 8) < 3 ∧ a < 16 ∧ d < 16)) (.venc8 (Fin.ofNat 8 g) (Fmt.ofCode (fn % 16)) (Fin.ofNat 3 (b / 8)) (Fin.ofNat 8 (b % 8)) (Fin.ofNat 16 d) (Fin.ofNat 16 a))
  else if fn / 16 = 2 then mk (decide (fn % 16 = 0 ∧ b = 0 ∧ d = 0)) (decide (a < 16)) (.tblld (Fin.ofNat 8 g) (Fin.ofNat 16 a))
  else .error .unassigned

/-- Major 0x28 of Table 6 (R209). -/
def major28 (fn g b a d : Nat) : Except DecodeError Instr :=
  if fn / 16 = 0 then mk (true) (decide (b < 16 ∧ a < 16 ∧ d < 16)) (.vperm (Fin.ofNat 8 g) (Fmt.ofCode (fn % 16)) (Fin.ofNat 16 d) (Fin.ofNat 16 a) (Fin.ofNat 16 b))
  else if fn / 16 = 1 then mk (true) (decide (a < 16 ∧ d < 16)) (.vbcast (Fin.ofNat 8 g) (Fmt.ofCode (fn % 16)) (Fin.ofNat 16 d) (Fin.ofNat 16 a) (Fin.ofNat 32 b))
  else if fn / 16 = 2 then mk (decide (b = 0)) (decide (d < 16)) (.vsplat (Fin.ofNat 8 g) (Fmt.ofCode (fn % 16)) (Fin.ofNat 16 d) (Fin.ofNat 32 a))
  else if fn / 16 = 3 then mk (true) (decide (a < 16)) (.vext (Fin.ofNat 8 g) (Fmt.ofCode (fn % 16)) (Fin.ofNat 32 d) (Fin.ofNat 16 a) (Fin.ofNat 32 b))
  else if fn / 16 = 4 then mk (true) (decide (d < 16)) (.vins (Fin.ofNat 8 g) (Fmt.ofCode (fn % 16)) (Fin.ofNat 16 d) (Fin.ofNat 32 a) (Fin.ofNat 32 b))
  else if fn / 16 = 5 then mk (decide (fn / 8 % 2 = 0)) (decide (b < 16 ∧ a < 16 ∧ d < 16)) (.vsel (Fin.ofNat 8 g) (Fin.ofNat 8 (fn % 8)) (Fin.ofNat 16 d) (Fin.ofNat 16 a) (Fin.ofNat 16 b))
  else if fn / 16 = 6 then mk (decide (fn % 16 = 0 ∧ b = 0 ∧ a = 0)) (decide (d < 16)) (.vclr (Fin.ofNat 8 g) (Fin.ofNat 16 d))
  else .error .unassigned

/-- Major 0x29 of Table 6 (R209). -/
def major29 (fn g b a d : Nat) : Except DecodeError Instr :=
  if b % 2 = 0 ∧ (fn / 16) < 7 then mk (decide (b / 2 = 0)) (decide (a < 16)) (.vred (Fin.ofNat 8 g) (RedOp.ofCode (fn / 16)) (Fmt.ofCode (fn % 16)) (Fin.ofNat 32 d) (Fin.ofNat 16 a))
  else if b % 2 = 1 ∧ (fn / 16) < 7 then mk (decide (b / 2 = 0)) (decide (a < 16 ∧ d < 16)) (.vscan (Fin.ofNat 8 g) (RedOp.ofCode (fn / 16)) (Fmt.ofCode (fn % 16)) (Fin.ofNat 16 d) (Fin.ofNat 16 a))
  else .error .unassigned

/-- Major 0x2A of Table 6 (R209). -/
def major2A (fn g b a d : Nat) : Except DecodeError Instr :=
  if fn / 16 = 0 then mk (true) (decide (fn % 16 = 5 ∧ b < 16 ∧ a < 16 ∧ d < 16)) (.vcmul (Fin.ofNat 8 g) (Fin.ofNat 16 d) (Fin.ofNat 16 a) (Fin.ofNat 16 b))
  else if fn / 16 = 1 then mk (true) (decide (fn % 16 = 5 ∧ b < 16 ∧ a < 16 ∧ d < 16)) (.vcfma (Fin.ofNat 8 g) (Fin.ofNat 16 d) (Fin.ofNat 16 a) (Fin.ofNat 16 b))
  else .error .unassigned

/-- Major 0x2B of Table 6 (R209). -/
def major2B (fn g b a d : Nat) : Except DecodeError Instr :=
  mk (true) (decide (d < 16)) (.vld (Fin.ofNat 8 g) (BitVec.ofNat 8 ((fn / 16) * 32 + b)) (Fmt.ofCode (fn % 16)) (Fin.ofNat 16 d) (Fin.ofNat 32 a))

/-- Major 0x2C of Table 6 (R209). -/
def major2C (fn g b a d : Nat) : Except DecodeError Instr :=
  mk (true) (decide (d < 16)) (.vst (Fin.ofNat 8 g) (BitVec.ofNat 8 ((fn / 16) * 32 + b)) (Fmt.ofCode (fn % 16)) (Fin.ofNat 16 d) (Fin.ofNat 32 a))

/-- Major 0x2D of Table 6 (R209). -/
def major2D (fn g b a d : Nat) : Except DecodeError Instr :=
  if fn / 16 = 0 then mk (true) (decide (d < 16)) (.vlds (Fin.ofNat 8 g) (Fmt.ofCode (fn % 16)) (Fin.ofNat 16 d) (Fin.ofNat 32 a) (Fin.ofNat 32 b))
  else if fn / 16 = 1 then mk (true) (decide (d < 16)) (.vsts (Fin.ofNat 8 g) (Fmt.ofCode (fn % 16)) (Fin.ofNat 16 d) (Fin.ofNat 32 a) (Fin.ofNat 32 b))
  else if fn / 16 = 2 then mk (true) (decide (b < 16 ∧ d < 16)) (.vldx (Fin.ofNat 8 g) (Fmt.ofCode (fn % 16)) (Fin.ofNat 16 d) (Fin.ofNat 32 a) (Fin.ofNat 16 b))
  else if fn / 16 = 3 then mk (true) (decide (b < 16 ∧ d < 16)) (.vstx (Fin.ofNat 8 g) (Fmt.ofCode (fn % 16)) (Fin.ofNat 16 d) (Fin.ofNat 32 a) (Fin.ofNat 16 b))
  else if fn / 16 = 4 then mk (true) (decide (a < 16 ∧ d < 16)) (.vldt (Fin.ofNat 8 g) (Fmt.ofCode (fn % 16)) (Fin.ofNat 16 d) (Fin.ofNat 16 a) (Fin.ofNat 32 b))
  else if fn / 16 = 5 then mk (true) (decide (a < 16 ∧ d < 16)) (.vstt (Fin.ofNat 8 g) (Fmt.ofCode (fn % 16)) (Fin.ofNat 16 d) (Fin.ofNat 16 a) (Fin.ofNat 32 b))
  else .error .unassigned

/-- Major 0x2E of Table 6 (R209). -/
def major2E (fn g b a d : Nat) : Except DecodeError Instr :=
  if fn / 16 = 0 then mk (decide (fn % 16 = 0 ∧ b / 16 = 0)) (decide (d < 16)) (.vsave (Fin.ofNat 8 g) (Fin.ofNat 16 (b % 16)) (Fin.ofNat 16 d) (Fin.ofNat 32 a))
  else if fn / 16 = 1 then mk (decide (fn % 16 = 0 ∧ b / 16 = 0)) (decide (d < 16)) (.vload (Fin.ofNat 8 g) (Fin.ofNat 16 (b % 16)) (Fin.ofNat 16 d) (Fin.ofNat 32 a))
  else .error .unassigned

/-- Major 0x2F of Table 6 (R209). -/
def major2F (fn g b a d : Nat) : Except DecodeError Instr :=
  if fn / 16 = 0 then mk (true) (decide (a < 16 ∧ d < 2)) (.setst (Fin.ofNat 8 g) (Fmt.ofCode (fn % 16)) (decide ((b / 16) = 1)) (Fin.ofNat 16 (b % 16)) (Fin.ofNat 2 d) (Fin.ofNat 16 a))
  else if fn / 16 = 1 then mk (decide (fn % 16 = 0 ∧ b = 0 ∧ a = 0)) (decide (d < 2)) (.relst (Fin.ofNat 8 g) (Fin.ofNat 2 d))
  else if fn / 16 = 2 then mk (decide (fn % 16 = 0 ∧ b = 0 ∧ a = 0)) (decide (d < 4)) (.aclr (Fin.ofNat 8 g) (Fin.ofNat 4 d))
  else if fn / 16 = 3 then mk (decide (b = 0)) (decide (a < 4 ∧ d < 16)) (.ast (Fin.ofNat 8 g) (Fmt.ofCode (fn % 16)) (Fin.ofNat 16 d) (Fin.ofNat 4 a))
  else if fn / 16 = 4 then mk (decide (b / 8 = 0)) (decide (0 < (b % 8) ∧ (b % 8) < 6 ∧ a < 16 ∧ d < 4)) (.ald (Fin.ofNat 8 g) (Fmt.ofCode (fn % 16)) (AccMode.ofCode (b % 8)) (Fin.ofNat 4 d) (Fin.ofNat 16 a))
  else .error .unassigned

/-- Major 0x30 of Table 6 (R209). -/
def major30 (fn g b a d : Nat) : Except DecodeError Instr :=
  if fn / 16 = 0 then mk (decide (b / 16 = 0)) (decide (a < 16 ∧ d < 4)) (.mma (Fin.ofNat 8 g) (Fmt.ofCode (fn % 16)) (Fin.ofNat 16 (b % 16)) (Fin.ofNat 4 d) (Fin.ofNat 16 a))
  else if fn / 16 = 1 then mk (decide (b / 16 = 0)) (decide (a < 16 ∧ d < 4)) (.mmag (Fin.ofNat 8 g) (Fmt.ofCode (fn % 16)) (Fin.ofNat 16 (b % 16)) (Fin.ofNat 4 d) (Fin.ofNat 16 a))
  else if fn / 16 = 2 ∧ b / 16 = 0 then mk (true) (decide (a < 16 ∧ d < 4)) (.mrot (Fin.ofNat 8 g) (Fmt.ofCode (fn % 16)) (Fin.ofNat 16 (b % 16)) (Fin.ofNat 4 d) (Fin.ofNat 16 a))
  else if fn / 16 = 2 ∧ b / 16 = 1 then mk (decide (a = 0)) (decide (d < 4)) (.mrotBuf (Fin.ofNat 8 g) (Fmt.ofCode (fn % 16)) (Fin.ofNat 16 (b % 16)) (Fin.ofNat 4 d))
  else .error .unassigned

/-- Major 0x31 of Table 6 (R209). -/
def major31 (fn g b a d : Nat) : Except DecodeError Instr :=
  if fn / 16 = 0 then mk (decide (fn % 16 = 0)) (true) (.floado (Fin.ofNat 8 g) (Fin.ofNat 32 d) (Fin.ofNat 32 a) (Fin.ofNat 32 b))
  else if fn / 16 = 1 then mk (decide (fn % 16 = 0)) (true) (.fstart (Fin.ofNat 8 g) (Fin.ofNat 32 d) (Fin.ofNat 32 a) (Fin.ofNat 32 b))
  else if fn / 16 = 2 then mk (decide (fn % 16 = 0)) (true) (.fcmd (Fin.ofNat 8 g) (Fin.ofNat 32 d) (Fin.ofNat 32 a) (Fin.ofNat 32 b))
  else if fn / 16 = 3 then mk (decide (fn % 16 = 0 ∧ b = 0)) (true) (.fred (Fin.ofNat 8 g) (Fin.ofNat 32 d) (Fin.ofNat 32 a))
  else .error .unassigned

/-- Major 0x32 of Table 6 (R209). -/
def major32 (fn g b a d : Nat) : Except DecodeError Instr :=
  if fn / 16 = 0 then mkUnit g (decide (b = 0 ∧ d = 0)) (decide (a < 16)) (.fopen (Fin.ofNat 16 (fn % 16)) (Fin.ofNat 16 a))
  else if fn / 16 = 1 then mkUnit g (decide (b = 0 ∧ d = 0)) (decide (a < 16)) (.facc (Fin.ofNat 16 (fn % 16)) (Fin.ofNat 16 a))
  else if fn / 16 = 2 then mkUnit g (decide (b = 0 ∧ d = 0)) (decide (a < 16)) (.faccf (Fin.ofNat 16 (fn % 16)) (Fin.ofNat 16 a))
  else if fn / 16 = 3 then mkUnit g (decide (b = 0)) (decide (a < 16 ∧ d < 16)) (.frdo (Fin.ofNat 16 (fn % 16)) (Fin.ofNat 16 d) (Fin.ofNat 16 a))
  else if fn / 16 = 4 then mkUnit g (decide (b = 0 ∧ a = 0 ∧ d = 0)) (true) (.fclra (Fin.ofNat 16 (fn % 16)))
  else if fn / 16 = 5 then mkUnit g (decide (fn % 16 = 0 ∧ b = 0 ∧ d = 0)) (decide (a < 16)) (.freply (Fin.ofNat 16 a))
  else if fn / 16 = 6 then mkUnit g (decide (fn % 16 = 0 ∧ b = 0 ∧ a = 0)) (decide (d < 16)) (.fwaitc (Fin.ofNat 16 d))
  else .error .unassigned

/-- Major 0x33 of Table 6 (R209). -/
def major33 (fn g b a d : Nat) : Except DecodeError Instr :=
  if fn / 16 = 0 then mk (decide (fn % 16 = 0 ∧ b = 0 ∧ a = 0)) (decide (d < 8)) (.send (Fin.ofNat 8 g) (Fin.ofNat 8 d))
  else if fn / 16 = 1 then mk (decide (fn % 16 = 0 ∧ b = 0 ∧ a = 0 ∧ d = 0)) (true) (.sendt (Fin.ofNat 8 g))
  else if fn / 16 = 2 then mk (decide (fn % 16 = 0 ∧ b = 0 ∧ a = 0)) (decide (d < 8)) (.sendr (Fin.ofNat 8 g) (Fin.ofNat 8 d))
  else if fn / 16 = 3 then mk (decide (fn % 16 = 0 ∧ b = 0 ∧ a = 0 ∧ d = 0)) (true) (.bclr (Fin.ofNat 8 g))
  else if fn / 16 = 4 then mk (decide (fn % 16 = 0 ∧ b = 0 ∧ a = 0)) (decide (d < 8)) (.dqpush (Fin.ofNat 8 g) (Fin.ofNat 8 d))
  else if fn / 16 = 5 then mk (decide (fn % 16 = 0 ∧ b = 0 ∧ a = 0)) (decide (d < 8)) (.dqpop (Fin.ofNat 8 g) (Fin.ofNat 8 d))
  else if fn / 16 = 6 then mk (decide (fn % 16 = 0 ∧ b = 0)) (decide (d < 8)) (.dqsteal (Fin.ofNat 8 g) (Fin.ofNat 8 d) (Fin.ofNat 32 a))
  else .error .unassigned

/-- Major 0x34 of Table 6 (R209). -/
def major34 (fn g b a d : Nat) : Except DecodeError Instr :=
  if fn / 16 = 0 then mk (decide (fn % 16 = 0 ∧ b = 0)) (true) (.hodnew (Fin.ofNat 8 g) (Fin.ofNat 32 d) (Fin.ofNat 32 a))
  else if fn / 16 = 1 then mk (decide (fn % 16 = 0 ∧ b = 0 ∧ d = 0)) (true) (.hodnext (Fin.ofNat 8 g) (Fin.ofNat 32 a))
  else if fn / 16 = 2 then mk (decide (d = 0)) (decide ((fn % 16) < 8)) (.hodset (Fin.ofNat 8 g) (Fin.ofNat 8 (fn % 16)) (Fin.ofNat 32 a) (Fin.ofNat 32 b))
  else if fn / 16 = 3 then mk (decide (d = 0)) (decide ((fn % 16) < 8)) (.hodins (Fin.ofNat 8 g) (Fin.ofNat 8 (fn % 16)) (Fin.ofNat 32 a) (Fin.ofNat 32 b))
  else if fn / 16 = 4 then mk (decide (b = 0 ∧ d = 0)) (decide ((fn % 16) < 8)) (.hoddel (Fin.ofNat 8 g) (Fin.ofNat 8 (fn % 16)) (Fin.ofNat 32 a))
  else if fn / 16 = 5 then mk (decide (b = 0)) (true) (.hodget (Fin.ofNat 8 g) (Fin.ofNat 16 (fn % 16)) (Fin.ofNat 32 d) (Fin.ofNat 32 a))
  else if fn / 16 = 6 then mk (decide (fn % 16 = 0 ∧ d = 0)) (true) (.hodpark (Fin.ofNat 8 g) (Fin.ofNat 32 a) (Fin.ofNat 32 b))
  else if fn / 16 = 7 then mk (decide (fn % 16 = 0 ∧ b = 0 ∧ d = 0)) (true) (.hodresume (Fin.ofNat 8 g) (Fin.ofNat 32 a))
  else .error .unassigned

/-- Major 0x35 of Table 6 (R209). -/
def major35 (fn g b a d : Nat) : Except DecodeError Instr :=
  mk (decide (d = 0)) (true) (.br (Fin.ofNat 8 g) (decide ((fn / 64) = 1)) (BitVec.ofNat 16 ((fn % 64) * 1024 + b * 32 + a)))

/-- Major 0x36 of Table 6 (R209). -/
def major36 (fn g b a d : Nat) : Except DecodeError Instr :=
  mk (decide (fn / 64 = 0)) (true) (.call (Fin.ofNat 8 g) (BitVec.ofNat 16 ((fn % 64) * 1024 + b * 32 + a)) (Fin.ofNat 32 d))

/-- Major 0x37 of Table 6 (R209). -/
def major37 (fn g b a d : Nat) : Except DecodeError Instr :=
  mk (decide (d = 0)) (true) (.loop (Fin.ofNat 8 g) (BitVec.ofNat 12 (fn * 32 + b)) (Fin.ofNat 32 a))

/-- Major 0x38 of Table 6 (R209). -/
def major38 (fn g b a d : Nat) : Except DecodeError Instr :=
  if fn = 0 then mk (decide (b = 0 ∧ a = 0 ∧ d = 0)) (true) (.nop)
  else if fn = 1 then mk (decide (b = 0 ∧ a = 0 ∧ d = 0)) (true) (.endAct (Fin.ofNat 8 g))
  else if fn = 2 then mk (decide (b = 0 ∧ a = 0 ∧ d = 0)) (true) (.yield (Fin.ofNat 8 g))
  else if fn = 3 then mk (decide (b = 0 ∧ a = 0 ∧ d = 0)) (true) (.brk (Fin.ofNat 8 g))
  else if fn = 4 then mk (decide (b = 0)) (true) (.calli (Fin.ofNat 8 g) (Fin.ofNat 32 d) (Fin.ofNat 32 a))
  else if fn = 5 then mk (decide (b = 0 ∧ d = 0)) (true) (.jr (Fin.ofNat 8 g) (Fin.ofNat 32 a))
  else if fn = 6 then mk (decide (b = 0 ∧ d = 0)) (true) (.ret (Fin.ofNat 8 g) (Fin.ofNat 32 a))
  else .error .unassigned

/-- Major 0x39 of Table 6 (R209). -/
def major39 (fn g b a d : Nat) : Except DecodeError Instr :=
  if fn / 16 = 0 then mk (decide (fn % 16 = 0 ∧ b = 0 ∧ d = 0)) (true) (.gang (Fin.ofNat 8 g) (Fin.ofNat 32 a))
  else if fn / 16 = 1 then mk (decide (fn % 16 = 0 ∧ b = 0 ∧ a = 0 ∧ d = 0)) (true) (.ungang (Fin.ofNat 8 g))
  else if fn / 16 = 2 then mk (decide (fn % 16 = 0 ∧ b = 0 ∧ a = 0 ∧ d = 0)) (true) (.follow (Fin.ofNat 8 g))
  else if fn / 16 = 3 then mk (decide (fn % 16 = 0 ∧ b = 0 ∧ a = 0 ∧ d = 0)) (true) (.detach (Fin.ofNat 8 g))
  else if fn / 16 = 4 then mk (decide (b = 0 ∧ a = 0 ∧ d = 0)) (true) (.rejoin (Fin.ofNat 8 g) (Fin.ofNat 16 (fn % 16)))
  else .error .unassigned

/-- Major 0x3A of Table 6 (R209). -/
def major3A (fn g b a d : Nat) : Except DecodeError Instr :=
  if fn / 8 = 0 then mk (decide (fn % 8 = 0 ∧ b = 0 ∧ d = 0)) (true) (.trap (Fin.ofNat 8 g) (Fin.ofNat 32 a))
  else if fn / 8 = 1 then mk (decide (fn % 8 = 0 ∧ b = 0 ∧ d = 0)) (true) (.svc (Fin.ofNat 8 g) (Fin.ofNat 32 a))
  else if fn / 8 = 2 then mk (decide (fn % 8 = 0 ∧ b = 0 ∧ d = 0)) (true) (.rte (Fin.ofNat 8 g) (Fin.ofNat 32 a))
  else if fn / 8 = 3 then mk (decide (fn % 8 = 0)) (true) (.resume (Fin.ofNat 8 g) (Fin.ofNat 32 d) (Fin.ofNat 32 a) (Fin.ofNat 32 b))
  else if fn / 8 = 4 then mk (decide (fn % 8 = 0)) (true) (.preempt (Fin.ofNat 8 g) (Fin.ofNat 32 d) (Fin.ofNat 32 a) (Fin.ofNat 32 b))
  else if fn / 8 = 5 then mk (decide (fn % 8 = 0 ∧ b = 0)) (true) (.waitx (Fin.ofNat 8 g) (Fin.ofNat 32 d) (Fin.ofNat 32 a))
  else if fn / 8 = 6 then mk (true) (decide ((fn % 8) < 5)) (.tlbinv (Fin.ofNat 8 g) (Scope.ofCode (fn % 8)) (Fin.ofNat 32 d) (Fin.ofNat 32 a) (Fin.ofNat 32 b))
  else if fn / 8 = 7 then mk (decide (fn % 8 = 0 ∧ d = 0)) (true) (.rtset (Fin.ofNat 8 g) (Fin.ofNat 32 a) (Fin.ofNat 32 b))
  else if fn / 8 = 8 then mk (decide (fn % 8 = 0)) (true) (.ctxsave (Fin.ofNat 8 g) (Fin.ofNat 32 d) (Fin.ofNat 32 a) (Fin.ofNat 32 b))
  else if fn / 8 = 9 then mk (decide (fn % 8 = 0)) (true) (.ctxload (Fin.ofNat 8 g) (Fin.ofNat 32 d) (Fin.ofNat 32 a) (Fin.ofNat 32 b))
  else .error .unassigned

/-- The majors of 32-bit instructions (R209, Table 6), IMMX apart (R206). -/
def raw32 (mj fn g b a d : Nat) : Except DecodeError Instr :=
  match mj with
  | 0x01 => major01 fn g b a d
  | 0x02 => major02 fn g b a d
  | 0x03 => major03 fn g b a d
  | 0x04 => major04 fn g b a d
  | 0x05 => major05 fn g b a d
  | 0x06 => major06 fn g b a d
  | 0x07 => major07 fn g b a d
  | 0x08 => major08 fn g b a d
  | 0x09 => major09 fn g b a d
  | 0x0A => major0A fn g b a d
  | 0x0B => major0B fn g b a d
  | 0x0C => major0C fn g b a d
  | 0x0D => major0D fn g b a d
  | 0x10 => major10 fn g b a d
  | 0x11 => major11 fn g b a d
  | 0x12 => major12 fn g b a d
  | 0x13 => major13 fn g b a d
  | 0x14 => major14 fn g b a d
  | 0x15 => major15 fn g b a d
  | 0x16 => major16 fn g b a d
  | 0x17 => major17 fn g b a d
  | 0x18 => major18 fn g b a d
  | 0x19 => major19 fn g b a d
  | 0x1A => major1A fn g b a d
  | 0x1B => major1B fn g b a d
  | 0x1C => major1C fn g b a d
  | 0x1D => major1D fn g b a d
  | 0x1E => major1E fn g b a d
  | 0x1F => major1F fn g b a d
  | 0x20 => major20 fn g b a d
  | 0x21 => major21 fn g b a d
  | 0x22 => major22 fn g b a d
  | 0x23 => major23 fn g b a d
  | 0x24 => major24 fn g b a d
  | 0x25 => major25 fn g b a d
  | 0x26 => major26 fn g b a d
  | 0x27 => major27 fn g b a d
  | 0x28 => major28 fn g b a d
  | 0x29 => major29 fn g b a d
  | 0x2A => major2A fn g b a d
  | 0x2B => major2B fn g b a d
  | 0x2C => major2C fn g b a d
  | 0x2D => major2D fn g b a d
  | 0x2E => major2E fn g b a d
  | 0x2F => major2F fn g b a d
  | 0x30 => major30 fn g b a d
  | 0x31 => major31 fn g b a d
  | 0x32 => major32 fn g b a d
  | 0x33 => major33 fn g b a d
  | 0x34 => major34 fn g b a d
  | 0x35 => major35 fn g b a d
  | 0x36 => major36 fn g b a d
  | 0x37 => major37 fn g b a d
  | 0x38 => major38 fn g b a d
  | 0x39 => major39 fn g b a d
  | 0x3A => major3A fn g b a d
  | _ => .error .unassigned

/-- The 16-bit forms (R208, Table 5). -/
def raw16 (mj i5 q p : Nat) : Except DecodeError Instr :=
  match mj with
  | 1 => mk (decide (i5 = 0)) true (.movC (Fin.ofNat 8 p) (Fin.ofNat 8 q))
  | 2 =>
    if i5 = 0 then mk (true) true (.addC (Fin.ofNat 8 p) (Fin.ofNat 8 q))
    else if i5 = 1 then mk (true) true (.subC (Fin.ofNat 8 p) (Fin.ofNat 8 q))
    else if i5 = 2 then mk (true) true (.andC (Fin.ofNat 8 p) (Fin.ofNat 8 q))
    else if i5 = 3 then mk (true) true (.orC (Fin.ofNat 8 p) (Fin.ofNat 8 q))
    else if i5 = 4 then mk (true) true (.xorC (Fin.ofNat 8 p) (Fin.ofNat 8 q))
    else if i5 = 5 then mk (true) true (.shlC (Fin.ofNat 8 p) (Fin.ofNat 8 q))
    else if i5 = 6 then mk (true) true (.shrC (Fin.ofNat 8 p) (Fin.ofNat 8 q))
    else if i5 = 7 then mk (true) true (.sarC (Fin.ofNat 8 p) (Fin.ofNat 8 q))
    else if i5 = 8 then mk (true) true (.mulC (Fin.ofNat 8 p) (Fin.ofNat 8 q))
    else .error .unassigned
  | 3 => mk (true) true (.addiC (BitVec.ofNat 5 i5) (Fin.ofNat 8 p) (Fin.ofNat 8 q))
  | 4 => mk (true) true (.moviC (BitVec.ofNat 8 (i5 * 8 + q)) (Fin.ofNat 8 p))
  | 5 => mk (true) true (.ld64C (Fin.ofNat 32 i5) (Fin.ofNat 8 p) (Fin.ofNat 8 q))
  | 6 => mk (true) true (.st64C (Fin.ofNat 32 i5) (Fin.ofNat 8 p) (Fin.ofNat 8 q))
  | 7 => mk (true) true (.ld32C (Fin.ofNat 32 i5) (Fin.ofNat 8 p) (Fin.ofNat 8 q))
  | 8 => mk (true) true (.st32C (Fin.ofNat 32 i5) (Fin.ofNat 8 p) (Fin.ofNat 8 q))
  | 9 => mk (true) true (.brC (BitVec.ofNat 11 (i5 * 64 + q * 8 + p)))
  | 10 => mk (true) true (.shliC (Fin.ofNat 32 i5) (Fin.ofNat 8 p) (Fin.ofNat 8 q))
  | 11 =>
    if i5 = 0 then mk (true) true (.vaddC (Fin.ofNat 8 p) (Fin.ofNat 8 q))
    else if i5 = 1 then mk (true) true (.vsubC (Fin.ofNat 8 p) (Fin.ofNat 8 q))
    else if i5 = 2 then mk (true) true (.vmulC (Fin.ofNat 8 p) (Fin.ofNat 8 q))
    else if i5 = 3 then mk (true) true (.vmovC (Fin.ofNat 8 p) (Fin.ofNat 8 q))
    else if i5 = 4 then mk (decide (q = 0)) true (.vclrC (Fin.ofNat 8 p))
    else .error .unassigned
  | 12 => mk (true) true (.vldC (Fin.ofNat 32 i5) (Fin.ofNat 8 p) (Fin.ofNat 8 q))
  | 13 => mk (true) true (.vstC (Fin.ofNat 32 i5) (Fin.ofNat 8 p) (Fin.ofNat 8 q))
  | 14 =>
    if i5 = 0 then mk (decide (q = 0 ∧ p = 0)) true (.nopC)
    else if i5 = 1 then mk (decide (q = 0 ∧ p = 0)) true (.endC)
    else if i5 = 2 then mk (decide (q = 0 ∧ p = 0)) true (.yieldC)
    else if i5 = 3 then mk (decide (q = 0)) true (.jrC (Fin.ofNat 8 p))
    else if i5 = 4 then mk (decide (q = 0 ∧ p = 0)) true (.brkC)
    else .error .unassigned
  | 15 =>
    if (i5 * 8 + q) ≠ 0 then mk (true) true (.loopC (Fin.ofNat 256 (i5 * 8 + q)) (Fin.ofNat 8 p))
    else .error .unassigned
  | _ => .error .unassigned

/-- Bits [31:25], [24:22], [21:17], [16:12] and [11:7] of the 32-bit frame (R202, Table 1). -/
def word32Of (w : Nat) : Except DecodeError Instr :=
  if w / 8 % 16 = 15 then .ok (.immx (BitVec.ofNat 27 (w / 128 % 33554432 * 4 + w / 2 % 4)))
  else raw32 (w / 2 % 64) (w / 33554432 % 128) (w / 4194304 % 8) (w / 131072 % 32) (w / 4096 % 32) (w / 128 % 32)

/-- Bits [15:11], [10:8], [7:5] and [4:1] of a 16-bit form (R208, Table 5). -/
def word16Of (w : Nat) : Except DecodeError Instr :=
  raw16 (w / 2 % 16) (w / 2048 % 32) (w / 256 % 8) (w / 32 % 8)

/-- Operands in class for the processor: R204 and R214 give detail 0x02, R210 gives detail 0x05. -/
def classed (p : Proc) (i : Instr) : Except DecodeError Instr :=
  if WellFormed p i then .ok i
  else match p with
    | .strand => .error .outOfClass
    | .footing => .error .repertoire

/-- Every g field is 0 on a footing core (R210); 16-bit forms and IMMX have no g field (R205). -/
def guardAllowed (p : Proc) (w : Nat) : Bool :=
  match p with
  | .strand => true
  | .footing => decide (w % 2 = 0 ∨ w / 8 % 16 = 15 ∨ w / 4194304 % 8 = 0)

/-- An instruction whose first halfword is at the low end of w (R200): bit 0 gives its length. -/
def decodeWord (p : Proc) (w : Nat) : Except DecodeError Instr :=
  match (if w % 2 = 1 then word32Of w else word16Of w) with
  | .error e => .error e
  | .ok i => if guardAllowed p w then classed p i else .error .repertoire

end Decoding

/-- Bytes of an instruction whose first byte is b: bit 0 of the first halfword gives the length (R200). -/
def lengthOf (b : Byte) : Nat := if b.toNat % 2 = 1 then 4 else 2

/-- The decoder on memory bytes, lowest address first (R200): the instruction and the bytes after it. -/
def decode (p : Proc) : List Byte → Except DecodeError (Instr × List Byte)
  | b0 :: b1 :: rest =>
    if lengthOf b0 = 4 then
      match rest with
      | b2 :: b3 :: rest' =>
        match Decoding.decodeWord p (b0.toNat + b1.toNat * 256 + b2.toNat * 65536 + b3.toNat * 16777216) with
        | .ok i => .ok (i, rest')
        | .error e => .error e
      | _ => .error .short
    else
      match Decoding.decodeWord p (b0.toNat + b1.toNat * 256) with
      | .ok i => .ok (i, rest)
      | .error e => .error e
  | _ => .error .short

/-- The n bytes of w, least significant first (R4). -/
def bytesOf : Nat → Nat → List Byte
  | 0, _ => []
  | n + 1, w => BitVec.ofNat 8 w :: bytesOf n (w / 256)

/-- The processor that executes an encoded row: major 0x32 runs only on footing cores (R210), everything else on strands. -/
def procOfWord (w : Nat) : Proc :=
  if w % 128 = 0x65 then .footing else .strand

/-- The decoder's reading of one table word: bit 0 is the least significant bit of the first halfword, and every bit above
nbits is 0. -/
def decodeTableWord (nbits w : Nat) : Option Instr :=
  match decode (procOfWord w) (bytesOf 4 (w % 2 ^ nbits)) with
  | .ok (i, _) => some i
  | .error _ => none

namespace Encoding

/-- A 32-bit word from its major and the fields of the frame (R202, Table 1). -/
def word32 (mj fn g b a d : Nat) : Nat :=
  1 + mj * 2 + d * 128 + a * 4096 + b * 131072 + g * 4194304 + fn * 33554432

/-- A 16-bit word from its major and fields (R208, Table 5). -/
def word16 (mj i5 q p : Nat) : Nat := mj * 2 + p * 32 + q * 256 + i5 * 2048

end Encoding

open Encoding in
/-- The encoder: the length in bits and the word of an instruction that has an encoding (chapter 11, Tables 2, 4, 5 and 6). -/
def encode (i : Instr) : Option (Nat × Nat) :=
  match i with
  | .add g d a b => some (32, word32 0x01 0 g.val b.val a.val d.val)
  | .sub g d a b => some (32, word32 0x01 1 g.val b.val a.val d.val)
  | .mul g d a b => some (32, word32 0x01 2 g.val b.val a.val d.val)
  | .mulh g d a b => some (32, word32 0x01 3 g.val b.val a.val d.val)
  | .mulhn g d a b => some (32, word32 0x01 4 g.val b.val a.val d.val)
  | .div g d a b => some (32, word32 0x01 5 g.val b.val a.val d.val)
  | .divn g d a b => some (32, word32 0x01 6 g.val b.val a.val d.val)
  | .rem g d a b => some (32, word32 0x01 7 g.val b.val a.val d.val)
  | .remn g d a b => some (32, word32 0x01 8 g.val b.val a.val d.val)
  | .and g d a b => some (32, word32 0x01 9 g.val b.val a.val d.val)
  | .or g d a b => some (32, word32 0x01 10 g.val b.val a.val d.val)
  | .xor g d a b => some (32, word32 0x01 11 g.val b.val a.val d.val)
  | .shl g d a b => some (32, word32 0x01 12 g.val b.val a.val d.val)
  | .shr g d a b => some (32, word32 0x01 13 g.val b.val a.val d.val)
  | .sar g d a b => some (32, word32 0x01 14 g.val b.val a.val d.val)
  | .rot g d a b => some (32, word32 0x01 15 g.val b.val a.val d.val)
  | .min g d a b => some (32, word32 0x01 16 g.val b.val a.val d.val)
  | .max g d a b => some (32, word32 0x01 17 g.val b.val a.val d.val)
  | .minn g d a b => some (32, word32 0x01 18 g.val b.val a.val d.val)
  | .maxn g d a b => some (32, word32 0x01 19 g.val b.val a.val d.val)
  | .padd g d a b => some (32, word32 0x01 20 g.val b.val a.val d.val)
  | .ptag g d a b => some (32, word32 0x01 21 g.val b.val a.val d.val)
  | .pfmt g d a => some (32, word32 0x01 22 g.val 0 a.val d.val)
  | .sel g d a b => some (32, word32 0x01 23 g.val b.val a.val d.val)
  | .clz g d a => some (32, word32 0x01 24 g.val 0 a.val d.val)
  | .ctz g d a => some (32, word32 0x01 25 g.val 0 a.val d.val)
  | .popc g d a => some (32, word32 0x01 26 g.val 0 a.val d.val)
  | .mov g d a => some (32, word32 0x01 27 g.val 0 a.val d.val)
  | .sext g n d a => some (32, word32 0x01 28 g.val n.val a.val d.val)
  | .zext g n d a => some (32, word32 0x01 29 g.val n.val a.val d.val)
  | .cmp g c d a b => some (32, word32 0x01 (32 + c.code) g.val b.val a.val d.val)
  | .addi g i d a => some (32, word32 0x02 (i.toNat / 32) g.val (i.toNat % 32) a.val d.val)
  | .andi g i d a => some (32, word32 0x03 (i.toNat / 32) g.val (i.toNat % 32) a.val d.val)
  | .ori g i d a => some (32, word32 0x04 (i.toNat / 32) g.val (i.toNat % 32) a.val d.val)
  | .xori g i d a => some (32, word32 0x05 (i.toNat / 32) g.val (i.toNat % 32) a.val d.val)
  | .shli g m d a => some (32, word32 0x06 (m.val / 32) g.val (m.val % 32) a.val d.val)
  | .shri g m d a => some (32, word32 0x06 (2 + m.val / 32) g.val (m.val % 32) a.val d.val)
  | .sari g m d a => some (32, word32 0x06 (4 + m.val / 32) g.val (m.val % 32) a.val d.val)
  | .cmpi g i c d a => some (32, word32 0x07 (i.toNat / 32 * 8 + c.code) g.val (i.toNat % 32) a.val d.val)
  | .paddi g i d a => some (32, word32 0x08 (i.toNat / 32) g.val (i.toNat % 32) a.val d.val)
  | .movi g i d => some (32, word32 0x09 (i.toNat / 1024) g.val (i.toNat / 32 % 32) (i.toNat % 32) d.val)
  | .kand g d a b => some (32, word32 0x0A 0 g.val b.val a.val d.val)
  | .kor g d a b => some (32, word32 0x0A 1 g.val b.val a.val d.val)
  | .kxor g d a b => some (32, word32 0x0A 2 g.val b.val a.val d.val)
  | .knot g d a => some (32, word32 0x0A 3 g.val 0 a.val d.val)
  | .kmov g d a => some (32, word32 0x0A 4 g.val 0 a.val d.val)
  | .kset g d a => some (32, word32 0x0A 5 g.val 0 a.val d.val)
  | .kget g d a => some (32, word32 0x0A 6 g.val 0 a.val d.val)
  | .kpop g d a => some (32, word32 0x0A 7 g.val 0 a.val d.val)
  | .csrr g c d => some (32, word32 0x0B (c.toNat / 32) g.val (c.toNat % 32) 0 d.val)
  | .csrw g c a => some (32, word32 0x0C (c.toNat / 32) g.val (c.toNat % 32) a.val 0)
  | .movsRead g m d => some (32, word32 0x0D 0 g.val 0 m.val d.val)
  | .movsWrite g m a => some (32, word32 0x0D 1 g.val 0 a.val m.val)
  | .tmset g d a => some (32, word32 0x0D 2 g.val 0 a.val d.val)
  | .ld g o s d a => some (32, word32 0x10 (o.toNat / 8) g.val (o.toNat % 8 * 4 + s.val) a.val d.val)
  | .ldn g o s d a => some (32, word32 0x11 (o.toNat / 8) g.val (o.toNat % 8 * 4 + s.val) a.val d.val)
  | .st g o s d a => some (32, word32 0x12 (o.toNat / 8) g.val (o.toNat % 8 * 4 + s.val) a.val d.val)
  | .ldp g o d a => some (32, word32 0x13 (o.toNat / 8) g.val (o.toNat % 8 * 4) a.val d.val)
  | .stp g o d a => some (32, word32 0x13 (o.toNat / 8) g.val (o.toNat % 8 * 4 + 1) a.val d.val)
  | .lda g c s d a => some (32, word32 0x14 (c.code * 4 + s.val) g.val 0 a.val d.val)
  | .stl g c s a b => some (32, word32 0x14 (32 + c.code * 4 + s.val) g.val b.val a.val 0)
  | .pfm g a => some (32, word32 0x14 64 g.val 0 a.val 0)
  | .zero g a => some (32, word32 0x14 96 g.val 0 a.val 0)
  | .fence g o c => some (32, word32 0x15 (o.code * 32 + c.code * 4) g.val 0 0 0)
  | .fencep g d a => some (32, word32 0x15 1 g.val 0 a.val d.val)
  | .atadd g o c d a b => some (32, word32 0x16 (o.code * 32 + c.code * 4) g.val b.val a.val d.val)
  | .atand g o c d a b => some (32, word32 0x16 (o.code * 32 + c.code * 4 + 1) g.val b.val a.val d.val)
  | .ator g o c d a b => some (32, word32 0x16 (o.code * 32 + c.code * 4 + 2) g.val b.val a.val d.val)
  | .atxor g o c d a b => some (32, word32 0x16 (o.code * 32 + c.code * 4 + 3) g.val b.val a.val d.val)
  | .atmin g o c d a b => some (32, word32 0x17 (o.code * 32 + c.code * 4) g.val b.val a.val d.val)
  | .atmax g o c d a b => some (32, word32 0x17 (o.code * 32 + c.code * 4 + 1) g.val b.val a.val d.val)
  | .atminn g o c d a b => some (32, word32 0x17 (o.code * 32 + c.code * 4 + 2) g.val b.val a.val d.val)
  | .atmaxn g o c d a b => some (32, word32 0x17 (o.code * 32 + c.code * 4 + 3) g.val b.val a.val d.val)
  | .atswp g o c d a b => some (32, word32 0x18 (o.code * 32 + c.code * 4) g.val b.val a.val d.val)
  | .atcas g o c d a b => some (32, word32 0x18 (o.code * 32 + c.code * 4 + 1) g.val b.val a.val d.val)
  | .atfaddFp64 g o c d a b => some (32, word32 0x18 (o.code * 32 + c.code * 4 + 2) g.val b.val a.val d.val)
  | .atfaddFp32 g o c d a b => some (32, word32 0x18 (o.code * 32 + c.code * 4 + 3) g.val b.val a.val d.val)
  | .minit g o c d a b => some (32, word32 0x19 (o.code * 32 + c.code * 4) g.val b.val a.val d.val)
  | .mread g o c d a => some (32, word32 0x19 (o.code * 32 + c.code * 4 + 1) g.val 0 a.val d.val)
  | .mcancel g o c d a b => some (32, word32 0x19 (o.code * 32 + c.code * 4 + 2) g.val b.val a.val d.val)
  | .mctrAdd g o c d a b => some (32, word32 0x1A (o.code * 32 + c.code * 4) g.val b.val a.val d.val)
  | .mctrFadd g o c d a b => some (32, word32 0x1A (o.code * 32 + c.code * 4 + 1) g.val b.val a.val d.val)
  | .mctrWait g o c d a b => some (32, word32 0x1A (o.code * 32 + c.code * 4 + 2) g.val b.val a.val d.val)
  | .mctrChunk g o c d a => some (32, word32 0x1A (o.code * 32 + c.code * 4 + 3) g.val 0 a.val d.val)
  | .mbarArrive g o c d a b => some (32, word32 0x1B (o.code * 32 + c.code * 4) g.val b.val a.val d.val)
  | .mbarAwait g o c d a b => some (32, word32 0x1B (o.code * 32 + c.code * 4 + 1) g.val b.val a.val d.val)
  | .mbarWaitp g o c d a b => some (32, word32 0x1B (o.code * 32 + c.code * 4 + 2) g.val b.val a.val d.val)
  | .mlockAcq g o c d a => some (32, word32 0x1C (o.code * 32 + c.code * 4) g.val 0 a.val d.val)
  | .mlockTry g o c d a => some (32, word32 0x1C (o.code * 32 + c.code * 4 + 1) g.val 0 a.val d.val)
  | .mlockRel g o c d a => some (32, word32 0x1C (o.code * 32 + c.code * 4 + 2) g.val 0 a.val d.val)
  | .mqueEnq g o c d a b => some (32, word32 0x1D (o.code * 32 + c.code * 4) g.val b.val a.val d.val)
  | .mqueTenq g o c d a b => some (32, word32 0x1D (o.code * 32 + c.code * 4 + 1) g.val b.val a.val d.val)
  | .mqueEnqr g o c d a => some (32, word32 0x1D (o.code * 32 + c.code * 4 + 2) g.val 0 a.val d.val)
  | .mqueTenqr g o c d a => some (32, word32 0x1D (o.code * 32 + c.code * 4 + 3) g.val 0 a.val d.val)
  | .mqueCommit g o c d a b => some (32, word32 0x1E (o.code * 32 + c.code * 4) g.val b.val a.val d.val)
  | .mqueDeq g o c d a b => some (32, word32 0x1E (o.code * 32 + c.code * 4 + 1) g.val b.val a.val d.val)
  | .mqueTdeq g o c d a b => some (32, word32 0x1E (o.code * 32 + c.code * 4 + 2) g.val b.val a.val d.val)
  | .mqueDeqr g o c d a => some (32, word32 0x1E (o.code * 32 + c.code * 4 + 3) g.val 0 a.val d.val)
  | .mqueTdeqr g o c d a => some (32, word32 0x1F (o.code * 32 + c.code * 4) g.val 0 a.val d.val)
  | .mqueFree g o c d a b => some (32, word32 0x1F (o.code * 32 + c.code * 4 + 1) g.val b.val a.val d.val)
  | .mcondWait g o c d a => some (32, word32 0x20 (o.code * 32 + c.code * 4) g.val 0 a.val d.val)
  | .mcondSig g o c d a => some (32, word32 0x20 (o.code * 32 + c.code * 4 + 1) g.val 0 a.val d.val)
  | .mcondBcast g o c d a => some (32, word32 0x20 (o.code * 32 + c.code * 4 + 2) g.val 0 a.val d.val)
  | .cpy g a => some (32, word32 0x21 0 g.val 0 a.val 0)
  | .cpynb g d a => some (32, word32 0x21 1 g.val 0 a.val d.val)
  | .cpx g a => some (32, word32 0x21 2 g.val 0 a.val 0)
  | .cpq g d => some (32, word32 0x21 3 g.val 0 0 d.val)
  | .cpqTag g d a => some (32, word32 0x21 (4 + 3) g.val 0 a.val d.val)
  | .vadd g t d a b => some (32, word32 0x22 t.code g.val b.val a.val d.val)
  | .vsub g t d a b => some (32, word32 0x22 (16 + t.code) g.val b.val a.val d.val)
  | .vmul g t d a b => some (32, word32 0x22 (32 + t.code) g.val b.val a.val d.val)
  | .vfma g t d a b => some (32, word32 0x22 (48 + t.code) g.val b.val a.val d.val)
  | .vfms g t d a b => some (32, word32 0x22 (64 + t.code) g.val b.val a.val d.val)
  | .vmin g t d a b => some (32, word32 0x22 (80 + t.code) g.val b.val a.val d.val)
  | .vmax g t d a b => some (32, word32 0x22 (96 + t.code) g.val b.val a.val d.val)
  | .vdiv g t d a b => some (32, word32 0x22 (112 + t.code) g.val b.val a.val d.val)
  | .vabs g t d a => some (32, word32 0x23 t.code g.val 0 a.val d.val)
  | .vneg g t d a => some (32, word32 0x23 (16 + t.code) g.val 0 a.val d.val)
  | .vsqrt g t d a => some (32, word32 0x23 (32 + t.code) g.val 0 a.val d.val)
  | .vrcp g t d a => some (32, word32 0x23 (48 + t.code) g.val 0 a.val d.val)
  | .vrsq g t d a => some (32, word32 0x23 (64 + t.code) g.val 0 a.val d.val)
  | .vexp2 g t d a => some (32, word32 0x23 (80 + t.code) g.val 0 a.val d.val)
  | .vlog2 g t d a => some (32, word32 0x23 (96 + t.code) g.val 0 a.val d.val)
  | .vmov g t d a => some (32, word32 0x23 (112 + t.code) g.val 0 a.val d.val)
  | .vand g d a b => some (32, word32 0x24 0 g.val b.val a.val d.val)
  | .vor g d a b => some (32, word32 0x24 16 g.val b.val a.val d.val)
  | .vxor g d a b => some (32, word32 0x24 32 g.val b.val a.val d.val)
  | .vshl g t d a b => some (32, word32 0x24 (48 + t.code) g.val b.val a.val d.val)
  | .vshr g t d a b => some (32, word32 0x24 (64 + t.code) g.val b.val a.val d.val)
  | .vsar g t d a b => some (32, word32 0x24 (80 + t.code) g.val b.val a.val d.val)
  | .vrotl g t d a b => some (32, word32 0x24 (96 + t.code) g.val b.val a.val d.val)
  | .vcmp g c t d a b => some (32, word32 0x25 (c.code * 16 + t.code) g.val b.val a.val d.val)
  | .vcvt g t s d a => some (32, word32 0x26 t.code g.val s.code a.val d.val)
  | .vdec8 g t k q d a => some (32, word32 0x27 t.code g.val (k.val * 8 + q.val) a.val d.val)
  | .venc8 g t k q d a => some (32, word32 0x27 (16 + t.code) g.val (k.val * 8 + q.val) a.val d.val)
  | .tblld g a => some (32, word32 0x27 32 g.val 0 a.val 0)
  | .vperm g t d a b => some (32, word32 0x28 t.code g.val b.val a.val d.val)
  | .vbcast g t d a b => some (32, word32 0x28 (16 + t.code) g.val b.val a.val d.val)
  | .vsplat g t d a => some (32, word32 0x28 (32 + t.code) g.val 0 a.val d.val)
  | .vext g t d a b => some (32, word32 0x28 (48 + t.code) g.val b.val a.val d.val)
  | .vins g t d a b => some (32, word32 0x28 (64 + t.code) g.val b.val a.val d.val)
  | .vsel g c d a b => some (32, word32 0x28 (80 + c.val) g.val b.val a.val d.val)
  | .vclr g d => some (32, word32 0x28 96 g.val 0 0 d.val)
  | .vred g o t d a => some (32, word32 0x29 (o.code * 16 + t.code) g.val 0 a.val d.val)
  | .vscan g o t d a => some (32, word32 0x29 (o.code * 16 + t.code) g.val 1 a.val d.val)
  | .vcmul g d a b => some (32, word32 0x2A 5 g.val b.val a.val d.val)
  | .vcfma g d a b => some (32, word32 0x2A (16 + 5) g.val b.val a.val d.val)
  | .vld g o t d a => some (32, word32 0x2B (o.toNat / 32 * 16 + t.code) g.val (o.toNat % 32) a.val d.val)
  | .vst g o t d a => some (32, word32 0x2C (o.toNat / 32 * 16 + t.code) g.val (o.toNat % 32) a.val d.val)
  | .vlds g t d a b => some (32, word32 0x2D t.code g.val b.val a.val d.val)
  | .vsts g t d a b => some (32, word32 0x2D (16 + t.code) g.val b.val a.val d.val)
  | .vldx g t d a b => some (32, word32 0x2D (32 + t.code) g.val b.val a.val d.val)
  | .vstx g t d a b => some (32, word32 0x2D (48 + t.code) g.val b.val a.val d.val)
  | .vldt g t d a b => some (32, word32 0x2D (64 + t.code) g.val b.val a.val d.val)
  | .vstt g t d a b => some (32, word32 0x2D (80 + t.code) g.val b.val a.val d.val)
  | .vsave g n d a => some (32, word32 0x2E 0 g.val n.val a.val d.val)
  | .vload g n d a => some (32, word32 0x2E 16 g.val n.val a.val d.val)
  | .setst g t x c k a => some (32, word32 0x2F t.code g.val (x.toNat * 16 + c.val) a.val k.val)
  | .relst g d => some (32, word32 0x2F 16 g.val 0 0 d.val)
  | .aclr g d => some (32, word32 0x2F 32 g.val 0 0 d.val)
  | .ast g t d a => some (32, word32 0x2F (48 + t.code) g.val 0 a.val d.val)
  | .ald g t m d a => some (32, word32 0x2F (64 + t.code) g.val m.code a.val d.val)
  | .mma g t s d a => some (32, word32 0x30 t.code g.val s.val a.val d.val)
  | .mmag g t s d a => some (32, word32 0x30 (16 + t.code) g.val s.val a.val d.val)
  | .mrot g t s d a => some (32, word32 0x30 (32 + t.code) g.val s.val a.val d.val)
  | .mrotBuf g t s d => some (32, word32 0x30 (32 + t.code) g.val (16 + s.val) 0 d.val)
  | .floado g d a b => some (32, word32 0x31 0 g.val b.val a.val d.val)
  | .fstart g d a b => some (32, word32 0x31 16 g.val b.val a.val d.val)
  | .fcmd g d a b => some (32, word32 0x31 32 g.val b.val a.val d.val)
  | .fred g d a => some (32, word32 0x31 48 g.val 0 a.val d.val)
  | .fopen n a => some (32, word32 0x32 n.val 0 0 a.val 0)
  | .facc n a => some (32, word32 0x32 (16 + n.val) 0 0 a.val 0)
  | .faccf n a => some (32, word32 0x32 (32 + n.val) 0 0 a.val 0)
  | .frdo n d a => some (32, word32 0x32 (48 + n.val) 0 0 a.val d.val)
  | .fclra n => some (32, word32 0x32 (64 + n.val) 0 0 0 0)
  | .freply a => some (32, word32 0x32 80 0 0 a.val 0)
  | .fwaitc d => some (32, word32 0x32 96 0 0 0 d.val)
  | .send g d => some (32, word32 0x33 0 g.val 0 0 d.val)
  | .sendt g => some (32, word32 0x33 16 g.val 0 0 0)
  | .sendr g d => some (32, word32 0x33 32 g.val 0 0 d.val)
  | .bclr g => some (32, word32 0x33 48 g.val 0 0 0)
  | .dqpush g d => some (32, word32 0x33 64 g.val 0 0 d.val)
  | .dqpop g d => some (32, word32 0x33 80 g.val 0 0 d.val)
  | .dqsteal g d a => some (32, word32 0x33 96 g.val 0 a.val d.val)
  | .hodnew g d a => some (32, word32 0x34 0 g.val 0 a.val d.val)
  | .hodnext g a => some (32, word32 0x34 16 g.val 0 a.val 0)
  | .hodset g n a b => some (32, word32 0x34 (32 + n.val) g.val b.val a.val 0)
  | .hodins g n a b => some (32, word32 0x34 (48 + n.val) g.val b.val a.val 0)
  | .hoddel g n a => some (32, word32 0x34 (64 + n.val) g.val 0 a.val 0)
  | .hodget g s d a => some (32, word32 0x34 (80 + s.val) g.val 0 a.val d.val)
  | .hodpark g a b => some (32, word32 0x34 96 g.val b.val a.val 0)
  | .hodresume g a => some (32, word32 0x34 112 g.val 0 a.val 0)
  | .br g f o => some (32, word32 0x35 (f.toNat * 64 + o.toNat / 1024) g.val (o.toNat / 32 % 32) (o.toNat % 32) 0)
  | .call g o d => some (32, word32 0x36 (o.toNat / 1024) g.val (o.toNat / 32 % 32) (o.toNat % 32) d.val)
  | .loop g o a => some (32, word32 0x37 (o.toNat / 32) g.val (o.toNat % 32) a.val 0)
  | .nop => some (32, word32 0x38 0 0 0 0 0)
  | .endAct g => some (32, word32 0x38 1 g.val 0 0 0)
  | .yield g => some (32, word32 0x38 2 g.val 0 0 0)
  | .brk g => some (32, word32 0x38 3 g.val 0 0 0)
  | .calli g d a => some (32, word32 0x38 4 g.val 0 a.val d.val)
  | .jr g a => some (32, word32 0x38 5 g.val 0 a.val 0)
  | .ret g a => some (32, word32 0x38 6 g.val 0 a.val 0)
  | .gang g a => some (32, word32 0x39 0 g.val 0 a.val 0)
  | .ungang g => some (32, word32 0x39 16 g.val 0 0 0)
  | .follow g => some (32, word32 0x39 32 g.val 0 0 0)
  | .detach g => some (32, word32 0x39 48 g.val 0 0 0)
  | .rejoin g n => some (32, word32 0x39 (64 + n.val) g.val 0 0 0)
  | .trap g a => some (32, word32 0x3A 0 g.val 0 a.val 0)
  | .svc g a => some (32, word32 0x3A 8 g.val 0 a.val 0)
  | .rte g a => some (32, word32 0x3A 16 g.val 0 a.val 0)
  | .resume g d a b => some (32, word32 0x3A 24 g.val b.val a.val d.val)
  | .preempt g d a b => some (32, word32 0x3A 32 g.val b.val a.val d.val)
  | .waitx g d a => some (32, word32 0x3A 40 g.val 0 a.val d.val)
  | .tlbinv g c d a b => some (32, word32 0x3A (48 + c.code) g.val b.val a.val d.val)
  | .rtset g a b => some (32, word32 0x3A 56 g.val b.val a.val 0)
  | .ctxsave g d a b => some (32, word32 0x3A 64 g.val b.val a.val d.val)
  | .ctxload g d a b => some (32, word32 0x3A 72 g.val b.val a.val d.val)
  | .immx x => some (32, 0x79 + x.toNat / 4 * 128 + x.toNat % 4 * 2)
  | .movC p q => some (16, word16 1 0 q.val p.val)
  | .addC p q => some (16, word16 2 0 q.val p.val)
  | .subC p q => some (16, word16 2 1 q.val p.val)
  | .andC p q => some (16, word16 2 2 q.val p.val)
  | .orC p q => some (16, word16 2 3 q.val p.val)
  | .xorC p q => some (16, word16 2 4 q.val p.val)
  | .shlC p q => some (16, word16 2 5 q.val p.val)
  | .shrC p q => some (16, word16 2 6 q.val p.val)
  | .sarC p q => some (16, word16 2 7 q.val p.val)
  | .mulC p q => some (16, word16 2 8 q.val p.val)
  | .addiC i p q => some (16, word16 3 i.toNat q.val p.val)
  | .moviC i p => some (16, word16 4 (i.toNat / 8) (i.toNat % 8) p.val)
  | .ld64C i p q => some (16, word16 5 i.val q.val p.val)
  | .st64C i p q => some (16, word16 6 i.val q.val p.val)
  | .ld32C i p q => some (16, word16 7 i.val q.val p.val)
  | .st32C i p q => some (16, word16 8 i.val q.val p.val)
  | .brC o => some (16, word16 9 (o.toNat / 64) (o.toNat / 8 % 8) (o.toNat % 8))
  | .shliC i p q => some (16, word16 10 i.val q.val p.val)
  | .vaddC p q => some (16, word16 11 0 q.val p.val)
  | .vsubC p q => some (16, word16 11 1 q.val p.val)
  | .vmulC p q => some (16, word16 11 2 q.val p.val)
  | .vmovC p q => some (16, word16 11 3 q.val p.val)
  | .vclrC p => some (16, word16 11 4 0 p.val)
  | .vldC i p q => some (16, word16 12 i.val q.val p.val)
  | .vstC i p q => some (16, word16 13 i.val q.val p.val)
  | .nopC => some (16, word16 14 0 0 0)
  | .endC => some (16, word16 14 1 0 0)
  | .yieldC => some (16, word16 14 2 0 0)
  | .jrC p => some (16, word16 14 3 0 p.val)
  | .brkC => some (16, word16 14 4 0 0)
  | .loopC u p => some (16, word16 15 (u.val / 8) (u.val % 8) p.val)
  | .launch _ => none
  | .launchStart _ => none
  | .launchEnd _ => none
  | .launchAbort _ => none
  | .launchQuiescence _ => none
  | .dispatch _ => none
  | .idleStep _ => none
  | .dequeStealRequest _ => none
  | .strandAction _ => none
  | .strandResume _ => none
  | .strandEnd _ => none
  | .preemptCore _ => none
  | .preemptSave _ => none
  | .preemptResume _ => none
  | .messageArrival _ => none
  | .spillRedelivery _ _ => none
  | .spillRetry _ _ => none
  | .counterMessage _ => none
  | .lateMessage _ => none
  | .allowanceReturn _ => none
  | .wakeUp _ => none
  | .footingReply _ => none
  | .flitHop _ => none
  | .flitInjection _ => none
  | .injectionStarvation _ => none
  | .flitEjection _ => none
  | .mortarInit _ => none
  | .mortarRead _ => none
  | .mortarCancel _ => none
  | .ctrAdd _ => none
  | .ctrFadd _ => none
  | .ctrWait _ => none
  | .ctrChunk _ => none
  | .barArrive _ => none
  | .barAwait _ => none
  | .barWaitp _ => none
  | .lockAcq _ => none
  | .lockTry _ => none
  | .lockRel _ => none
  | .queEnq _ => none
  | .queTenq _ => none
  | .queEnqr _ => none
  | .queTenqr _ => none
  | .queCommit _ => none
  | .queDeq _ => none
  | .queTdeq _ => none
  | .queDeqr _ => none
  | .queTdeqr _ => none
  | .queFree _ => none
  | .condWait _ => none
  | .condSig _ => none
  | .condBcast _ => none
  | .condReacquire _ => none
  | .mortarUnsupported _ => none
  | .copyActivate _ => none
  | .copyBurst _ => none
  | .copyComplete _ => none
  | .copyCompletionMessage _ => none
  | .cpxPairing _ => none
  | .copyResume _ => none
  | .copyAbort _ => none
  | .fredCheck _ => none
  | .fredChunk _ => none
  | .fredCompletion _ => none
  | .fredResume _ => none
  | .fredAbort _ => none
  | .footingCommandResume _ => none
  | .footingCommandAbort _ => none
  | .floadoCommand _ => none
  | .fstartCommand _ => none
  | .fcmdCommand _ => none
  | .baseDieTranslation _ _ _ => none
  | .setstFill _ => none
  | .relstDrain _ => none
  | .bankDrainEnd _ _ => none
  | .aclrExecute _ => none
  | .mmaExecute _ => none
  | .mmagJoint _ => none
  | .mrotJoint _ => none
  | .astExecute _ => none
  | .aldExecute _ => none
  | .gangJoint _ => none
  | .ungangJoint _ => none
  | .followJoint _ _ => none
  | .rejoinJoint _ _ => none
  | .hodPull _ => none
  | .hodAck _ => none
  | .pageWalk _ _ => none
  | .shootdownArrival _ _ => none
  | .shootdownAck _ => none
  | .l2Access _ _ _ => none
  | .remoteLineFill _ => none
  | .foAccess _ _ _ => none
  | .prefetch _ _ => none
  | .scratchpadAccess _ _ _ => none
  | .scrub _ => none
  | .errorWindowEnd _ => none
  | .watchdogStall _ => none
  | .replay _ => none
  | .quarantineMove _ _ => none
  | .remoteLoad _ => none
  | .remoteStore _ => none
  | .remoteAtadd _ => none
  | .remoteAtand _ => none
  | .remoteAtor _ => none
  | .remoteAtxor _ => none
  | .remoteAtmin _ => none
  | .remoteAtmax _ => none
  | .remoteAtminn _ => none
  | .remoteAtmaxn _ => none
  | .remoteAtswp _ => none
  | .remoteAtcas _ => none
  | .remoteAtfaddFp64 _ => none
  | .remoteAtfaddFp32 _ => none
  | .remoteMortar _ => none
  | .remoteRcWriteback _ _ => none
  | .remoteMessage _ => none
  | .remoteCounter _ => none
  | .linkTraining _ _ _ => none
  | .laneFailure _ _ _ => none
  | .cxlMemAccess _ _ _ _ => none
  | .inboxApertureWrite _ _ _ _ => none
  | .powerDown _ => none
  | .selfRefresh _ => none
  | .powerExit _ => none
  | .footingStopTimeout _ => none
  | .channelWake _ => none
  | .modeRemoteCache _ => none
  | .modeL2Partitioning _ => none
  | .modeL2PartitionClass _ => none
  | .modeCimPower _ => none
  | .modeWaitListCap _ => none
  | .modeAgingInterval _ => none
  | .modeVcReservePolicy _ => none
  | .modeChangeApply _ => none
  | .portReserveApply _ => none
  | .clockThrottle _ _ => none
  | .packageReset _ _ => none
  | .spdmGetVersion _ _ => none
  | .spdmGetCapabilities _ _ => none
  | .spdmNegotiateAlgorithms _ _ => none
  | .spdmGetDigests _ _ => none
  | .spdmGetCertificate _ _ => none
  | .spdmChallenge _ _ => none
  | .spdmGetMeasurements _ _ => none
  | .spdmUnsupportedRequest _ _ => none
  | .controlRegisterWrite _ _ _ => none
  | .illegalInstruction _ => none
  | .fetchFault _ => none
  | .loadReply _ => none
  | .mortarReply _ => none
  | .condReleaseReply _ => none
  | .bulkTransfer _ => none

end Sys2Proof
end

