-- ==== Sys2Proof/Config.lean ====
section
/-! DEFINITION. What an implementation fixes and what the manual leaves open. A constant without a body is a free value: no
proof can see what it is, and a claim holds whatever it is. Each is applied to the data it depends on or to the counter
`fresh` of the state, which the step that reads it advances. -/

namespace Sys2Proof.Config

/-- Which of several outcomes that the manual allows takes place: the turn of the schedule (R332, R371), and the value a load
may return where R308 allows two. Log 4. -/
opaque pick : Nat → Nat

/-- The victim of a replacement in a TLB, walk cache or L2 set, which the manual leaves open (R34, R69). Log 4. -/
opaque victim : Nat → Nat

/-- The SHA-384 digest of a list of bytes (R394, R395). The manual names the function and does not define it. Log 5. -/
opaque sha384 : List (BitVec 8) → BitVec 384

/-- Whether an ECDSA P-384 signature over a digest holds for the key of a hash (R394). Log 5. -/
opaque ecdsaHolds : BitVec 384 → BitVec 384 → List (BitVec 8) → Bool

/-- The bytes of an SPDM answer that the manual leaves to the SPDM specification: request, package (R395). Log 5. -/
opaque spdmBytes : Nat → Nat → List Nat

/-- The image of stage n of the boot chain in flash contents f: its bytes, signature and version (R394). Log 5. -/
opaque bootImage : Nat → Nat → List (BitVec 8) × List (BitVec 8) × Nat

/-- The hash of the boot key that is fused in a package (R394). Log 5. -/
opaque fusedKey : Nat → BitVec 384

/-- The bytes of the mode settings at boot that measurement register 5 covers (R394). Log 5. -/
opaque modeSettings : List (BitVec 8)

/-- The minimum security version that is fused in a package (R394). Log 5. -/
opaque fusedVersion : Nat → Nat


end Sys2Proof.Config
end

