-- ==== Sys2Proof/Machine/Table.lean ====
section
/-! DEFINITION. Sparse data by number: a list of key and value pairs with rising keys, read with a default. The state holds its
per-core, per-slice and per-register data so, and a register or unit that no pair lists has the default. -/

namespace Sys2Proof.Machine

/-- Sparse data: pairs of a number and a value, the numbers strictly rising. -/
abbrev Table (α : Type) := List (Nat × α)

/-- The value at a key, or the default. -/
def Table.get {α : Type} (d : α) : Table α → Nat → α
  | [], _ => d
  | (k, v) :: rest, n => if k = n then v else Table.get d rest n

/-- The pairs with one value replaced or inserted in key order. -/
def Table.set {α : Type} : Table α → Nat → α → Table α
  | [], n, x => [(n, x)]
  | (k, v) :: rest, n, x =>
    if k = n then (n, x) :: rest
    else if n < k then (n, x) :: (k, v) :: rest
    else (k, v) :: Table.set rest n x

/-- The pairs without a key. -/
def Table.erase {α : Type} (t : Table α) (n : Nat) : Table α := t.filter (fun p => decide (p.1 ≠ n))

/-- The value at a key changed by a function, starting from the default where none is listed. -/
def Table.modify {α : Type} (d : α) (t : Table α) (n : Nat) (f : α → α) : Table α := Table.set t n (f (Table.get d t n))

end Sys2Proof.Machine
end

