-- ==== Sys2Proof/Machine/State.lean ====
section
/-! DEFINITION. The state of a system of QK7 packages as plain data: every register, memory, queue, table and piece of work in
flight that the manual names. The brackets in a docstring give the rules that name the piece, its width, and what it holds
at reset; "log n" names the assumption that chose a value the manual does not state. Cores are numbered
package × 2,048 + index: indexes 0–1,023 are the logical cores in the order of R12, 1,024 + p is the foreman of panel p, and
1,032 + p × 8 + row is a spare core. Units, hbms, slices, dies and panels are numbered package × 512, 8, 128, 2 and 8 plus
their own number. -/

namespace Sys2Proof.Machine

/-- Why the machine stops. -/
inductive Fault where
  /-- Raised by exec for an instruction of a strand or footing core when no such processor is executing. Safe: the hardware
  never executes an instruction without a processor. -/
  | noProcessor
  deriving DecidableEq, Repr

/-- Why the model gives no outcome. -/
inductive Refusal where
  /-- Raised by exec's arm for an instruction that has no meaning yet. Safe: nothing is claimed about it. -/
  | notModelled (mnemonic : String)
  deriving DecidableEq, Repr

/-- The 64 bytes of a message: two header words and six payload words (R142, R183). -/
structure Msg where
  h0 : Word
  h1 : Word
  w0 : Word
  w1 : Word
  w2 : Word
  w3 : Word
  w4 : Word
  w5 : Word
  deriving DecidableEq, Repr

/-- A message of zeros. -/
def Msg.zero : Msg := ⟨0, 0, 0, 0, 0, 0, 0, 0⟩

/-- What a strand is doing (R369, Table 5, MODE). -/
inductive SMode where
  | free | running | parked
  deriving DecidableEq, Repr

/-- The joints at which strands wait (R316–R319); the number is a rectangle for GANG and a marker for REJOIN. -/
inductive Joint where
  | gang (rect : Nat) | ungang | follow | rejoin (marker : Nat)
  deriving DecidableEq, Repr

/-- What an unretired instruction waits for. -/
inductive Wait where
  | none
  /-- a memory access (R224, R342) -/
  | access (id : Nat)
  /-- a mortar reply or wake-up (R99, R231): the request, the registers that the result goes to, and the effective address -/
  | mortar (id d v ea : Nat)
  /-- a bond joint (R316–R319) -/
  | joint (j : Joint)
  /-- the reply of a DQSTEAL (R304) -/
  | steal (id : Nat)
  /-- the reply of a RESUME or PREEMPT packet (R323) -/
  | packet (id : Nat)
  /-- the acknowledgement of a shootdown (R325) -/
  | shootdown (id : Nat)
  deriving DecidableEq, Repr

/-- Where an instruction of the leader's stream stands, as a follower sees it (R318, R319): begun by the leader, retired by it, a
DETACH or an END that it has retired, or executed by the follower before the leader has retired it. -/
inductive FollowKind where
  | begun | step | detached | ended | executed
  deriving DecidableEq, Repr

/-- One instruction of a leader's stream (R318): its PC, its next PC and what it was. -/
structure FollowEnt where
  pc : Word
  next : Word
  kind : FollowKind
  deriving DecidableEq, Repr

/-- The audit record of a sampled activation (R374, R375): its ring entry and the bytes of its sends and hod forwards. -/
structure Sample where
  entry : Nat
  trace : List Byte
  deriving DecidableEq, Repr

/-- A strand (R137, R138, R142, R143, R369). -/
structure Strand where
  /-- run state [R352, R364, R369; 3 values; free, DESIGN CHOICE log 1] -/
  mode : SMode
  /-- what the current instruction waits for [R99, R304, R316, R369; free list; none, DESIGN CHOICE log 1] -/
  wait : Wait
  /-- PC [R143; 64; entry at activation start, before any launch 0, DESIGN CHOICE log 1] -/
  pc : Word
  /-- IMMX prefixes already read of the current instruction [R207; list of 27; empty, DESIGN CHOICE log 1] -/
  imx : List (BitVec 27)
  /-- workspace frame number, 0–31, which WSP shows [R134, R143; 5; 0, DESIGN CHOICE log 1] -/
  frame : Nat
  /-- CLASS [R143; 6; 0, DESIGN CHOICE log 1] -/
  cls : Nat
  /-- the activation's claim mask [R140; 4; 0, DESIGN CHOICE log 1] -/
  claim : Nat
  /-- the activation's class is SERIAL [R352; 1; 0, DESIGN CHOICE log 1] -/
  serial : Bool
  /-- the activation's class is audit-eligible [R373; 1; 0, DESIGN CHOICE log 1] -/
  audit : Bool
  /-- MODEL'S OWN: number of the activation, which tells a later activation of the strand from an earlier one [none; Nat; 0,
  DESIGN CHOICE log 1] -/
  act : Nat
  /-- ACTSEQ at the dispatch of the activation [R365; 64; 0, DESIGN CHOICE log 1] -/
  actseq : Word
  /-- FCTL [R143; 64; 0] -/
  fctl : Word
  /-- FFLAGS [R143, R153; 64; 0] -/
  fflags : Word
  /-- SCB [R143; 64; 0] -/
  scb : Word
  /-- TRAPC [R143, R364; 64; 0] -/
  trapc : Word
  /-- TRAPA [R143, R364; 64; 0] -/
  trapa : Word
  /-- TRAPPC [R143, R364; 64; 0] -/
  trappc : Word
  /-- ROWPROG [R143, R282; 64; 0] -/
  rowprog : Word
  /-- VRESUME [R143, R280; 64; 0] -/
  vresume : Word
  /-- mh0, mh1 and m0–m5 [R142; 8 × 64; 0, DESIGN CHOICE log 1] -/
  m : Msg
  /-- words of the message that were delivered poisoned [R181, R191; 8; 0, DESIGN CHOICE log 1] -/
  mbad : BitVec 8
  /-- bh0, bh1 and b0–b5 [R142, R144; 8 × 64; 0] -/
  b : Msg
  /-- v0–v15 [R137, R144; 16 × 2,048; 0] -/
  v : Table VWord
  /-- k1–k7; k0 reads as all ones [R138, R144; 7 × 64; 0] -/
  k : Table Word
  /-- REQ allowances held, ALLOW [R143, R186; 4; 8] -/
  allow : Nat
  /-- RSP allowances held [R186, R369; 2; 2] -/
  arsp : Nat
  /-- reserved reply held and unused [R186, R369; 1; 0, DESIGN CHOICE log 1] -/
  rres : Bool
  /-- the activation is sampled, with the bytes digested so far [R374, R375; list; none, DESIGN CHOICE log 1] -/
  samp : Option Sample
  /-- the sticky per-peer bits that are set, as a rising list of packages [R229, R383; 16,384; 0] -/
  sticky : List Nat
  /-- following: 0 not, 1 following, 2 detached since the last FOLLOW joint; 3 is 2 for a strand that a trap 0x13 has stopped at another marker,
  for which its leader waits no longer [R318, R319, R369; 2; 0] -/
  fol : Nat
  /-- the leader's instructions that this follower has still to execute [R318; list; empty, DESIGN CHOICE log 1] -/
  folq : List FollowEnt
  /-- the strand has followed in this activation, which REJOIN asks [R319; 1; 0, DESIGN CHOICE log 1] -/
  followed : Bool
  /-- w registers that a load in flight will write [R52, R334; 32; 0, DESIGN CHOICE log 1] -/
  busyW : BitVec 32
  /-- v registers that a load in flight will write [R334; 16; 0, DESIGN CHOICE log 1] -/
  busyV : BitVec 16
  /-- accesses numbered below this precede the last FENCE.REL or FENCE.AR [R228; Nat; 0, DESIGN CHOICE log 1] -/
  relMark : Nat
  /-- that fence was at SYSTEM scope [R73, R228; 1; 0, DESIGN CHOICE log 1] -/
  relSys : Bool
  /-- the cycle at which the current WAITX ends, or at which one without a limit began to wait [R324; Nat; none, DESIGN CHOICE log 1] -/
  deadline : Option Nat
  /-- the landing slot of the hod of this stop [R196, R198; 3; none, DESIGN CHOICE log 1] -/
  hod : Option Nat
  /-- landing slots of hods that the activation built and has not sent [R307, R314; list; empty, DESIGN CHOICE log 1] -/
  built : List Nat
  /-- the matrix command whose trap parked the strand [R282; Nat; none, DESIGN CHOICE log 1] -/
  mtrap : Option Nat
  deriving DecidableEq, Repr

/-- A strand that holds no activation. -/
def Strand.init : Strand :=
  { mode := .free, wait := .none, pc := 0, imx := [], frame := 0, cls := 0, claim := 0, serial := false, audit := false, act := 0,
    actseq := 0, fctl := 0, fflags := 0, scb := 0, trapc := 0, trapa := 0, trappc := 0, rowprog := 0, vresume := 0, m := .zero,
    mbad := 0, b := .zero, v := [], k := [], allow := 8, arsp := 2, rres := false, samp := none, sticky := [], fol := 0,
    folq := [], followed := false, busyW := 0, busyV := 0, relMark := 0, relSys := false, deadline := none, hod := none,
    built := [], mtrap := none }

/-- What a memory access does (R330). -/
inductive AccOp where
  | load | store
  /-- an atomic: handler number of R380 -/
  | atomic (h : Nat)
  deriving DecidableEq, Repr

/-- Where a piece of an access is performed (R223). -/
inductive Place where
  | l2 | fo | pad | rpart | remote
  /-- the inbox apertures and control space, which the foreman reaches (R24, Table 3) -/
  | control
  deriving DecidableEq, Repr

/-- A single-copy-atomic piece of an access (R225, R276). -/
structure Piece where
  /-- virtual address, for TRAPA -/
  va : Nat
  pa : Nat
  n : Nat
  place : Place
  /-- the page carries FO: no line of the L2 is allocated for it (R60, R66) -/
  fo : Bool
  /-- what a store writes, or the operand of an atomic -/
  data : Nat
  /-- comparand of ATCAS -/
  cmp : Nat
  /-- lane, register or word of the destination -/
  lane : Nat
  /-- what a load read -/
  got : Nat
  done : Bool
  deriving DecidableEq, Repr

/-- Where the result of an access goes. -/
inductive AccDest where
  | none
  /-- one w register: number, bytes, and whether it is sign-extended (R225) -/
  | w (d n : Nat) (signed : Bool)
  | pair (d : Nat)
  /-- lanes of a v register with the scale of each lane, 127 for none (R276) -/
  | v (d : Nat) (t : Fmt) (scales : List Nat) (scaled : Bool) (zeros : List Nat)
  /-- whole registers of VLOAD or VSAVE, with the trap that ends the transfer (R280) -/
  | regs (d first count : Nat) (load : Bool) (trap : Option (Nat × Nat × Nat))
  /-- FENCEP: the register for the count, and the sticky bits that it writes (R229) -/
  | fencep (d : Nat) (peers : List Nat)
  /-- a vector store that another core's port may still refuse: the flags of its conversions (R263, R276) -/
  | flags (f : Nat)
  deriving DecidableEq, Repr

/-- A strand's memory access in flight (R331, R335). -/
structure Acc where
  id : Nat
  core : Nat
  strand : Nat
  act : Nat
  dom : Nat
  op : AccOp
  pieces : List Piece
  /-- a synchronisation access, with its scope and order (R330) -/
  sync : Bool
  scope : Scope
  ord : Order
  /-- the instruction is unretired until the access completes -/
  blocking : Bool
  /-- bytes of code that the instruction takes, when it is unretired -/
  len : Nat
  /-- accesses numbered below this precede a release fence before this access (R228) -/
  relMark : Nat
  relSys : Bool
  dest : AccDest
  frame : Nat
  /-- the address of the instruction's first prefix, for a load whose word is found poisoned after it has retired (R78) -/
  pc : Word
  /-- refused where it is performed: cause, kind and address (R26, R341, R78) -/
  refused : Option (Nat × Nat × Nat)
  /-- order of arrival at a pseudo-channel (R54) -/
  seq : Nat
  deriving DecidableEq, Repr

/-- A translation held in a TLB (R34): domain, page, frame, and bits [8:0] of the leaf. -/
structure TlbEnt where
  dom : Nat
  va : Nat
  lg : Nat
  pa : Nat
  attr : BitVec 9
  deriving DecidableEq, Repr

/-- A table pointer held in a walk cache (R34). -/
structure WalkEnt where
  dom : Nat
  level : Nat
  va : Nat
  table : Nat
  deriving DecidableEq, Repr

/-- States of a stationary bank (R124, Table 4). -/
inductive BankState where
  | ordinary | filling | fired | draining
  deriving DecidableEq, Repr

/-- A stationary bank (R124–R130). -/
structure Bank where
  /-- state [R124; 4 values; ORDINARY] -/
  state : BankState
  /-- format of a fired bank [R125; 4; untyped, DESIGN CHOICE log 1] -/
  fmt : Fmt
  /-- slots filled by the SETST [R126, R133; 5; 0, DESIGN CHOICE log 1] -/
  n : Nat
  /-- held elements in their hold format, at slot × 4,096 + row × D + column [R125; 16 × 8 KiB; 0, DESIGN CHOICE log 1] -/
  held : Table Nat
  /-- poisoned slots [R130; 16; 0, R132] -/
  poison : BitVec 16
  /-- 64-bit words, 1,024 to a slot, with a single-bit error that nothing has corrected yet, as a rising list [R130; 16,384; none,
  DESIGN CHOICE log 1] -/
  single : List Nat
  /-- the cycle at which zeroing ends [R124; Nat; 0, DESIGN CHOICE log 1] -/
  drainEnd : Nat
  /-- elements that a SETST has converted for slots it has not yet fired [R124, R126; as held; empty, DESIGN CHOICE log 1] -/
  staged : Table Nat
  deriving DecidableEq, Repr

/-- An ordinary bank. -/
def Bank.init : Bank := ⟨.ordinary, .untyped, 0, [], 0, [], 0, []⟩

/-- An accumulator tile (R284). -/
structure Tile where
  /-- mode [R284; 3; NONE] -/
  mode : AccMode
  /-- sticky NV [R172, R284; 1; 0] -/
  nv : Bool
  /-- sticky OF [R172, R284; 1; 0] -/
  ovf : Bool
  /-- sticky SAT [R172, R284; 1; 0] -/
  sat : Bool
  /-- the 16 KiB of data, bytes that are not zero [R139, R284; 16,384 × 8; 0] -/
  data : List Host.Cell
  deriving DecidableEq, Repr

/-- A cleared tile (R284). -/
def Tile.init : Tile := ⟨.none, false, false, false, []⟩

/-- The rotation buffer's tile (R289): its format and its elements at row × D + column, each 1 + raw code × 256 + scale exponent byte; an
element that ZPAD made zero is not listed (R161, R163, R287). -/
structure RotTile where
  fmt : Fmt
  elems : Table Nat
  deriving DecidableEq, Repr

/-- The matrix commands (R281). -/
inductive MOp where
  | setst | relst | aclr | ast | ald | mma | mmag | mrot | mrotBuf
  deriving DecidableEq, Repr

/-- An entry of the matrix command queue (R281): a command with its copies of the maps it names and of FCTL. -/
structure MCmd where
  id : Nat
  op : MOp
  strand : Nat
  act : Nat
  actseq : Word
  pc : Word
  audit : Bool
  claim : Nat
  t : Fmt
  /-- the accumulator, or the bank of SETST and RELST -/
  d : Nat
  /-- the slot, or the tile count of SETST -/
  n : Nat
  across : Bool
  mode : AccMode
  map : BitVec 512
  fctl : Word
  /-- rows completed, or slots of a SETST -/
  row : Nat
  /-- AST: flags of the rows written so far (R291) -/
  flags : Nat
  /-- MMAG, MROT: the joint has formed (R288, R289); MROT: the rows of A read so far, as the rotation buffer holds them -/
  formed : Bool
  tile : Table Nat
  /-- the matrix trap that stopped it: cause, detail, kind and address (R282) -/
  fault : Option (Nat × Nat × Nat × Nat)
  deriving DecidableEq, Repr

/-- Where a copy request stands (R106–R117). -/
inductive CopyPhase where
  | queued | running | arriving (id : Nat) | messaging
  deriving DecidableEq, Repr

/-- A copy request (R103, R104, R113). -/
structure CopyReq where
  id : Nat
  w0 : Word
  w1 : Word
  w2 : Word
  w3 : Word
  strand : Nat
  act : Nat
  audit : Bool
  /-- accesses of the issuing strand numbered below this are performed first (R107) -/
  mark : Nat
  phase : CopyPhase
  /-- source bytes read so far -/
  cursor : Nat
  /-- destination bytes written, or received from the partner -/
  written : Nat
  /-- a burst read but not yet written -/
  buf : Option (List Byte)
  /-- bulk frames of this request that are not yet acknowledged -/
  inflight : Nat
  paused : Bool
  aborted : Bool
  /-- exchanges: which exchange towards the partner this is, and whether the two have met (R114) -/
  ordinal : Nat
  paired : Bool
  deriving DecidableEq, Repr

/-- A copy engine (R106, R112). -/
structure CopyEngine where
  /-- command queue [R106; 2 entries; empty] -/
  q : List CopyReq
  /-- LASTTAG [R112; 8; 0] -/
  lastTag : Nat
  /-- LASTST [R112; 8; 0] -/
  lastSt : Nat
  /-- DONE [R112; 16; 0] -/
  done : Nat
  /-- abort mask [R112; 256; 0] -/
  aborts : BitVec 256
  /-- REQ allowances [R111, R186; 2; 2] -/
  allow : Nat
  /-- exchanges issued towards each partner core [R114; Nat; 0, DESIGN CHOICE log 1] -/
  exchanges : Table Nat
  /-- exchanges, by partner core and ordinal, that were refused or aborted before the partner met them [R113, R117; list; empty,
  DESIGN CHOICE log 1] -/
  ended : List (Nat × Nat)
  deriving DecidableEq, Repr

/-- An idle copy engine. -/
def CopyEngine.init : CopyEngine := ⟨[], 0, 0, 0, 0, 2, [], []⟩

/-- A continuation left by YIELD (R315). -/
structure Cont where
  frame : Nat
  cls : Nat
  act : Nat
  actseq : Word
  rres : Bool
  pc : Word
  strand : Nat
  sticky : List Nat
  /-- the hods that the activation holds, as in a strand (R314) -/
  hod : Option Nat
  built : List Nat
  /-- following, and the last release fence, as in a strand (R228, R318) -/
  fol : Nat
  followed : Bool
  relMark : Nat
  relSys : Bool
  deriving DecidableEq, Repr

/-- What an inbox slot or ring entry is a candidate for (R352). -/
inductive SlotKind where
  | message
  /-- a COUNTER message that fired: its class (R192) -/
  | fired (cls : Nat)
  | cont (c : Cont)
  /-- an entry taken by the idle step (R356) -/
  | stolen
  /-- a trap message of a strand (R365) -/
  | trapped (strand act : Nat)
  /-- a HOD message: the forward, and the landing slot once it has landed (R195, R196) -/
  | hod (fwd : Nat) (landed : Option Nat)
  /-- a diverted wake-up: its reply (R99) -/
  | wake (rep : Nat)
  deriving DecidableEq, Repr

/-- An inbox slot that holds a message (R187): partition 0 REQ, 1 RSP, 2 SYS, 3 HOD. -/
structure Slot where
  part : Nat
  slot : Nat
  msg : Msg
  bad : BitVec 8
  arr : Nat
  kind : SlotKind
  /-- MODEL'S OWN: the stores a sender ordered before the message by a release fence are those numbered below this (R301) -/
  src : Nat
  deriving DecidableEq, Repr

/-- An entry of a spill ring (R188): its place in the ring, its arrival and its kind; its 64 bytes lie in memory. -/
structure RingEnt where
  pos : Nat
  arr : Nat
  kind : SlotKind
  src : Nat
  deriving DecidableEq, Repr

/-- A spill ring (R188, R191). -/
structure Ring where
  /-- entries, oldest first [R188; list; empty, DESIGN CHOICE log 1] -/
  ents : List RingEnt
  /-- the next entry to write [R188; Nat; 0, DESIGN CHOICE log 1] -/
  tail : Nat
  /-- the read of the head failed, so the ring counts as full [R191; 1; 0, DESIGN CHOICE log 1] -/
  rfail : Bool
  /-- the write of a message failed, so the ring counts as full: the flit that waits for it, or 0 for a message that has gone another
  way [R191; Nat; none, DESIGN CHOICE log 1] -/
  wfail : Option Nat
  /-- a failure has been reported since the last access that succeeded [R191; 1; 0, DESIGN CHOICE log 1] -/
  reported : Bool
  /-- the cycle of the last retry [R191; Nat; 0, DESIGN CHOICE log 1] -/
  tried : Nat
  deriving DecidableEq, Repr

/-- An empty ring. -/
def Ring.init : Ring := ⟨[], 0, false, none, false, 0⟩

/-- A replay in progress on a spare core (R376). -/
structure Replay where
  entry : Nat
  /-- the original core, whose COORD the replay reads -/
  orig : Nat
  panel : Nat
  shadow : List Host.Cell
  inputs : List Host.Cell
  digest : Option Word
  trapped : Bool
  overflow : Bool
  deriving DecidableEq, Repr

/-- A core: logical, foreman or spare (R13, R143). -/
structure Core where
  /-- the running launch's number, 0 for none [R26, R362; Nat; 0, DESIGN CHOICE log 1] -/
  launch : Nat
  /-- the launch's domain, 0x0000 for a foreman [R16, R26; 16; 0, DESIGN CHOICE log 1] -/
  domain : Nat
  /-- strands 0–3 [R13; 4; each free] -/
  strands : Table Strand
  /-- frames in use [R134, R135; 32; 0] -/
  frames : BitVec 32
  /-- pending marks of each frame [R51, R52; 32 × 32; 0] -/
  pend : Table (BitVec 32)
  /-- ACTSEQ [R143, R348; 64; 0] -/
  actseq : Word
  /-- TRAPMASK [R143, R145; 64; 0, DESIGN CHOICE log 1] -/
  trapmask : Word
  /-- DQBASE [R143, R303; 64; 0, DESIGN CHOICE log 1] -/
  dqbase : Word
  /-- DQLIM [R143, R303; 64; 0, DESIGN CHOICE log 1] -/
  dqlim : Word
  /-- DQHEAD [R143, R303; 64; 0, DESIGN CHOICE log 1] -/
  dqhead : Word
  /-- DQTAIL [R143, R303; 64; 0, DESIGN CHOICE log 1] -/
  dqtail : Word
  /-- STEALMASK [R143, R356; 64; 0] -/
  stealmask : Word
  /-- HODAREA [R143, R195; 64; NSLOT 4, BUSY 0, BASE 0 DESIGN CHOICE log 1] -/
  hodarea : Word
  /-- SPILLQ [R143, R190; 64; K 16, BASE 0 DESIGN CHOICE log 1] -/
  spillq : Word
  /-- PRIOAGE [R143, R355; 64; K 16] -/
  prioage : Word
  /-- AUDSEED [R143, R346; 64; 0, DESIGN CHOICE log 1] -/
  audseed : Word
  /-- TBLSTAT [R143, R159, R348; 64; 0] -/
  tblstat : Word
  /-- active bank [R129; 1; 0] -/
  active : Nat
  /-- stationary banks 0 and 1 [R124; 2; ORDINARY] -/
  banks : Table Bank
  /-- accumulator tiles a0–a3 [R139, R284; 4 × 16 KiB; NONE] -/
  tiles : Table Tile
  /-- rotation buffer [R289; 8 KiB; empty] -/
  rot : Option RotTile
  /-- matrix command queue [R281; 8 entries; empty] -/
  mq : List MCmd
  /-- the queue is stopped by a matrix trap [R282; 1; 0, DESIGN CHOICE log 1] -/
  mstop : Bool
  /-- copy engine [R106, R112; see its fields] -/
  copy : CopyEngine
  /-- inbox slots in use [R187; 64 × 64 bytes; empty] -/
  inbox : List Slot
  /-- spill rings REQ, RSP, SYS, HOD [R188; 4; empty] -/
  rings : Table Ring
  /-- hod-engine allowances [R186; 4; 4] -/
  hodAllow : Nat
  /-- the cycle of the last idle step [R356; Nat; 0, DESIGN CHOICE log 1] -/
  idleAt : Nat
  /-- the victim the idle step tries next [R356; 10; own number at launch] -/
  stealAt : Nat
  /-- bond rectangle, in the form of R344 [R316; 16; none] -/
  bond : Option Nat
  /-- the core is pre-empted [R368; 1; 0, DESIGN CHOICE log 1] -/
  preempted : Bool
  /-- saved for a change of domain and not yet restored by CTXLOAD [R368, R370; 1; 0, DESIGN CHOICE log 1] -/
  saved : Bool
  /-- core TLB [R34; 64 entries; empty, DESIGN CHOICE log 1] -/
  tlb : List TlbEnt
  /-- the launch's priority for class 0 and its audit fraction [R346, R353, R374; 2 and 4; 0, DESIGN CHOICE log 1] -/
  prio : Nat
  audf : Nat
  /-- the replay this spare core hosts [R376; none] -/
  replay : Option Replay
  /-- accesses of its strands that cannot be performed until its matrix queue or a parked strand goes on, while the core is saved for
  another domain [R146, R290; list; empty] -/
  held : List Acc
  deriving DecidableEq, Repr

/-- A core that belongs to nobody. -/
def Core.init : Core :=
  { launch := 0, domain := 0, strands := [], frames := 0, pend := [], actseq := 0, trapmask := 0, dqbase := 0, dqlim := 0,
    dqhead := 0, dqtail := 0, stealmask := 0, hodarea := 0x400000, spillq := 16, prioage := 16, audseed := 0, tblstat := 0,
    active := 0, banks := [], tiles := [], rot := none, mq := [], mstop := false, copy := .init, inbox := [], rings := [],
    hodAllow := 4, idleAt := 0, stealAt := 0, bond := none, preempted := false, saved := false, tlb := [], prio := 0, audf := 0,
    replay := none, held := [] }

/-- Run state of a footing core (R46). -/
inductive FRun where
  | halted | running | waiting
  deriving DecidableEq, Repr

/-- Power state of a pseudo-channel (R63–R65). -/
inductive FPower where
  | awake | down | refresh
  deriving DecidableEq, Repr

/-- The commands of a footing unit (R294). -/
inductive UOp where
  | floado | fstart | fcmd
  deriving DecidableEq, Repr

/-- A command in a footing unit's queue (R46, R294): its issuer, the register its reply goes to, and its operands. -/
structure UCmd where
  op : UOp
  core : Nat
  strand : Nat
  frame : Nat
  reg : Nat
  launch : Nat
  domain : Nat
  a : Word
  b : Word
  /-- arrival order among commands and demand accesses (R54) -/
  seq : Nat
  deriving DecidableEq, Repr

/-- The image that a forced power-down writes to the save area (R45, R64). -/
structure USave where
  overlay : List Host.Cell
  data : List Host.Cell
  pc : Nat
  run : FRun
  lanes : Table (BitVec 40)
  flags : Table Nat
  deriving DecidableEq, Repr

/-- A footing unit and its pseudo-channel (R46). -/
structure Unit where
  /-- code overlay, bytes that are not zero [R46; 4 KiB; 0, DESIGN CHOICE log 1] -/
  overlay : List Host.Cell
  /-- data memory, of which bytes 0x000–0x07F are w0–w15 [R46; 2 KiB; 0, DESIGN CHOICE log 1] -/
  data : List Host.Cell
  /-- PC [R46; 12; 0, DESIGN CHOICE log 1] -/
  pc : Nat
  /-- IMMX prefixes already read [R207; list of 27; empty, DESIGN CHOICE log 1] -/
  imx : List (BitVec 27)
  /-- run state [R46, R49; 3 values; HALTED] -/
  run : FRun
  /-- bank accumulators, lane l of bank n at n × 64 + l [R46; 1,024 × 40; 0] -/
  lanes : Table (BitVec 40)
  /-- sticky flags of each bank, NX, UF, OF and NV at the bits of R297 [R46; 16 × 4; 0] -/
  flags : Table Nat
  /-- command queue [R46; 8 entries; empty] -/
  q : List UCmd
  /-- block grant, first block and count [R46, R347; 4 ranges; empty] -/
  grants : List (Nat × Nat)
  /-- owner: launch and core [R46; none] -/
  owner : Option (Nat × Nat)
  /-- current command [R296; none, DESIGN CHOICE log 1] -/
  cmd : Option UCmd
  /-- value given to FREPLY [R53; 64; 0, DESIGN CHOICE log 1] -/
  reply : Word
  /-- open block of each bank [R297; 16 × 14; none, DESIGN CHOICE log 1] -/
  openBlk : Table (Option Nat)
  /-- the command at the head is parked: cause, kind and address [R37; none] -/
  parked : Option (Nat × Nat × Nat)
  /-- status word: the detail of the last fault [R48; 8; 0, DESIGN CHOICE log 1] -/
  status : Nat
  /-- power state [R63; 3 values; awake, DESIGN CHOICE log 1] -/
  power : FPower
  /-- forced requests are stopping the unit: the cycle the first began, and of each, oldest first, the state asked for and the reply
  address [R64; none, DESIGN CHOICE log 1] -/
  stopping : Option (Nat × List (FPower × Nat))
  /-- save area [R45, R64; 16 KiB; none, DESIGN CHOICE log 1] -/
  save : Option USave
  deriving DecidableEq, Repr

/-- A unit that nobody owns (R49). -/
def Unit.init : Unit :=
  { overlay := [], data := [], pc := 0, imx := [], run := .halted, lanes := [], flags := [], q := [], grants := [], owner := none,
    cmd := none, reply := 0, openBlk := [], parked := none, status := 0, power := .awake, stopping := none, save := none }

/-- Where a FRED stands (R56–R59). -/
inductive FredPhase where
  | check | chunks | completing | arriving (id : Nat)
  deriving DecidableEq, Repr

/-- A FRED in a reduction engine (R55–R59). -/
structure Fred where
  core : Nat
  strand : Nat
  act : Nat
  frame : Nat
  reg : Nat
  launch : Nat
  domain : Nat
  /-- virtual address of the parameter block -/
  block : Nat
  /-- the eight words of the block, once read -/
  words : List Word
  phase : FredPhase
  /-- next element to reduce -/
  next : Nat
  /-- parked: cause, kind, address and mortar status -/
  parked : Option (Nat × Nat × Nat × Nat)
  deriving DecidableEq, Repr

/-- The reduction engine and base-die TLB of one stack (R35, R59). -/
structure Stack where
  /-- FRED queue [R59; 16 entries; empty, DESIGN CHOICE log 1] -/
  q : List Fred
  /-- base-die TLB [R35; 256 entries; empty, DESIGN CHOICE log 1] -/
  tlb : List TlbEnt
  deriving DecidableEq, Repr

/-- A stack with nothing to do. -/
def Stack.init : Stack := ⟨[], []⟩

/-- Who issued a mortar request (R98, R328). -/
inductive Issuer where
  | strand (core strand : Nat)
  | copy (core strand : Nat)
  | fred (stack core strand : Nat)
  /-- the LOCK.REL that a condition's home sends for a waiter (R95) -/
  | condRel (cond waiter : Nat)
  /-- the re-issued LOCK.ACQ of a moved waiter, and the operation that moved it (R95, R96) -/
  | condAcq (batch core strand : Nat)
  deriving DecidableEq, Repr

/-- A mortar request in flight or parked (R83, R88). -/
structure MReq where
  id : Nat
  iss : Issuer
  /-- issuer identity (R89) -/
  ident : Word
  op : Nat
  scope : Scope
  ord : Order
  /-- physical line address -/
  line : Nat
  dom : Nat
  arg : Word
  /-- data bytes, as a number -/
  data : Nat
  /-- MINIT: physical address, page bytes and attributes of the translated operand (R233) -/
  basePa : Nat
  basePage : Nat
  baseAttr : BitVec 9
  /-- accesses of the issuing strand numbered below this are performed first (R85) -/
  mark : Nat
  relSys : Bool
  /-- the target port has admitted a request from another package (R381) -/
  admitted : Bool
  /-- the package that issued it -/
  from_ : Nat
  /-- the launch that its issuer ran (R101) -/
  launch : Nat
  deriving DecidableEq, Repr

/-- A reply or wake-up on its way to an issuer (R99, R232). -/
structure MRep where
  id : Nat
  iss : Issuer
  /-- the operation that was performed -/
  op : Nat
  status : Nat
  r1 : Word
  r2 : Word
  bytes : Nat
  /-- a trap cause, or 0 -/
  cause : Nat
  /-- completed after parking, so an acquire at its own scope (R85) -/
  wake : Bool
  scope : Scope
  ord : Order
  line : Nat
  /-- the package towards which a request without an answer failed (R102) -/
  peer : Nat
  /-- the launch that the issuer ran (R101) -/
  launch : Nat
  deriving DecidableEq, Repr

/-- A wait entry (R98, Table 10). -/
structure WaitEnt where
  idx : Nat
  ticket : Nat
  req : MReq
  deriving DecidableEq, Repr

/-- A line that an L2 slice holds (R66, R69): its way, whether it is dirty, and the 64-bit words of a clean copy that have a parity
error (R77). -/
structure L2Line where
  line : Nat
  way : Nat
  dirty : Bool
  badParity : BitVec 8
  deriving DecidableEq, Repr

/-- An L2 slice and its mortar processor (R66, R76, R97). -/
structure Slice where
  /-- parked requests, oldest first, with their entry numbers [R97, R98; 512 + 2,048 entries; empty] -/
  waits : List WaitEnt
  /-- lines held [R66, R69; 2,048 sets × 48 ways; empty, DESIGN CHOICE log 1] -/
  lines : List L2Line
  /-- L2ECNT.CORR [R76, R79; 16; 0] -/
  corr : Nat
  /-- L2ECNT.UNC [R76, R79; 16; 0] -/
  unc : Nat
  /-- L2ECNT.LAST [R76, R79; 16; 0] -/
  last : Nat
  deriving DecidableEq, Repr

/-- A slice with nothing in it. -/
def Slice.init : Slice := ⟨[], [], 0, 0, 0⟩

/-- A line of another package in the remote partition (R71). -/
structure RLine where
  /-- the accessing package and the physical line number -/
  pkg : Nat
  line : Nat
  way : Nat
  data : BitVec 512
  valid : BitVec 64
  dirty : BitVec 64
  /-- the domain of the access that last wrote or filled it, which its write-back carries (R76, R381) -/
  dom : Nat
  /-- words of a clean copy with a parity error (R77) -/
  parity : BitVec 8
  /-- words of a dirty copy with a single-bit error, and poisoned words (R78) -/
  single : BitVec 8
  poison : BitVec 8
  /-- a ZERO has written the line since its last write-back, which clears the home's scope record (R343) -/
  zeroed : Bool
  /-- the strands, by core, strand and activation, whose stores its dirty bytes hold: their sticky bits are set where the write-back fails
  (R224, R383) -/
  writers : List (Nat × Nat × Nat)
  deriving DecidableEq, Repr

/-- A compute die (R13, R29, R76). -/
structure Die where
  /-- root table of each domain [R16, R29; 40 bits; none, DESIGN CHOICE log 1] -/
  roots : Table Nat
  /-- the foreman's global root [R30; 40 bits; none, DESIGN CHOICE log 1] -/
  global : Option Nat
  /-- package set of each domain, as a rising list [R29; 2,048 bytes; empty, DESIGN CHOICE log 1] -/
  pkgset : Table (List Nat)
  /-- walk cache [R34; 256 entries; empty, DESIGN CHOICE log 1] -/
  walks : List WalkEnt
  /-- L2CFG: DPART and REMSZ [R75, R76; 64; 0] -/
  l2cfg : Word
  /-- L2PCLS n [R76; 16 × 64; DOMAIN 0, WAYS all ones] -/
  l2pcls : Table Word
  /-- 64 KiB frames, with the domain, of the accesses without FO on which the prefetcher has trained [R61, R69; list; none, DESIGN
  CHOICE log 1] -/
  trained : List (Nat × Nat)
  deriving DecidableEq, Repr

/-- A die after reset. -/
def Die.init : Die := ⟨[], none, [], [], 0, [], []⟩

/-- A health-table entry (R377, Table 8). -/
structure Health where
  /-- CORR [R377; 16; 0] -/
  corr : Nat
  /-- Q [R377; 1; 0] -/
  q : Bool
  /-- S [R377; 1; 0] -/
  s : Bool
  /-- H [R377; 1; 0] -/
  h : Bool
  /-- SCORE [R377; 8; 0] -/
  score : Nat
  deriving DecidableEq, Repr

/-- A healthy core. -/
def Health.init : Health := ⟨0, false, false, false, 0⟩

/-- An entry of a panel's audit ring (R374). -/
structure AuditEnt where
  id : Nat
  /-- the launch of the activation -/
  launch : Nat
  cls : Nat
  q : Word
  core : Nat
  strand : Nat
  frame : Nat
  msg : Msg
  /-- the 16 tensor maps and the decode table, as bytes -/
  tables : List Byte
  tblstat : Word
  inputs : List Host.Cell
  /-- declared output regions are those of these maps -/
  audmaps : Nat
  copy : Nat
  /-- digest of the original, once its END has formed it -/
  digest : Option Word
  /-- physical cores and digests of the replays so far -/
  votes : List (Nat × Option Word)
  /-- the physical core that ran the original (R376, R377) -/
  phys : Nat
  /-- SUPV of the original's launch (R366) -/
  supv : Word
  deriving DecidableEq, Repr

/-- A panel and its foreman's hardware and firmware state (R13, R348, R390). -/
structure Panel where
  /-- messages in the foreman's SYS partition, oldest first [R187, R390; 8 slots; empty, DESIGN CHOICE log 1] -/
  sys : List Msg
  /-- messages in the inbox aperture [R390; 16; empty, DESIGN CHOICE log 1] -/
  aperture : List Msg
  /-- DROP [R390; 16; 0, DESIGN CHOICE log 1] -/
  drop : Nat
  /-- messages logged in control space [R349, R360, R408; list; empty, DESIGN CHOICE log 1] -/
  log : List Msg
  /-- panel TLB [R34; 512 sets × 8 ways; empty, DESIGN CHOICE log 1] -/
  tlb : List TlbEnt
  /-- remap entry of each panel row [R377; 8 × 64; 0] -/
  remap : Table Word
  /-- health table [R377; 136 entries; 0] -/
  health : Table Health
  /-- audit ring [R374; 16 MiB; empty, DESIGN CHOICE log 1] -/
  ring : List AuditEnt
  /-- skips counted [R374, R376; Nat; 0, DESIGN CHOICE log 1] -/
  skips : Nat
  /-- the panel has been reported DEGRADED [R377; 1; 0, DESIGN CHOICE log 1] -/
  degraded : Bool
  /-- aging interval k [R14, R355; 5; 16] -/
  aging : Nat
  deriving DecidableEq, Repr

/-- A panel after reset. -/
def Panel.init : Panel := ⟨[], [], 0, [], [], [], [], [], 0, false, 16⟩

/-- A mode change that the foreman holds (R15, R393). -/
structure ModeReq where
  mode : Nat
  target : Nat
  cls : Nat
  value : Word
  reply : Nat
  deriving DecidableEq, Repr

/-- A Nelyen port direction (R385, R387). -/
structure Port where
  /-- working lanes [R385; 4; all working, DESIGN CHOICE log 1] -/
  lanes : BitVec 4
  /-- working buffer banks [R385; 4; all working, DESIGN CHOICE log 1] -/
  banks : BitVec 4
  /-- BULK dropped [R387; 1; 0, DESIGN CHOICE log 1] -/
  bulkDropped : Bool
  /-- fenced [R387; 1; 0, DESIGN CHOICE log 1] -/
  fenced : Bool
  /-- reserve policy applied at this port [R15, R385; 2; 0] -/
  policy : Nat
  deriving DecidableEq, Repr

/-- A port with every lane and bank working. -/
def Port.init : Port := ⟨15, 15, false, false, 0⟩

/-- The boot chain (R394). -/
inductive Boot where
  | off | booted | failed (stage : Nat)
  deriving DecidableEq, Repr

/-- An SPDM request answered over DOE (R395). -/
structure SpdmAnswer where
  code : Nat
  req : Nat
  payload : List Nat
  deriving DecidableEq, Repr

/-- The capability word of a QK7: REV 0x07, FMTS 0xFFFF, FEAT 0x00FF (R382). -/
def qk7Word : Word := 0x07FFFF00000000FF

/-- Package-wide state (R14, R382, R384, R391, R394). -/
structure Pkg where
  /-- CIM power mode is narrow-only [R14, R131; 1; full rate] -/
  narrow : Bool
  /-- wait-list cap [R14, R97; 10; 512] -/
  cap : Nat
  /-- virtual-channel reserve policy [R14, R385; 2; 0] -/
  policy : Nat
  /-- held mode changes, oldest first [R15; list; empty, DESIGN CHOICE log 1] -/
  held : List ModeReq
  /-- core clock in MHz [R391; Nat; 2,500] -/
  clock : Nat
  /-- Nelyen ports [R385; 12; all working] -/
  ports : Table Port
  /-- capability word of the package [R382; 64; 0x07FFFF00000000FF, a QK7's] -/
  word : Word
  /-- capability words of the peers [R382; 16,384 × 64; 0] -/
  peers : Table Word
  /-- routing table: the port of a destination, 12 for none [R384; 16,384 × 4; dimension order, DESIGN CHOICE log 1] -/
  routes : Table Nat
  /-- torus size [R384; 3 × 6; 32 × 32 × 16, DESIGN CHOICE log 1] -/
  torus : Nat × Nat × Nat
  /-- measurement registers 1–5 [R394; 5 × 384; 0, DESIGN CHOICE log 1] -/
  meas : Table (BitVec 384)
  /-- boot chain [R394; 3 values; not yet run] -/
  boot : Boot
  /-- host windows by domain: base and size [R389; Nat; none, DESIGN CHOICE log 1] -/
  windows : Table (Nat × Nat)
  /-- answers given over DOE [R395; list; empty, DESIGN CHOICE log 1] -/
  spdm : List SpdmAnswer
  /-- the end of the last error window [R79; Nat; 0, DESIGN CHOICE log 1] -/
  windowAt : Nat
  /-- messages to the host [R377, R387; list; empty, DESIGN CHOICE log 1] -/
  hostLog : List Msg
  /-- the line whose scope record the foreman has selected [R340; 53; 0, DESIGN CHOICE log 12] -/
  recordAt : Nat
  /-- results of host reads over CXL.mem, none for a poisoned one [R388, R390; list; empty, DESIGN CHOICE log 1] -/
  hostReads : List (Option Nat)
  deriving DecidableEq, Repr

/-- A package after reset. -/
def Pkg.init : Pkg :=
  { narrow := false, cap := 512, policy := 0, held := [], clock := 2500, ports := [], word := qk7Word, peers := [], routes := [],
    torus := (32, 32, 16), meas := [], boot := .off, windows := [], spdm := [], windowAt := 0,
    hostLog := [], recordAt := 0, hostReads := [] }

/-- Where a launch stands (R348, R360): in the queue, between step 4 of its start and step 6, running, or ending. -/
inductive LState where
  | queued | starting | running | ending
  deriving DecidableEq, Repr

/-- Everything that step 3 of R348 reads: the header as a number, the images and tables, the register image and the footing list. -/
structure Image where
  head : Nat
  code : List Byte
  data : List Byte
  rtab : List Byte
  tmap : List Byte
  ctr : List Byte
  dtbl : List Byte
  regs : Nat
  foot : Nat
  deriving DecidableEq, Repr

/-- A launch (R345–R349): what its packet and image header give. -/
structure Launch where
  id : Nat
  /-- the panel of its foreman -/
  panel : Nat
  packet : Msg
  state : LState
  /-- a LAUNCH END has been received (R360) -/
  endAsked : Bool
  /-- the image header, 128 bytes as words, once read -/
  header : List Word
  /-- the register image, 4,608 bytes as a number, once read (R145, R347) -/
  regs : Nat
  /-- park entries in use (R198) -/
  parked : List Nat
  /-- units granted (R348) -/
  units : List Nat
  /-- addresses of the leaf entries that were marked FO (R348, R362) -/
  marked : List Nat
  /-- what step 3 has read, while the launch starts (R348) -/
  image : Option Image
  /-- shootdowns that a change of its FO marks awaits (R41, R348, R362) -/
  shoots : List Nat
  /-- the status, 3 ENDED or 4 ABORTED, that is written once its FO marks are removed (R362) -/
  closing : Option Nat
  /-- the cycle since which the launch has been still (R359) -/
  still : Option Nat
  reported : Bool
  deriving DecidableEq, Repr

/-- A Nelyen BULK frame (R380, R386). -/
inductive BulkKind where
  | copyRead (pa n : Nat) (attr : BitVec 9)
  | copyWrite (pa : Nat) (attr : BitVec 9) (data : List Byte)
  /-- a CPX half: offset in the partner's buffer and the bytes for it -/
  | exchange (off : Nat) (data : List Byte)
  /-- a hod pull from a holder on another package: the forward -/
  | hodPull (fwd : Nat)
  deriving DecidableEq, Repr

/-- A transfer on its way (R386); exchanges inside a package use the same form. -/
structure Bulk where
  id : Nat
  core : Nat
  req : Nat
  /-- target package and, for exchanges, target core -/
  pkg : Nat
  target : Nat
  dom : Nat
  kind : BulkKind
  deriving DecidableEq, Repr

/-- Where a flit is (R177–R179). -/
inductive FlitLoc where
  /-- waiting to be injected since a cycle -/
  | waiting (since : Nat)
  /-- on the link from router `via` to router (x, y), which it reaches in a cycle -/
  | at_ (x y from_ via : Nat)
  /-- in the ejection queue of its class at its destination -/
  | queued
  /-- in the resequencing buffer of its class there -/
  | held
  deriving DecidableEq, Repr

/-- A message flit (R176, Table 2). -/
structure Flit where
  id : Nat
  pkg : Nat
  sx : Nat
  sy : Nat
  dx : Nat
  dy : Nat
  /-- DEP: 0 core, 3 foreman, 4 Nelyen port, 5 host -/
  dep : Nat
  /-- NCLS: 0 REQ, 1 RSP, 4 SYS -/
  cls : Nat
  seq : Nat
  age : Nat
  loc : FlitLoc
  msg : Msg
  bad : BitVec 8
  /-- words with a single-bit error, and an uncorrectable route header (R181) -/
  single : Bool
  badHeader : Bool
  /-- whose allowance returns: none, a strand's REQ or RSP, a copy engine's, a hod engine's -/
  owner : Option Issuer
  /-- the activation of the strand that sent it -/
  act : Nat
  rsp : Bool
  /-- it went by the reserved reply, which holds no allowance (R186) -/
  reserved : Bool
  hodOwner : Option Nat
  /-- domain of the sender and the forward of a HOD message -/
  dom : Nat
  fwd : Nat
  /-- the launch that the message is for, or 0 where the target core ran none when it was sent (R409) -/
  launch : Nat
  /-- accesses of the sender below this are ordered before the message (R301) -/
  src : Nat
  /-- the package that it has come from over Nelyen, once it is in the target's grout (R379, R386) -/
  via : Option Nat
  deriving DecidableEq, Repr

/-- An allowance on its way back (R186): its holder, and whether the message failed (R300). -/
structure Ret where
  id : Nat
  core : Nat
  strand : Nat
  /-- 0 a strand's REQ allowance, 1 its RSP allowance, 2 the copy engine's, 3 the hod engine's, 4 none: the failure of a message that
  went by the reserved reply -/
  kind : Nat
  act : Nat
  /-- the package that the message went to (R229, R386) -/
  peer : Nat
  failedPkg : Option Nat
  deriving DecidableEq, Repr

/-- A DQSTEAL on its way to its target (R304). -/
structure Steal where
  id : Nat
  core : Nat
  strand : Nat
  target : Nat
  d : Nat
  len : Nat
  deriving DecidableEq, Repr

/-- A RESUME or PREEMPT packet (R323, R366). -/
structure Packet where
  id : Nat
  /-- 0x18 PREEMPT or 0x19 RESUME PACKET -/
  sfn : Nat
  action : Nat
  target : Word
  /-- the strand that waits for the reply, and its destination register -/
  back : Option (Nat × Nat × Nat)
  deriving DecidableEq, Repr

/-- A shootdown in progress (R38, R39). -/
structure Shoot where
  id : Nat
  core : Nat
  strand : Nat
  dom : Nat
  lo : Nat
  /-- one past the last byte, or 0 for the whole domain -/
  hi : Nat
  scope : Scope
  /-- packages that it has not reached yet -/
  left : List Nat
  /-- work numbered below this was begun before the last arrival, so that it may still use a named translation (R39) -/
  mark : Nat
  deriving DecidableEq, Repr

/-- A hod forward in progress (R196). -/
structure HodFwd where
  id : Nat
  /-- the core whose hod engine forwards it, and that core's launch -/
  core : Nat
  launch : Nat
  /-- the core whose hod engine has sent it, with an allowance of that engine (R186, R311) -/
  sender : Nat
  dom : Nat
  /-- virtual address of the header, and the landing slot or park entry that it lies in -/
  addr : Nat
  slot : Option Nat
  park : Option Nat
  ident : Word
  target : Nat
  cls : Nat
  hid : Word
  /-- acknowledged: 0 landed, or the cause of a failed pull (R196) -/
  ack : Option Nat
  /-- the bytes that a pull from another package has fetched -/
  fetched : Option (List Byte)
  deriving DecidableEq, Repr

/-- A reply to a footing command or FRED on its way (R51, R53). -/
structure FReply where
  id : Nat
  core : Nat
  frame : Nat
  reg : Nat
  launch : Nat
  value : Word
  deriving DecidableEq, Repr

/-- Who executes instructions now. -/
inductive Actor where
  | none
  | strand (core strand : Nat)
  | unit (unit : Nat)
  deriving DecidableEq, Repr

/-- One turn of the schedule: a processor executes its next instruction, a unit takes a step of the opcode table, time passes,
or something reaches the machine from outside. -/
inductive Turn where
  | run (a : Actor)
  | event (i : Instr)
  | tick (n : Nat)
  /-- a host store to its own memory (R389) -/
  | hostStore (addr : Nat) (b : Byte)
  /-- a line of host memory becomes poisoned or good (R388) -/
  | hostPoison (line : Nat) (bad : Bool)
  /-- a memory word gains a single-bit error or an uncorrectable one (R78) -/
  | bitError (word : Nat) (double : Bool)
  /-- a word of a clean L2 line gains a parity error (R77) -/
  | parityError (slice line word : Nat)
  /-- a word of a line of a remote partition gains an error (R77, R78) -/
  | remoteError (pkg line word : Nat) (double : Bool)
  /-- a 64-bit word of a fired bank gains an error (R130) -/
  | bankError (core bank word : Nat) (double : Bool)
  /-- a flit gains an error: 0 single-bit, 1 in a body word, 2 in the route header (R181) -/
  | flitError (flit kind : Nat)
  deriving DecidableEq, Repr

/-- A system of QK7 packages. -/
structure State where
  /-- HBM and scratchpads of every package by 53-bit physical address, bytes that are not zero [R23, R24, R119; 8; an unlisted
  byte reads 0, DESIGN CHOICE log 2] -/
  mem : List Host.Cell
  /-- poisoned 64-bit words, by physical address ÷ 8 [R78; 1 per word; none, DESIGN CHOICE log 1] -/
  poison : List Nat
  /-- words with a single-bit error not yet corrected [R78; 1 per word; none, DESIGN CHOICE log 1] -/
  single : List Nat
  /-- scope records by physical address ÷ 64 [R340; 32 per line; 0] -/
  records : Table (BitVec 32)
  /-- host memory by host physical address [R104, R389; 8; 0, DESIGN CHOICE log 2] -/
  host : List Host.Cell
  /-- 64-byte lines of host memory, by host physical address ÷ 64, that the host link delivers poisoned [R388; 1 per line; none,
  DESIGN CHOICE log 1] -/
  hostPoison : List Nat
  /-- cores [R12, R13; see its fields] -/
  cores : Table Core
  /-- footing units and their pseudo-channels [R46; see its fields] -/
  units : Table Unit
  /-- reduction engines and base dies [R35, R59; see its fields] -/
  hbms : Table Stack
  /-- L2 slices and mortar processors [R66; see its fields] -/
  slices : Table Slice
  /-- compute dies [R13; see its fields] -/
  dies : Table Die
  /-- panels [R13; see its fields] -/
  panels : Table Panel
  /-- packages [R1, R14; see its fields] -/
  pkgs : Table Pkg
  /-- remote-partition lines [R70, R71; 64 bytes and two 64-bit masks; none] -/
  rlines : List RLine
  /-- launches queued or running [R348; list; none] -/
  launches : List Launch
  /-- memory accesses in flight [R331; list; none] -/
  accs : List Acc
  /-- mortar requests in flight [R84; list; none] -/
  mreqs : List MReq
  /-- mortar replies and wake-ups in flight [R99; list; none] -/
  mreps : List MRep
  /-- message flits in flight [R176; list; none] -/
  flits : List Flit
  /-- next SEQ of each source, destination and class [R176, R178; 8; 0] -/
  seqOut : Table Nat
  /-- next SEQ to deliver of each source, destination and class [R178; 8; 0] -/
  seqIn : Table Nat
  /-- routers that signal starvation, with the flit that waits there [R179; 1 per router; none] -/
  starving : Table Nat
  /-- MODEL'S OWN: for each router one past the cycles of its last ejection and of its last injection [R177, R179; Nat; 0, DESIGN
  CHOICE log 3] -/
  ports : Table (Nat × Nat)
  /-- allowances on their way back [R186; list; none] -/
  rets : List Ret
  /-- steal requests in flight [R304; list; none] -/
  steals : List Steal
  /-- RESUME and PREEMPT packets in flight [R323; list; none] -/
  packets : List Packet
  /-- BULK frames in flight [R386; list; none] -/
  bulks : List Bulk
  /-- shootdowns in progress [R38; list; none] -/
  shoots : List Shoot
  /-- hod forwards in progress [R196; list; none] -/
  fwds : List HodFwd
  /-- footing and FRED replies in flight [R51; list; none] -/
  freplies : List FReply
  /-- package cycle counter [R79, R353; Nat; 0] -/
  cycle : Nat
  /-- MODEL'S OWN: for each core the last place in R371's order that it has settled in this cycle [R371; Nat; none, DESIGN CHOICE
  log 3] -/
  settled : Table Nat
  /-- MODEL'S OWN: what a core image of CTXSAVE stands for beyond Table 6, by the number in the image's header: numbers of activations
  and requests, and the kinds of waiting entries, with the core saved [none; list; empty, DESIGN CHOICE log 10] -/
  shelf : Table (Nat × Core)
  /-- MODEL'S OWN: the next number for a piece of work in flight and for a free value [none; Nat; 1, DESIGN CHOICE log 3] -/
  fresh : Nat
  /-- MODEL'S OWN: the processor that executes the current instruction [none; three kinds; none, DESIGN CHOICE log 3] -/
  cur : Actor
  /-- MODEL'S OWN: the turns still to take [none; list; empty, DESIGN CHOICE log 3] -/
  agenda : List Turn
  deriving DecidableEq, Repr

/-- The machine right after reset: nothing runs, nothing is in flight, and every table holds its defaults (R394). -/
def State.reset : State :=
  { mem := [], poison := [], single := [], records := [], host := [], hostPoison := [], cores := [], units := [], hbms := [], slices := [],
    dies := [], panels := [], pkgs := [], rlines := [], launches := [], accs := [], mreqs := [], mreps := [], flits := [],
    seqOut := [], seqIn := [], starving := [], ports := [], rets := [], steals := [], packets := [], bulks := [], shoots := [], fwds := [],
    freplies := [], cycle := 0, settled := [], shelf := [], fresh := 1, cur := .none, agenda := [] }

end Sys2Proof.Machine
end

