-- ==== Sys2Proof/Machine/Base.lean ====
section
/-! DEFINITION. The plainest operations: parts of the state by number, where things lie on a package (R12, R23–R25, R43, R67),
and bytes of memory. -/

namespace Sys2Proof.Machine

/-- What a meaning answers. -/
abbrev Result := Host.Outcome State Fault Refusal

/-! ### Parts of the state -/

/-- A core by number. -/
def State.core (s : State) (c : Nat) : Core := Table.get .init s.cores c
/-- Replaces a core. -/
def State.setCore (s : State) (c : Nat) (k : Core) : State := { s with cores := Table.set s.cores c k }
/-- Changes a core. -/
def State.modCore (s : State) (c : Nat) (f : Core → Core) : State := s.setCore c (f (s.core c))
/-- A strand of a core. -/
def Core.strand (k : Core) (n : Nat) : Strand := Table.get .init k.strands n
/-- Replaces a strand of a core. -/
def Core.setStrand (k : Core) (n : Nat) (t : Strand) : Core := { k with strands := Table.set k.strands n t }
/-- A strand by core and number. -/
def State.strand (s : State) (c n : Nat) : Strand := (s.core c).strand n
/-- Changes a strand. -/
def State.modStrand (s : State) (c n : Nat) (f : Strand → Strand) : State :=
  s.modCore c (fun k => k.setStrand n (f (k.strand n)))
/-- A footing unit. -/
def State.unit (s : State) (u : Nat) : Unit := Table.get .init s.units u
/-- Changes a footing unit. -/
def State.modUnit (s : State) (u : Nat) (f : Unit → Unit) : State := { s with units := Table.set s.units u (f (s.unit u)) }
/-- The base die of a stack. -/
def State.hbm (s : State) (k : Nat) : Stack := Table.get .init s.hbms k
/-- Changes the base die of a stack. -/
def State.modHbm (s : State) (k : Nat) (f : Stack → Stack) : State := { s with hbms := Table.set s.hbms k (f (s.hbm k)) }
/-- An L2 slice. -/
def State.slice (s : State) (k : Nat) : Slice := Table.get .init s.slices k
/-- Changes an L2 slice. -/
def State.modSlice (s : State) (k : Nat) (f : Slice → Slice) : State :=
  { s with slices := Table.set s.slices k (f (s.slice k)) }
/-- A die. -/
def State.die (s : State) (d : Nat) : Die := Table.get .init s.dies d
/-- Changes a die. -/
def State.modDie (s : State) (d : Nat) (f : Die → Die) : State := { s with dies := Table.set s.dies d (f (s.die d)) }
/-- A panel. -/
def State.panel (s : State) (p : Nat) : Panel := Table.get .init s.panels p
/-- Changes a panel. -/
def State.modPanel (s : State) (p : Nat) (f : Panel → Panel) : State :=
  { s with panels := Table.set s.panels p (f (s.panel p)) }
/-- A package. -/
def State.pkg (s : State) (g : Nat) : Pkg := Table.get .init s.pkgs g
/-- Changes a package. -/
def State.modPkg (s : State) (g : Nat) (f : Pkg → Pkg) : State := { s with pkgs := Table.set s.pkgs g (f (s.pkg g)) }
/-- The state with the counter of pieces of work and free values advanced. -/
def State.tickFresh (s : State) : State := { s with fresh := s.fresh + 1 }
/-- A launch by number. -/
def State.launch? (s : State) (l : Nat) : Option Launch := s.launches.find? (fun x => decide (x.id = l))
/-- Changes a launch. -/
def State.modLaunch (s : State) (l : Nat) (f : Launch → Launch) : State :=
  { s with launches := s.launches.map (fun x => if x.id = l then f x else x) }

/-! ### Bit fields -/

/-- Bits hi to lo of a number. -/
def bits (x hi lo : Nat) : Nat := x / 2 ^ lo % 2 ^ (hi + 1 - lo)
/-- Bits hi to lo of a word. -/
def fieldOf (w : Word) (hi lo : Nat) : Nat := bits w.toNat hi lo
/-- One bit of a number. -/
def bit (x i : Nat) : Bool := decide (x / 2 ^ i % 2 = 1)
/-- A word from a number. -/
def word (n : Nat) : Word := BitVec.ofNat 64 n
/-- The signed value of the low n bits of a number. -/
def signedOf (n x : Nat) : Int := if x % 2 ^ n < 2 ^ (n - 1) then (x % 2 ^ n : Nat) else (x % 2 ^ n : Nat) - 2 ^ n
/-- A fraction rounded up to the next multiple's count. -/
def ceilDiv (a b : Nat) : Nat := (a + b - 1) / b

/-! ### Where things lie -/

/-- The package of a core. -/
def corePkg (c : Nat) : Nat := c / 2048
/-- The index of a core in its package: a logical core number, a foreman's 1,024 + p, or a spare's. -/
def coreIdx (c : Nat) : Nat := c % 2048
/-- A foreman (R13). -/
def isForeman (c : Nat) : Bool := decide (1024 ≤ coreIdx c ∧ coreIdx c < 1032)
/-- A spare core (R12). -/
def isSpare (c : Nat) : Bool := decide (1032 ≤ coreIdx c)
/-- The panel of core number n of a package (R12). -/
def panelOfNum (n : Nat) : Nat := 2 * (n / 32 / 8) + n % 32 / 16
/-- The panel of a core, as its key in the state. -/
def panelKey (c : Nat) : Nat :=
  let i := coreIdx c
  corePkg c * 8 + (if i < 1024 then panelOfNum i else if i < 1032 then i - 1024 else (i - 1032) / 8)
/-- The lowest core number of panel p of a package. -/
def panelOrigin (p : Nat) : Nat := p / 2 * 8 * 32 + p % 2 * 16
/-- The foreman of a panel, from the panel's key. -/
def foremanOf (pk : Nat) : Nat := pk / 8 * 2048 + 1024 + pk % 8
/-- The die of a core, as its key in the state (R12). -/
def dieKey (c : Nat) : Nat := corePkg c * 2 + panelKey c % 8 / 4
/-- Logical coordinates of a core; a foreman and a spare stand at their panel's lowest core number (R175, log 6). -/
def coordOf (c : Nat) : Nat × Nat :=
  let i := if coreIdx c < 1024 then coreIdx c else panelOrigin (panelKey c % 8)
  (i % 32, i / 32)

/-- The package of a physical address (R23). -/
def paPkg (pa : Nat) : Nat := pa / 2 ^ 39
/-- The local address of a physical address (R23). -/
def paLocal (pa : Nat) : Nat := pa % 2 ^ 39
/-- A physical address of a package (R23). -/
def paOf (g loc : Nat) : Nat := g * 2 ^ 39 + loc
/-- The local address is HBM (R24, Table 3). -/
def isHbm (pa : Nat) : Bool := decide (paLocal pa < 0x6000000000)
/-- The local address lies in the scratchpad aperture (R24, Table 3). -/
def isPad (pa : Nat) : Bool := decide (0x6000000000 ≤ paLocal pa ∧ paLocal pa < 0x6020000000 ∧ pa < 2 ^ 53)
/-- Where the scratchpad of a core lies: its part of the aperture (R24), or, for a foreman or spare core, which no program
address reaches, a place of the model's own (log 3). -/
def padBase (c : Nat) : Nat :=
  if coreIdx c < 1024 then paOf (corePkg c) (0x6000000000 + coreIdx c * 0x80000) else 2 ^ 53 + c * 0x80000
/-- The core whose scratchpad holds a physical address of the aperture. -/
def padCore (pa : Nat) : Nat := paPkg pa * 2048 + (paLocal pa - 0x6000000000) / 0x80000
/-- The offset in that scratchpad. -/
def padOffset (pa : Nat) : Nat := (paLocal pa - 0x6000000000) % 0x80000
/-- The scratch window (R25). -/
def scratchWindow : Nat := 0xFFFFFFE0000000
/-- The scratch-window address of an offset of a core's scratchpad (R25). -/
def scratchVa (c off : Nat) : Nat := scratchWindow + coreIdx c * 0x80000 + off
/-- The die that owns a local HBM address (R43). -/
def dieOfLocal (loc : Nat) : Nat := loc / 0x3000000000
/-- The 4 KiB block of a local HBM address within its die: q of R44. -/
def blockOfLocal (loc : Nat) : Nat := (loc - dieOfLocal loc * 0x3000000000) / 4096
/-- The pseudo-channel of a physical HBM address, as the key of its footing unit (R44). -/
def unitOfPa (pa : Nat) : Nat :=
  let q := blockOfLocal (paLocal pa)
  let c := (q % 256) ^^^ (q / 256 % 256)
  paPkg pa * 512 + (dieOfLocal (paLocal pa) * 4 + c / 64) * 64 + c % 64
/-- The 4 KiB block within its pseudo-channel: b of R44. -/
def channelBlock (pa : Nat) : Nat := blockOfLocal (paLocal pa) / 256
/-- The bank of a physical HBM address (R44). -/
def bankOfPa (pa : Nat) : Nat := channelBlock pa % 16
/-- The physical address of byte 0 of a channel-local block of a unit: R44 backwards. -/
def blockPa (u b : Nat) : Nat :=
  let st := u % 512 / 64
  let c := st % 4 * 64 + u % 64
  paOf (u / 512) (st / 4 * 0x3000000000 + (b * 256 + (c ^^^ (b % 256))) * 4096)
/-- The index of a line within its die (R67). -/
def lineIndex (loc : Nat) : Nat := (loc - dieOfLocal loc * 0x3000000000) / 64
/-- The slice of a line index within its die (R67). -/
def sliceHash (l : Nat) : Nat :=
  (bits l 5 0) ^^^ (bits l 11 6) ^^^ (bits l 17 12) ^^^ (bits l 23 18) ^^^ (bits l 29 24) ^^^ (bits l 31 30)
/-- The home slice of a physical address, as its key in the state (R67). -/
def homeSlice (pa : Nat) : Nat :=
  paPkg pa * 128 + dieOfLocal (paLocal pa) * 64 + sliceHash (lineIndex (paLocal pa))
/-- The set of a line within its slice (R67). -/
def lineSet (pa : Nat) : Nat := lineIndex (paLocal pa) / 64 % 2048
/-- The slice of the accessing package's remote partition for a line of another package (R70). -/
def remoteSlice (g pa : Nat) : Nat :=
  g * 128 + dieOfLocal (paLocal pa) * 64 + (sliceHash (lineIndex (paLocal pa)) ^^^ (bits (paPkg pa) 5 0) ^^^
    (bits (paPkg pa) 11 6) ^^^ (bits (paPkg pa) 13 12))

/-! ### Bytes of memory -/

/-- An address of the overflow areas of the wait lists: the top 8 MiB of each die's HBM (R98; log 73). -/
def inOverflow (a : Nat) : Bool := decide (a < 2 ^ 53) && isHbm a && decide (0x3000000000 - 0x800000 ≤ paLocal a % 0x3000000000)
/-- What an unlisted byte reads as: 0xFF in NEXTE of an overflow entry, whose reset value is 0xFFFF (R98, Table 10), and 0 elsewhere
(log 2). -/
def Memory.blank (a : Nat) : Byte := if (a % 64 = 18 ∨ a % 64 = 19) ∧ inOverflow a = true then 0xFF else 0
/-- A byte of a memory. -/
def Memory.get : List Host.Cell → Nat → Byte
  | [], a => Memory.blank a
  | (k, v) :: rest, a => if k = a then v else Memory.get rest a

/-- A memory with one byte written, in canonical form: addresses rising and no byte listed that an unlisted one reads as. -/
def Memory.set : List Host.Cell → Nat → Byte → List Host.Cell
  | [], a, b => if b = Memory.blank a then [] else [(a, b)]
  | (k, v) :: rest, a, b =>
    if b = Memory.blank a then (if k = a then Memory.set rest a b else (k, v) :: Memory.set rest a b)
    else if k = a then (a, b) :: rest
    else if a < k then (a, b) :: (k, v) :: rest
    else (k, v) :: Memory.set rest a b

/-- The addresses rise strictly from a bound and no listed byte is what an unlisted one reads as. -/
def Memory.wfFrom : Nat → List Host.Cell → Bool
  | _, [] => true
  | lo, (k, v) :: rest => decide (lo ≤ k) && decide (v ≠ Memory.blank k) && Memory.wfFrom (k + 1) rest

/-- The canonical form of a memory. -/
def Memory.wf (m : List Host.Cell) : Bool := Memory.wfFrom 0 m

/-- n bytes from an address as a little-endian number. -/
def Memory.readN (m : List Host.Cell) (a : Nat) : Nat → Nat
  | 0 => 0
  | n + 1 => (Memory.get m a).toNat + 256 * Memory.readN m (a + 1) n

/-- n bytes of a little-endian number written at an address. -/
def Memory.writeN (m : List Host.Cell) (a : Nat) : Nat → Nat → List Host.Cell
  | 0, _ => m
  | n + 1, v => Memory.writeN (Memory.set m a (BitVec.ofNat 8 (v % 256))) (a + 1) n (v / 256)

/-- n bytes from an address. -/
def Memory.bytes (m : List Host.Cell) (a : Nat) : Nat → List Byte
  | 0 => []
  | n + 1 => Memory.get m a :: Memory.bytes m (a + 1) n

/-- A list of bytes written at an address. -/
def Memory.writeBytes (m : List Host.Cell) (a : Nat) : List Byte → List Host.Cell
  | [] => m
  | b :: rest => Memory.writeBytes (Memory.set m a b) (a + 1) rest

/-- A memory with n bytes from an address unlisted: zeroed, in a scratchpad or any memory but an overflow area. -/
def Memory.clear (m : List Host.Cell) (a n : Nat) : List Host.Cell := m.filter (fun c => decide (c.1 < a ∨ a + n ≤ c.1))

/-- The memory words, by number, that a store of n bytes covers whole (R78). -/
def coversWord (a n w : Nat) : Bool := decide (a ≤ 8 * w ∧ 8 * w + 8 ≤ a + n)
/-- A word, by number, that an access of n bytes touches. -/
def touchesWord (a n w : Nat) : Bool := decide (a < 8 * w + 8 ∧ 8 * w < a + n)

/-- n bytes of physical memory as a number. -/
def State.read (s : State) (pa n : Nat) : Nat := Memory.readN s.mem pa n
/-- n bytes of physical memory. -/
def State.readBytes (s : State) (pa n : Nat) : List Byte := Memory.bytes s.mem pa n
/-- A physical store: the bytes change, and a word that is covered whole loses its poison and any error (R78). -/
def State.write (s : State) (pa n v : Nat) : State :=
  { s with mem := Memory.writeN s.mem pa n v,
           poison := s.poison.filter (fun w => !coversWord pa n w),
           single := s.single.filter (fun w => !coversWord pa n w) }
/-- A physical store of a list of bytes. -/
def State.writeBytes (s : State) (pa : Nat) (l : List Byte) : State :=
  { s with mem := Memory.writeBytes s.mem pa l,
           poison := s.poison.filter (fun w => !coversWord pa l.length w),
           single := s.single.filter (fun w => !coversWord pa l.length w) }
/-- Zeroes n bytes of a scratchpad and their check bits; the scope records stay (R343). -/
def State.zeroRange (s : State) (pa n : Nat) : State :=
  { s with mem := Memory.clear s.mem pa n,
           poison := s.poison.filter (fun w => !touchesWord pa n w),
           single := s.single.filter (fun w => !touchesWord pa n w) }
/-- Zeroes n bytes of a scratchpad on a change of owner, their scope records with them (R132, R343). -/
def State.wipe (s : State) (pa n : Nat) : State :=
  let s := s.zeroRange pa n
  { s with records := s.records.filter (fun r => decide (r.1 * 64 < pa ∨ pa + n ≤ r.1 * 64)) }
/-- The first poisoned word among n bytes, as its address (R78). -/
def State.poisonedAt (s : State) (pa n : Nat) : Option Nat :=
  (s.poison.find? (fun w => touchesWord pa n w)).map (fun w => Nat.max pa (8 * w))

/-- The physical core behind a logical one (R377, Table 9), as the index of its health entry: column × 8 + row. -/
def physicalCore (s : State) (c : Nat) : Nat :=
  let (x, y) := coordOf c
  let r := y % 8
  let e := Table.get 0 (s.panel (panelKey c)).remap r
  let col := if isSpare c then 16 else if bit e.toNat 7 && decide (bits e.toNat 4 0 ≤ x % 16) then x % 16 + 1 else x % 16
  let row := if isSpare c then (coreIdx c - 1032) % 8 else r
  col * 8 + row

/-- Adds corrected events to a physical core's count of the current window, saturating (R79, R377). -/
def State.countCore (s : State) (c n : Nat) : State :=
  s.modPanel (panelKey c) (fun p =>
    { p with health := Table.modify .init p.health (physicalCore s c) (fun h => { h with corr := Nat.min 0xFFFF (h.corr + n) }) })

/-- Corrects the single-bit errors among n bytes and counts them where R79 says: the slice of a line of HBM, the core of a
scratchpad (R78). -/
def State.correct (s : State) (pa n : Nat) : State :=
  let k := (s.single.filter (fun w => touchesWord pa n w)).length
  if k = 0 then s
  else
    let s := { s with single := s.single.filter (fun w => !touchesWord pa n w) }
    if isPad pa then s.countCore (padCore pa) k
    else if pa < 2 ^ 53 then s.modSlice (homeSlice pa) (fun l => { l with corr := Nat.min 0xFFFF (l.corr + k) })
    else s.countCore ((pa - 2 ^ 53) / 0x80000) k

end Sys2Proof.Machine
end

