-- ==== Sys2Proof/Machine/Regs.lean ====
section
/-! DEFINITION. The registers of the processor that executes: a strand's frame words (R134–R136), masks, vectors and message
registers, a footing core's registers in its data memory (R46), the program counter, and the footing-core fault of R48. -/

namespace Sys2Proof.Machine

/-! ### Registers of a strand -/

/-- The physical address of frame word n of frame f of a core (R134). -/
def regAddr (c f n : Nat) : Nat := padBase c + 0x16000 + f * 256 + n * 8
/-- w register n of a strand (R134). -/
def State.wAt (s : State) (c n r : Nat) : Word := word (s.read (regAddr c (s.strand c n).frame r) 8)
/-- Writes w register r of a strand: a write of its frame word (R136). -/
def State.setWAt (s : State) (c n r : Nat) (v : Word) : State := s.write (regAddr c (s.strand c n).frame r) 8 v.toNat
/-- k register r of a strand; k0 reads as all ones (R138). -/
def Strand.mask (t : Strand) (r : Nat) : Word := if r = 0 then BitVec.allOnes 64 else Table.get 0 t.k r
/-- Writes k register r; a write to k0 has no effect (R138). -/
def Strand.setMask (t : Strand) (r : Nat) (v : Word) : Strand := if r = 0 then t else { t with k := Table.set t.k r v }
/-- v register r of a strand (R137). -/
def Strand.vec (t : Strand) (r : Nat) : VWord := Table.get 0 t.v r
/-- Writes v register r. -/
def Strand.setVec (t : Strand) (r : Nat) (v : VWord) : Strand := { t with v := Table.set t.v r v }
/-- A word of a message by number: two header words, then the payload (R142, Table 2). -/
def Msg.get (m : Msg) : Nat → Word
  | 0 => m.h0 | 1 => m.h1 | 2 => m.w0 | 3 => m.w1 | 4 => m.w2 | 5 => m.w3 | 6 => m.w4 | _ => m.w5
/-- A message with one word replaced. -/
def Msg.set (m : Msg) (i : Nat) (v : Word) : Msg :=
  match i with
  | 0 => { m with h0 := v } | 1 => { m with h1 := v } | 2 => { m with w0 := v } | 3 => { m with w1 := v }
  | 4 => { m with w2 := v } | 5 => { m with w3 := v } | 6 => { m with w4 := v } | _ => { m with w5 := v }
/-- The 64 bytes of a message as a number (R142). -/
def Msg.toNat (m : Msg) : Nat := (List.range 8).foldr (fun i acc => (m.get i).toNat + 2 ^ 64 * acc) 0
/-- The message that 64 bytes hold. -/
def Msg.ofNat (x : Nat) : Msg :=
  let f (i : Nat) : Word := word (x / 2 ^ (64 * i))
  ⟨f 0, f 1, f 2, f 3, f 4, f 5, f 6, f 7⟩
/-- The bytes of a number, least significant first. -/
def bytesLE (x : Nat) : Nat → List Byte
  | 0 => []
  | n + 1 => BitVec.ofNat 8 x :: bytesLE (x / 256) n
/-- The 64 bytes of a message. -/
def Msg.bytes (m : Msg) : List Byte := bytesLE m.toNat 64
/-- The number that bytes hold, least significant first. -/
def ofBytesLE : List Byte → Nat
  | [] => 0
  | b :: rest => b.toNat + 256 * ofBytesLE rest

/-- The pending words of a strand's frame (R51). -/
def State.pendAt (s : State) (c n : Nat) : BitVec 32 := Table.get 0 (s.core c).pend (s.strand c n).frame
/-- An access of the strand to a frame word of its own is still to be performed: a register is its frame word, and accesses to one byte
keep their order (R134, R136, R335). -/
def State.wordInFlight (s : State) (c n r : Nat) : Bool :=
  let pa := regAddr c (s.strand c n).frame r
  s.accs.any (fun a => decide (a.core = c ∧ a.strand = n ∧ a.act = (s.strand c n).act) &&
    a.pieces.any (fun p => !p.done && decide (p.pa < pa + 8 ∧ pa < p.pa + p.n)))
/-- The strand must wait before it reads or writes w register r: a reply or a load is still to write it, or an access of its own to the
frame word is still to be performed (R52, R334, R335). -/
def State.waitsAt (s : State) (c n r : Nat) : Bool :=
  (s.pendAt c n).getLsbD r || (s.strand c n).busyW.getLsbD r || s.wordInFlight c n r

/-- The offset of a strand's save area in a scratchpad (R369). -/
def saveOffset (n : Nat) : Nat := 0x10000 + n * 0x1200
/-- Control word i of a strand's save area takes a value too, where the core is pre-empted: what the matrix queue reports to the strand
afterwards is there when it is restored (R146, R282, R369, Table 4). -/
def saveAlso (s : State) (c n i : Nat) (v : Word) : State :=
  if (s.core c).preempted then s.write (padBase c + saveOffset n + 0x10C0 + 8 * i) 8 v.toNat else s

/-- v register r of a strand takes its value in the save area too, where the core is pre-empted (R146, R369, Table 4). -/
def saveVecAlso (s : State) (c n r : Nat) (x : VWord) : State :=
  if (s.core c).preempted then s.write (padBase c + saveOffset n + 256 * r) 256 x.toNat else s
/-- The bits of a control register that are not reserved (R7, R143, Table 3; R190, R195, R355; STEALMASK as R347 lays it out). -/
def ctlBits (num : Nat) : Word :=
  match num with
  | 0x010 => 3
  | 0x011 => 0x3F
  | 0x012 => 0x00FFFFFFFFFFFFFF
  | 0x013 => 0xFF03
  | 0x020 => 0xFFFF
  | 0x023 => 0x3FFFFFFE
  | 0x024 => 0x7F
  | 0x025 => 0x1F
  | 0x044 => 0x1FFFF
  | 0x050 => 0xFFF7FFFF
  | 0x051 => 0x00FFFFFFFFFFC01F
  | 0x052 => 0x1F
  | _ => BitVec.allOnes 64
/-- The strand of a core that runs an activation. -/
def strandOfAct (s : State) (c act : Nat) : Option Nat :=
  (List.range 4).find? (fun n => decide ((s.strand c n).mode ≠ .free ∧ (s.strand c n).act = act))
/-- The strand whose FFLAGS a read-out sets: the one that runs the activation, or the one that issued it (R172, R258, R291). -/
def flagStrand (s : State) (c : Nat) (m : MCmd) : Nat := (strandOfAct s c m.act).getD m.strand

/-! ### The processor that executes -/

/-- The core and strand that execute. -/
def Actor.ids : Actor → Nat × Nat
  | .strand c n => (c, n)
  | _ => (0, 0)
/-- The strand that executes. -/
def State.me (s : State) : Strand := s.strand s.cur.ids.1 s.cur.ids.2
/-- Changes the strand that executes. -/
def State.modMe (s : State) (f : Strand → Strand) : State := s.modStrand s.cur.ids.1 s.cur.ids.2 f
/-- The core of the strand that executes. -/
def State.myCore (s : State) : Core := s.core s.cur.ids.1

/-- w register r of the processor that executes (R46, R134). -/
def State.w (s : State) (r : Nat) : Word :=
  match s.cur with
  | .strand c n => s.wAt c n r
  | .unit u => word (Memory.readN (s.unit u).data (8 * r) 8)
  | .none => 0
/-- Writes w register r of the processor that executes. -/
def State.setW (s : State) (r : Nat) (v : Word) : State :=
  match s.cur with
  | .strand c n => s.setWAt c n r v
  | .unit u => s.modUnit u (fun t => { t with data := Memory.writeN t.data (8 * r) 8 v.toNat })
  | .none => s
/-- The selector of SEL: bit 0 of a k register on a strand (R245); on a footing core, whether a w register is not zero (R240). -/
def State.flag (s : State) (r : Nat) : Bool :=
  match s.cur with
  | .strand c n => ((s.strand c n).mask r).getLsbD 0
  | .unit _ => decide (s.w r ≠ 0)
  | .none => false
/-- Writes the outcome of a comparison: all ones or zero to a k register, 1 or 0 to a w register (R246). -/
def State.setFlag (s : State) (r : Nat) (b : Bool) : State :=
  match s.cur with
  | .strand c n => s.modStrand c n (fun t => t.setMask r (if b then BitVec.allOnes 64 else 0))
  | .unit _ => s.setW r (if b then 1 else 0)
  | .none => s
/-- k register r of the strand that executes. -/
def State.k (s : State) (r : Nat) : Word := s.me.mask r
/-- Writes k register r of the strand that executes. -/
def State.setK (s : State) (r : Nat) (v : Word) : State := s.modMe (fun t => t.setMask r v)
/-- v register r of the strand that executes. -/
def State.v (s : State) (r : Nat) : VWord := s.me.vec r
/-- Writes v register r of the strand that executes. -/
def State.setV (s : State) (r : Nat) (x : VWord) : State := s.modMe (fun t => t.setVec r x)
/-- The predicate of a guard: bit 0 of the named mask; a footing core has no masks and every guard is 0 (R205, R210). -/
def State.predicate (s : State) (g : Nat) : Bool :=
  match s.cur with
  | .strand c n => ((s.strand c n).mask g).getLsbD 0
  | _ => true
/-- The processor must wait for one of the registers (R52, R334). -/
def State.waitsFor (s : State) (rs : List Nat) : Bool :=
  match s.cur with
  | .strand c n => rs.any (fun r => s.waitsAt c n r)
  | _ => false
/-- The first of the registers whose frame word is poisoned, as its address (R78). -/
def State.badReg (s : State) (rs : List Nat) : Option Nat :=
  match s.cur with
  | .strand c n => (rs.find? (fun r => (s.poisonedAt (regAddr c (s.strand c n).frame r) 8).isSome)).map
      (fun r => scratchVa c (0x16000 + (s.strand c n).frame * 256 + r * 8))
  | _ => none
/-- Single-bit errors in the frame words that an instruction reads are corrected and counted (R78, R79). -/
def State.correctRegs (s : State) (rs : List Nat) : State :=
  match s.cur with
  | .strand c n => rs.foldl (fun s r => s.correct (regAddr c (s.strand c n).frame r) 8) s
  | _ => s
/-- The prefixes read before the instruction (R207). -/
def State.imx (s : State) : List (BitVec 27) :=
  match s.cur with
  | .strand c n => (s.strand c n).imx
  | .unit u => (s.unit u).imx
  | .none => []
/-- The address of the instruction that executes, after its prefixes. -/
def State.pc (s : State) : Word :=
  match s.cur with
  | .strand c n => (s.strand c n).pc
  | .unit u => word (s.unit u).pc
  | .none => 0
/-- The address of the first prefix of the instruction that executes, or its own (R207). -/
def State.firstPc (s : State) : Word := s.pc - word (4 * s.imx.length)

/-! ### Footing-core faults -/

/-- Marks a reply to a frame word on its way (R51). -/
def State.sendReply (s : State) (core frame reg launch : Nat) (v : Word) : State :=
  { s with freplies := s.freplies ++ [⟨s.fresh, core, frame, reg, launch, v⟩], fresh := s.fresh + 1 }
/-- The reply of a command that failed: bit 63, the status and the detail (R53). -/
def failReply (status detail : Nat) : Word := word (2 ^ 63 + detail * 256 + status)
/-- Ends the current command of a footing unit with a reply. -/
def State.endCommand (s : State) (u : Nat) (v : Word) : State :=
  match (s.unit u).cmd with
  | none => s
  | some cmd => (s.modUnit u (fun t => { t with cmd := none })).sendReply cmd.core cmd.frame cmd.reg cmd.launch v
/-- A footing-core fault: the core halts, its detail is held, and the current command completes with status FAULT (R48). -/
def State.footFault (s : State) (u detail : Nat) : State :=
  (s.endCommand u (failReply 0x03 detail)).modUnit u (fun t => { t with run := .halted, status := detail, imx := [] })

/-! ### The program counter -/

/-- The instruction retires and PC takes its next value. A footing core faults where that value lies at or beyond 0x1000 (R48). -/
def State.jump (s : State) (target : Word) : State :=
  match s.cur with
  | .strand c n => s.modStrand c n (fun t => { t with pc := target, imx := [], wait := .none, deadline := none })
  | .unit u =>
    if target.toNat < 0x1000 then s.modUnit u (fun t => { t with pc := target.toNat, imx := [] }) else s.footFault u 0x08
  | .none => s
/-- The instruction retires and PC moves past its bytes (R200). -/
def State.advance (s : State) (len : Nat) : State := s.jump (s.pc + word len)

/-! ### The immediate -/

/-- The immediate of an extendable instruction: the prefixes in fetch order, then the field, sign-extended or cut to 64 bits
(R207). -/
def immOf (imx : List (BitVec 27)) (n : Nat) (f : Nat) : Word :=
  match imx with
  | [] => BitVec.ofInt 64 (signedOf n f)
  | [x] => BitVec.ofInt 64 (signedOf (27 + n) (x.toNat * 2 ^ n + f))
  | x :: y :: _ => BitVec.ofInt 64 (signedOf (54 + n) ((x.toNat * 2 ^ 27 + y.toNat) * 2 ^ n + f))
/-- The immediate of the instruction that executes, from its n-bit field. -/
def State.imm {n : Nat} (s : State) (f : BitVec n) : Word := immOf s.imx n f.toNat

end Sys2Proof.Machine
end

