-- ==== Sys2Proof/Machine/Flags.lean ====
section
/-! DEFINITION. The flags of FFLAGS (R143, R153), the rounding mode of FCTL, and exact values with their one rounding (R147–R152,
R164). A value is a NaN, an infinity, a zero, or a sign, a whole number and a power of two, so that every sum and product is
exact until `rnd`. -/

namespace Sys2Proof.Machine

/-! ### Flags and modes -/

/-- NX, inexact: FFLAGS bit 0. -/
def flagNX : Nat := 1
/-- UF, underflow: FFLAGS bit 1. -/
def flagUF : Nat := 2
/-- OF, overflow: FFLAGS bit 2. -/
def flagOF : Nat := 4
/-- DZ, division by zero: FFLAGS bit 3. -/
def flagDZ : Nat := 8
/-- NV, invalid: FFLAGS bit 4. -/
def flagNV : Nat := 16
/-- SAT, saturated: FFLAGS bit 5. -/
def flagSAT : Nat := 32

/-- An instruction ORs its flags into FFLAGS and clears none (R153). -/
def State.orFlags (s : State) (f : Nat) : State := s.modMe (fun t => { t with fflags := t.fflags ||| word f })

/-- Rounding modes (R143, R151). -/
inductive RMode where
  | rne | rz | rup | rdn
  deriving DecidableEq, Repr

/-- The mode that FCTL holds (R143). -/
def modeOf (fctl : Word) : RMode :=
  match fctl.toNat % 4 with
  | 0 => .rne | 1 => .rz | 2 => .rup | _ => .rdn
/-- The mode of the strand that executes. -/
def State.mode (s : State) : RMode := modeOf s.me.fctl

/-! ### Values -/

/-- An exact value: fin neg m e is ± m × 2^e with m > 0. -/
inductive Val where
  | nan (signalling : Bool)
  | inf (neg : Bool)
  | zero (neg : Bool)
  | fin (neg : Bool) (m : Nat) (e : Int)
  deriving DecidableEq, Repr

/-- The layout of a floating-point format (R147, Table 1). -/
structure FpFmt where
  eb : Nat
  fb : Nat
  bias : Nat
  sub : Bool
  deriving DecidableEq, Repr

/-- FP64 (R147). -/
def fpF64 : FpFmt := ⟨11, 52, 1023, true⟩
/-- FP32 (R147). -/
def fpF32 : FpFmt := ⟨8, 23, 127, true⟩
/-- FP16 (R147). -/
def fpF16 : FpFmt := ⟨5, 10, 15, true⟩
/-- BF16 (R147, R148). -/
def fpB16 : FpFmt := ⟨8, 7, 127, false⟩
/-- K19 without its thirteen low zero bits (R147, R154). -/
def fpK19 : FpFmt := ⟨8, 10, 127, false⟩
/-- F40 (R147, R164). -/
def fpF40 : FpFmt := ⟨8, 31, 127, false⟩

/-- The layout of a floating format code; only FP64, FP32, FP16 and BF16 have one, and CF32 has that of its parts (R149). -/
def fpOf : Fmt → FpFmt
  | .fp64 => fpF64
  | .fp16 => fpF16
  | .bf16 => fpB16
  | _ => fpF32

/-- Assembles an encoding from its fields. -/
def FpFmt.pack (f : FpFmt) (neg : Bool) (e fr : Nat) : Nat := (if neg then 2 ^ (f.eb + f.fb) else 0) + e * 2 ^ f.fb + fr
/-- The canonical NaN: sign 0, exponent all ones, the fraction's top bit (R147, R152). -/
def FpFmt.nan (f : FpFmt) : Nat := f.pack false (2 ^ f.eb - 1) (2 ^ (f.fb - 1))
/-- An infinity. -/
def FpFmt.inf (f : FpFmt) (neg : Bool) : Nat := f.pack neg (2 ^ f.eb - 1) 0
/-- The largest finite value of a sign. -/
def FpFmt.maxFin (f : FpFmt) (neg : Bool) : Nat := f.pack neg (2 ^ f.eb - 2) (2 ^ f.fb - 1)

/-- The value of an encoding (R147). -/
def FpFmt.decode (f : FpFmt) (x : Nat) : Val :=
  let fr := x % 2 ^ f.fb
  let e := x / 2 ^ f.fb % 2 ^ f.eb
  let neg := bit x (f.eb + f.fb)
  if e = 2 ^ f.eb - 1 then (if fr = 0 then .inf neg else .nan (decide (fr < 2 ^ (f.fb - 1))))
  else if e = 0 then (if fr = 0 ∨ f.sub = false then .zero neg else .fin neg fr (1 - (f.bias : Int) - f.fb))
  else .fin neg (2 ^ f.fb + fr) ((e : Int) - f.bias - f.fb)

/-- Whether a mode rounds a magnitude up: the truncated magnitude, and the bits cut off as a numerator over 2^n. -/
def roundsUp (m : RMode) (neg : Bool) (q rem n : Nat) : Bool :=
  match m with
  | .rne => decide (2 ^ n < 2 * rem) || (decide (2 * rem = 2 ^ n) && decide (q % 2 = 1))
  | .rz => false
  | .rup => decide (rem ≠ 0) && !neg
  | .rdn => decide (rem ≠ 0) && neg

/-- rnd of a non-zero value ± mant × 2^e to a format: the encoding and the flags (R151). -/
def FpFmt.round (f : FpFmt) (m : RMode) (neg : Bool) (mant : Nat) (e : Int) : Nat × Nat :=
  let emin : Int := 1 - f.bias
  let lead : Int := (mant.log2 : Int) + e
  let q : Int := if f.sub && decide (lead < emin) then emin - f.fb else lead - f.fb
  let sh : Int := q - e
  let r0 := if sh ≤ 0 then mant * 2 ^ (-sh).toNat else mant / 2 ^ sh.toNat
  let rem := if sh ≤ 0 then 0 else mant % 2 ^ sh.toNat
  let r1 := if sh ≤ 0 then r0 else if roundsUp m neg r0 rem sh.toNat then r0 + 1 else r0
  let carry := decide (r1 = 2 ^ (f.fb + 1))
  let r := if carry then 2 ^ f.fb else r1
  let lead' : Int := q + (if carry then 1 else 0) + r.log2
  let inexact := decide (rem ≠ 0)
  if r = 0 then (f.pack neg 0 0, flagUF ||| flagNX)
  else if (f.bias : Int) < lead' then
    ((match m with
      | .rne => f.inf neg
      | .rz => f.maxFin neg
      | .rup => if neg then f.maxFin true else f.inf false
      | .rdn => if neg then f.inf true else f.maxFin false), flagOF ||| flagNX)
  else if lead' < emin then
    if f.sub then (f.pack neg 0 r, if inexact then flagUF ||| flagNX else 0) else (f.pack neg 0 0, flagUF ||| flagNX)
  else (f.pack neg (lead' + f.bias).toNat (r - 2 ^ f.fb), if inexact then flagNX else 0)

/-- rnd of a value: a NaN becomes the canonical NaN (R152); infinities and zeros are representable (R151). -/
def FpFmt.rnd (f : FpFmt) (m : RMode) : Val → Nat × Nat
  | .nan _ => (f.nan, 0)
  | .inf neg => (f.inf neg, 0)
  | .zero neg => (f.pack neg 0 0, 0)
  | .fin neg mant e => f.round m neg mant e

/-! ### Exact operations -/

/-- The sign of a value; a NaN counts as positive. -/
def Val.neg? : Val → Bool
  | .nan _ => false | .inf n => n | .zero n => n | .fin n _ _ => n
/-- A value with its sign inverted. -/
def Val.flip : Val → Val
  | .nan q => .nan q | .inf n => .inf (!n) | .zero n => .zero (!n) | .fin n m e => .fin (!n) m e
/-- The magnitude of a value. -/
def Val.abs : Val → Val
  | .nan q => .nan q | .inf _ => .inf false | .zero _ => .zero false | .fin _ m e => .fin false m e
/-- The value is a NaN. -/
def Val.isNan : Val → Bool
  | .nan _ => true | _ => false
/-- The value is a signalling NaN. -/
def Val.isSnan : Val → Bool
  | .nan q => q | _ => false
/-- The value is an infinity. -/
def Val.isInf : Val → Bool
  | .inf _ => true | _ => false
/-- The value is a zero. -/
def Val.isZero : Val → Bool
  | .zero _ => true | _ => false
/-- NV where an operand is a signalling NaN (R152). -/
def snanFlag (l : List Val) : Nat := if l.any Val.isSnan then flagNV else 0

/-- The whole number that a finite value is a multiple of 2^lo; lo is at or below its exponent. -/
def Val.scaled (lo : Int) : Val → Int
  | .fin n m e => let k : Int := m * 2 ^ (e - lo).toNat; if n then -k else k
  | _ => 0
/-- The exponent of a finite value. -/
def Val.expo : Val → Int
  | .fin _ _ e => e
  | _ => 0
/-- A value from a whole number of units 2^e; none where the number is 0. -/
def Val.ofInt (k e : Int) : Option Val := if k = 0 then none else some (.fin (decide (k < 0)) k.natAbs e)

/-- The least exponent of the finite values of a list. -/
def minExpo (l : List Val) : Int :=
  let es := l.filterMap (fun v => match v with | .fin _ _ e => some e | _ => none)
  es.foldl min (es.headD 0)

/-- The exact sum of a list of values and its flags: infinities of opposite sign are invalid, and an exact zero takes its sign
by R151. -/
def sumVals (m : RMode) (l : List Val) : Val × Nat :=
  if l.any Val.isNan then (.nan false, snanFlag l)
  else if l.any (fun v => decide (v = .inf false)) && l.any (fun v => decide (v = .inf true)) then (.nan false, flagNV)
  else
    match l.find? Val.isInf with
    | some v => (v, 0)
    | none =>
      let lo := minExpo l
      match Val.ofInt ((l.map (Val.scaled lo)).foldl (· + ·) 0) lo with
      | some v => (v, 0)
      | none =>
        if l.all (fun v => decide (v = .zero true)) then (.zero true, 0)
        else if l.all (fun v => decide (v = .zero false)) then (.zero false, 0)
        else (.zero (decide (m = .rdn)), 0)

/-- The exact product: 0 × ∞ is invalid (R152). -/
def mulVals (a b : Val) : Val × Nat :=
  let n := a.neg? != b.neg?
  match a, b with
  | .nan _, _ => (.nan false, snanFlag [a, b])
  | _, .nan _ => (.nan false, snanFlag [a, b])
  | .inf _, .zero _ => (.nan false, flagNV)
  | .zero _, .inf _ => (.nan false, flagNV)
  | .inf _, _ => (.inf n, 0)
  | _, .inf _ => (.inf n, 0)
  | .zero _, _ => (.zero n, 0)
  | _, .zero _ => (.zero n, 0)
  | .fin _ ma ea, .fin _ mb eb => (.fin n (ma * mb) (ea + eb), 0)

/-- The quotient to at least 70 bits, the last of them set where it is not exact, so that one rounding of it is the rounding of
the quotient (R264); 0 ÷ 0 and ∞ ÷ ∞ are invalid, and a finite value over 0 sets DZ (R152). -/
def divVals (a b : Val) : Val × Nat :=
  let n := a.neg? != b.neg?
  match a, b with
  | .nan _, _ => (.nan false, snanFlag [a, b])
  | _, .nan _ => (.nan false, snanFlag [a, b])
  | .inf _, .inf _ => (.nan false, flagNV)
  | .zero _, .zero _ => (.nan false, flagNV)
  | .inf _, _ => (.inf n, 0)
  | _, .inf _ => (.zero n, 0)
  | .zero _, _ => (.zero n, 0)
  | .fin _ _ _, .zero _ => (.inf n, flagDZ)
  | .fin _ ma ea, .fin _ mb eb =>
    let k := mb.log2 + 72
    let q := ma * 2 ^ k / mb
    (.fin n (2 * q + (if ma * 2 ^ k % mb = 0 then 0 else 1)) (ea - eb - k - 1), 0)

/-- The largest r with r² ≤ x, for x below 4^n. -/
def isqrt (x : Nat) : Nat → Nat
  | 0 => 0
  | n + 1 =>
    let r := 2 * isqrt (x / 4) n
    if (r + 1) * (r + 1) ≤ x then r + 1 else r

/-- A value with an even exponent. -/
def evenExpo (m : Nat) (e : Int) : Nat × Int := if e % 2 = 0 then (m, e) else (2 * m, e - 1)

/-- The square root, as divVals gives a quotient (R266, Table 3). -/
def sqrtVal : Val → Val × Nat
  | .nan q => (.nan false, if q then flagNV else 0)
  | .zero n => (.zero n, 0)
  | .inf false => (.inf false, 0)
  | .inf true => (.nan false, flagNV)
  | .fin true _ _ => (.nan false, flagNV)
  | .fin false m e =>
    let (m, e) := evenExpo m e
    let x := m * 4 ^ 72
    let r := isqrt x (x.log2 / 2 + 1)
    (.fin false (2 * r + (if r * r = x then 0 else 1)) (e / 2 - 73), 0)

/-- The reciprocal square root (R266, Table 3). -/
def rsqrtVal : Val → Val × Nat
  | .nan q => (.nan false, if q then flagNV else 0)
  | .zero n => (.inf n, flagDZ)
  | .inf false => (.zero false, 0)
  | .inf true => (.nan false, flagNV)
  | .fin true _ _ => (.nan false, flagNV)
  | .fin false m e =>
    let (m, e) := evenExpo m e
    let k := m.log2 + 72
    let r := isqrt (4 ^ k / m) (k + 1)
    (.fin false (2 * r + (if r * r * m = 4 ^ k then 0 else 1)) (-(e / 2) - k - 1), 0)

/-- Σ t^(2k+1) ÷ (2k+1) over n terms, in fixed point with p fraction bits, t below ½. -/
def atanhSum (p : Nat) (t2 : Int) : Nat → Nat → Int → Int
  | 0, _, _ => 0
  | n + 1, k, pw => pw / (2 * k + 1) + atanhSum p t2 n (k + 1) (pw * t2 / 2 ^ p)
/-- The natural logarithm of (1 + t) ÷ (1 − t) for t = num ÷ den, in fixed point with 400 fraction bits. -/
def logRatio (num den : Int) : Int :=
  let t := num * 2 ^ 400 / den
  2 * atanhSum 400 (t * t / 2 ^ 400) 140 0 t
/-- ln 2 with 400 fraction bits: (1 + ⅓) ÷ (1 − ⅓) is 2. -/
def ln2 : Int := logRatio 1 3
/-- Σ t^k ÷ k! over n terms with 400 fraction bits. -/
def expSum (t : Int) : Nat → Nat → Int → Int
  | 0, _, _ => 0
  | n + 1, k, pw => pw + expSum t n (k + 1) (pw * t / (2 ^ 400 * (k + 1)))

/-- 2^x (R266, Table 3). A result that is not a power of two is irrational; it is computed to more than 300 bits, the last set,
before its one rounding (log 8). -/
def exp2Val : Val → Val × Nat
  | .nan q => (.nan false, if q then flagNV else 0)
  | .inf true => (.zero false, 0)
  | .inf false => (.inf false, 0)
  | .zero _ => (.fin false 1 0, 0)
  | .fin n m e =>
    let lead : Int := (m.log2 : Int) + e
    if 15 < lead then (.fin false 1 (if n then -20000 else 20000), 0)
    else if lead < -70 then (.fin false (if n then 2 ^ 200 - 1 else 2 ^ 200 + 1) (-200), 0)
    else
      let x : Int := if e ≤ 0 then (if n then -(m : Int) else m) else (if n then -(m * 2 ^ e.toNat : Int) else m * 2 ^ e.toNat)
      let d : Int := 2 ^ (-e).toNat
      let whole := x / d
      let frac := x % d
      if frac = 0 then (.fin false 1 whole, 0)
      else
        let t := frac * ln2 / d
        (.fin false (2 * (expSum t 120 0 (2 ^ 400)).toNat + 1) (whole - 401), 0)

/-- log2 x (R266, Table 3), computed as exp2Val's result is. -/
def log2Val : Val → Val × Nat
  | .nan q => (.nan false, if q then flagNV else 0)
  | .zero _ => (.inf true, flagDZ)
  | .inf false => (.inf false, 0)
  | .inf true => (.nan false, flagNV)
  | .fin true _ _ => (.nan false, flagNV)
  | .fin false m e =>
    let l := m.log2
    if m = 2 ^ l then
      match Val.ofInt ((l : Int) + e) 0 with
      | some v => (v, 0)
      | none => (.zero false, 0)
    else
      -- m ÷ 2^l lies between 1 and 2; above √2 it is halved
      let up := decide (2 ^ (2 * l + 1) < m * m)
      let d : Int := if up then 2 ^ (l + 1) else 2 ^ l
      let ex : Int := (l : Int) + e + (if up then 1 else 0)
      let r := logRatio ((m : Int) - d) ((m : Int) + d) * 2 ^ 400 / ln2 + ex * 2 ^ 400
      (.fin (decide (r < 0)) (2 * r.natAbs + 1) (-401), 0)

/-! ### Order -/

/-- Comparison of two values that are not NaNs, with −0 equal to +0: whether a < b. -/
def Val.lt (a b : Val) : Bool :=
  match a, b with
  | .inf true, .inf true => false
  | .inf true, _ => true
  | _, .inf true => false
  | _, .inf false => decide (a ≠ .inf false)
  | .inf false, _ => false
  | _, _ => let lo := minExpo [a, b]; decide (a.scaled lo < b.scaled lo)
/-- Equality of two values that are not NaNs, with −0 equal to +0. -/
def Val.eqv (a b : Val) : Bool := !a.lt b && !b.lt a

/-- Minimum and maximum by R173: −0 is less than +0; a quiet NaN gives way to the other operand; a signalling NaN, and two
NaNs, give a NaN. The choice takes a where `first` holds. -/
def pickVals (less : Bool) (a b : Val) : Val × Nat :=
  if a.isSnan || b.isSnan then (.nan false, flagNV)
  else if a.isNan && b.isNan then (.nan false, 0)
  else if a.isNan then (b, 0)
  else if b.isNan then (a, 0)
  else
    let aLess := a.lt b || (a.isZero && b.isZero && a.neg? && !b.neg?)
    ((if aLess = less then a else if a.eqv b && a.neg? = b.neg? then a else b), 0)

/-! ### Integer conversion -/

/-- The nearest whole number in a mode, and whether the value is one (R166). -/
def roundInt (m : RMode) (neg : Bool) (mant : Nat) (e : Int) : Int × Bool :=
  if 0 ≤ e then ((if neg then -(mant * 2 ^ e.toNat : Int) else mant * 2 ^ e.toNat), true)
  else
    let n := (-e).toNat
    let q := mant / 2 ^ n
    let rem := mant % 2 ^ n
    let r : Int := if roundsUp m neg q rem n then q + 1 else q
    ((if neg then -r else r), decide (rem = 0))

/-- Conversion of a floating value to an integer range (R166). -/
def toIntRange (m : RMode) (lo hi : Int) : Val → Int × Nat
  | .nan _ => (0, flagNV)
  | .inf neg => (if neg then lo else hi, flagNV)
  | .zero _ => (0, 0)
  | .fin neg mant e =>
    let (n, exact) := roundInt m neg mant e
    if n < lo ∨ hi < n then (if neg then lo else hi, flagNV) else (n, if exact then 0 else flagNX)

/-- Conversion of an integer to an integer range saturates (R166). -/
def toRange (lo hi n : Int) : Int × Nat := if n < lo then (lo, flagSAT) else if hi < n then (hi, flagSAT) else (n, 0)

end Sys2Proof.Machine
end

