-- ==== Sys2Proof/Machine/Numbers.lean ====
section
/-! DEFINITION. The arithmetic contract of chapter 09: decode tables and their encoding (R154–R160), block scales (R161), the
conversion pairs (R165, R166), and the accumulation of the matrix engine (R167–R171). -/

namespace Sys2Proof.Machine

/-! ### Decode tables -/

/-- A code of K8A (R156). -/
def k8aVal (c : Nat) : Option Val :=
  if c = 0 then some (.zero false)
  else if c = 0x80 then none
  else some (.fin (bit c 7) (8 + c % 8) ((c / 8 % 16 : Nat) - 7 - 3))
/-- A code of K8B (R156). -/
def k8bVal (c : Nat) : Option Val :=
  if c = 0 then some (.zero false)
  else if c = 0x7F ∨ c = 0x80 ∨ c = 0xFF then none
  else some (.fin (bit c 7) (4 + c % 4) ((c / 4 % 32 : Nat) - 15 - 2))
/-- An entry of a K8T table: reserved where RSV is set, otherwise its K19 value (R155). -/
def k8tEntry (x : Nat) : Option Val := if bit x 0 then none else some (fpK19.decode (x / 2 ^ 13))
/-- Entry c of a core's K8T table at scratchpad offset 0x1_5400 (R154). -/
def State.k8tAt (s : State) (core c : Nat) : Nat := s.read (padBase core + 0x15400 + 4 * c) 4

/-- A decode table: the value of each code, none where it is reserved, with its ENC, HASNAN and NaN code (R159). -/
structure DecTable where
  val : List (Option Val)
  enc : Bool
  hasNan : Bool
  nanCode : Nat
  deriving DecidableEq, Repr

/-- The value of a code. -/
def DecTable.get (t : DecTable) (c : Nat) : Option Val := (t.val[c]?).getD none
/-- The preset K8A (R156, R159). -/
def tableA : DecTable := ⟨(List.range 256).map k8aVal, true, false, 0⟩
/-- The preset K8B (R156, R159). -/
def tableB : DecTable := ⟨(List.range 256).map k8bVal, true, false, 0⟩
/-- The table of a core for a K8 format; K8T takes ENC, HASNAN and the NaN code from TBLSTAT (R143, R154). -/
def State.tableOf (s : State) (core : Nat) (t : Fmt) : DecTable :=
  match t with
  | .k8a => tableA
  | .k8b => tableB
  | _ =>
    let st := (s.core core).tblstat.toNat
    ⟨(List.range 256).map (fun c => k8tEntry (s.k8tAt core c)), bit st 0, bit st 1, bits st 15 8⟩

/-- A value is positive: not a NaN, above zero. -/
def Val.positive : Val → Bool
  | .inf false => true
  | .fin false _ _ => true
  | _ => false
/-- The values rise strictly. -/
def risingVals : List Val → Bool
  | a :: b :: rest => a.lt b && risingVals (b :: rest)
  | _ => true
/-- A table of 256 entries is encodable (R158). -/
def encodable (l : List Nat) : Bool :=
  let at_ (i : Nat) : Nat := l[i]?.getD 1
  let pos := ((List.range 127).map (· + 1)).filterMap (fun i => (k8tEntry (at_ i)).bind (fun v => if v.isNan then none else some v))
  decide (k8tEntry (at_ 0) = some (.zero false)) && pos.all Val.positive && risingVals pos && !pos.isEmpty &&
    ((List.range 127).map (· + 1)).all (fun i => decide (at_ (0x80 + i) = at_ i ^^^ 0x80000000)) &&
    (match k8tEntry (at_ 0x80) with
      | none => true
      | some v => v.isNan || decide (v = .zero true))
/-- TBLSTAT of a table of 256 entries (R143, R159). -/
def tblstatOf (l : List Nat) : Word :=
  match (List.range 256).find? (fun i => ((k8tEntry (l[i]?.getD 1)).map Val.isNan).getD false) with
  | some i => word ((if encodable l then 1 else 0) + 2 + i * 256)
  | none => word (if encodable l then 1 else 0)

/-- The distance between two finite magnitudes. -/
def distance (a b : Val) : Val :=
  match sumVals .rne [a, b.flip] with
  | (v, _) => v.abs
/-- One candidate against the best so far: nearer, or as near with bit 0 clear where the best has it set (R160). -/
def nearer (m : Val) (best : Option (Nat × Val)) (c : Nat) (v : Val) : Option (Nat × Val) :=
  match best with
  | none => some (c, v)
  | some (b, w) =>
    let d := distance v m
    let e := distance w m
    if d.lt e || (d.eqv e && decide (c % 2 = 0 ∧ b % 2 = 1)) then some (c, v) else some (b, w)

/-- Encoding of a value through a table whose ENC is 1: the code and the flags (R160). -/
def DecTable.encode (t : DecTable) (x : Val) : Nat × Nat :=
  let cands := (List.range 128).filterMap (fun c => (t.get c).bind (fun v => if v.isNan then none else some (c, v)))
  let finite := cands.filter (fun p => !p.2.isInf)
  let top := finite.foldl (fun b p => if b.2.lt p.2 then p else b) (0, .zero false)
  match x with
  | .nan q => if t.hasNan then (t.nanCode, if q then flagNV else 0) else (0, flagNV)
  | .zero neg => (if neg && decide (t.get 0x80 = some (.zero true)) then 0x80 else 0, 0)
  | _ =>
    let m := x.abs
    let (c, v, sat) : Nat × Val × Nat :=
      match m with
      | .inf _ =>
        match cands.find? (fun p => p.2.isInf) with
        | some (c, v) => (c, v, 0)
        | none => (top.1, top.2, flagSAT)
      | _ =>
        if top.2.lt m then (top.1, top.2, flagSAT)
        else
          match finite.foldl (fun b p => nearer m b p.1 p.2) none with
          | some (c, v) => (c, v, 0)
          | none => (0, .zero false, 0)
    let nx := if v.eqv m then 0 else flagNX
    let uf := if c = 0 then flagUF else 0
    (if x.neg? then c + 0x80 else c, sat ||| nx ||| uf)

/-- Whether an E8 byte is reserved (R161). -/
def e8Reserved (e : Nat) : Bool := decide (e = 255)
/-- A value times 2^k. -/
def Val.scale (k : Int) : Val → Val
  | .fin n m e => .fin n m (e + k)
  | v => v

/-! ### Elements and conversions -/

/-- Least and greatest values of an integer format (R150). -/
def rangeOf (t : Fmt) : Int × Int :=
  let b := 8 * t.size
  if t.isSigned then (-2 ^ (b - 1), 2 ^ (b - 1) - 1) else (0, 2 ^ b - 1)
/-- The integer that an element of an integer format holds (R150). -/
def intOf (t : Fmt) (x : Nat) : Int :=
  if t.isSigned then signedOf (8 * t.size) x else (x % 2 ^ (8 * t.size) : Nat)
/-- An integer as an element of n bits. -/
def intBits (n : Nat) (k : Int) : Nat := (k % 2 ^ n).toNat
/-- An integer as a value. -/
def valOfInt (k : Int) : Val := (Val.ofInt k 0).getD (.zero false)

/-- The pairs of Table 4 of chapter 09 (R165). -/
def convertible (src dst : Fmt) : Bool :=
  decide (src ≠ dst) &&
    ((src.isFp || src.isInt) && (dst.isFp || dst.isInt) || src.isK8 && dst.isFp ||
      (decide (src = .fp32) || decide (src = .fp16) || decide (src = .bf16)) && dst.isK8)

/-- Conversion of one element by the method of its pair (R165, R166), with the table of a K8 format: the element and its flags,
or none where a K8 code is reserved (R157). -/
def convertElem (m : RMode) (tbl : DecTable) (src dst : Fmt) (x : Nat) : Option (Nat × Nat) :=
  let ofVal (v : Val) : Nat × Nat :=
    if dst.isFp then (fpOf dst).rnd m v
    else if dst.isK8 then tbl.encode v
    else let (n, f) := toIntRange m (rangeOf dst).1 (rangeOf dst).2 v; (intBits (8 * dst.size) n, f)
  if src.isFp then
    let v := (fpOf src).decode x
    let (r, f) := ofVal v
    some (r, f ||| snanFlag [v])
  else if src.isK8 then
    match tbl.get (x % 256) with
    | none => none
    | some v =>
      let (r, f) := ofVal v
      some (r, f ||| (if dst.isFp then snanFlag [v] else 0))
  else if dst.isInt then
    let (n, f) := toRange (rangeOf dst).1 (rangeOf dst).2 (intOf src x)
    some (intBits (8 * dst.size) n, f)
  else some (ofVal (valOfInt (intOf src x)))

/-! ### Lanes -/

/-- Lane j of width e bytes of a vector (R137). -/
def lane (v : VWord) (e j : Nat) : Nat := v.toNat / 2 ^ (8 * e * j) % 2 ^ (8 * e)
/-- The lanes of width e of a vector. -/
def lanes (v : VWord) (e : Nat) : List Nat := (List.range (256 / e)).map (lane v e)
/-- The vector of a list of lanes of width e. -/
def ofLanes (e : Nat) (l : List Nat) : VWord := BitVec.ofNat 2048 (l.foldr (fun x acc => x % 2 ^ (8 * e) + 2 ^ (8 * e) * acc) 0)
/-- The guard bit of lane j of width e (R138). -/
def laneOn (k : Word) (e j : Nat) : Bool := k.getLsbD (j * e / 4)

/-! ### The matrix engine -/

/-- floor(log2) of a finite non-zero value. -/
def Val.top : Val → Int
  | .fin _ m e => (m.log2 : Int) + e
  | _ => 0
/-- A term truncated toward zero to a multiple of 2^q, in units of 2^q (R167). -/
def Val.truncated (q : Int) : Val → Int
  | .fin n m e =>
    let k : Int := if q ≤ e then m * 2 ^ (e - q).toNat else (m / 2 ^ (q - e).toNat : Nat)
    if n then -k else k
  | _ => 0
/-- The windowed sum of a group of exact terms, none a NaN or an infinity (R167). -/
def groupSum (l : List Val) (w : Nat) : Val :=
  match l.filter (fun v => !v.isZero) with
  | [] => .zero (l.all (fun v => decide (v = .zero true)))
  | v :: rest =>
    let q : Int := (rest.foldl (fun b t => if b < t.top then t.top else b) v.top) - w
    match Val.ofInt (((v :: rest).map (Val.truncated q)).foldl (· + ·) 0) q with
    | some r => r
    | none => .zero false

/-- What R168 decides of a part before the window: a NaN, an infinity, or nothing. -/
def special (prods : List (Val × Val)) (negated : List Bool) (acc : Val) : Option Val :=
  let ps := prods.map (fun p => (mulVals p.1 p.2).1)
  let ps := (ps.zip negated).map (fun p => if p.2 then p.1.flip else p.1)
  let all := acc :: ps
  if all.any Val.isNan then some (.nan false)
  else if all.contains (.inf false) && all.contains (.inf true) then some (.nan false)
  else all.find? Val.isInf

/-- The exact products of a group; some enter with their sign inverted (the −ai × bi terms of CF32). -/
def productsOf (prods : List (Val × Val)) (negated : List Bool) : List Val :=
  ((prods.map (fun p => (mulVals p.1 p.2).1)).zip negated).map (fun p => if p.2 then p.1.flip else p.1)

/-- A narrow pass on one FP32 accumulator: the new accumulator, and whether NV and OF of the tile are set (R168, R169). -/
def narrowPass (prods : List (Val × Val)) (acc : Nat) : Nat × Bool × Bool :=
  let a := fpF32.decode acc
  let no := prods.map (fun _ => false)
  match special prods no a with
  | some v => ((fpF32.rnd .rne v).1, v.isNan, false)
  | none =>
    let (r, f) := fpF32.rnd .rne (groupSum (productsOf prods no ++ [a]) 32)
    (r, false, decide (f / 4 % 2 = 1))

/-- An INT8 pass on one INT32 accumulator: the new accumulator, and whether SAT is set (R170). -/
def intPass (prods : List (Int × Int)) (acc : Nat) : Nat × Bool :=
  let t := signedOf 32 acc + (prods.map (fun p => p.1 * p.2)).foldl (· + ·) 0
  let r := min (max t (-(2 ^ 31 - 1))) (2 ^ 31 - 1)
  (intBits 32 r, decide (r ≠ t))

/-- rne(a + b) in a format, or the sign of an overflow (R171). -/
def addRne (f : FpFmt) (a b : Val) : Except Bool Val :=
  match sumVals .rne [a, b] with
  | (v, _) => let (r, fl) := f.rnd .rne v; if fl / 4 % 2 = 1 then .error v.neg? else .ok (f.decode r)
/-- rne(x) of an exact value in a format, or the sign of an overflow (R171). -/
def toRne (f : FpFmt) (v : Val) : Except Bool Val :=
  let (r, fl) := f.rnd .rne v
  if fl / 4 % 2 = 1 then .error v.neg? else .ok (f.decode r)

/-- The pair steps of R171. -/
def pairAdd (f : FpFmt) (hi lo sum : Val) : Except Bool (Val × Val) := do
  let shi ← toRne f sum
  let slo ← addRne f sum shi.flip
  let s ← addRne f hi shi
  let bv ← addRne f s hi.flip
  let av ← addRne f s bv.flip
  let e1 ← addRne f hi av.flip
  let e2 ← addRne f shi bv.flip
  let e ← addRne f e1 e2
  let t ← addRne f lo slo
  let t ← addRne f t e
  let h ← addRne f s t
  let z ← addRne f h s.flip
  let l ← addRne f t z.flip
  pure (h, l)

/-- A pass on one paired accumulator part: the new high and low halves, and whether NV and OF of the tile are set (R168, R171). -/
def pairPass (f : FpFmt) (w : Nat) (prods : List (Val × Val)) (negated : List Bool) (hi lo : Nat) : Nat × Nat × Bool × Bool :=
  let h := f.decode hi
  match special prods negated h with
  | some v => ((f.rnd .rne v).1, 0, v.isNan, false)
  | none =>
    match pairAdd f h (f.decode lo) (groupSum (productsOf prods negated) w) with
    | .error neg => (f.inf neg, 0, false, true)
    | .ok (h, l) => ((f.rnd .rne h).1, (f.rnd .rne l).1, false, false)

end Sys2Proof.Machine
end

