-- ==== Sys2Proof/Machine/Lines.lean ====
section
/-! DEFINITION. The lines that the L2 slices hold (R66–R69, R76, R77), the prefetcher's frames (R61), the report of a poisoned word
(R78), and the waking of a pseudo-channel that an access reaches (R64, R65). -/

namespace Sys2Proof.Machine

/-! ### A pseudo-channel that an access reaches -/

/-- The channel wakes and its unit's state is restored (R64, R65). -/
def wakeUnit (s : State) (u : Nat) : State :=
  s.modUnit u (fun t =>
    match t.save with
    | none => { t with power := .awake }
    | some x =>
      { t with power := .awake, save := none, overlay := x.overlay, data := x.data, pc := x.pc, run := x.run, lanes := x.lanes, flags := x.flags })
/-- A demand access to HBM wakes the pseudo-channel that it reaches and is served after the exit, with the bytes that it would have
met without the power change (R65). -/
def wakeFor (s : State) (pa : Nat) : State := if (s.unit (unitOfPa pa)).power = .awake then s else wakeUnit s (unitOfPa pa)

/-! ### Lines of a slice -/

/-- REMSZ of a die (R75, R76). -/
def Die.remsz (d : Die) : Nat := fieldOf d.l2cfg 3 0
/-- The local ways that a request of a domain may allocate into (R75, R76). -/
def Die.ways (d : Die) (dom : Nat) : List Nat :=
  let top := 48 - d.remsz
  if bit d.l2cfg.toNat 8 then
    let cls := ((List.range 15).map (· + 1)).find? (fun n => decide (fieldOf (Table.get 0xFFFFFFFFFFFF d.l2pcls n) 63 48 = dom))
    let mask := (Table.get 0xFFFFFFFFFFFF d.l2pcls (cls.getD 0)).toNat
    (List.range top).filter (fun w => bit mask w)
  else List.range top
/-- The die of a slice, as its key. -/
def dieOfSlice (k : Nat) : Nat := k / 128 * 2 + k % 128 / 64
/-- The 64-bit words of its line that n bytes at an address touch. -/
def wordsTouched (pa n : Nat) : BitVec 8 := BitVec.ofNat 8 (2 ^ ((pa % 64 + n + 7) / 8) - 2 ^ (pa % 64 / 8))
/-- A request of a domain uses its line at the home slice: a line that is present becomes dirty on a write; a load that meets a parity
error in one of its words discards a clean line and fetches it again, which counts as one corrected event; and an absent line is
allocated in a permitted way, over a victim that is a free choice (R69, R76, R77). What is read from HBM wakes its channel: all but a
write of a whole line that is allocated (R65, R69, R76). A write clears the parity errors of the line, which holds check bits from then on (log 69). -/
def useLine (s : State) (dom pa n : Nat) (write : Bool) : State :=
  let k := homeSlice pa
  let sl := s.slice k
  let line := pa / 64
  match sl.lines.find? (fun x => decide (x.line = line)) with
  | some x =>
    let hit := decide (x.badParity &&& wordsTouched pa n ≠ 0) && !write
    let s := if hit then wakeFor s pa else s
    s.modSlice k (fun sl =>
      { sl with lines := sl.lines.map (fun y =>
                  if y.line = line then { y with dirty := y.dirty || write, badParity := if hit || write then 0 else y.badParity } else y),
                corr := if hit then Nat.min 0xFFFF (sl.corr + 1) else sl.corr })
  | none =>
    let ways := (s.die (dieOfSlice k)).ways dom
    let s := if write && decide (64 ≤ n) && !ways.isEmpty then s else wakeFor s pa
    let used := (sl.lines.filter (fun x => decide (lineSet (x.line * 64) = lineSet pa))).map (·.way)
    match ways.find? (fun w => !used.contains w) with
    | some w => s.modSlice k (fun sl => { sl with lines := ⟨line, w, write, 0⟩ :: sl.lines })
    | none =>
      match ways[Config.victim s.fresh % ways.length]? with
      | none => s
      | some w =>
        (s.modSlice k (fun sl =>
          { sl with lines := ⟨line, w, write, 0⟩ ::
              sl.lines.filter (fun x => !decide (lineSet (x.line * 64) = lineSet pa ∧ x.way = w)) })).tickFresh
/-- The prefetcher of a die trains on an access without FO: it remembers the 64 KiB frame and the domain (R61). -/
def trainOn (s : State) (dom pa : Nat) : State :=
  s.modDie (dieOfSlice (homeSlice pa)) (fun d =>
    if d.trained.contains (pa / 65536, dom) then d else { d with trained := (pa / 65536, dom) :: d.trained })
/-- An access without FO of a domain to n bytes of a line of HBM at its home slice (R61, R68, R69). -/
def touchLine (s : State) (dom pa n : Nat) (write : Bool) : State := useLine (trainOn s dom pa) dom pa n write
/-- A request of a domain that may allocate into no way goes to HBM as if its line were FO, unless the slice holds the line (R76). -/
def bypasses (s : State) (dom pa : Nat) : Bool :=
  ((s.die (dieOfSlice (homeSlice pa))).ways dom).isEmpty && !(s.slice (homeSlice pa)).lines.any (fun x => decide (x.line = pa / 64))
/-- An access of a domain to HBM is performed by the pseudo-channel controller: its page carries FO, or it may allocate into no way (R66,
R76). -/
def servedAsFo (s : State) (fo : Bool) (dom pa : Nat) : Bool := fo || bypasses s dom pa
/-- An access to n bytes of HBM where it is performed: at the home slice, or with FO at the pseudo-channel controller alone, which no
line is allocated for (R60, R66, R76). -/
def reachHbm (s : State) (fo : Bool) (dom pa n : Nat) (write : Bool) : State :=
  if servedAsFo s fo dom pa then wakeFor s pa else touchLine s dom pa n write

/-! ### Errors that a consumer meets (R78) -/

/-- The address lies in a scratchpad. -/
def inPad (pa : Nat) : Bool := isPad pa || decide (2 ^ 53 ≤ pa)
/-- Counts an uncorrectable error that a consumer meets in a slice, if it is one, and reports it to the foreman of a panel (R78, R79). -/
def reportPoisonIn (s : State) (panel : Nat) (slice : Option Nat) (va : Nat) : State :=
  let s := match slice with
    | some k => s.modSlice k (fun l => { l with unc := Nat.min 0xFFFF (l.unc + 1) })
    | none => s
  s.modPanel panel (fun p => { p with log := p.log ++ [{ Msg.zero with w0 := 0x1B, w1 := word va }] })
/-- A poisoned word of memory: the slice is the home of a line of HBM. -/
def reportPoisonTo (s : State) (panel va pa : Nat) : State :=
  reportPoisonIn s panel (if isHbm pa && decide (pa < 2 ^ 53) then some (homeSlice pa) else none) va
/-- The same for a consumer in a core: the foreman is that of the core's panel. -/
def reportPoison (s : State) (core va pa : Nat) : State := reportPoisonTo s (panelKey core) va pa
/-- A poisoned word in a dirty line of the remote partition of a consumer's package: the slice is the one that holds the line. -/
def reportRemotePoison (s : State) (core va pa : Nat) : State :=
  reportPoisonIn s (panelKey core) (some (remoteSlice (corePkg core) pa)) va

end Sys2Proof.Machine
end

