-- ==== Sys2Proof/Machine/Translate.lean ====
section
/-! DEFINITION. Address translation: page-table walks (R27–R30), the access checks of R31, and the translation buffers of R34
and R35. -/

namespace Sys2Proof.Machine

/-- What an access does to its page, for the checks of R31. -/
inductive Use where
  | load | store | atomic | mortar | code | foLoad | foStore
  deriving DecidableEq, Repr

/-- Why an access is refused: the cause, and the translation-fault kind or 0. -/
structure Refused where
  cause : Nat
  kind : Nat
  deriving DecidableEq, Repr

/-- A translated address: physical address, bits [8:0] of the leaf, and the logarithm of the page size. -/
structure Place53 where
  pa : Nat
  attr : BitVec 9
  lg : Nat
  deriving DecidableEq, Repr

/-- The leaf carries X (bit 4). -/
def attrX (a : BitVec 9) : Bool := a.getLsbD 4
/-- The leaf carries W (bit 3). -/
def attrW (a : BitVec 9) : Bool := a.getLsbD 3
/-- The leaf carries R (bit 2). -/
def attrR (a : BitVec 9) : Bool := a.getLsbD 2
/-- The leaf carries M (bit 5). -/
def attrM (a : BitVec 9) : Bool := a.getLsbD 5
/-- The leaf carries RC (bit 6). -/
def attrRC (a : BitVec 9) : Bool := a.getLsbD 6
/-- The leaf carries FO (bit 7). -/
def attrFO (a : BitVec 9) : Bool := a.getLsbD 7
/-- The leaf carries G (bit 8). -/
def attrG (a : BitVec 9) : Bool := a.getLsbD 8

/-- The checks of R31, Table 7, rows 2 to 8: the cause, or none where the access proceeds. Row 2 names stores, atomics and copy-engine
writes; a reduction engine's write to a page with M, which R29 never lets carry FO, is refused by row 2 with 0x09 and not by row 8
(log 70, DEDUCED). -/
def useCheck (u : Use) (a : BitVec 9) : Option Nat :=
  match u with
  | .load => if attrR a then none else some 0x08
  | .store => if attrM a then some 0x09 else if attrW a then none else some 0x08
  | .atomic => if attrM a then some 0x09 else if attrR a && attrW a then none else some 0x08
  | .mortar => if attrM a then none else some 0x08
  | .code => if attrR a && attrX a then none else some 0x08
  | .foLoad => if attrR a && attrFO a then none else some 0x08
  | .foStore => if attrM a then some 0x09 else if attrW a && attrFO a then none else some 0x08

/-- The global region (R30). -/
def inGlobal (va : Nat) : Bool := decide (va / 2 ^ 46 = 0x3FF ∧ va < scratchWindow)
/-- The scratch window (R25). -/
def inWindow (va : Nat) : Bool := decide (scratchWindow ≤ va)

/-- The foreman's own domain reaches, beside HBM and scratchpads, the page of the inbox apertures and control space (R24, Table 3;
log 71), but by no page of the global region, which serves every domain (R30). -/
def foremanRange (dom loc size : Nat) : Bool :=
  decide (dom = 0) && (decide (0x6020000000 ≤ loc ∧ loc + size ≤ 0x6020010000) || decide (0x6100000000 ≤ loc ∧ loc + size ≤ 0x6200000000))
/-- The check of R29 and R30 that a leaf at a level fails first, in the order of the kinds' numbers (log 7). -/
def leafKind (s : State) (d dom : Nat) (glob : Bool) (level e : Nat) : Option Nat :=
  let addr := bits e 52 13 * 2 ^ 13
  let size := 2 ^ (16 + 10 * level)
  let m := bit e 5
  let loc := paLocal addr
  let hbm := decide (loc + size ≤ 0x6000000000)
  let pad := decide (0x6000000000 ≤ loc ∧ loc + size ≤ 0x6020000000)
  if bits e 63 53 ≠ 0 then some 1
  else if level = 3 then some 2
  else if addr % size ≠ 0 then some 3
  else if !hbm && !pad && !(foremanRange dom loc size && !glob) then some 4
  else if !(Table.get [] (s.die d).pkgset dom).contains (paPkg addr) then some 5
  else if bit e 8 ≠ glob then some 8
  else if m && (bit e 4 || bit e 7 || bit e 6) || pad && (m || bit e 7) then some 9
  else none

/-- The walker of die d reads an entry through the L2: it uses the entry's line for the domain whose walk it is (0 for a walk of the global
region, log 92), a single-bit error is corrected, and a poisoned entry is reported to the foreman of a panel and ends the walk (R29, R76, R78). -/
def readEntry (s : State) (panel dom at_ : Nat) : State × Except Refused Nat :=
  let s := if isHbm at_ then touchLine s dom at_ 8 false else s
  if (s.poisonedAt at_ 8).isSome then (reportPoisonTo s panel at_ at_, .error ⟨0x1B, 0⟩)
  else (s.correct at_ 8, .ok (s.read at_ 8))
/-- What an entry at a level is: refused with a kind, a pointer to the next table, or a leaf (R28, R29). -/
def entryKind (s : State) (d dom : Nat) (glob : Bool) (level e : Nat) : Except Refused (Option Nat) :=
  if !bit e 0 then .error ⟨0x07, 0⟩
  else if bit e 1 then
    if bits e 8 2 ≠ 0 ∨ bits e 63 53 ≠ 0 then .error ⟨0x07, 1⟩
    else if level = 0 then .error ⟨0x07, 2⟩
    else if bits e 52 39 ≠ d / 2 then .error ⟨0x07, 6⟩
    else .ok (some (bits e 52 13 * 2 ^ 13))
  else
    match leafKind s d dom glob level e with
    | some k => .error ⟨0x07, k⟩
    | none => .ok none
/-- The walk of R27–R29 from a table at a level: the table pointers passed, then the leaf entry and its level. -/
def walkFrom (panel d dom : Nat) (glob : Bool) (va : Nat) :
    Nat → State → Nat → State × Except Refused (List (Nat × Nat) × Nat × Nat)
  | level, s, table =>
    match readEntry s panel (if glob then 0 else dom) (table + va / 2 ^ (16 + 10 * level) % 1024 * 8) with
    | (s, .error r) => (s, .error r)
    | (s, .ok e) =>
      match entryKind s d dom glob level e, level with
      | .error r, _ => (s, .error r)
      | .ok none, _ => (s, .ok ([], e, level))
      | .ok (some _), 0 => (s, .error ⟨0x07, 2⟩)
      | .ok (some next), lower + 1 =>
        match walkFrom panel d dom glob va lower s next with
        | (s, .error r) => (s, .error r)
        | (s, .ok (ptrs, l)) => (s, .ok ((lower + 1, next) :: ptrs, l))
/-- A list that holds at most n entries after one more is put first; the entry dropped is a free choice (R34). -/
def evict {α : Type} (n pick : Nat) (l : List α) (x : α) : List α := x :: (if l.length < n then l else l.eraseIdx (pick % l.length))

/-- The walker of a die (R29, R30): the walk cache gives the deepest table pointer it holds, and a walk that ends in a leaf
fills it. A poisoned entry is reported to the foreman of a panel (R78). -/
def dieWalk (s : State) (panel d dom va : Nat) : State × Except Refused (Place53) :=
  let glob := inGlobal va
  let tag := if glob then 0 else dom
  let die := s.die d
  let start : Option (Nat × Nat) :=
    match die.walks.find? (fun w => decide (w.dom = tag ∧ w.level = 1 ∧ w.va = va / 2 ^ 26)) with
    | some w => some (0, w.table)
    | none =>
      match die.walks.find? (fun w => decide (w.dom = tag ∧ w.level = 2 ∧ w.va = va / 2 ^ 36)) with
      | some w => some (1, w.table)
      | none =>
        match die.walks.find? (fun w => decide (w.dom = tag ∧ w.level = 3 ∧ w.va = va / 2 ^ 46)) with
        | some w => some (2, w.table)
        | none => (if glob then die.global else (die.roots.find? (fun r => decide (r.1 = dom))).map (·.2)).map (fun r => (3, r * 2 ^ 13))
  match start with
  | none => (s, .error ⟨0x07, 7⟩)
  | some (level, table) =>
    match walkFrom panel d dom glob va level s table with
    | (s, .error r) => (s, .error r)
    | (s, .ok (ptrs, e, lv)) =>
      let lg := 16 + 10 * lv
      let add := ptrs.map (fun p => ({ dom := tag, level := p.1, va := va / 2 ^ (16 + 10 * p.1), table := p.2 } : WalkEnt))
      let s := add.foldl (fun s w => (s.modDie d (fun x => { x with walks := evict 256 (Config.victim s.fresh) x.walks w })).tickFresh) s
      (s, .ok ⟨bits e 52 13 * 2 ^ 13 / 2 ^ lg * 2 ^ lg + va % 2 ^ lg, BitVec.ofNat 9 e, lg⟩)

/-- A translation buffer entry serves an address of a domain (R30, R34). -/
def TlbEnt.serves (t : TlbEnt) (dom va : Nat) : Bool :=
  decide ((t.dom = dom ∨ t.attr.getLsbD 8 = true) ∧ t.va = va / 2 ^ t.lg)
/-- The place that a translation buffer entry gives. -/
def TlbEnt.place (t : TlbEnt) (va : Nat) : Place53 := ⟨t.pa + va % 2 ^ t.lg, t.attr, t.lg⟩
/-- The entry that remembers a place. -/
def Place53.entry (p : Place53) (dom va : Nat) : TlbEnt := ⟨dom, va / 2 ^ p.lg, p.lg, p.pa / 2 ^ p.lg * 2 ^ p.lg, p.attr⟩

/-- Puts a translation into a core's TLB (R34). -/
def fillCore (s : State) (c : Nat) (e : TlbEnt) : State :=
  (s.modCore c (fun k => { k with tlb := evict 64 (Config.victim s.fresh) k.tlb e })).tickFresh
/-- The set of a panel TLB that a translation uses (R34; which set is a choice of the model's, log 7). -/
def tlbSet (e : TlbEnt) : Nat := e.va % 512
/-- Puts a translation into a panel's TLB of 512 sets of 8 ways (R34). -/
def fillPanel (s : State) (p : Nat) (e : TlbEnt) : State :=
  (s.modPanel p (fun k =>
    { k with tlb := evict 8 (Config.victim s.fresh) (k.tlb.filter (fun x => decide (tlbSet x = tlbSet e))) e ++
        k.tlb.filter (fun x => decide (tlbSet x ≠ tlbSet e)) })).tickFresh

/-- The physical address of a scratch-window address for a core: its own package's aperture (R25). In a replay the code region and
system area of the original's own window are those of the spare core that runs it, and the rest is the original's memory as it
stands (R376). -/
def windowPa (s : State) (c va : Nat) : Nat :=
  let off := va - scratchWindow
  match (s.core c).replay with
  | some r =>
    if off / 0x80000 = r.orig % 2048 ∧ off % 0x80000 < 0x18000 then padBase c + off % 0x80000
    else paOf (corePkg r.orig) (0x6000000000 + off)
  | none => paOf (corePkg c) (0x6000000000 + off)

/-- Translates an address for an agent of a core: the scratch window (R25), the core TLB, the panel TLB, then the walker of the
core's die, which fills both (R34). -/
def translate (s : State) (c dom va : Nat) : State × Except Refused Place53 :=
  if inWindow va then (s, .ok ⟨windowPa s c va, 0xD, 19⟩)
  else
    match (s.core c).tlb.find? (fun t => t.serves dom va) with
    | some t => (s, .ok (t.place va))
    | none =>
      match (s.panel (panelKey c)).tlb.find? (fun t => t.serves dom va) with
      | some t => (fillCore s c t, .ok (t.place va))
      | none =>
        match dieWalk s (panelKey c) (dieKey c) dom va with
        | (s, .error r) => (s, .error r)
        | (s, .ok p) => (fillPanel (fillCore s c (p.entry dom va)) (panelKey c) (p.entry dom va), .ok p)

/-- Translates an address of an agent of a core and checks its use (R31). -/
def translateFor (s : State) (c dom va : Nat) (u : Use) : State × Except Refused Place53 :=
  match translate s c dom va with
  | (s, .error r) => (s, .error r)
  | (s, .ok p) =>
    match useCheck u p.attr with
    | some cause => (s, .error ⟨cause, 0⟩)
    | none => (s, .ok p)

/-- The lowest panel of a die, to whose foreman goes the report of a poisoned entry that a base die's or a port's walk meets (R78;
log 72). -/
def diePanel (d : Nat) : Nat := d / 2 * 8 + d % 2 * 4
/-- Translates an address on a base die: its TLB, then the walker of the die that owns the stack (R35). -/
def hbmTranslate (s : State) (k dom va : Nat) (u : Use) : State × Except Refused Place53 :=
  let check (s : State) (p : Place53) : State × Except Refused Place53 :=
    match useCheck u p.attr with
    | some cause => (s, .error ⟨cause, 0⟩)
    | none => (s, .ok p)
  if inWindow va then check s ⟨paOf (k / 8) (0x6000000000 + (va - scratchWindow)), 0xD, 19⟩
  else
    match (s.hbm k).tlb.find? (fun t => t.serves dom va) with
    | some t => check s (t.place va)
    | none =>
      match dieWalk s (diePanel (k / 8 * 2 + k % 8 / 4)) (k / 8 * 2 + k % 8 / 4) dom va with
      | (s, .error r) => (s, .error r)
      | (s, .ok p) =>
        check (s.modHbm k (fun b => { b with tlb := evict 256 (Config.victim s.fresh) b.tlb (p.entry dom va) })).tickFresh p

/-- Translates an address at a Nelyen port on behalf of a remote issuer, with the walker of a die (R33, R381). -/
def portTranslate (s : State) (d dom va : Nat) (u : Use) : State × Except Refused Place53 :=
  if inWindow va then
    match useCheck u 0xD with
    | some cause => (s, .error ⟨cause, 0⟩)
    | none => (s, .ok ⟨paOf (d / 2) (0x6000000000 + (va - scratchWindow)), 0xD, 19⟩)
  else
    match dieWalk s (diePanel d) d dom va with
    | (s, .error r) => (s, .error r)
    | (s, .ok p) =>
      match useCheck u p.attr with
      | some cause => (s, .error ⟨cause, 0⟩)
      | none => (s, .ok p)

end Sys2Proof.Machine
end

