-- ==== Sys2Proof/Machine/Access.lean ====
section
/-! DEFINITION. Accesses where they are performed: parties and the scope checker (R328, R329, R340–R343), the checks of a
scratchpad port (R26, R121, R127), routes between packages (R384), and the remote partition (R70–R73). -/

namespace Sys2Proof.Machine

/-! ### Parties -/

/-- A party of an access (R328): kind 0 strand or 1 foreman, package, core or panel number, strand. -/
structure Party where
  kind : Nat
  pkg : Nat
  core : Nat
  strand : Nat
  deriving DecidableEq, Repr

/-- The party that a strand is charged as (R328, Table 1). -/
def partyOf (c n : Nat) : Party :=
  if isForeman c then ⟨1, corePkg c, coreIdx c - 1024, 0⟩ else ⟨0, corePkg c, coreIdx c, n⟩
/-- The panel of a party (R329). -/
def Party.panel (p : Party) : Nat := if p.kind = 1 then p.core else panelOfNum p.core
/-- The scope instance of S taken by q includes p (R329). -/
def includes (S : Scope) (q p : Party) : Bool :=
  match S with
  | .system => true
  | .package => decide (p.pkg = q.pkg)
  | .panel => decide (p.pkg = q.pkg ∧ p.panel = q.panel)
  | .core => decide (p.pkg = q.pkg ∧ (p = q ∨ p.kind = 0 ∧ q.kind = 0 ∧ p.core = q.core))
  | .strand => decide (p = q)
/-- A scope record that holds a party (R340, Table 4). -/
def recordOf (S : Scope) (q : Party) : BitVec 32 :=
  BitVec.ofNat 32 (2 ^ 31 + S.code * 2 ^ 28 + q.kind * 2 ^ 26 + q.pkg * 2 ^ 12 + q.core * 4 + q.strand)
/-- The party that a scope record holds, if its V is set. -/
def partyIn (r : BitVec 32) : Option Party :=
  let x := r.toNat
  if bit x 31 then some ⟨bits x 27 26, bits x 25 12, bits x 11 2, bits x 1 0⟩ else none
/-- The scope record of the line of a physical address. -/
def State.record (s : State) (pa : Nat) : BitVec 32 := Table.get 0 s.records (pa / 64)
/-- The scope checker admits an access by q at S to the line (R341; log 91, DEDUCED, for two examples that read otherwise). -/
def State.admits (s : State) (pa : Nat) (S : Scope) (q : Party) : Bool :=
  match partyIn (s.record pa) with
  | some p => includes S q p
  | none => true
/-- Records an admitted access that was performed (R341). -/
def State.setRecord (s : State) (pa : Nat) (S : Scope) (q : Party) : State :=
  { s with records := Table.set s.records (pa / 64) (recordOf S q) }
/-- Clears the record of a line (R343). -/
def State.clearRecord (s : State) (pa : Nat) : State := { s with records := Table.erase s.records (pa / 64) }

/-! ### The scratchpad port -/

/-- The core whose scratchpad holds a physical address, and the offset in it. -/
def padHolder (pa : Nat) : Nat × Nat :=
  if 2 ^ 53 ≤ pa then ((pa - 2 ^ 53) / 0x80000, (pa - 2 ^ 53) % 0x80000) else (padCore pa, padOffset pa)
/-- A stationary bank of a core. -/
def Core.bank (k : Core) (b : Nat) : Bank := Table.get .init k.banks b
/-- The offset of landing slot i (R195, Table 10). -/
def slotOffset (hodarea : Word) (i : Nat) : Nat := fieldOf hodarea 18 0 + i * 0x4100
/-- n bytes at a scratchpad offset touch a landing slot whose hod is on its way (R308). -/
def State.inTransit (s : State) (c off n : Nat) : Bool :=
  s.fwds.any (fun f => decide (f.core = c) &&
    (match f.slot with
      | some i => decide (off < slotOffset (s.core c).hodarea i + 0x4100 ∧ slotOffset (s.core c).hodarea i < off + n)
      | none => false))
/-- The state of a bank as accesses see it (R124): FILLING from the acceptance of a SETST that names it, unless that SETST has met a
matrix trap, and while an MROT whose joint has formed fills it as the inactive bank. -/
def Core.shown (k : Core) (b : Nat) : BankState :=
  let queued := if k.mstop then k.mq.drop 1 else k.mq
  let rotating := (k.mq.head?.map (fun m => m.formed && decide (m.op ≠ .mmag ∧ b ≠ k.active))).getD false
  if queued.any (fun m => decide (m.op = .setst ∧ m.d = b)) || rotating then .filling else (k.bank b).state
/-- n bytes at a scratchpad offset touch bank b. -/
def touchesBank (b off n : Nat) : Bool := decide (off < 0x60000 + b * 0x20000 ∧ 0x40000 + b * 0x20000 < off + n)
/-- The access touches a bank that is FILLING, FIRED or DRAINING (R127). For the command at the head of the core's own queue, a SETST
queued behind it has not happened yet (R127, R128). -/
def State.firedBank (s : State) (c off n : Nat) (head : Bool) : Bool :=
  decide (0x40000 < off + n) && (List.range 2).any (fun b =>
    decide ((if head then ((s.core c).bank b).state else (s.core c).shown b) ≠ .ordinary) && touchesBank b off n)

/-- Who makes a plain access: the core of the agent, its domain, whether it is a foreman, whether it is the command at the head of the
core's matrix queue, and the strand and activation whose access it is, or none for an engine. -/
structure Agent where
  core : Nat
  dom : Nat
  foreman : Bool
  head : Bool
  issuer : Option (Nat × Nat)
  deriving DecidableEq, Repr
/-- The package of a launch. -/
def Launch.pkg (l : Launch) : Nat := l.panel / 8
/-- The domain of a launch (R346). -/
def Launch.dom (l : Launch) : Nat := fieldOf l.packet.h1 55 40
/-- An address of a launch's status block or of its park area (R346). -/
def Launch.ownsVa (l : Launch) (va : Nat) : Bool :=
  let status := fieldOf l.packet.w4 55 0
  let park := fieldOf l.packet.w5 55 0
  decide (status ≤ va ∧ va < status + 64) || decide (park ≤ va ∧ va < park + fieldOf l.packet.w5 63 56 * 0x4100)
/-- The domain in which a load, store or atomic of a core's strand translates: its launch's; for a foreman strand its own, but for the
status block and the park area of a launch of its package, which it reaches for that launch (R403; log 106, DEDUCED). -/
def State.strandDomain (s : State) (c va : Nat) : Nat :=
  if isForeman c then
    ((s.launches.find? (fun l => decide (l.pkg = corePkg c) && l.ownsVa va)).map (·.dom)).getD (s.core c).domain
  else (s.core c).domain
/-- The agent of a core's engines. -/
def State.agent (s : State) (c : Nat) : Agent := ⟨c, (s.core c).domain, isForeman c, false, none⟩
/-- The agent of a core's strand. -/
def State.strandAgent (s : State) (c n : Nat) : Agent := { s.agent c with issuer := some (n, (s.strand c n).act) }
/-- The firmware of a foreman core in a domain, charged to strand 0 (R13, R328). -/
def State.firmware (s : State) (fc dom : Nat) : Agent := ⟨fc, dom, true, false, some (0, (s.strand fc 0).act)⟩
/-- The checks of R26 and R121 at the target core, in order: the cause, or none where the access is performed. The foreman is
subject to none. -/
def padRefuses (s : State) (a : Agent) (pa n : Nat) (write : Bool) : Option Nat :=
  if a.foreman then none
  else
    let (t, off) := padHolder pa
    let k := s.core t
    if k.launch = 0 ∨ k.domain ≠ a.dom then some 0x08
    else if off < 0x10000 then (if write then some 0x08 else none)
    else if off < 0x18000 then
      if a.core ≠ t then some 0x08
      else if write && !decide (0x16000 ≤ off ∧ off + n ≤ 0x18000) then some 0x08 else none
    else if s.firedBank t off n (a.head && decide (a.core = t)) then some 0x0A
    else if write && s.inTransit t off n then some 0x08
    else none

/-- The reserved range of the system area reads as zero, whoever stores to it (R121). -/
def padReserved (pa : Nat) : Bool := decide (0x15C00 ≤ (padHolder pa).2 ∧ (padHolder pa).2 < 0x16000)
/-- What a read of a scratchpad returns: zero from a bank that is not ordinary (the foreman, R127), the bytes or zero from a slot whose hod
is on its way (R308), and otherwise the bytes. With head, for the command at the head of the core's own queue, a SETST that is only queued
has not happened yet. -/
def padRead (s : State) (head : Bool) (pa n : Nat) : Nat :=
  let (t, off) := padHolder pa
  if s.firedBank t off n head then 0
  else if s.inTransit t off n && decide (Config.pick s.fresh % 2 = 1) then 0
  else s.read pa n
/-- A store to a scratchpad; a store of the foreman or host to a fired bank or to the reserved range is ignored (R121, R127). -/
def padWrite (s : State) (head : Bool) (pa n v : Nat) : State :=
  if s.firedBank (padHolder pa).1 (padHolder pa).2 n head || padReserved pa then s else s.write pa n v
/-- The first poisoned word among n bytes that an access consumes: a bank that is not ordinary gives zeros, which no word of the memory
behind it poisons (R78, R127). -/
def State.poisonMet (s : State) (head : Bool) (pa n : Nat) : Option Nat :=
  if inPad pa && s.firedBank (padHolder pa).1 (padHolder pa).2 n head then none else s.poisonedAt pa n

/-- A die's walker holds a root for a domain, and the domain's package set there includes a package (R16, R29). -/
def rootAdmits (s : State) (d dom g : Nat) : Bool :=
  (s.die d).roots.any (fun r => decide (r.1 = dom)) && (Table.get [] (s.die d).pkgset dom).contains g
/-- Checks 1 and 2 of a target port for handlers 0 to 15 (R381): an operation of a domain from package g, by a core or its engine,
on n bytes at a physical address. -/
def portAdmits (s : State) (agent dom g pa n : Nat) (write : Bool) : Bool :=
  let d := paPkg pa * 2 + (if isPad pa then dieKey (padCore pa) % 2 else dieOfLocal (paLocal pa))
  rootAdmits s d dom g && (isHbm pa || (isPad pa && (padRefuses s ⟨agent, dom, isForeman agent, false, none⟩ pa n write).isNone))

/-! ### One access at its place -/

/-- The new value that an atomic stores, by the handler numbers of R380; none where it writes nothing (R230). -/
def atomicNew (h old y cmp : Nat) : Option Nat :=
  let m := 2 ^ 64
  match h with
  | 2 => some ((old + y) % m)
  | 3 => some (old &&& y)
  | 4 => some (old ||| y)
  | 5 => some (old ^^^ y)
  | 6 => some (if signedOf 64 old ≤ signedOf 64 y then old else y)
  | 7 => some (if signedOf 64 y ≤ signedOf 64 old then old else y)
  | 8 => some (if old ≤ y then old else y)
  | 9 => some (if y ≤ old then old else y)
  | 10 => some y
  | 11 => if old = cmp then some y else none
  | 12 => some (fpF64.rnd .rne (sumVals .rne [fpF64.decode old, fpF64.decode y]).1).1
  | 13 => some (fpF32.rnd .rne (sumVals .rne [fpF32.decode old, fpF32.decode (y % 2 ^ 32)]).1).1
  | _ => none

/-- The pieces of an access that go to the scratchpads of other cores of its package. -/
def Acc.atPorts (a : Acc) : List Piece := a.pieces.filter (fun q => decide (q.place = .pad) && decide ((padHolder q.pa).1 ≠ a.core))
/-- The pieces that those ports check together with a piece: all of an access, so that one that is refused writes nothing (R32, R263,
R276), or those of one register of a whole-register transfer (R280). -/
def Acc.checkedWith (a : Acc) (p : Piece) : List Piece :=
  match a.dest with
  | .regs _ _ _ _ _ => a.atPorts.filter (fun q => decide (q.va / 256 = p.va / 256))
  | _ => a.atPorts
/-- What the ports of other cores' scratchpads answer to a strand's access: the cause and the address of its first piece that fails (R26,
R222). They check its pieces when the first of them is performed; the own core's port has checked an access when it issued (R222, R224). -/
def portRefuses (s : State) (a : Acc) (p : Piece) : Option (Nat × Nat) :=
  if !a.atPorts.contains p || (a.checkedWith p).any (·.done) then none
  else (a.checkedWith p).findSome? (fun q =>
    (padRefuses s ⟨a.core, a.dom, isForeman a.core, false, none⟩ q.pa q.n (decide (a.op ≠ .load))).map (fun cause => (cause, q.va)))
/-- A piece of an access performed at its home: the scratchpad port's checks, the scope checker, poison, then the access. The answer is
what it read, or the cause of its refusal and the address (R26, R78, R222, R223, R230, R341). A store that ZERO made, marked by comparand
1, clears its line's record (R343). -/
def performAt (s : State) (a : Acc) (p : Piece) : State × Except (Nat × Nat) Nat :=
  let q := partyOf a.core a.strand
  let write := decide (a.op ≠ .load)
  match portRefuses s a p with
  | some e => (s, .error e)
  | none =>
    if a.sync && !s.admits p.pa a.scope q then (s, .error (0x0C, p.va))
    else
      let s := if inPad p.pa then s else reachHbm s p.fo a.dom p.pa p.n write
      let reads := decide (a.op ≠ .store)
      match (if reads then s.poisonMet false p.pa p.n else none) with
      | some at_ => (reportPoison s a.core (p.va + (at_ - p.pa)) p.pa, .error (0x1B, p.va + (at_ - p.pa)))
      | none =>
        let s := if reads then s.correct p.pa p.n else s
        let old := if inPad p.pa then padRead s false p.pa p.n else s.read p.pa p.n
        let s := if a.sync then s.setRecord p.pa a.scope q else s
        let put (s : State) (v : Nat) : State := if inPad p.pa then padWrite s false p.pa p.n v else s.write p.pa p.n v
        match a.op with
        | .load => (s.tickFresh, .ok old)
        | .store => (if p.cmp = 1 then (put s p.data).clearRecord p.pa else put s p.data, .ok 0)
        | .atomic h =>
          match atomicNew h old p.data p.cmp with
          | some v => (put s v, .ok old)
          | none => (s, .ok old)

/-! ### Routes between packages (R384) -/

/-- A position of the torus along x, y or z. -/
def torusAt (g dim : Nat) : Nat := match dim with | 0 => g % 32 | 1 => g / 32 % 32 | _ => g / 1024
/-- The size of the torus along a dimension. -/
def torusSize (t : Nat × Nat × Nat) (dim : Nat) : Nat := match dim with | 0 => t.1 | 1 => t.2.1 | _ => t.2.2
/-- The dimensions in which two packages differ, in order. -/
def differing (g dst : Nat) : List Nat := (List.range 3).filter (fun d => decide (torusAt g d ≠ torusAt dst d))
/-- The first port of a dimension, in the direction that is nearer to the destination. -/
def portToward (t : Nat × Nat × Nat) (g dst dim : Nat) : Nat :=
  let n := torusSize t dim
  4 * dim + (if (torusAt dst dim + n - torusAt g dim) % n ≤ n / 2 then 0 else 2)
/-- The port of package g towards another: the routing table's, or the first in dimension order x, y, z (R384). -/
def State.routePort (s : State) (g dst : Nat) : Nat :=
  match (s.pkg g).routes.find? (fun r => decide (r.1 = dst)) with
  | some r => r.2
  | none => ((differing g dst).head?.map (portToward (s.pkg g).torus g dst)).getD 12
/-- The package beyond a port. -/
def State.neighbour (s : State) (g port : Nat) : Nat :=
  let dim := port / 4
  let n := torusSize (s.pkg g).torus dim
  let x := torusAt g dim
  let y := if port % 4 < 2 then (x + 1) % n else (x + n - 1) % n
  g + y * 32 ^ dim - x * 32 ^ dim
/-- A Nelyen port of a package. -/
def State.port (s : State) (g p : Nat) : Port := Table.get .init (s.pkg g).ports p
/-- The ports, as package and number, of the route from one package to another; none where a routing table names no port on the way or
the fuel, which no route needs, is spent. -/
def State.route (s : State) : Nat → Nat → Nat → Option (List (Nat × Nat))
  | 0, _, _ => none
  | fuel + 1, g, dst =>
    if g = dst then some []
    else
      let p := s.routePort g dst
      if 12 ≤ p then none else (s.route fuel (s.neighbour g p) dst).map (fun l => (g, p) :: l)
/-- A package answers its links and its foremen act; after a failed boot it answers only CXL.io (R394). -/
def State.answers (s : State) (g : Nat) : Bool := match (s.pkg g).boot with | .failed _ => false | _ => true
/-- No link towards a package: a routing table names no port, a port on the way is fenced, or the package answers none (R384, R387, R394). -/
def State.linkDown (s : State) (g dst : Nat) : Bool :=
  !s.answers dst || (match s.route 128 g dst with
    | none => true
    | some l => l.any (fun q => (s.port q.1 q.2).fenced))
/-- A port carries BULK frames: it is not fenced and has not dropped BULK (R387, step 1). -/
def State.carriesBulk (s : State) (g p : Nat) : Bool := !(s.port g p).fenced && !(s.port g p).bulkDropped
/-- The port of package g for BULK frames towards another: that of its other traffic, or where it carries none the other port of the same
direction (R387, step 1). -/
def State.bulkPort (s : State) (g dst : Nat) : Nat :=
  let p := s.routePort g dst
  if 12 ≤ p ∨ s.carriesBulk g p then p else if s.carriesBulk g (p ^^^ 1) then p ^^^ 1 else 12
/-- The ports on the way of BULK frames, as in `route`. -/
def State.bulkRoute (s : State) : Nat → Nat → Nat → Option (List (Nat × Nat))
  | 0, _, _ => none
  | fuel + 1, g, dst =>
    if g = dst then some []
    else
      let p := s.bulkPort g dst
      if 12 ≤ p then none else (s.bulkRoute fuel (s.neighbour g p) dst).map (fun l => (g, p) :: l)
/-- No way for BULK frames towards a package. -/
def State.bulkDown (s : State) (g dst : Nat) : Bool := !s.answers dst || (s.bulkRoute 128 g dst).isNone

/-- The capability word of a package: its reserved bits read 0 (R7, R382). -/
def State.capability (s : State) (g : Nat) : Word := (s.pkg g).word &&& 0xFFFFFF00000000FF
/-- A package of another revision lacks a feature of R382, by its bit. -/
def State.lacks (s : State) (g peer feature : Nat) : Bool := decide (g ≠ peer) && !bit (s.capability peer).toNat feature

/-- The feature that a load, store or atomic of n bytes at another package takes: BASE, WIDE or FADD (R380, R382). -/
def featureOf (op : AccOp) (n : Nat) : Nat :=
  match op with
  | .atomic h => if 12 ≤ h then 3 else 0
  | _ => if n ≤ 8 then 0 else 2
/-- An operation of a package towards another gets no answer that its issuer can use: no link leads there, or the package there lacks the
feature and replies UNSUPPORTED (R224, R381, R382, R387). -/
def State.cannotReach (s : State) (g peer feature : Nat) : Bool := s.linkDown g peer || s.lacks g peer feature

/-! ### The remote partition -/

/-- A set of numbers as a rising list, with one more. -/
def insertRising (p : Nat) : List Nat → List Nat
  | [] => [p]
  | x :: rest => if p = x then x :: rest else if p < x then p :: x :: rest else x :: insertRising p rest
/-- Sets a strand's sticky bit for a package, if the activation is still the one that issued the operation (R383). -/
def setSticky (s : State) (c n act peer : Nat) : State :=
  s.modStrand c n (fun t => if t.act = act then { t with sticky := insertRising peer t.sticky } else t)
/-- The line of another package held by an accessing package. -/
def State.rline (s : State) (g line : Nat) : Option RLine := s.rlines.find? (fun r => decide (r.pkg = g ∧ r.line = line))
/-- Replaces a line of the remote partition. -/
def State.setRline (s : State) (r : RLine) : State :=
  { s with rlines := r :: s.rlines.filter (fun x => !decide (x.pkg = r.pkg ∧ x.line = r.line)) }
/-- Removes a line from a remote partition. -/
def State.dropRline (s : State) (g line : Nat) : State :=
  { s with rlines := s.rlines.filter (fun x => !decide (x.pkg = g ∧ x.line = line)) }
/-- The remote partition of the accessing package's die for a line is not zero (R75). -/
def State.hasRemote (s : State) (g pa : Nat) : Bool := decide (0 < (s.die (g * 2 + dieOfLocal (paLocal pa))).remsz)
/-- The mask of n bytes at an offset of a line. -/
def lineMask (off n : Nat) : BitVec 64 := BitVec.ofNat 64 ((2 ^ n - 1) * 2 ^ off)
/-- The bytes of a line that a mask names, taken from one value, the others from another. -/
def mergeLine (m : BitVec 64) (new old : BitVec 512) : BitVec 512 :=
  BitVec.ofNat 512 ((List.range 64).foldl (fun acc i =>
    acc + ((if m.getLsbD i then new else old).toNat / 2 ^ (8 * i) % 256) * 2 ^ (8 * i)) 0)
/-- Whether a set of the remote partition has a way for one more line, after dropping a clean one if need be; the ways are those
of R75. -/
def roomFor (s : State) (g line : Nat) : Option (Nat × Option Nat) :=
  let pa := line * 64
  let d := s.die (g * 2 + dieOfLocal (paLocal pa))
  let ways := (List.range d.remsz).map (· + (48 - d.remsz))
  let peers := s.rlines.filter (fun r => decide (r.pkg = g ∧ remoteSlice g (r.line * 64) = remoteSlice g pa ∧ lineSet (r.line * 64) = lineSet pa))
  match ways.find? (fun w => !(peers.map (·.way)).contains w) with
  | some w => some (w, none)
  | none =>
    let clean := peers.filter (fun r => decide (r.dirty = 0))
    match clean[Config.victim s.fresh % clean.length]? with
    | some r => some (r.way, some r.line)
    | none => none
/-- A line that no remote partition holds yet. -/
def RLine.none_ (g line : Nat) : RLine := ⟨g, line, 0, 0, 0, 0, 0, 0, 0, 0, false, []⟩
/-- The line that a remote partition holds, or one without a valid byte. -/
def State.rlineOr (s : State) (g line : Nat) : RLine := (s.rline g line).getD (.none_ g line)
/-- Puts a line into the remote partition, in the way that it has or a new one; none while every way of its set holds dirty bytes, which
must be written back first (R71). -/
def State.addRline (s : State) (r : RLine) : Option State :=
  match s.rline r.pkg r.line with
  | some old => some (s.setRline { r with way := old.way })
  | none =>
    match roomFor s r.pkg r.line with
    | none => none
    | some (w, out) =>
      let s := match out with | some l => s.dropRline r.pkg l | none => s
      some ((s.setRline { r with way := w }).tickFresh)
/-- The words of a line that a mask of its bytes covers whole. -/
def wholeWords (m : BitVec 64) : BitVec 8 :=
  BitVec.ofNat 8 ((List.range 8).foldl (fun x i => if (List.range 8).all (fun j => m.getLsbD (8 * i + j)) then x + 2 ^ i else x) 0)
/-- The bytes of the words that a mask of words names. -/
def wordBytes (m : BitVec 8) : BitVec 64 :=
  BitVec.ofNat 64 ((List.range 8).foldl (fun x i => if m.getLsbD i then x + 255 * 2 ^ (8 * i) else x) 0)
/-- A line of the remote partition after a store of n bytes at an offset, by a strand or an engine: the bytes are valid and dirty, a word
covered whole loses its poison, and check bits take the place of the parity (R71, R77, R78). -/
def RLine.stored (r : RLine) (dom off n v : Nat) (zero : Bool) (writer : Option (Nat × Nat × Nat)) : RLine :=
  let m := lineMask off n
  { r with data := mergeLine m (BitVec.ofNat 512 (v * 2 ^ (8 * off))) r.data, valid := r.valid ||| m, dirty := r.dirty ||| m, dom := dom,
           parity := 0, single := r.single &&& ~~~(wholeWords m), poison := r.poison &&& ~~~(wholeWords m), zeroed := r.zeroed || zero,
           writers := match writer with | some w => w :: r.writers.filter (fun x => decide (x ≠ w)) | none => r.writers }
/-- A SYSTEM acquire completes: every valid byte of the package's remote partitions that is not dirty becomes invalid (R72). -/
def State.invalidateRemote (s : State) (g : Nat) : State :=
  let kept := s.rlines.map (fun r => if r.pkg = g then { r with valid := r.dirty, parity := 0 } else r)
  { s with rlines := kept.filter (fun r => !decide (r.pkg = g ∧ r.valid = 0)) }
/-- The lines of a package's remote partitions that hold dirty bytes. -/
def State.dirtyLines (s : State) (g : Nat) : List Nat :=
  (s.rlines.filter (fun r => decide (r.pkg = g ∧ r.dirty ≠ 0))).map (·.line)
/-- The bytes of a write-back at the home under the dirty mask: the home line is used as by any write, a word that is covered whole loses
its poison, a poisoned word takes its poison along, and the record of a line that a ZERO wrote is cleared (R69, R71, R78, R343). At the home
it counts as an access of the domain that stored to the line last (R76; log 92). -/
def writeBackBytes (s : State) (r : RLine) : State :=
  let pa := r.line * 64
  let s := reachHbm s false r.dom pa (if r.dirty = BitVec.allOnes 64 then 64 else 1) true
  let s := (List.range 64).foldl (fun s i =>
    if r.dirty.getLsbD i then { s with mem := Memory.set s.mem (pa + i) (BitVec.ofNat 8 (r.data.toNat / 2 ^ (8 * i))) } else s) s
  let whole := wholeWords r.dirty
  let bad := (List.range 8).filter (fun i => r.poison.getLsbD i && decide (r.dirty &&& wordBytes (BitVec.ofNat 8 (2 ^ i)) ≠ 0))
  let clean (w : Nat) : Bool := decide (w / 8 = r.line) && (whole.getLsbD (w % 8) || bad.contains (w % 8))
  let s := { s with poison := bad.map (fun i => r.line * 8 + i) ++ s.poison.filter (fun w => !clean w),
                    single := s.single.filter (fun w => !clean w) }
  if r.zeroed then s.clearRecord pa else s
/-- A line of a remote partition after its write-back: nothing is dirty, single-bit errors have been corrected on the way, and poisoned
words are valid no longer, so that the next load meets them at the home (R73, R78). -/
def RLine.cleaned (r : RLine) : RLine :=
  { r with dirty := 0, valid := r.valid &&& ~~~(wordBytes r.poison), single := 0, poison := 0, zeroed := false, writers := [] }
/-- The remote slice that holds a line counts corrected events (R77, R79). -/
def State.countRemote (s : State) (g line n : Nat) : State :=
  s.modSlice (remoteSlice g (line * 64)) (fun l => { l with corr := Nat.min 0xFFFF (l.corr + n) })
/-- How many words a mask names. -/
def countWords (m : BitVec 8) : Nat := ((List.range 8).filter (fun i => m.getLsbD i)).length
/-- The home of a line takes the write-back of a package: a link leads there, it has handler 15, and its port admits the domain (R381,
R382, R387). -/
def takesBack (s : State) (r : RLine) : Bool :=
  !s.cannotReach r.pkg (paPkg (r.line * 64)) 6 && portAdmits s (r.pkg * 2048) r.dom r.pkg (r.line * 64) 64 true
/-- A write-back under the dirty mask: the home's bytes change and the line is clean; its single-bit errors are corrected as it is read out
(R71, R73, R78). One that meets a fenced link, or that its home refuses, has no effect there: its bytes are valid no longer, and the strands
that stored them have their sticky bits set (R224, R381–R383, R387). -/
def State.writeBackLine (s : State) (g line : Nat) : State :=
  match s.rline g line with
  | none => s
  | some r =>
    if r.dirty = 0 then s
    else if takesBack s r then
      let s := if r.single = 0 then s else s.countRemote g line (countWords r.single)
      (writeBackBytes s r).setRline r.cleaned
    else
      r.writers.foldl (fun s w => setSticky s w.1 w.2.1 w.2.2 (paPkg (line * 64)))
        (s.setRline { r.cleaned with valid := r.valid &&& ~~~r.dirty })
/-- Every dirty line of a package's remote partitions is written back (R73). -/
def State.writeBackAll (s : State) (g : Nat) : State := (s.dirtyLines g).foldl (fun s l => s.writeBackLine g l) s
/-- A synchronisation access to a line of another package writes it back and drops it from the own partition before it is made (R74,
R333). -/
def State.dropCopy (s : State) (g pa : Nat) : State := (s.writeBackLine g (pa / 64)).dropRline g (pa / 64)
/-- A load of n bytes of a line meets the errors of the words that it touches: a parity error in a clean line discards the line, which is
fetched again from its home, and a single-bit error in a dirty one is corrected; each counts at the slice (R77, R78). -/
def meetRemote (s : State) (r : RLine) (off n : Nat) : State :=
  let words := wordsTouched off n
  if r.dirty = 0 then
    if r.parity &&& words ≠ 0 then (s.dropRline r.pkg r.line).countRemote r.pkg r.line 1 else s
  else if r.single &&& words ≠ 0 then
    (s.setRline { r with single := r.single &&& ~~~words }).countRemote r.pkg r.line (countWords (r.single &&& words))
  else s
/-- The bytes of a line that lie in poisoned words. -/
def poisonMask (s : State) (line : Nat) : BitVec 64 :=
  (List.range 8).foldl (fun m i => if (s.poisonedAt (line * 64 + 8 * i) 8).isSome then m ||| lineMask (8 * i) 8 else m) 0
/-- A fill of the remote partition: the line comes from its home with valid bits set where a byte is not dirty; poisoned words stay invalid,
so that each later load meets them (R71, R78). The answer is the state and the filled line, which the partition holds where it has a
way. -/
def fillRemote (s : State) (g dom line : Nat) : State × RLine :=
  let s := (reachHbm s false dom (line * 64) 64 false).correct (line * 64) 64
  let old := s.rlineOr g line
  let r := { old with data := mergeLine old.dirty old.data (BitVec.ofNat 512 (s.read (line * 64) 64)), dom := dom, parity := 0,
                      valid := old.dirty ||| ~~~(poisonMask s line) }
  (match s.addRline r with | some s => s | none => s, r)
/-- The offset of the first of n bytes at an offset of a line that lies in a poisoned word, from that offset. -/
def RLine.poisonIn (r : RLine) (off n : Nat) : Option Nat := (List.range n).find? (fun i => r.poison.getLsbD ((off + i) / 8))
/-- n bytes of a line of the remote partition. -/
def RLine.bytes (r : RLine) (off n : Nat) : Nat := r.data.toNat / 2 ^ (8 * off) % 2 ^ (8 * n)

end Sys2Proof.Machine
end

