-- ==== Sys2Proof/Machine/Headers.lean ====
section
/-! DEFINITION. What messages and launches are made of: issuer identities (chapter 05, Table 8), headers (R183, R184, R345), and the
rectangles of launches (R344). -/

namespace Sys2Proof.Machine

/-! ### Identities -/

/-- An issuer identity (chapter 05, Table 8). -/
def identity (pkg num kind strand : Nat) : Word := word (pkg * 2 ^ 50 + num * 2 ^ 40 + kind * 2 ^ 36 + strand * 2 ^ 34)
/-- The core that a processor counts as: a replay takes the original's place (R376). -/
def State.seenCore (s : State) (c : Nat) : Nat :=
  match (s.core c).replay with | some r => r.orig | none => c
/-- The issuer identity of a strand or foreman strand. -/
def State.identOf (s : State) (c n : Nat) : Word :=
  let c := s.seenCore c
  if isForeman c then identity (corePkg c) (coreIdx c - 1024) 4 n else identity (corePkg c) (coreIdx c) 0 n
/-- The identity of a core (strand 0), engine or unit of another kind. -/
def engineIdent (c kind strand : Nat) : Word := identity (corePkg c) (coreIdx c) kind strand
/-- The foreman's identity, from the panel's key. -/
def foremanIdent (pk : Nat) : Word := identity (pk / 8) (pk % 8) 4 0
/-- Package, number, kind and strand of an identity. -/
def identFields (w : Word) : Nat × Nat × Nat × Nat := (fieldOf w 63 50, fieldOf w 49 40, fieldOf w 39 36, fieldOf w 35 34)
/-- The core, as a key, that an identity of kind 0, 1 or 4 names. -/
def coreOfIdent (w : Word) : Nat :=
  let (g, n, k, _) := identFields w
  if k = 4 then g * 2048 + 1024 + n % 8 else g * 2048 + n

/-! ### Headers -/

/-- Header word 0 without its source fields (R183, Table 4). -/
def header0 (kind dpkg dx dy : Nat) (fm : Bool) : Word :=
  word (kind * 2 ^ 60 + dpkg * 2 ^ 45 + dx * 2 ^ 40 + dy * 2 ^ 35 + (if fm then 32 else 0))
/-- Source kinds of R183: 0 strand, 1 copy engine, 2 hod engine, 3 foreman. -/
def skindOf (c : Nat) : Nat := if isForeman c then 3 else 0
/-- The source fields, bits [34:6], of a sender (R183). -/
def sourceFields (c n skind : Nat) : Nat :=
  corePkg c * 2 ^ 21 + (coordOf c).1 * 2 ^ 16 + (coordOf c).2 * 2 ^ 11 + n * 2 ^ 9 + skind * 2 ^ 6
/-- Header word 0 with its source fields written (R300). -/
def stamp (h0 : Word) (c n skind : Nat) : Word :=
  word (h0.toNat / 2 ^ 35 * 2 ^ 35 + sourceFields c n skind + h0.toNat % 64)
/-- Header word 1 of a SYSTEM message (R345, Table 1). -/
def header1 (sfn dom : Nat) : Word := word (sfn * 2 ^ 56 + dom * 2 ^ 40)
/-- KIND of a header word 0. -/
def msgKind (m : Msg) : Nat := fieldOf m.h0 63 60
/-- CLASS of a DIRECT or HOD header word 1 (R184). -/
def msgClass (m : Msg) : Nat := fieldOf m.h1 63 58
/-- SFN of a SYSTEM header word 1 (R345). -/
def msgSfn (m : Msg) : Nat := fieldOf m.h1 63 56
/-- The core that a message with FM 0 addresses. -/
def msgCore (m : Msg) : Nat := fieldOf m.h0 58 45 * 2048 + fieldOf m.h0 39 35 * 32 + fieldOf m.h0 44 40
/-- The core that a message came from. -/
def msgSource (m : Msg) : Nat := fieldOf m.h0 34 21 * 2048 + fieldOf m.h0 15 11 * 32 + fieldOf m.h0 20 16
/-- The panel, as a key, whose foreman a message with FM 1 addresses. -/
def msgPanel (m : Msg) : Nat := panelKey (msgCore m)
/-- Header word 0 of a message to an identity of kind 0 (a core) or 4 (a foreman), without source fields. -/
def headerTo (kind : Nat) (target : Word) : Word :=
  let c := coreOfIdent target
  header0 kind (corePkg c) (coordOf c).1 (coordOf c).2 (isForeman c)

/-- A SYSTEM message that a foreman has for itself, as its log holds it: a foreman sends itself nothing (R408). -/
def ownMsg (fc skind sfn dom : Nat) (w0 w1 w2 w3 w4 w5 : Word) : Msg :=
  ⟨stamp (headerTo 3 (foremanIdent (panelKey fc))) fc 0 skind, header1 sfn dom, w0, w1, w2, w3, w4, w5⟩
/-- Appends to the log of a foreman in control space. -/
def State.logAt (s : State) (pk : Nat) (l : List Msg) : State := s.modPanel pk (fun p => { p with log := p.log ++ l })
/-- SYSTEM functions that are not reserved (R345, R366; chapter 20). -/
def sfnKnown (f : Nat) : Bool :=
  [0x01, 0x02, 0x03, 0x10, 0x11, 0x12, 0x13, 0x14, 0x15, 0x18, 0x19, 0x1B, 0x20, 0x40, 0x41, 0x42, 0x43].contains f

/-- Word m0 of the FAULT message by which a message is handed on (R408). -/
def handCause (m : Msg) (reason : Nat) : Word := word (0x02 + reason * 2 ^ 8 + fieldOf m.h0 8 6 * 2 ^ 24)

/-! ### Rectangles (R344) -/

/-- A rectangle covers a core's coordinates (R344). -/
def rectHolds (r x y : Nat) : Bool :=
  decide (bits r 4 0 ≤ x ∧ x < bits r 4 0 + 2 ^ bits r 12 10 ∧ bits r 9 5 ≤ y ∧ y < bits r 9 5 + 2 ^ bits r 15 13)
/-- A rectangle is aligned and lies in the array (R344). -/
def rectAligned (r : Nat) : Bool :=
  decide (bits r 12 10 ≤ 5 ∧ bits r 15 13 ≤ 5 ∧ bits r 4 0 % 2 ^ bits r 12 10 = 0 ∧ bits r 9 5 % 2 ^ bits r 15 13 = 0)
/-- The cores of a rectangle of a package, as keys, in ascending core number. -/
def rectCores (g r : Nat) : List Nat :=
  ((List.range 1024).filter (fun i => rectHolds r (i % 32) (i / 32))).map (fun i => g * 2048 + i)
/-- RECT of a launch (R346, Table 3). -/
def Launch.rect (l : Launch) : Nat := fieldOf l.packet.w0 15 0
/-- The cores of a launch. -/
def Launch.cores (l : Launch) : List Nat := rectCores l.pkg l.rect

end Sys2Proof.Machine
end

