-- ==== Sys2Proof/Machine/ControlSpace.lean ====
section
/-! DEFINITION. The ranges that the foreman reaches beside memory (R24): the inbox apertures (R390) and control and status space (R6, R7,
R76, R340, R377, R382). The registers whose addresses the manual does not give have the model's own (log 12). -/

namespace Sys2Proof.Machine

/-! ### The foreman's SYS partition and the apertures (R366, R390) -/

/-- SYSTEM functions that a panel's foreman acts on (R348, R360, R366); POWER and MODE are panel 0's (R392, R393). -/
def sfnActed (pk f : Nat) : Bool := [0x01, 0x02, 0x03, 0x14].contains f || (decide (pk % 8 = 0) && [0x40, 0x41].contains f)
/-- What a foreman logs of a message that it does not act on: the message, or for a reserved function the two by which it hands the
message on to itself (R366, R408). -/
def loggedAs (pk : Nat) (m : Msg) : List Msg :=
  if sfnKnown (msgSfn m) then [m]
  else [ownMsg (foremanOf pk) 3 0x10 0 (handCause m 0x04) m.h0 m.h1 (foremanIdent pk) (word (msgSfn m)) 0,
    ownMsg (foremanOf pk) 3 0x15 0 m.w0 m.w1 m.w2 m.w3 m.w4 m.w5]
/-- A message enters a panel's SYS partition of eight, or the log, which is where the firmware keeps a message that it does not act on
(R365, R366, R408). The answer says whether there was room. -/
def Panel.take (p : Panel) (pk : Nat) (m : Msg) : Panel × Bool :=
  if msgKind m = 3 ∧ sfnActed pk (msgSfn m) then
    if p.sys.length < 8 then ({ p with sys := p.sys ++ [m] }, true) else (p, false)
  else ({ p with log := p.log ++ loggedAs pk m }, true)
/-- Queued messages of the inbox aperture enter the SYS partition in arrival order (R390). -/
def Panel.drain (pk : Nat) : Nat → Panel → Panel
  | 0, p => p
  | fuel + 1, p =>
    match p.aperture with
    | [] => p
    | m :: rest =>
      match p.take pk m with
      | (q, true) => Panel.drain pk fuel { q with aperture := rest }
      | (_, false) => p
/-- A write of n bytes at an offset of a panel's aperture window: a full line at offset 0 enqueues a message, with SKIND 5 and the source
fields written by hardware; any other write, or one to a full queue, is discarded and counted (R390). DROP's 16 bits wrap (log 90,
DESIGN CHOICE). p is the panel's key. -/
def apertureWrite (s : State) (p off bytes data : Nat) : State :=
  if off = 0 ∧ bytes = 64 ∧ (s.panel p).aperture.length < 16 then
    let w (n : Nat) : Word := word (data / 2 ^ (64 * n))
    let h0 := word ((w 0).toNat / 2 ^ 35 * 2 ^ 35 + p / 8 * 2 ^ 21 + 5 * 2 ^ 6 + (w 0).toNat % 64)
    s.modPanel p (fun x => Panel.drain p 16 { x with aperture := x.aperture ++ [⟨h0, w 1, w 2, w 3, w 4, w 5, w 6, w 7⟩] })
  else s.modPanel p (fun x => { x with drop := (x.drop + 1) % 2 ^ 16 })
/-- What a read of an offset of a panel's aperture window returns: FREE and DROP at 0x040 (R390). -/
def apertureRead (s : State) (p off : Nat) : Nat :=
  if off = 0x40 then 16 - (s.panel p).aperture.length + (s.panel p).drop * 2 ^ 16 else 0

/-! ### Scores (R377) -/

/-- Tells the host something about a panel, in a form that the manual leaves open: the panel and a code. -/
def tellHost (s : State) (pk code : Nat) : State :=
  s.modPkg (pk / 8) (fun p => { p with hostLog := p.hostLog ++ [{ Msg.zero with w0 := word (pk % 8), w1 := word code }] })
/-- A health entry with a new score: S while it is 32 or more, and Q once it reaches 64 unless the row's spare is in use. -/
def Health.scored (h : Health) (score : Nat) (used : Bool) : Health :=
  { h with score := score, s := decide (32 ≤ score), q := h.q || (decide (64 ≤ score) && !used) }
/-- The spare of a panel row is in use (R377, Table 9). -/
def spareUsed (s : State) (pk row : Nat) : Bool := bit (Table.get 0 (s.panel pk).remap row).toNat 7
/-- Changes the score of physical core h of a panel; a core that reaches 64 with its row's spare in use leaves the panel DEGRADED. -/
def setScore (s : State) (pk h : Nat) (f : Nat → Nat) : State :=
  let e := Table.get .init (s.panel pk).health h
  let score := Nat.min 255 (f e.score)
  let used := spareUsed s pk (h % 8)
  let s := s.modPanel pk (fun p => { p with health := Table.set p.health h (e.scored score used) })
  if decide (64 ≤ score) && used && !e.q && !(s.panel pk).degraded then
    tellHost (s.modPanel pk (fun p => { p with degraded := true })) pk 1
  else s
/-- A health-table entry as the foreman reads it (R377, Table 8). -/
def Health.code (h : Health) : Nat :=
  h.corr * 2 ^ 32 + (if h.q then 2 ^ 15 else 0) + (if h.s then 2 ^ 14 else 0) + (if h.h then 2 ^ 13 else 0) + h.score

/-! ### Registers of a die (R29, R75, R76) -/

/-- A new size of a die's remote partition: ways that change their use are written back and invalidated (R75). -/
def setRemsz (s : State) (d n : Nat) : State :=
  let o := (s.die d).remsz
  let leaving := (s.rlines.filter (fun r => decide (r.pkg = d / 2 ∧ dieOfLocal (paLocal (r.line * 64)) = d % 2 ∧ r.way < 48 - n))).map (·.line)
  let s := leaving.foldl (fun s l => (s.writeBackLine (d / 2) l).dropRline (d / 2) l) s
  let s := if o < n then
      { s with slices := s.slices.map (fun k =>
          if dieOfSlice k.1 = d then (k.1, { k.2 with lines := k.2.lines.filter (fun l => decide (l.way < 48 - n)) }) else k) }
    else s
  s.modDie d (fun x => { x with l2cfg := word (x.l2cfg.toNat / 16 * 16 + n) })
/-- DPART of a die (R76, Table 3). -/
def setDpart (s : State) (d n : Nat) : State := s.modDie d (fun x => { x with l2cfg := word (fieldOf x.l2cfg 7 0 + n * 2 ^ 8) })
/-- An L2PCLS register of a die (R76, Table 4). -/
def setL2pcls (s : State) (d n : Nat) (v : Word) : State := s.modDie d (fun x => { x with l2pcls := Table.set x.l2pcls n v })
/-- A write to L2CFG: DPART, and REMSZ unless it is 9 to 15 (R76, Table 3). -/
def writeL2cfg (s : State) (d : Nat) (v : Word) : State :=
  let s := setDpart s d (fieldOf v 8 8)
  if fieldOf v 3 0 ≤ 8 then setRemsz s d (fieldOf v 3 0) else s
/-- Writes 64 packages of a package set (R29). -/
def writePkgset (s : State) (d dom i : Nat) (v : Word) : State :=
  let new := ((List.range 64).filter (fun j => bit v.toNat j)).map (fun j => 64 * i + j)
  s.modDie d (fun x =>
    let old := Table.get [] x.pkgset dom
    { x with pkgset := Table.set x.pkgset dom (old.filter (fun p => decide (p < 64 * i)) ++ new ++ old.filter (fun p => decide (64 * i + 64 ≤ p))) })
/-- Writes a root table pointer of a domain: bit 63 valid, [39:0] the table (R16, R29). -/
def writeRoot (s : State) (d dom : Nat) (v : Word) : State :=
  s.modDie d (fun x => { x with roots := if bit v.toNat 63 then Table.set x.roots dom (fieldOf v 39 0) else Table.erase x.roots dom })
/-- Writes the base (64 KiB aligned) or the size (a multiple of 64 KiB up to 1 TiB) of a domain's host window (R389). -/
def writeWindow (s : State) (g dom : Nat) (size : Bool) (v : Word) : State :=
  let x := v.toNat / 65536 * 65536
  s.modPkg g (fun p =>
    let old := Table.get (0, 0) p.windows dom
    { p with windows := Table.set p.windows dom (if size then (old.1, Nat.min x (2 ^ 40)) else (x, old.2)) })
/-- No launch runs on a die (R15). -/
def dieQuiet (s : State) (d : Nat) : Bool :=
  s.launches.all (fun l => decide (l.state = .queued ∨ l.pkg ≠ d / 2) || !l.cores.any (fun c => decide (dieKey c = d)))
/-- L2ECNT of a slice (R76, Table 5). -/
def Slice.counts (x : Slice) : Nat := x.last * 2 ^ 32 + x.unc * 2 ^ 16 + x.corr

/-! ### Control and status space -/

/-- Word j of the messages that a panel's foreman has logged, eight to a message, one after the other (R349, R366, R408). -/
def logWord (s : State) (pk j : Nat) : Nat := (((s.panel pk).log[j / 8]?.map (fun (m : Msg) => m.get (j % 8))).getD 0).toNat
/-- What the foreman of a package reads from 8 bytes at an aligned address; reserved bits and registers that no chip has read zero. -/
def controlRead (s : State) (g addr : Nat) : Nat :=
  let d (off : Nat) : Die := s.die (g * 2 + off)
  let o := addr % 0x10000
  if addr % 8 ≠ 0 then 0
  else if 0x6100100000 ≤ addr ∧ addr < 0x6100120000 then
    let k := (addr - 0x6100100000) / 0x10000
    if o = 0 then (d k).l2cfg.toNat
    else if 0x100 ≤ o ∧ o < 0x180 then (Table.get 0xFFFFFFFFFFFF (d k).l2pcls ((o - 0x100) / 8)).toNat
    else if 0x800 ≤ o ∧ o < 0xA00 then (s.slice (g * 128 + k * 64 + (o - 0x800) / 8)).counts else 0
  else if 0x6100200000 ≤ addr ∧ addr < 0x6100220000 then
    let p := addr % 0x100000 / 8
    if p = g ∨ s.linkDown g p then 0 else (Table.get 0 (s.pkg g).peers p).toNat
  else if 0x6101000000 ≤ addr ∧ addr < 0x6103000000 ∧ addr % 16 = 0 ∧ addr % 0x1000000 < 0x100000 then
    (((d ((addr - 0x6101000000) / 0x1000000)).roots.find? (fun r => decide (r.1 = addr % 0x1000000 / 16))).map (fun r => 2 ^ 63 + r.2)).getD 0
  else if addr = 0x6104000000 ∨ addr = 0x6104000008 then ((d (addr % 16 / 8)).global.map (2 ^ 63 + ·)).getD 0
  else if 0x6105000000 ≤ addr ∧ addr < 0x6105100000 then
    let x := Table.get (0, 0) (s.pkg g).windows (addr % 0x100000 / 16)
    if addr % 16 = 8 then x.2 else x.1
  else if addr = 0x6106000000 then let t := (s.pkg g).torus; t.1 + t.2.1 * 2 ^ 8 + t.2.2 * 2 ^ 16
  else if 0x6106100000 ≤ addr ∧ addr < 0x6106120000 then let p := addr % 0x100000 / 8; if p = g then 12 else s.routePort g p
  else if 0x6106200000 ≤ addr ∧ addr < 0x6106200000 + 8 * 136 * 8 then
    let n := addr % 0x100000 / 8
    (Table.get .init (s.panel (g * 8 + n / 136)).health (n % 136)).code
  else if 0x6106300000 ≤ addr ∧ addr < 0x6106300200 then
    let n := addr % 0x100000 / 8
    (Table.get 0 (s.panel (g * 8 + n / 8)).remap (n % 8)).toNat
  else if 0x6106400000 ≤ addr ∧ addr < 0x6106401000 then (s.unit (g * 512 + addr % 0x100000 / 8)).status
  else if addr = 0x6107000000 then (s.pkg g).recordAt
  else if addr = 0x6107000008 then (s.record (s.pkg g).recordAt).toNat
  else if 0x6110000000 ≤ addr ∧ addr < 0x6120000000 then
    let x := addr - 0x6110000000
    let l := Table.get [] (d (x / 0x8000000)).pkgset (x % 0x8000000 / 2048)
    (List.range 64).foldr (fun j acc => (if l.contains (64 * (x % 2048 / 8) + j) then 1 else 0) + 2 * acc) 0
  else if 0x6140000000 ≤ addr ∧ addr < 0x6160000000 then
    let x := addr - 0x6140000000
    logWord s (g * 8 + x / 0x4000000) (x % 0x4000000 / 8)
  else 0
/-- What a write of the foreman of a package to 8 bytes at an aligned address does: a read-only register or a reserved field ignores it
(R6, R7). The answer is none while an L2 register must wait for the launches on its die (R15, R75). A remap entry changes only with its
row's move, and only a package reset undoes it (R12, R377). -/
def controlWrite (s : State) (g addr : Nat) (v : Word) : Option State :=
  let d (off : Nat) : Nat := g * 2 + off
  let o := addr % 0x10000
  if addr % 8 ≠ 0 then some s
  else if 0x6100100000 ≤ addr ∧ addr < 0x6100120000 then
    let die := d ((addr - 0x6100100000) / 0x10000)
    if o ≠ 0 ∧ (o < 0x100 ∨ 0x180 ≤ o) then some s
    else if !dieQuiet s die then none
    else some (if o = 0 then writeL2cfg s die v else setL2pcls s die ((o - 0x100) / 8) v)
  else if 0x6101000000 ≤ addr ∧ addr < 0x6103000000 ∧ addr % 16 = 0 ∧ addr % 0x1000000 < 0x100000 then
    some (writeRoot s (d ((addr - 0x6101000000) / 0x1000000)) (addr % 0x1000000 / 16) v)
  else if addr = 0x6104000000 ∨ addr = 0x6104000008 then
    some (s.modDie (d (addr % 16 / 8)) (fun x => { x with global := if bit v.toNat 63 then some (fieldOf v 39 0) else none }))
  else if 0x6105000000 ≤ addr ∧ addr < 0x6105100000 then some (writeWindow s g (addr % 0x100000 / 16) (decide (addr % 16 = 8)) v)
  else if addr = 0x6106000000 then
    let x := fieldOf v 7 0
    let y := fieldOf v 15 8
    let z := fieldOf v 23 16
    some (if 1 ≤ x ∧ x ≤ 32 ∧ 1 ≤ y ∧ y ≤ 32 ∧ 1 ≤ z ∧ z ≤ 16 then s.modPkg g (fun p => { p with torus := (x, y, z) }) else s)
  else if 0x6106100000 ≤ addr ∧ addr < 0x6106120000 then
    some (s.modPkg g (fun p => { p with routes := Table.set p.routes (addr % 0x100000 / 8) (Nat.min 12 (fieldOf v 3 0)) }))
  else if 0x6106200000 ≤ addr ∧ addr < 0x6106200000 + 8 * 136 * 8 then
    let n := addr % 0x100000 / 8
    some (setScore s (g * 8 + n / 136) (n % 136) (fun _ => fieldOf v 7 0))
  else if addr = 0x6107000000 then some (s.modPkg g (fun p => { p with recordAt := v.toNat % 2 ^ 53 / 64 * 64 }))
  else if 0x6110000000 ≤ addr ∧ addr < 0x6120000000 then
    let x := addr - 0x6110000000
    some (writePkgset s (d (x / 0x8000000)) (x % 0x8000000 / 2048) (x % 2048 / 8) v)
  else some s

/-! ### A foreman's accesses to both ranges (R24) -/

/-- The inbox apertures and control space of a package (R24, Table 3). -/
def inControl (pa : Nat) : Bool := decide (0x6020000000 ≤ paLocal pa ∧ pa < 2 ^ 53)
/-- What a foreman's read of n bytes at a physical address of these ranges returns: of registers, 8 aligned bytes alone. -/
def foremanReads (s : State) (pa n : Nat) : Nat :=
  let loc := paLocal pa
  if loc < 0x6020008000 then apertureRead s (paPkg pa * 8 + (loc - 0x6020000000) / 0x1000) (loc % 0x1000) % 2 ^ (8 * n)
  else if loc < 0x6100000000 ∨ n ≠ 8 then 0 else controlRead s (paPkg pa) loc
/-- What its write does there; none while a register must wait. -/
def foremanWrites (s : State) (pa n v : Nat) : Option State :=
  let loc := paLocal pa
  if loc < 0x6020008000 then some (apertureWrite s (paPkg pa * 8 + (loc - 0x6020000000) / 0x1000) (loc % 0x1000) n v)
  else if loc < 0x6100000000 ∨ n ≠ 8 then some s else controlWrite s (paPkg pa) loc (word v)

end Sys2Proof.Machine
end

