-- ==== Sys2Proof/Machine/Far.lean ====
section
/-! DEFINITION. Plain accesses that are performed as they are made: those of engines, of the foreman, and of the parts of a strand's
instruction that are no access of their own (R31, R33, R70, R224), and those of replays (R376). -/

namespace Sys2Proof.Machine

/-! ### Engines' and replays' accesses on the own package -/

/-- A plain read of n bytes at a place, within one page, performed at the home: the bytes, or the cause (R26, R78). The foreman's ranges
are registers, which no slice caches (R24, R66). -/
def localRead (s : State) (a : Agent) (p : Place53) (n : Nat) : State × Except Nat Nat :=
  let pa := p.pa
  match (if inPad pa then padRefuses s a pa n false else none) with
  | some cause => (s, .error cause)
  | none =>
    if inControl pa then (s, .ok (foremanReads s pa n))
    else
      let s := if inPad pa then s else reachHbm s (attrFO p.attr) a.dom pa n false
      match s.poisonMet a.head pa n with
      | some _ => (reportPoison s a.core 0 pa, .error 0x1B)
      | none =>
        let s := s.correct pa n
        (s.tickFresh, .ok (if inPad pa then padRead s a.head pa n else s.read pa n))
/-- A plain write of n bytes at a place, performed at the home: the cause of a refusal, or none. -/
def localWrite (s : State) (a : Agent) (p : Place53) (n v : Nat) : State × Option Nat :=
  let pa := p.pa
  match (if inPad pa then padRefuses s a pa n true else none) with
  | some cause => (s, some cause)
  | none =>
    if inPad pa then (padWrite s a.head pa n v, none)
    else if inControl pa then ((foremanWrites s pa n v).getD s, none)
    else ((reachHbm s (attrFO p.attr) a.dom pa n true).write pa n v, none)
/-- A write of n bytes to a register that must wait for the launches on its die, if the place is one (R15, R75). -/
def controlHeld (s : State) (p : Place53) (n v : Nat) : Bool :=
  inControl p.pa && (foremanWrites s p.pa n v).isNone
/-- An agent's plain access to another package gets no answer that it can use: no link leads there, or the target lacks the feature or
refuses it (R224, R381, R382, R387). -/
def farRefused (s : State) (a : Agent) (p : Place53) (n : Nat) (write : Bool) : Bool :=
  s.cannotReach (corePkg a.core) (paPkg p.pa) (if n ≤ 8 then 0 else 2) || !portAdmits s a.core a.dom (corePkg a.core) p.pa n write
/-- What becomes of such an access: a strand's sets its sticky bit, and an engine meets it by its own fault path with cause 0x08 (R224,
R381, R383; log 93). -/
def refusedFar (s : State) (a : Agent) (p : Place53) : State × Option Nat :=
  match a.issuer with
  | some (n, act) => (setSticky s a.core n act (paPkg p.pa), none)
  | none => (s, some 0x08)
/-- A place of the own package, or of the model's own (log 3). -/
def ownPlace (c pa : Nat) : Bool := decide (2 ^ 53 ≤ pa) || decide (paPkg pa = corePkg c)
/-- A plain access of an agent of a core to a place goes by the remote partition: HBM of another package in a page with RC and without
FO, while the partition is not zero (R66, R70). -/
def byPartition (s : State) (c : Nat) (p : Place53) : Bool :=
  decide (paPkg p.pa ≠ corePkg c) && isHbm p.pa && attrRC p.attr && !attrFO p.attr && s.hasRemote (corePkg c) p.pa
/-! ### Replays (R376) -/

/-- A byte that a replay reads: a declared input, its own earlier store, or memory as it stands (R376). -/
def replayByte (s : State) (r : Replay) (pa : Nat) : Byte :=
  match r.inputs.find? (fun c => decide (c.1 = pa)) with
  | some c => c.2
  | none =>
    match r.shadow.find? (fun c => decide (c.1 = pa)) with
    | some c => c.2
    | none => Memory.get s.mem pa
/-- n bytes that a replay reads. -/
def replayRead (s : State) (r : Replay) (pa : Nat) : Nat → Nat
  | 0 => 0
  | n + 1 => (replayByte s r pa).toNat + 256 * replayRead s r (pa + 1) n
/-- A store of a replay goes to its shadow; more than 64 KiB of distinct bytes overflow it (R376). -/
def replayWrite (r : Replay) (pa : Nat) : Nat → Nat → Replay
  | 0, _ => { r with overflow := r.overflow || decide (65536 < r.shadow.length) }
  | n + 1, v =>
    replayWrite { r with shadow := (pa, BitVec.ofNat 8 v) :: r.shadow.filter (fun c => !decide (c.1 = pa)) } (pa + 1) n (v / 256)
/-- The first of n bytes that a replay reads from a poisoned word of memory: neither a declared input nor stored by it (R78, R376). -/
def replayMeets (s : State) (r : Replay) (pa n : Nat) : Option Nat :=
  ((List.range n).map (pa + ·)).find? (fun b =>
    (s.poisonMet false b 1).isSome && !(r.inputs ++ r.shadow).any (fun x => decide (x.1 = b)))
/-- A plain read of n bytes at a place by a replay: its own registers as they stand, all else as its loads read it (R136, R376). -/
def replayLoad (s : State) (r : Replay) (a : Agent) (pa n : Nat) : State × Except Nat Nat :=
  match (if inPad pa then padRefuses s a pa n false else none), replayMeets s r pa n with
  | some cause, _ => (s, .error cause)
  | none, some at_ => (reportPoison s a.core 0 at_, .error 0x1B)
  | none, none => (s, .ok (if 2 ^ 53 ≤ pa then s.read pa n else replayRead s r pa n))
/-- A plain write by a replay goes to its shadow, but for one to its own registers (R136, R376). -/
def replayStore (s : State) (a : Agent) (pa n v : Nat) : State × Option Nat :=
  match (if inPad pa then padRefuses s a pa n true else none) with
  | some cause => (s, some cause)
  | none =>
    (if 2 ^ 53 ≤ pa then s.write pa n v
      else s.modCore a.core (fun k => { k with replay := k.replay.map (fun r => replayWrite r pa n v) }), none)

/-! ### Accesses that may go to another package -/

/-- A plain read of bytes of one line that may lie on another package: through the remote partition where the page carries RC, which is
filled where a byte is not valid (R70, R71, R331). One that fails there reads 0 (R224). -/
def farRead (s : State) (a : Agent) (p : Place53) (n : Nat) : State × Except Nat Nat :=
  match (s.core a.core).replay, ownPlace a.core p.pa with
  | some r, _ => replayLoad s r a p.pa n
  | none, true => localRead s a p n
  | none, false =>
    let lost (s : State) : State × Except Nat Nat :=
      match refusedFar s a p with
      | (s, some cause) => (s, .error cause)
      | (s, none) => (s, .ok 0)
    if !byPartition s a.core p then if farRefused s a p n false then lost s else localRead s a p n
    else
      let g := corePkg a.core
      let line := p.pa / 64
      let off := p.pa % 64
      let s := meetRemote s (s.rlineOr g line) off n
      let there := decide (lineMask off n &&& (s.rlineOr g line).valid = lineMask off n)
      if !there && farRefused s a { p with pa := line * 64 } 64 false then lost s
      else
        let (s, r) := if there then (s, s.rlineOr g line) else fillRemote s g a.dom line
        if r.poison &&& wordsTouched off n ≠ 0 then (reportRemotePoison s a.core 0 p.pa, .error 0x1B)
        else if lineMask off n &&& r.valid ≠ lineMask off n then (reportPoison s a.core 0 p.pa, .error 0x1B)
        else (s.tickFresh, .ok (r.bytes off n))
/-- A plain write of bytes of one line that may lie on another package: into the remote partition where the page carries RC and the
partition has a way for the line (R70, R71), else at the home. -/
def farWrite (s : State) (a : Agent) (p : Place53) (n v : Nat) : State × Option Nat :=
  let home (s : State) : State × Option Nat := if farRefused s a p n true then refusedFar s a p else localWrite s a p n v
  if (s.core a.core).replay.isSome then replayStore s a p.pa n v
  else if ownPlace a.core p.pa then localWrite s a p n v
  else if !byPartition s a.core p then home s
  else
    let writer := a.issuer.map (fun i => (a.core, i.1, i.2))
    match s.addRline ((s.rlineOr (corePkg a.core) (p.pa / 64)).stored a.dom (p.pa % 64) n v false writer) with
    | some s => (s, none)
    | none => home s
/-- Reads n bytes at a virtual address for an agent of a core, in pieces that cross no 64-byte line: each is translated with its
own check (R31). The answer is the bytes, or the cause, kind and address of the first failure. The fuel bounds the pieces. -/
def readVa (s : State) (a : Agent) (u : Use) : Nat → Nat → Nat → State × Except (Nat × Nat × Nat) (List Byte)
  | 0, _, _ => (s, .ok [])
  | fuel + 1, va, n =>
    if n = 0 then (s, .ok [])
    else
      let va := va % 2 ^ 56
      let k := Nat.min n (64 - va % 64)
      match translateFor s a.core a.dom va u with
      | (s, .error r) => (s, .error (r.cause, r.kind, va))
      | (s, .ok p) =>
        match farRead s a p k with
        | (s, .error cause) => (s, .error (cause, 0, va))
        | (s, .ok x) =>
          match readVa s a u fuel (va + k) (n - k) with
          | (s, .ok rest) => (s, .ok (bytesLE x k ++ rest))
          | (s, .error e) => (s, .error e)

/-- Writes bytes at a virtual address for an agent of a core, in pieces that cross no 64-byte line: the cause, kind and address
of the first failure, or none. -/
def writeVa (s : State) (a : Agent) : Nat → Nat → List Byte → State × Option (Nat × Nat × Nat)
  | 0, _, _ => (s, none)
  | fuel + 1, va, l =>
    if l.isEmpty then (s, none)
    else
      let va := va % 2 ^ 56
      let k := Nat.min l.length (64 - va % 64)
      match translateFor s a.core a.dom va .store with
      | (s, .error r) => (s, some (r.cause, r.kind, va))
      | (s, .ok p) =>
        match farWrite s a p k (ofBytesLE (l.take k)) with
        | (s, some cause) => (s, some (cause, 0, va))
        | (s, none) => writeVa s a fuel (va + k) (l.drop k)

end Sys2Proof.Machine
end

