-- ==== Sys2Proof/Machine/Messages.lean ====
section
/-! DEFINITION. Messages: their way into grout (R175, R176), the inbox and its spill rings (R187–R191), fault messages (R365, R366), and
handing a message on (R408). -/

namespace Sys2Proof.Machine

/-! ### Into grout -/

/-- The router of L2 slice k of die d, with its mortar processor (R175, Table 1). -/
def sliceRouter (d k : Nat) : Nat × Nat := (2 * (k % 16), 16 * d + 4 * (k / 16) + 1)
/-- The router of the foreman of panel p; the host has that of panel 0 (R175, Table 1). -/
def foremanRouter (p : Nat) : Nat × Nat := (panelOrigin p % 32, panelOrigin p / 32)
/-- The router of Nelyen port n (R175, Table 1). -/
def portRouter (n : Nat) : Nat × Nat := if n ≤ 5 then (31, 5 * n + 2) else (0, 5 * (n - 6) + 2)
/-- The key of a source, destination and class, for sequence numbers (R176, R178). -/
def seqKey (f : Flit) : Nat := ((((f.pkg * 1024 + f.sy * 32 + f.sx) * 1024 + f.dy * 32 + f.dx) * 8 + f.dep) * 16) + f.cls
/-- The message travels, or has come, from another package. -/
def Flit.far (f : Flit) : Bool := decide (f.dep = 4) || f.via.isSome
/-- The package that a message addresses. -/
def Flit.peer (f : Flit) : Nat := fieldOf f.msg.h0 58 45
/-- Puts a flit at its injection port with the next sequence number of its source, destination and class (R176). -/
def State.inject (s : State) (f : Flit) : State :=
  let q := Table.get 0 s.seqOut (seqKey f)
  { s with flits := s.flits ++ [{ f with id := s.fresh, seq := q, age := 0, loc := .waiting s.cycle }],
           seqOut := Table.set s.seqOut (seqKey f) ((q + 1) % 256), fresh := s.fresh + 1 }
/-- A flit from router (x, y) of package g that carries a message. -/
def flitOf (g sx sy dx dy dep cls : Nat) (m : Msg) : Flit :=
  { id := 0, pkg := g, sx := sx, sy := sy, dx := dx, dy := dy, dep := dep, cls := cls, seq := 0, age := 0, loc := .waiting 0, msg := m,
    bad := 0, single := false, badHeader := false, owner := none, act := 0, rsp := false, reserved := false, hodOwner := none, dom := 0,
    fwd := 0, launch := 0, src := 0, via := none }
/-- Where a message goes in grout: endpoint and router; a message to another package goes to its port (R175, R185). -/
def State.endpoint (s : State) (g : Nat) (m : Msg) : Nat × Nat × Nat :=
  let dp := fieldOf m.h0 58 45
  if dp ≠ g then (4, portRouter (s.routePort g dp))
  else if bit m.h0.toNat 5 then (3, foremanRouter (msgPanel m % 8))
  else (0, fieldOf m.h0 44 40, fieldOf m.h0 39 35)
/-- The launch that runs on a core. -/
def State.launchOf (s : State) (c : Nat) : Option Launch :=
  if (s.core c).launch = 0 then none else s.launch? (s.core c).launch
/-- SUPV of a launch (R346). -/
def Launch.supv (l : Launch) : Word := l.packet.w2
/-- A core lies in a launch's rectangle. -/
def Launch.holds (l : Launch) (c : Nat) : Bool :=
  decide (coreIdx c < 1024 ∧ corePkg c = l.pkg) && rectHolds l.rect (coordOf c).1 (coordOf c).2
/-- A core lies in the rectangle of the launch that runs on another. -/
def sameArea (s : State) (c t : Nat) : Bool := ((s.launchOf c).map (fun l => l.holds t)).getD false
/-- The launch that a message from a core is for: the sender's own where its rectangle holds the target, else the one that runs on the
target, and none for a foreman (R409). -/
def State.launchFor (s : State) (c : Nat) (m : Msg) : Nat :=
  if bit m.h0.toNat 5 then 0 else if sameArea s c (msgCore m) then (s.core c).launch else (s.core (msgCore m)).launch
/-- The flit of a message from a core in a class (0 REQ, 1 RSP, 4 SYS). -/
def State.flitFrom (s : State) (c cls : Nat) (m : Msg) : Flit :=
  let (dep, dx, dy) := s.endpoint (corePkg c) m
  { flitOf (corePkg c) (coordOf c).1 (coordOf c).2 dx dy dep cls m with
    dom := (s.core c).domain, launch := s.launchFor c m }
/-- Sends a message from a core, with the parts of the flit that say whose allowance it holds and what orders it. -/
def State.post (s : State) (c cls : Nat) (m : Msg) (owner : Option Issuer) (rsp : Bool) (hodOwner : Option Nat) (fwd src : Nat) : State :=
  s.inject { s.flitFrom c cls m with owner := owner, rsp := rsp, hodOwner := hodOwner, fwd := fwd, src := src }

/-- A SYSTEM message from a core to an identity, in the SYS class and without an allowance. -/
def State.postSystem (s : State) (c n skind : Nat) (target : Word) (sfn : Nat) (w0 w1 w2 w3 w4 w5 : Word) : State :=
  s.post c 4 ⟨stamp (headerTo 3 target) c n skind, header1 sfn (s.core c).domain, w0, w1, w2, w3, w4, w5⟩ none false none 0 0

/-- A SYSTEM message from a foreman to a supervisor, which it logs where it is that supervisor itself (R349, R408). -/
def State.foremanSends (s : State) (fc : Nat) (target : Word) (sfn : Nat) (w0 w1 w2 w3 w4 w5 : Word) : State :=
  if target = foremanIdent (panelKey fc) then s.logAt (panelKey fc) [ownMsg fc 3 sfn (s.core fc).domain w0 w1 w2 w3 w4 w5]
  else s.postSystem fc 0 3 target sfn w0 w1 w2 w3 w4 w5
/-- The supervisor of a core: its launch's SUPV, or the foreman of its panel (R13, R365). -/
def State.supvOf (s : State) (c : Nat) : Word :=
  match s.launchOf c with
  | some l => l.supv
  | none => foremanIdent (panelKey c)

/-- Hands a message on from a core or foreman: a FAULT message with a reason, then a HANDED message with the payload; none of
the two goes to a foreman from itself, which logs both (R408). -/
def State.handOn (s : State) (c : Nat) (target : Word) (m : Msg) (reason about : Nat) : State :=
  if isForeman c then
    (s.foremanSends c target 0x10 (handCause m reason) m.h0 m.h1 (foremanIdent (panelKey c)) (word about) 0).foremanSends c target 0x15
      m.w0 m.w1 m.w2 m.w3 m.w4 m.w5
  else
    (s.postSystem c 0 0 target 0x10 (handCause m reason) m.h0 m.h1 (engineIdent c 0 0) (word about) 0).postSystem c 0 0 target 0x15
      m.w0 m.w1 m.w2 m.w3 m.w4 m.w5

/-! ### The inbox -/

/-- Slots of a partition: 0 REQ, 1 RSP, 2 SYS, 3 HOD (R187, Table 5). -/
def partSize (p : Nat) : Nat := match p with | 0 => 32 | 1 => 16 | 2 => 8 | _ => 8
/-- A spill ring of a core. -/
def Core.ring (k : Core) (p : Nat) : Ring := Table.get .init k.rings p
/-- Bytes and offset of a partition's ring in its spill region (R188). -/
def ringSpan (spillq : Word) (p : Nat) : Nat × Nat :=
  let n := 2 ^ fieldOf spillq 4 0
  match p with | 0 => (n / 2, 0) | 1 => (n / 4, n / 2) | 2 => (n / 8, n * 3 / 4) | _ => (n / 8, n * 7 / 8)
/-- The virtual address of an entry of a partition's ring (R188, R190). -/
def ringVa (spillq : Word) (p pos : Nat) : Nat := fieldOf spillq 55 14 * 2 ^ 14 + (ringSpan spillq p).2 + pos * 64
/-- The lowest free slot of a partition. -/
def Core.freeSlot (k : Core) (p : Nat) : Option Nat :=
  (List.range (partSize p)).find? (fun i => k.inbox.all (fun x => !decide (x.part = p ∧ x.slot = i)))
/-- Changes a ring. -/
def Core.setRing (k : Core) (p : Nat) (r : Ring) : Core := { k with rings := Table.set k.rings p r }

/-- A spill access has failed for which the ring counts as full (R191). -/
def Ring.failed (r : Ring) : Bool := r.rfail || r.wfail.isSome
/-- A ring counts as full: it is, or an access of it has failed (R189, R191). -/
def ringFull (k : Core) (p : Nat) : Bool := (k.ring p).failed || decide ((ringSpan k.spillq p).1 / 64 ≤ (k.ring p).ents.length)
/-- The RSP flits of a core wait in grout while its RSP ring is full: replies to its loads, atomics, mortar and footing instructions,
wake-ups, allowance returns and hod acknowledgements (R182, R189). A core without a launch has no ring. -/
def rspStopped (s : State) (c : Nat) : Bool := decide ((s.core c).launch ≠ 0) && ringFull (s.core c) 1
/-- A spill access failed, of the flit's message for a write: the ring counts as full, and its first failure since its last success is
reported (R191). -/
def ringFails (s : State) (c p cause kind va : Nat) (write : Option Nat) : State :=
  let r := (s.core c).ring p
  let s' := s.modCore c (fun k => k.setRing p
    { r with rfail := r.rfail || write.isNone, wfail := write.orElse (fun _ => r.wfail), reported := true, tried := s.cycle })
  if r.reported then s'
  else
    s'.postSystem c 0 0 (foremanIdent (panelKey c)) 0x10
      (word (cause + (if cause = 0x07 then kind * 2 ^ 8 else 0) + kind * 2 ^ 16)) (word va) 0 (engineIdent c 0 0) (word (0x100 + p)) 0
/-- Marks the bytes of a ring entry that a message brings poisoned (R181, R191). -/
def poisonEntry (s : State) (c va : Nat) (bad : BitVec 8) : State :=
  ((List.range 8).filter (fun i => bad.getLsbD i)).foldl (fun s i =>
    match translate s c (s.core c).domain (va + 8 * i) with
    | (s, .ok pl) => { s with poison := (pl.pa / 8) :: s.poison.filter (fun w => decide (w ≠ pl.pa / 8)) }
    | (s, .error _) => s) s
/-- Writes a message at the tail of a ring. Where that fails the ring counts as full, for a flit that keeps waiting until the write
succeeds (R188, R191). -/
def spill (s : State) (c p : Nat) (m : Msg) (bad : BitVec 8) (kind : SlotKind) (src flit : Nat) : State × Bool :=
  let k := s.core c
  let r := k.ring p
  let va := ringVa k.spillq p r.tail
  match writeVa s (s.agent c) 2 va m.bytes with
  | (s, some (cause, tkind, at_)) => (ringFails s c p cause tkind at_ (some flit), false)
  | (s, none) =>
    ((poisonEntry s c va bad).modCore c (fun k => k.setRing p
      { r with ents := r.ents ++ [⟨r.tail, s.cycle, kind, src⟩], tail := (r.tail + 1) % ((ringSpan k.spillq p).1 / 64), wfail := none,
               reported := false }), true)
/-- Accepts a message, of a flit or, with 0, of another source, into a partition: into a free slot, or at the tail of the partition's
ring when the partition is full, the ring is not empty or the core is pre-empted. The answer is false where the message must stay in its
ejection queue because the ring is full or cannot be written (R187–R191). -/
def accept (s : State) (c p : Nat) (m : Msg) (bad : BitVec 8) (kind : SlotKind) (src flit : Nat) : State × Bool :=
  let k := s.core c
  match (if (k.ring p).ents.isEmpty && !k.preempted then k.freeSlot p else none) with
  | some i => (s.modCore c (fun k => { k with inbox := k.inbox ++ [⟨p, i, m, bad, s.cycle, kind, src⟩] }), true)
  | none => if ringFull k p then (s, false) else spill s c p m bad kind src flit

/-- Takes an inbox slot away. -/
def Core.dropSlot (k : Core) (p i : Nat) : Core := { k with inbox := k.inbox.filter (fun x => !decide (x.part = p ∧ x.slot = i)) }

/-- An allowance starts its way back to its holder (R186): a strand's REQ or RSP allowance, a copy engine's, or a hod engine's;
a message that failed names the package that failed it (R300). The reserved reply holds no allowance, and only its failure is told. -/
def State.giveBack (s : State) (f : Flit) (failed : Option Nat) : State :=
  let ret (s : State) (core strand kind act : Nat) : State :=
    { s with rets := s.rets ++ [⟨s.fresh, core, strand, kind, act, fieldOf f.msg.h0 58 45, failed⟩], fresh := s.fresh + 1 }
  match f.owner with
  | some (.strand c n) =>
    if !f.reserved then ret s c n (if f.rsp then 1 else 0) f.act else if failed.isSome then ret s c n 4 f.act else s
  | some (.copy c n) => ret s c n 2 0
  | _ => match f.hodOwner with | some c => ret s c 0 3 0 | none => s

end Sys2Proof.Machine
end

