-- ==== Sys2Proof/Machine/HodStore.lean ====
section
/-! DEFINITION. Hods as they lie in landing slots and park entries: their header and stops (R193, R194), the landing area (R195),
and parking (R198). -/

namespace Sys2Proof.Machine

/-- STATUS of a hod (R193, Table 8). -/
inductive HodStatus where
  | built | transit | landed | running | parked | fault | unreach | done
  deriving DecidableEq, Repr

/-- The code of a status (R193). -/
def HodStatus.code : HodStatus → Nat
  | .built => 0 | .transit => 1 | .landed => 2 | .running => 3 | .parked => 4 | .fault => 5 | .unreach => 6 | .done => 7

/-- A hod header and its stops: 64 bytes of header, then 16 for each of eight stops, as a number. -/
abbrev HodImage := Nat
/-- n bytes at an offset of an image. -/
def hodField (h : HodImage) (off n : Nat) : Nat := h / 2 ^ (8 * off) % 2 ^ (8 * n)
/-- An image with n bytes replaced. -/
def setHodField (h : HodImage) (off n v : Nat) : HodImage :=
  h / 2 ^ (8 * (off + n)) * 2 ^ (8 * (off + n)) + v % 2 ^ (8 * n) * 2 ^ (8 * off) + h % 2 ^ (8 * off)
/-- NSTOP. -/
def hodNstop (h : HodImage) : Nat := hodField h 3 1
/-- CUR. -/
def hodCur (h : HodImage) : Nat := hodField h 4 1
/-- STATUS as its code. -/
def hodStatus (h : HodImage) : Nat := hodField h 5 1
/-- TTAG. -/
def hodTag (h : HodImage) : Nat := hodField h 7 1
/-- LEN. -/
def hodLen (h : HodImage) : Nat := hodField h 12 4
/-- HID. -/
def hodHid (h : HodImage) : Nat := hodField h 16 8
/-- SUPV. -/
def hodSupv (h : HodImage) : Nat := hodField h 32 8
/-- TADDR. -/
def hodTaddr (h : HodImage) : Nat := hodField h 40 8
/-- DIV of HFLAGS. -/
def hodDiv (h : HodImage) : Bool := bit (hodField h 56 1) 0
/-- Word 0 of stop n (R193, Table 9). -/
def hodStop (h : HodImage) (n : Nat) : Nat := hodField h (64 + 16 * n) 8
/-- ARG of stop n. -/
def hodArg (h : HodImage) (n : Nat) : Nat := hodField h (72 + 16 * n) 8
/-- An image with a status and a cause. -/
def setHodStatus (h : HodImage) (st : HodStatus) (cause : Nat) : HodImage := setHodField (setHodField h 5 1 st.code) 6 1 cause

/-- The reserved bits of a stop's word 0 are zero (R193, Table 9). -/
def stopValid (w : Nat) : Bool := decide (bits w 63 56 = 0 ∧ bits w 31 31 = 0)
/-- A tag that R20 decodes without a trap. -/
def tagValid (t : Nat) : Bool := decide (t / 8 < 16) && (decide (t % 8 = 0) || (Fmt.ofCode (t / 8)).blkAllowed)
/-- The checks of R194 that an image for HODNEW also meets: those on MAGIC, VER, NSTOP, LEN, TTAG, ROWS × COLS and the reserved
fields (R307). -/
def hodImageValid (h : HodImage) : Bool :=
  decide (hodField h 0 2 = 0x0D48 ∧ hodField h 2 1 = 1 ∧ 1 ≤ hodNstop h ∧ hodNstop h ≤ 8 ∧ 1 ≤ hodLen h ∧ hodLen h ≤ 16384) &&
    tagValid (hodTag h) &&
    decide (hodField h 8 2 * hodField h 10 2 * (Fmt.ofCode (hodTag h / 8)).size ≤ hodLen h) && decide (hodField h 57 7 = 0)
/-- A hod is well-formed (R194). -/
def hodWellFormed (h : HodImage) : Bool :=
  hodImageValid h && decide (hodCur h ≤ hodNstop h ∧ hodField h 56 1 < 2 ∧ hodTaddr h < 2 ^ 56) &&
    (List.range (hodNstop h)).all (fun n => stopValid (hodStop h n))

/-- The physical address of landing slot i of a core. -/
def slotPa (s : State) (c i : Nat) : Nat := padBase c + slotOffset (s.core c).hodarea i
/-- The virtual address of landing slot i of a core. -/
def slotVa (s : State) (c i : Nat) : Nat := scratchVa c (slotOffset (s.core c).hodarea i)
/-- The header and stops of the hod in a landing slot. -/
def slotImage (s : State) (c i : Nat) : HodImage := s.read (slotPa s c i) 192
/-- Writes the header and stops of a landing slot. -/
def setSlotImage (s : State) (c i : Nat) (h : HodImage) : State := s.write (slotPa s c i) 192 h
/-- BUSY of slot i (R195, Table 10). -/
def slotBusy (k : Core) (i : Nat) : Bool := bit k.hodarea.toNat (24 + i)
/-- NSLOT (R195, Table 10). -/
def nslot (k : Core) : Nat := fieldOf k.hodarea 23 20
/-- The lowest landing slot that holds no hod. -/
def freeLanding (k : Core) : Option Nat := (List.range (nslot k)).find? (fun i => !slotBusy k i)
/-- Sets BUSY of a slot. -/
def setBusy (k : Core) (i : Nat) : Core := { k with hodarea := k.hodarea ||| word (2 ^ (24 + i)) }
/-- Clears BUSY of a slot. -/
def clearBusy (k : Core) (i : Nat) : Core := { k with hodarea := k.hodarea &&& ~~~(word (2 ^ (24 + i))) }
/-- Zeroes a landing slot and clears its BUSY bit. -/
def emptySlot (s : State) (c i : Nat) : State := (s.zeroRange (slotPa s c i) 0x4100).modCore c (fun k => clearBusy k i)

/-- The address of park entry e of a launch (R346). -/
def parkVa (l : Launch) (e : Nat) : Nat := fieldOf l.packet.w5 55 0 + e * 0x4100
/-- PCOUNT (R346). -/
def Launch.pcount (l : Launch) : Nat := fieldOf l.packet.w5 63 56
/-- The lowest free park entry. -/
def Launch.freeEntry (l : Launch) : Option Nat := (List.range l.pcount).find? (fun e => !l.parked.contains e)

/-- The fault message of SFN 0x13 to the supervisor of a hod (R366, Table 3): its supervisor, HID, status and cause, and the park
address. -/
def hodMessage (s : State) (c : Nat) (supv hid : Word) (st : HodStatus) (cause parkAddr : Nat) : State :=
  let me := if isForeman c then foremanIdent (panelKey c) else engineIdent c 0 0
  s.postSystem c 0 2 supv 0x13 (word parkAddr) hid (word (st.code + 256 * cause)) me 0 0
/-- A word of the header of a landing slot, unless it is poisoned. -/
def slotWord (s : State) (c i off : Nat) : Option Word :=
  if (s.poisonedAt (slotPa s c i + off) 8).isSome then none else some (word (s.read (slotPa s c i + off) 8))
/-- The message about the hod of a landing slot. Where a poisoned word hides the supervisor it goes to the launch's, and where one hides
the HID it carries 0 (log 82, DESIGN CHOICE). -/
def tellSlot (s : State) (c i : Nat) (st : HodStatus) (cause parkAddr : Nat) : State :=
  hodMessage s c ((slotWord s c i 32).getD (s.supvOf c)) ((slotWord s c i 16).getD 0) st cause parkAddr

/-- Parks the hod of a landing slot with a status and a cause (R198): the slot image goes to the next free entry of the launch's
park area and the slot is zeroed, and the supervisor is told; where no entry is free or it cannot be written, the hod stays in its
slot and the message carries address 0. The answer holds that address. -/
def parkSlot (s : State) (c i : Nat) (st : HodStatus) (cause : Nat) : State × Nat :=
  let s := s.write (slotPa s c i + 5) 2 (st.code + 256 * cause)
  let stay (s : State) : State × Nat := (tellSlot s c i st cause 0, 0)
  match s.launchOf c with
  | none => stay s
  | some l =>
    match l.freeEntry with
    | none => stay s
    | some e =>
      match s.poisonedAt (slotPa s c i) 0x4100 with
      | some a => stay (reportPoison s c (slotVa s c i + (a - slotPa s c i)) a)
      | none =>
        let s := s.correct (slotPa s c i) 0x4100
        match writeVa s (s.agent c) 270 (parkVa l e) (s.readBytes (slotPa s c i) 0x4100) with
        | (s, some _) => stay s
        | (s, none) =>
          let s := (tellSlot s c i st cause (parkVa l e)).modLaunch l.id (fun l => { l with parked := l.parked ++ [e] })
          (emptySlot s c i, parkVa l e)

end Sys2Proof.Machine
end

