-- ==== Sys2Proof/Machine/TensorMap.lean ====
section
/-! DEFINITION. Tensor maps (R141), accumulator modes (R284), and the bytes that a queued matrix command reads and writes, for which
later accesses of its strand wait (R283). -/

namespace Sys2Proof.Machine

/-! ### Tensor maps (R141, Table 1) -/

/-- A tensor-map entry as 64 bytes. -/
abbrev TMap := Nat
/-- Entry n of a core's tensor-map table. -/
def State.tmap (s : State) (c n : Nat) : TMap := s.read (padBase c + 0x15000 + 64 * n) 64
/-- The address of entry n in the scratch window. -/
def tmapVa (c n : Nat) : Nat := scratchVa c (0x15000 + 64 * n)
/-- ADDR of BASE. -/
def tmBase (m : TMap) : Nat := hodField m 0 7
/-- The tag of BASE. -/
def tmTag (m : TMap) : Nat := hodField m 7 1
/-- SBASE. -/
def tmScales (m : TMap) : Nat := hodField m 8 8 % 2 ^ 56
/-- STRIDE. -/
def tmStride (m : TMap) : Nat := hodField m 16 8
/-- ROWS. -/
def tmRows (m : TMap) : Nat := hodField m 24 4
/-- COLS. -/
def tmCols (m : TMap) : Nat := hodField m 28 4
/-- ROW0. -/
def tmRow0 (m : TMap) : Nat := hodField m 32 4
/-- COL0. -/
def tmCol0 (m : TMap) : Nat := hodField m 36 4
/-- TROWS. -/
def tmTrows (m : TMap) : Nat := hodField m 40 2
/-- TCOLS. -/
def tmTcols (m : TMap) : Nat := hodField m 42 2
/-- TRANS. -/
def tmTrans (m : TMap) : Bool := bit (hodField m 44 1) 0
/-- ZPAD. -/
def tmZpad (m : TMap) : Bool := bit (hodField m 44 1) 1
/-- The limits of Table 1 hold. -/
def tmValid (m : TMap) : Bool :=
  decide (m / 2 ^ 360 = 0 ∧ hodField m 44 1 < 16 ∧ 1 ≤ tmTcols m ∧ tmTcols m ≤ 64 ∧ 1 ≤ tmTrows m ∧ tmTrows m ≤ 64 ∧
    1 ≤ tmCols m ∧ 1 ≤ tmRows m)
/-- Element (i, k) lies in the matrix. -/
def tmInside (m : TMap) (i k : Nat) : Bool := decide (i < tmRows m ∧ k < tmCols m)
/-- The address of element (i, k) for elements of e bytes. -/
def tmAddr (m : TMap) (e i k : Nat) : Nat :=
  (tmBase m + (if tmTrans m then k * tmStride m + i * e else i * tmStride m + k * e)) % 2 ^ 56
/-- The address of the scale of element (i, k) (R162). -/
def tmScaleAddr (m : TMap) (i k : Nat) : Nat :=
  let b := 2 ^ (tmTag m % 8 + 2)
  let (l, q, len) := if tmTrans m then (k, i, tmRows m) else (i, k, tmCols m)
  (tmScales m + l * ceilDiv len b + q / b) % 2 ^ 56
/-- BLK of the map's tag is not zero. -/
def tmScaled (m : TMap) : Bool := decide (tmTag m % 8 ≠ 0)
/-- The limits of Table 1 hold, with a stride that is a multiple of the element size (R141). -/
def tmFits (m : TMap) (e : Nat) : Bool := tmValid m && decide (tmStride m % e = 0)

/-! ### Accumulator modes (R284, Table 1) -/

/-- The mode that an MMA of a type sets. -/
def accModeOf : Fmt → AccMode
  | .int8 => .int | .fp32 => .p32 | .cf32 => .pcx | .fp64 => .p64 | _ => .nar
/-- D: the tile dimension of a mode; a tile in mode NONE has no limit of its own. -/
def accDim : AccMode → Nat
  | .p32 => 32 | .pcx => 16 | .p64 => 16 | _ => 64
/-- Bytes of an element of a tile. -/
def accBytes : AccMode → Nat
  | .p32 => 8 | .pcx => 16 | .p64 => 16 | _ => 4

/-! ### What a matrix command touches (R283) -/

/-- The runs of bytes, as addresses and lengths, of an nr × nc block of a map for elements of e bytes. -/
def tileSpans (m : TMap) (e i k nr nc : Nat) : List (Nat × Nat) :=
  let r := Nat.min nr (tmRows m - i)
  let c := Nat.min nc (tmCols m - k)
  if tmTrans m then (List.range c).map (fun j => (tmAddr m e i (k + j), r * e))
  else (List.range r).map (fun j => (tmAddr m e (i + j) k, c * e))
/-- The runs of scale bytes of that block (R162). -/
def scaleSpans (m : TMap) (i k nr nc : Nat) : List (Nat × Nat) :=
  let r := Nat.min nr (tmRows m - i)
  let c := Nat.min nc (tmCols m - k)
  let run (a b : Nat) : Nat × Nat := (a, (b - a) % 2 ^ 56 + 1)
  if !tmScaled m ∨ r = 0 ∨ c = 0 then []
  else if tmTrans m then (List.range c).map (fun j => run (tmScaleAddr m i (k + j)) (tmScaleAddr m (i + r - 1) (k + j)))
  else (List.range r).map (fun j => run (tmScaleAddr m (i + j) k) (tmScaleAddr m (i + j) (k + c - 1)))
/-- The origin of tile t of a SETST (R285). -/
def tileOrigin (m : TMap) (across : Bool) (d t : Nat) : Nat × Nat :=
  (tmRow0 m + (if across then 0 else t * d), tmCol0 m + (if across then t * d else 0))
/-- The bytes of a bank of a core. -/
def bankSpan (c b : Nat) : Nat × Nat := (scratchVa c (0x40000 + b * 0x20000), 0x20000)
/-- The bytes that a queued command of core c reads and writes. A command without a map of its own has the map 0, of no rows. -/
def MCmd.spans (c : Nat) (m : MCmd) : List (Nat × Nat) :=
  let map := m.map.toNat
  let d := accDim m.mode
  match m.op with
  | .setst =>
    bankSpan c m.d :: (List.range m.n).flatMap (fun t =>
      tileSpans map m.t.size (tileOrigin map m.across d t).1 (tileOrigin map m.across d t).2 d d)
  | .relst => [bankSpan c m.d]
  | .aclr => []
  | .ast | .ald => tileSpans map m.t.size (tmRow0 map) (tmCol0 map) (tmTrows map) (tmTcols map)
  | .mma | .mmag | .mrot =>
    tileSpans map m.t.size (tmRow0 map) (tmCol0 map) (tmTrows map) d ++
      scaleSpans map (tmRow0 map) (tmCol0 map) (tmTrows map) d
  | .mrotBuf => []
/-- The physical runs of a run of virtual addresses of a domain: those of its 64 KiB pieces whose translation succeeds. -/
def physSpansIn (s : State) (c dom : Nat) : Nat → Nat → Nat → List (Nat × Nat)
  | 0, _, _ => []
  | fuel + 1, va, n =>
    if n = 0 then []
    else
      let k := Nat.min n (65536 - va % 65536)
      let rest := physSpansIn s c dom fuel ((va + k) % 2 ^ 56) (n - k)
      match translate s c dom va with
      | (_, .ok p) => (p.pa, k) :: rest
      | _ => rest
/-- The same in the domain of the core. -/
def physSpans (s : State) (c fuel va n : Nat) : List (Nat × Nat) := physSpansIn s c (s.core c).domain fuel va n
/-- Queued matrix commands of an activation that were issued before a mark (R283). -/
def commandsBefore (s : State) (c act mark : Nat) : List MCmd := (s.core c).mq.filter (fun m => decide (m.act = act ∧ m.id < mark))
/-- A queued command of an activation, issued before a mark, touches one of n physical bytes (R283). -/
def matrixTouches (s : State) (c act mark pa n : Nat) : Bool :=
  (commandsBefore s c act mark).any (fun m => (m.spans c).any (fun r => (physSpans s c 258 r.1 r.2).any (fun q =>
    decide (pa < q.1 + q.2 ∧ q.1 < pa + n))))
/-- The command accesses memory for its strand (R283). -/
def MCmd.accesses (m : MCmd) : Bool :=
  match m.op with
  | .relst | .aclr | .mrotBuf => false
  | _ => decide (m.map ≠ 0)

end Sys2Proof.Machine
end

