-- ==== Sys2Proof/Machine/Audit.lean ====
section
/-! DEFINITION. Audit sampling (R373–R375): the declared regions of a class, which dispatches are sampled, the entry that records
one, and its digest. -/

namespace Sys2Proof.Machine

/-- AUDIN of a map (R141). -/
def tmAudIn (m : TMap) : Bool := bit (hodField m 44 1) 2
/-- AUDOUT of a map (R141). -/
def tmAudOut (m : TMap) : Bool := bit (hodField m 44 1) 3
/-- A map's region: the runs of its elements inside ROWS × COLS (R373). -/
def regionSpans (m : TMap) : List (Nat × Nat) := tileSpans m (Fmt.ofCode (tmTag m / 8)).size 0 0 (tmRows m) (tmCols m)
/-- Map n of an entry's table. -/
def tableMap (tables : List Byte) (n : Nat) : TMap := ofBytesLE ((tables.drop (64 * n)).take 64)
/-- The runs of the declared inputs or outputs among the maps that AUDMAPS names (R373). -/
def declaredSpans (tables : List Byte) (audmaps : Nat) (out : Bool) : List (Nat × Nat) :=
  (List.range 16).flatMap (fun n =>
    let m := tableMap tables n
    if bit audmaps n && (if out then tmAudOut m else tmAudIn m) then regionSpans m else [])
/-- A run put in order of its start. -/
def insertSpan (x : Nat × Nat) : List (Nat × Nat) → List (Nat × Nat)
  | [] => [x]
  | y :: rest => if x.1 ≤ y.1 then x :: y :: rest else y :: insertSpan x rest
/-- The union of runs, as separate runs in ascending address order. -/
def unionSpans (l : List (Nat × Nat)) : List (Nat × Nat) :=
  ((l.foldr insertSpan []).foldl (fun acc x =>
    match acc with
    | [] => [x]
    | y :: rest => if x.1 ≤ y.1 + y.2 then (y.1, Nat.max (y.1 + y.2) (x.1 + x.2) - y.1) :: rest else x :: y :: rest) []).reverse
/-- The physical addresses of the bytes of a union of declared regions, in ascending virtual address order; bytes whose translation
fails have none. -/
def regionBytes (s : State) (c : Nat) (l : List (Nat × Nat)) : List Nat :=
  (unionSpans l).flatMap (fun r => (physSpans s c (r.2 / 65536 + 2) r.1 r.2).flatMap (fun q => (List.range q.2).map (q.1 + ·)))

/-- One bit of the CRC (R375). -/
def crcBit (c : Nat) : Nat := if bit c 63 then (2 * c % 2 ^ 64) ^^^ 0x42F0E1EBA9EA3693 else 2 * c
/-- One byte of the CRC, most significant bit first. -/
def crcByte (c : Nat) (b : Byte) : Nat := (List.range 8).foldl (fun c _ => crcBit c) (c ^^^ (b.toNat * 2 ^ 56))
/-- CRC-64 with initial value 0 and no final inversion (R375). -/
def crc64 (l : List Byte) : Word := word (l.foldl crcByte 0)

/-- The digest of an activation that an entry records: its declared outputs as they stand, which a replay has in its shadow, then its sends
and forwards (R375, R376). -/
def digestOf (s : State) (c : Nat) (tables : List Byte) (audmaps : Nat) (trace : List Byte) : Word :=
  let read (pa : Nat) : Byte :=
    match (s.core c).replay with
    | some r => ((r.shadow.find? (fun x => decide (x.1 = pa))).map (·.2)).getD (replayByte s r pa)
    | none => Memory.get s.mem pa
  crc64 ((regionBytes s c (declaredSpans tables audmaps true)).map read ++ trace)

/-- The ring entry that a sampled activation or a replay belongs to. -/
def State.auditEnt? (s : State) (c id : Nat) : Option AuditEnt :=
  let p := match (s.core c).replay with | some r => panelKey r.orig | none => panelKey c
  (s.panel p).ring.find? (fun e => decide (e.id = id))
/-- The digest of a strand's activation, where it is sampled. -/
def strandDigest (s : State) (c n : Nat) : Option Word :=
  match (s.strand c n).samp with
  | none => none
  | some x => (s.auditEnt? c x.entry).map (fun e => digestOf s c e.tables e.audmaps x.trace)
/-- Bytes that a sampled activation sends are added to what its digest covers (R375). -/
def traceBytes (s : State) (c n : Nat) (l : List Byte) : State :=
  s.modStrand c n (fun t => { t with samp := t.samp.map (fun x => { x with trace := x.trace ++ l }) })

/-- The hash that decides which dispatches are sampled (R374). -/
def sampleHash (q seed : Word) (c : Nat) : Nat :=
  let h := q ^^^ seed ^^^ word (c * 2 ^ 48)
  let h := (h ^^^ (h >>> 33)) * 0xFF51AFD7ED558CCD
  let h := (h ^^^ (h >>> 33)) * 0xC4CEB9FE1A85EC53
  (h ^^^ (h >>> 33)).toNat
/-- The effective fraction of a core: AUDF, or 3 for a suspect core where AUDF is 0 or above 3 (R374). -/
def auditFraction (s : State) (c : Nat) : Nat :=
  let f := (s.core c).audf
  if (Table.get .init (s.panel (panelKey c)).health (physicalCore s c)).s ∧ (f = 0 ∨ 3 < f) then 3 else f
/-- A dispatch with ACTSEQ q is sampled (R374). -/
def isSampled (s : State) (c : Nat) (q : Word) : Bool :=
  let n := auditFraction s c
  decide (1 ≤ n ∧ sampleHash q (s.core c).audseed (coreIdx c) % 2 ^ (n - 1) = 0)

/-- The 16 tensor maps and the decode table of a core (R374). -/
def coreTables (s : State) (c : Nat) : List Byte := s.readBytes (padBase c + 0x15000) 1024 ++ s.readBytes (padBase c + 0x15400) 1024
/-- The bytes of a ring entry: header, message, tables with TBLSTAT, and inputs (R374). -/
def AuditEnt.size (e : AuditEnt) : Nat := 64 + 64 + 2048 + 8 + e.inputs.length

/-- Samples the dispatch of an audit-eligible class on a strand, or counts a skip (R374). A poisoned input is reported, and nothing that
holds it is recorded (R78; log 45). -/
def takeSample (s : State) (c n cls audmaps : Nat) (q : Word) (m : Msg) : State :=
  if (s.core c).replay.isSome ∨ !isSampled s c q then s
  else
    let tables := coreTables s c
    let spans := unionSpans (declaredSpans tables audmaps false)
    let p := s.panel (panelKey c)
    let skip := s.modPanel (panelKey c) (fun p => { p with skips := p.skips + 1 })
    if 65536 < (spans.map (·.2)).sum then skip
    else
      match (regionBytes s c spans).find? (fun pa => (s.poisonedAt pa 1).isSome) with
      | some pa => reportPoison skip c 0 pa
      | none =>
      let inputs := (regionBytes s c spans).map (fun pa => (pa, Memory.get s.mem pa))
      let e : AuditEnt :=
        { id := s.fresh, launch := (s.core c).launch, cls := cls, q := q, core := c, strand := n, frame := (s.strand c n).frame, msg := m, tables := tables,
          tblstat := (s.core c).tblstat, inputs := inputs, audmaps := audmaps, copy := 0, digest := none, votes := [],
          phys := physicalCore s c, supv := s.supvOf c }
      if 16 * 2 ^ 20 < (p.ring.map (·.size)).sum + e.size then skip
      else
        let s := (s.modPanel (panelKey c) (fun p => { p with ring := p.ring ++ [e] })).tickFresh
        s.modStrand c n (fun t => { t with samp := some ⟨e.id, []⟩ })

/-- A sampled activation's copy requests or matrix commands have not completed, so its END waits (R375). -/
def sampleBusy (s : State) (c n : Nat) : Bool :=
  let t := s.strand c n
  t.samp.isSome && ((s.core c).copy.q.any (fun r => decide (r.strand = n ∧ r.act = t.act)) ||
    (s.core c).mq.any (fun m => decide (m.act = t.act)))
/-- At END the digest of a sampled activation is formed: the original's goes to its ring entry, a replay's to its host (R375, R376). -/
def finishSample (s : State) (c n : Nat) : State :=
  match (s.strand c n).samp, strandDigest s c n with
  | some x, some d =>
    let s := s.modStrand c n (fun t => { t with samp := none })
    if (s.core c).replay.isSome then s.modCore c (fun k => { k with replay := k.replay.map (fun r => { r with digest := some d }) })
    else s.modPanel (panelKey c) (fun p => { p with ring := p.ring.map (fun e => if e.id = x.entry then { e with digest := some d } else e) })
  | _, _ => s

end Sys2Proof.Machine
end

