-- ==== Sys2Proof/Machine/Ops.lean ====
section
/-! DEFINITION. The operations that every meaning shares: taking a trap (R364, R365), the return from one (R367), the end of an
activation (R314), and the frame of an instruction, that is the guard (R205, R211), waiting for pending registers (R52), and the
advance of PC (R200). -/

namespace Sys2Proof.Machine

/-! ### Traps -/

/-- The causes that are taken after their instruction has retired: TRAP, SVC and BRK (R321). -/
def afterRetire (cause : Nat) : Bool := decide (cause = 0x16 ∨ cause = 0x17 ∨ cause = 0x1C)

/-- An entry of the routine table (R350, Table 9): bytes 0–7 and 8–15. -/
def routineEntry (s : State) (c cls : Nat) : Nat × Nat :=
  (s.read (padBase c + 0x15800 + 16 * cls) 8, s.read (padBase c + 0x15808 + 16 * cls) 8)
/-- V of a routine-table entry. -/
def entryV (e : Nat × Nat) : Bool := bit e.1 16

/-- Where a trap goes: to class 63 of the own core, or to a supervisor (R365). -/
def trapIsLocal (s : State) (c n cause : Nat) : Bool :=
  bit (s.core c).trapmask.toNat cause && entryV (routineEntry s c 63) && decide ((s.strand c n).cls ≠ 63) &&
    (s.core c).replay.isNone

/-- The payload of trap and fault messages of a strand (R365, Table 2), and the message itself. -/
def trapPayload (s : State) (c n cause detail kind : Nat) (addr pc m4 : Word) : Word × Word × Word × Word × Word × Word :=
  let skind := if isForeman (s.seenCore c) then 4 else 0
  (word (cause + detail * 2 ^ 8 + kind * 2 ^ 16 + skind * 2 ^ 24), addr, pc, s.identOf c n, m4, (s.strand c n).actseq)

/-- Sends a trap's fault message to the supervisor (R365): SUPV of the launch, the foreman that runs a replay, or the foreman of
the panel where no launch names another. -/
def sendFault (s : State) (c n : Nat) (p : Word × Word × Word × Word × Word × Word) : State :=
  let target := match (s.core c).replay with | some r => foremanIdent r.panel | none => s.supvOf c
  s.postSystem c n (skindOf c) target 0x10 p.1 p.2.1 p.2.2.1 p.2.2.2.1 p.2.2.2.2.1 p.2.2.2.2.2

/-- Delivers a recorded trap by exactly one of two paths (R365). -/
def deliverTrap (s : State) (c n cause : Nat) (p : Word × Word × Word × Word × Word × Word) : State :=
  if trapIsLocal s c n cause then
    let me := headerTo 3 (engineIdent c 0 0)
    let m : Msg := ⟨stamp me c n 0, header1 0x11 (s.core c).domain, p.1, p.2.1, p.2.2.1, p.2.2.2.1, p.2.2.2.2.1, p.2.2.2.2.2⟩
    match accept s c 2 m 0 (.trapped n (s.strand c n).act) 0 0 with
    | (s, true) => s
    | (s, false) => sendFault s c n p
  else sendFault s c n p

/-- The hod of a stop whose routine traps is parked when the trap is recorded, before delivery (R198, R372): the state and the park
address. -/
def parkOnTrap (s : State) (c n cause : Nat) : State × Nat :=
  match (s.strand c n).hod with
  | none => (s, 0)
  | some i =>
    let s := s.modStrand c n (fun t => { t with hod := none })
    if hodStatus (slotImage s c i) = 3 then parkSlot s c i .fault cause else (s, 0)

/-- Drops the audit entry of an activation that will not be compared (R375). -/
def dropSample (s : State) (c n : Nat) : State :=
  match (s.strand c n).samp with
  | none => s
  | some x =>
    (s.modStrand c n (fun t => { t with samp := none })).modPanel (panelKey c)
      (fun p => { p with ring := p.ring.filter (fun e => decide (e.id ≠ x.entry)) })

/-- The trap of a strand (R364): the detail of a translation fault is its kind (R363, Table 1). TRAPC, TRAPA and TRAPPC are written
and the strand is parked with its activation, frame, claims and allowances; a follower detaches (R318), an audited activation is
dropped (R375), and the trap is delivered (R365). PC stays where a resumption continues: at the first prefix of the trapping instruction, or after it for TRAP, SVC and BRK (R321). -/
def takeTrap (s : State) (c n cause detail kind : Nat) (addr pc next : Word) (row : Option Nat) : State :=
  let detail := if cause = 0x07 then kind else detail
  let (s, park) := parkOnTrap s c n cause
  let m4 := word (row.getD park)
  let s := dropSample s c n
  let s := s.modStrand c n (fun t =>
    { t with trapc := word (cause + detail * 256), trapa := addr, trappc := pc, mode := .parked, wait := .none, imx := [], pc := next,
             deadline := none, fol := if t.fol = 1 then 2 else t.fol, folq := [] })
  let s := s.modCore c (fun k => { k with replay := k.replay.map (fun r => { r with trapped := true }) })
  deliverTrap s c n cause (trapPayload s c n cause detail kind addr pc m4)

/-- The strand that executes traps at its current instruction; the instruction has written nothing (R364). A footing core meets no
trap: an instruction that only strands execute is illegal there (R48, R210). -/
def State.trapWith (s : State) (cause detail kind : Nat) (addr : Word) : State :=
  match s.cur with
  | .strand c n => takeTrap s c n cause detail kind addr s.firstPc s.firstPc none
  | .unit u => s.footFault u 0x01
  | .none => s
/-- A trap with no translation-fault kind. -/
def State.trap (s : State) (cause detail : Nat) (addr : Word) : State := s.trapWith cause detail 0 addr
/-- A trap taken after its instruction of len bytes has retired (R321). -/
def State.trapAfter (s : State) (cause detail : Nat) (addr : Word) (len : Nat) : State :=
  match s.cur with
  | .strand c n => takeTrap s c n cause detail 0 addr s.firstPc (s.pc + word len) none
  | .unit u => s.footFault u 0x01
  | .none => s

/-- The return from a trap: a parked strand runs again at the place its trap left (R321, R322, R367). A matrix trap's command may
start again (R282), and so may a load that a trap has stopped after its instruction had retired (R78). -/
def resumeStrand (s : State) (c n : Nat) : State :=
  let stopped := (s.strand c n).mtrap.isSome
  let s : State := { s with accs := s.accs.map (fun (a : Acc) => if a.core = c ∧ a.strand = n then { a with refused := none } else a) }
  (s.modStrand c n (fun t => { t with mode := .running, mtrap := none })).modCore c
    (fun k => if stopped then { k with mstop := false, mq := k.mq.map (fun m => { m with fault := none }) } else k)
/-- The activation of a matrix command that a trap has stopped ends: the command and every later one of that activation are
discarded, the bank of a SETST keeps its former slots, and the queue runs on (R282). -/
def discardStopped (k : Core) (act : Nat) : Core :=
  match k.mq.head? with
  | some m =>
    if k.mstop ∧ m.act = act then
      { k with mstop := false, mq := k.mq.filter (fun x => decide (x.act ≠ act)),
               banks := if m.op = .setst then Table.modify .init k.banks m.d (fun b => { b with staged := [] }) else k.banks }
    else k
  | none => k

/-! ### The end of an activation -/

/-- A continuation holds the frame. -/
def contHolds (k : Core) (f : Nat) : Bool :=
  k.inbox.any (fun x => match x.kind with | .cont y => decide (y.frame = f) | _ => false) ||
    (List.range 4).any (fun p => (k.ring p).ents.any (fun x => match x.kind with | .cont y => decide (y.frame = f) | _ => false))
/-- Frees a frame unless an activation or continuation holds it or one of its words is pending (R52, R135). -/
def releaseFrame (s : State) (c f : Nat) : State :=
  let k := s.core c
  let held := (List.range 4).any (fun n => decide ((k.strand n).mode ≠ .free ∧ (k.strand n).frame = f)) || contHolds k f
  if held ∨ Table.get 0 k.pend f ≠ 0 then s
  else s.modCore c (fun k => { k with frames := k.frames &&& ~~~(BitVec.ofNat 32 (2 ^ f)) })

/-- Parks the hods that an ending activation holds in a BUILT or RUNNING state (R198, R314). -/
def parkHeld (s : State) (c n : Nat) : State :=
  let t := s.strand c n
  let held := (match t.hod with | some i => [i] | none => []) ++ t.built
  let s := s.modStrand c n (fun t => { t with hod := none, built := [] })
  held.foldl (fun s i =>
    let st := hodStatus (slotImage s c i)
    if slotBusy (s.core c) i && (decide (st = 0) || decide (st = 3)) then (parkSlot s c i .parked 0).1 else s) s

/-- The activation of a strand ends (R314): its class and claims are released with it, its hods are parked, its followers' streams
end with it (they hold the end in their own queues), and its frame is freed unless a word of it is pending (R52). -/
def endActivation (s : State) (c n : Nat) : State :=
  let s := parkHeld s c n
  let f := (s.strand c n).frame
  let s := s.modCore c (fun k => discardStopped k (k.strand n).act)
  let s := s.modStrand c n (fun t =>
    { t with mode := .free, wait := .none, imx := [], deadline := none, claim := 0, serial := false, audit := false, rres := false,
             fol := 0, folq := [], followed := false, samp := none, mtrap := none })
  releaseFrame s c f

/-! ### The frame of an instruction -/

/-- An instruction that a strand or a footing core executes: with no processor there is none to execute it. -/
def onProcessor (s : State) (k : State → Result) : Result :=
  match s.cur with
  | .none => .fault .noProcessor
  | _ => k s
/-- An instruction that only strands execute; on a footing core it is illegal (R48, R210). -/
def onStrand (s : State) (k : Nat → Nat → State → Result) : Result :=
  match s.cur with
  | .none => .fault .noProcessor
  | .unit u => .next (s.footFault u 0x01)
  | .strand c n => k c n s
/-- An instruction that only footing cores execute; on a strand it lies outside the repertoire (R210, R213). -/
def onUnit (s : State) (k : Nat → State → Result) : Result :=
  match s.cur with
  | .none => .fault .noProcessor
  | .unit u => k u s
  | .strand _ _ => .next (s.trap 0x01 0x05 s.firstPc)
/-- The guard: with predicate 0 the instruction retires with no effect except on PC (R205, R211 step 4). -/
def guarded (g len : Nat) (s : State) (k : State → Result) : Result := if s.predicate g then k s else .next (s.advance len)
/-- Waits for pending registers (R52, R334), and traps on a poisoned frame word (R78). -/
def needing (rs : List Nat) (s : State) (k : State → Result) : Result :=
  if s.waitsFor rs then .next s
  else
    match s.badReg rs with
    | some a => .next (s.trap 0x1B 0 (word a))
    | none => k (s.correctRegs rs)
/-- An instruction on w and k registers that only computes (R241): guard, wait for what it reads and writes, effect, advance. The
registers that it only writes are not read. -/
def scalar (g : Fin 8) (len : Nat) (reads writes : List Nat) (f : State → State) (s : State) : Result :=
  onProcessor s fun s => guarded g len s fun s =>
    if s.waitsFor writes then .next s else needing reads s fun s => .next ((f s).advance len)
/-- The same for an instruction that may trap: the effect, or the cause with TRAPA. -/
def scalarTrap (g : Fin 8) (len : Nat) (reads writes : List Nat) (f : State → Except (Nat × Nat × Word) State) (s : State) : Result :=
  onProcessor s fun s => guarded g len s fun s =>
    if s.waitsFor writes then .next s
    else needing reads s fun s =>
      match f s with
      | .ok s => .next (s.advance len)
      | .error (cause, detail, a) => .next (s.trap cause detail a)
/-- The same for an instruction that only strands execute. -/
def strandOp (g : Fin 8) (len : Nat) (reads writes : List Nat) (f : Nat → Nat → State → Except (Nat × Nat × Word) State) (s : State) :
    Result :=
  onStrand s fun c n s => guarded g len s fun s =>
    if s.waitsFor writes then .next s
    else needing reads s fun s =>
      match f c n s with
      | .ok s => .next (s.advance len)
      | .error (cause, detail, a) => .next (s.trap cause detail a)
/-- An event that takes place where its condition holds; where it does not, nothing happens in that turn. -/
def whenever (b : Bool) (s : State) (k : State → State) : Result := .next (if b then k s else s)

end Sys2Proof.Machine
end

