-- ==== Sys2Proof/Machine/Operands.lean ====
section
/-! DEFINITION. The operand forms of the scalar instructions (R202, R208, R238, R241): two registers, a register and an
immediate, one register, and the values that they compute. -/

namespace Sys2Proof.Machine

/-- w register 8 + n, which the 16-bit forms name (R208). -/
def shortReg (n : Fin 8) : Nat := 8 + n.val

/-! ### Operand forms -/

/-- `op wd, wa, wb` (format A): w(d) := f w(a) w(b). -/
def aluRR (g : Fin 8) (len d a b : Nat) (f : Word → Word → Word) (s : State) : Result :=
  scalar g len [a, b] [d] (fun s => s.setW d (f (s.w a) (s.w b))) s
/-- `op wd, wa` : w(d) := f w(a). -/
def aluR (g : Fin 8) (len d a : Nat) (f : Word → Word) (s : State) : Result :=
  scalar g len [a] [d] (fun s => s.setW d (f (s.w a))) s
/-- `op wd, wa, imm` (format I, extendable): w(d) := f w(a) imm. -/
def aluRI {n : Nat} (g : Fin 8) (len d a : Nat) (i : BitVec n) (f : Word → Word → Word) (s : State) : Result :=
  scalar g len [a] [d] (fun s => s.setW d (f (s.w a) (s.imm i))) s
/-- `op wd, imm` (format W, extendable): w(d) := imm. -/
def aluI {n : Nat} (g : Fin 8) (len d : Nat) (i : BitVec n) (s : State) : Result :=
  scalar g len [] [d] (fun s => s.setW d (s.imm i)) s
/-- A division: a zero divisor traps 0x15 on a strand and gives a value of its own on a footing core (R240, R242). -/
def divRR (g : Fin 8) (d a b : Nat) (f : Word → Word → Word) (zero : Word → Word) (s : State) : Result :=
  scalarTrap g 4 [a, b] [d] (fun s =>
    if s.w b = 0 then
      match s.cur with
      | .unit _ => .ok (s.setW d (zero (s.w a)))
      | _ => .error (0x15, 0, 0)
    else .ok (s.setW d (f (s.w a) (s.w b)))) s
/-- The registers that hold a comparison's outcome: on a footing core a w register (R240). -/
def flagReg (s : State) (d : Nat) : List Nat := match s.cur with | .unit _ => [d] | _ => []
/-- `op kd, wa, wb`: the outcome of a comparison (R246). -/
def cmpRR (g : Fin 8) (d a b : Nat) (f : Word → Word → Bool) (s : State) : Result :=
  scalar g 4 [a, b] (flagReg s d) (fun s => s.setFlag d (f (s.w a) (s.w b))) s
/-- `op kd, wa, imm`: the outcome of a comparison with an immediate (R249). -/
def cmpRI {n : Nat} (g : Fin 8) (d a : Nat) (i : BitVec n) (f : Word → Word → Bool) (s : State) : Result :=
  scalar g 4 [a] (flagReg s d) (fun s => s.setFlag d (f (s.w a) (s.imm i))) s
/-- `op kd, ka, kb`: k(d) := f k(a) k(b) (R255). -/
def maskOp (g : Fin 8) (d : Nat) (f : State → Word) (s : State) : Result :=
  strandOp g 4 [] [] (fun _ _ s => .ok (s.setK d (f s))) s
/-- A pointer addition: the tag is kept, and a sum outside 56 bits traps 0x0B (R22, R252). -/
def pointerAdd (p : Word) (o : Word) : Except (Nat × Nat × Word) Word :=
  let sum : Int := (p.toNat % 2 ^ 56 : Nat) + o.toInt
  if sum < 0 ∨ 2 ^ 56 ≤ sum then .error (0x0B, 0, word (p.toNat % 2 ^ 56)) else .ok (word (p.toNat / 2 ^ 56 * 2 ^ 56 + sum.toNat))

/-! ### What they compute -/

/-- The high word of the signed product (R241). -/
def mulHigh (x y : Word) : Word := BitVec.ofInt 64 (x.toInt * y.toInt / 2 ^ 64)
/-- The high word of the unsigned product (R241). -/
def mulHighN (x y : Word) : Word := word (x.toNat * y.toNat / 2 ^ 64)
/-- Signed division truncating toward zero; −2^63 ÷ −1 wraps (R242). -/
def divS (x y : Word) : Word := BitVec.ofInt 64 (x.toInt.tdiv y.toInt)
/-- Unsigned division (R242). -/
def divU (x y : Word) : Word := word (x.toNat / y.toNat)
/-- Signed remainder with the sign of the dividend (R242). -/
def remS (x y : Word) : Word := BitVec.ofInt 64 (x.toInt.tmod y.toInt)
/-- Unsigned remainder (R242). -/
def remU (x y : Word) : Word := word (x.toNat % y.toNat)
/-- A shift count: bits [5:0] (R241). -/
def shiftCount (y : Word) : Nat := y.toNat % 64
/-- x shifted left (R241). -/
def shiftL (x y : Word) : Word := x <<< shiftCount y
/-- x shifted right, zeros in (R241). -/
def shiftR (x y : Word) : Word := x >>> shiftCount y
/-- x shifted right, copies of bit 63 in (R241). -/
def shiftA (x y : Word) : Word := x.sshiftRight (shiftCount y)
/-- x rotated left (R241). -/
def rotateL (x y : Word) : Word := x.rotateLeft (shiftCount y)
/-- Signed minimum (R241). -/
def minS (x y : Word) : Word := if y.slt x then y else x
/-- Signed maximum (R241). -/
def maxS (x y : Word) : Word := if x.slt y then y else x
/-- Unsigned minimum (R241). -/
def minU (x y : Word) : Word := if y.ult x then y else x
/-- Unsigned maximum (R241). -/
def maxU (x y : Word) : Word := if x.ult y then y else x
/-- Leading zeros, 64 for 0 (R243). -/
def leadingZeros (x : Word) : Word := if x = 0 then 64 else word (63 - x.toNat.log2)
/-- Trailing zeros, 64 for 0 (R243). -/
def trailingZeros (x : Word) : Word := word (((List.range 64).find? (fun i => x.getLsbD i)).getD 64)
/-- Set bits (R243). -/
def setBits (x : Word) : Word := word ((List.range 64).filter (fun i => x.getLsbD i)).length
/-- The bits of a width code of SEXT and ZEXT: 8, 16 or 32 (R244). -/
def widthBits (n : Nat) : Nat := 8 * 2 ^ n
/-- The low n bits sign-extended. -/
def signExt (n : Nat) (x : Nat) : Word := BitVec.ofInt 64 (signedOf n x)
/-- The low n bits zero-extended. -/
def zeroExt (n : Nat) (x : Nat) : Word := word (x % 2 ^ n)
/-- The conditions of CMP and CMPI (R203, R246); UN is out of class there. -/
def condHolds (c : Cond) (x y : Word) : Bool :=
  match c with
  | .eq => decide (x = y)
  | .ne => decide (x ≠ y)
  | .lt => x.slt y
  | .le => !y.slt x
  | .ltn => x.ult y
  | .len => !y.ult x
  | .un => false
/-- PTAG: the tag of w(b) over the address of w(a) (R253). -/
def withTag (x y : Word) : Word := word (y.toNat % 256 * 2 ^ 56 + x.toNat % 2 ^ 56)
/-- PFMT: the fields of a tag, or trap 0x03 where it is reserved (R254, Table 2). -/
def tagFields (x : Word) : Except (Nat × Nat × Word) Word :=
  let t := fieldOf x 63 56
  if tagValid t then
    .ok (word ((if t % 8 = 0 then 0 else 2 ^ (t % 8 + 2)) * 2 ^ 32 + (Fmt.ofCode (t / 8)).size * 2 ^ 16 + t % 8 * 2 ^ 8 + t / 8))
  else .error (0x03, 0, word (x.toNat % 2 ^ 56))

end Sys2Proof.Machine
end

