-- ==== Sys2Proof/Machine/Issue.lean ====
section
/-! DEFINITION. How a strand's memory access is issued (R221–R224), in which order its pieces are performed (R335), and how it
completes. -/

namespace Sys2Proof.Machine

/-- A piece that an instruction asks for: address, bytes, what it stores or computes with, and the lane it belongs to. -/
structure Want where
  va : Nat
  n : Nat
  data : Nat
  cmp : Nat
  lane : Nat
  deriving DecidableEq, Repr

/-- The effective address of a memory instruction (R221). -/
def effAddr (base : Word) (off : Int) : Nat := (((base.toNat % 2 ^ 56 : Nat) + off : Int) % 2 ^ 56).toNat

/-- Where a piece is performed (R223): a synchronisation access to another package always at its home (R74, R333), and a page with FO
by no partition (R66). -/
def placeOf (s : State) (c : Nat) (p : Place53) (sync : Bool) : Place :=
  if decide (2 ^ 53 ≤ p.pa) || (isPad p.pa && decide (paPkg p.pa = corePkg c)) then .pad
  else if inControl p.pa && decide (paPkg p.pa = corePkg c) then .control
  else if paPkg p.pa ≠ corePkg c then if byPartition s c p && !sync then .rpart else .remote
  else if attrFO p.attr then .fo else .l2

/-- The checks of R222, steps 1 to 3, for the pieces of an instruction in order: the pieces with their places, or the cause, kind
and address of the first that fails. A scratchpad of the own package is checked by R26 here. -/
def checkWants (s : State) (c n : Nat) (u : Use) (op : AccOp) (sync : Bool) :
    List Want → State × Except (Nat × Nat × Nat) (List Piece)
  | [] => (s, .ok [])
  | w :: rest =>
    if w.va % w.n ≠ 0 then (s, .error (0x06, 0, w.va))
    else
      match translateFor s c (s.strandDomain c w.va) w.va u with
      | (s, .error r) => (s, .error (r.cause, r.kind, w.va))
      | (s, .ok p) =>
        let place := placeOf s c p sync
        let write := decide (op ≠ .load)
        match (if place = .pad then padRefuses s (s.agent c) p.pa w.n write else none) with
        | some cause => (s, .error (cause, 0, w.va))
        | none =>
          if write && (s.strand c n).audit && decide (paPkg p.pa ≠ corePkg c ∧ p.pa < 2 ^ 53) then (s, .error (0x10, 0, w.va))
          else
            match checkWants s c n u op sync rest with
            | (s, .error e) => (s, .error e)
            | (s, .ok ps) => (s, .ok (⟨w.va, p.pa, w.n, place, attrFO p.attr && isHbm p.pa, w.data, w.cmp, w.lane, 0, false⟩ :: ps))

/-- An access was refused with a bank's cause while a queued command of the activation still has to do with the byte: it is the access
that waits, and its check is made when the command has finished (R127, R283). -/
def bankPending (s : State) (c n cause va : Nat) : Bool :=
  decide (cause = 0x0A) &&
    match translate s c (s.strandDomain c va) va with
    | (_, .ok p) => matrixTouches s c (s.strand c n).act s.fresh p.pa 1
    | (_, .error _) => false
/-- A check of R222 failed: the instruction traps, or waits for a matrix command of its strand. -/
def accessFails (s : State) (c n cause kind va : Nat) : State :=
  if bankPending s c n cause va then s else s.trapWith cause 0 kind (word va)

/-- Two ranges of bytes share one. -/
def overlaps (a n b m : Nat) : Bool := decide (a < b + m ∧ b < a + n)
/-- The accesses of a strand's activation in flight. -/
def inFlight (s : State) (c n : Nat) : List Acc :=
  s.accs.filter (fun a => decide (a.core = c ∧ a.strand = n ∧ a.act = (s.strand c n).act))
/-- Every piece has been performed. -/
def Acc.performed (a : Acc) : Bool := a.pieces.all (·.done)
/-- An access of the strand in flight touches one of n bytes and has not yet been performed there. -/
def bytesInFlight (s : State) (c n pa len : Nat) : Bool :=
  (inFlight s c n).any (fun a => a.pieces.any (fun p => !p.done && overlaps p.pa p.n pa len))
/-- The access goes to another package. -/
def Acc.isRemote (a : Acc) : Bool := a.pieces.any (fun p => decide (p.place = .remote ∨ p.place = .rpart))

/-! ### Order (R335) -/

/-- A piece may be performed now: earlier accesses of its strand that share a byte, that a release or a release fence orders
before it, or that are acquires, come first; so do earlier pieces of its own access that share a byte, and earlier matrix commands
that touch one, or for a release that access memory at all (R85, R228, R276, R283, R335). -/
def mayPerform (s : State) (a : Acc) (p : Piece) : Bool :=
  let earlier := s.accs.filter (fun x => decide (x.core = a.core ∧ x.strand = a.strand ∧ x.act = a.act ∧ x.id < a.id))
  earlier.all (fun x =>
    x.pieces.all (fun q => q.done || !overlaps q.pa q.n p.pa p.n) && (!a.ord.rel || x.performed) && !x.ord.acq &&
      (decide (a.op = .load) || decide (a.relMark ≤ x.id) || x.performed)) &&
    (a.pieces.takeWhile (fun q => decide (q ≠ p))).all (fun q => q.done || !overlaps q.pa q.n p.pa p.n) &&
    !(a.ord.rel && (commandsBefore s a.core a.act a.id).any (·.accesses)) &&
    !matrixTouches s a.core a.act a.id p.pa p.n
/-- A plain load that a strand makes now of n bytes at a physical address would be performed now: no earlier access or queued matrix
command of the strand that touches one of them is on its way, and no earlier acquire (R283, R335). -/
def loadReady (s : State) (c n pa len : Nat) : Bool :=
  !bytesInFlight s c n pa len && !(inFlight s c n).any (·.ord.acq) && !matrixTouches s c (s.strand c n).act s.fresh pa len
/-- Every access of a strand that is numbered below a mark has been performed, and its acquires there have completed (R72, R335). -/
def performedBelow (s : State) (c n mark : Nat) : Bool :=
  s.accs.all (fun a => !decide (a.core = c ∧ a.strand = n ∧ a.id < mark) || (a.performed && !a.ord.acq))
/-- The same, with the accesses of the strand's queued matrix commands (R283, R335). -/
def releasedBelow (s : State) (c n mark : Nat) : Bool :=
  performedBelow s c n mark && !(commandsBefore s c (s.strand c n).act mark).any (·.accesses)
/-- Before a SYSTEM release is performed, or the first store-like access after a SYSTEM release fence, every dirty byte of the
package's remote partitions is written back (R73, R228). That meets the fences of the activation that were made below a bound; a fence
made later covers accesses that may still be on their way, and is met by an access behind it. -/
def releaseRemote (s : State) (c n bound : Nat) (need : Bool) : State :=
  if need then
    let s := s.writeBackAll (corePkg c)
    let act := (s.strand c n).act
    let s := s.modStrand c n (fun t => { t with relSys := t.relSys && decide (bound < t.relMark) })
    { s with accs := s.accs.map (fun a =>
        if a.core = c ∧ a.strand = n ∧ a.act = act then { a with relSys := a.relSys && decide (bound < a.relMark) } else a) }
  else s
/-- The access makes that release. -/
def Acc.releases (a : Acc) : Bool := (a.ord.rel && decide (a.scope = .system)) || (a.relSys && decide (a.op ≠ .load))
/-- The fences that such an access meets: those before itself for a SYSTEM release, else those before its own fence and that fence. -/
def Acc.bound (a : Acc) : Nat := if a.ord.rel && decide (a.scope = .system) then a.id else a.relMark
/-- The release that an access makes before it is performed. -/
def releaseFor (s : State) (a : Acc) : State := releaseRemote s a.core a.strand a.bound a.releases

/-! ### Issue -/

/-- Replaces an access in flight. -/
def State.setAcc (s : State) (a : Acc) : State := { s with accs := s.accs.map (fun x => if x.id = a.id then a else x) }
/-- Removes an access. -/
def State.dropAcc (s : State) (id : Nat) : State := { s with accs := s.accs.filter (fun x => decide (x.id ≠ id)) }
/-- An access by number. -/
def State.acc? (s : State) (id : Nat) : Option Acc := s.accs.find? (fun a => decide (a.id = id))

/-- Marks the registers that a load in flight will write (R334). -/
def markBusy (t : Strand) (d : AccDest) (on : Bool) : Strand :=
  let w (t : Strand) (m : BitVec 32) : Strand := { t with busyW := if on then t.busyW ||| m else t.busyW &&& ~~~m }
  let v (t : Strand) (m : BitVec 16) : Strand := { t with busyV := if on then t.busyV ||| m else t.busyV &&& ~~~m }
  match d with
  | .w r _ _ => w t (BitVec.ofNat 32 (2 ^ r))
  | .pair r => w t (BitVec.ofNat 32 (3 * 2 ^ r))
  | .v r _ _ _ _ => v t (BitVec.ofNat 16 (2 ^ r))
  | .regs d first count true _ => v t (BitVec.ofNat 16 ((2 ^ (count - first) - 1) * 2 ^ (d + first)))
  | _ => t

/-- The value of a load's w register (R225, R227). -/
def loadValue (n : Nat) (signed : Bool) (x : Nat) : Word := if signed then signExt (8 * n) x else zeroExt (8 * n) x

/-- The lanes that a vector load writes: the elements read, scaled and rounded once where the access is scaled (R276), zeros
(R279), and the former lanes elsewhere; and the flags of the rounding. -/
def vectorResult (m : RMode) (old : VWord) (t : Fmt) (ps : List Piece) (scales : List Nat) (scaled : Bool) (zeros : List Nat) :
    VWord × Nat :=
  let step (acc : List Nat × Nat) (j : Nat) : List Nat × Nat :=
    match ps.find? (fun p => decide (p.lane = j)) with
    | some p =>
      if scaled then
        let v := (fpOf t).decode p.got
        let (x, f) := (fpOf t).rnd m (v.scale ((scales[j]?.getD 127 : Nat) - 127))
        (acc.1 ++ [x], acc.2 ||| f ||| snanFlag [v])
      else (acc.1 ++ [p.got], acc.2)
    | none => if zeros.contains j then (acc.1 ++ [0], acc.2) else (acc.1 ++ [lane old t.size j], acc.2)
  let r := (List.range t.lanes).foldl step ([], 0)
  (ofLanes t.size r.1, r.2)

/-- Writes what a completed access brings to its strand's registers (R225–R230, R276, R280); where the core has
been pre-empted meanwhile, its save areas too (R146). -/
def writeDest (s : State) (a : Acc) : State :=
  let c := a.core
  let n := a.strand
  let got (i : Nat) : Nat := (a.pieces[i]?.map (·.got)).getD 0
  let reg (r : Nat) (v : Nat) (s : State) : State := s.write (regAddr c a.frame r) 8 v
  match a.dest with
  | .none => s
  | .w r k signed => reg r (loadValue k signed (got 0)).toNat s
  | .pair r => reg (r + 1) (got 0 / 2 ^ 64 % 2 ^ 64) (reg r (got 0 % 2 ^ 64) s)
  | .v r t scales scaled zeros =>
    let t0 := s.strand c n
    let (x, f) := vectorResult (modeOf t0.fctl) (t0.vec r) t a.pieces scales scaled zeros
    let s := s.modStrand c n (fun t => { t.setVec r x with fflags := t.fflags ||| word f })
    saveAlso (saveVecAlso s c n r x) c n 3 (s.strand c n).fflags
  | .regs d first count true _ =>
    let s := (List.range (count - first)).foldl (fun s i =>
      let words := (List.range 32).map (fun j => got (32 * i + j))
      s.modStrand c n (fun t => t.setVec (d + first + i) (ofLanes 8 words))) s
    saveAlso (s.modStrand c n (fun t => { t with vresume := 0 })) c n 9 0
  | .regs _ _ _ false _ => s
  | .fencep r l => reg r l.length s
  | .flags f =>
    let s := s.modStrand c n (fun t => { t with fflags := t.fflags ||| word f })
    saveAlso s c n 3 (s.strand c n).fflags

/-- The first byte of a replay's access that comes from a poisoned word of memory: the number of its piece, and its virtual and physical
address (R78, R376). -/
def replayPoison (s : State) (c : Nat) (ps : List Piece) : Option (Nat × Nat × Nat) :=
  match (s.core c).replay with
  | none => none
  | some r =>
    ps.zipIdx.findSome? (fun p => (replayMeets s r p.1.pa p.1.n).map (fun at_ => (p.2, p.1.va + (at_ - p.1.pa), at_)))
/-- What a strand's replay does at once instead: loads and atomics read its shadow, the declared inputs or memory, and every store
goes to the shadow, but for one to its own frame pool, which writes a register (R136, R376). -/
def replayPieces (s : State) (c : Nat) (op : AccOp) : List Piece → State × List Piece
  | [] => (s, [])
  | p :: rest =>
    match (s.core c).replay with
    | none => (s, p :: rest)
    | some r =>
      let own := decide (2 ^ 53 ≤ p.pa)
      let old := if own then s.read p.pa p.n else replayRead s r p.pa p.n
      let put (s : State) (v : Nat) : State :=
        if own then s.write p.pa p.n v
        else s.modCore c (fun k => { k with replay := k.replay.map (fun r => replayWrite r p.pa p.n v) })
      let s :=
        match op with
        | .load => s
        | .store => put s p.data
        | .atomic h => match atomicNew h old p.data p.cmp with | some v => put s v | none => s
      let (s, ps) := replayPieces s c op rest
      (s, { p with got := old, done := true } :: ps)

/-- A whole-register transfer ends after the registers before number first + k: those of a load are written and VRESUME says how far it
came (R280). -/
def partlyMoved (s : State) (a : Acc) (d first k : Nat) (load : Bool) : State :=
  (writeDest s { a with dest := .regs d first (first + k) load none }).modStrand a.core a.strand (fun t => { t with vresume := word (first + k) })
/-- An access that ends without effect leaves the sticky bits as they were: those that a FENCEP has cleared are set again (R229). -/
def undoAcc (s : State) (a : Acc) : State :=
  match a.dest with
  | .fencep _ l => l.foldl (fun s p => setSticky s a.core a.strand a.act p) s
  | _ => s
/-- A load of a piece meets a poisoned word now, in memory or in a line of the remote partition (R78). -/
def meetsPoison (s : State) (c : Nat) (p : Piece) : Bool :=
  (s.poisonMet false p.pa p.n).isSome ||
    (decide (p.place = .rpart) && decide ((s.rlineOr (corePkg c) (p.pa / 64)).poison &&& wordsTouched (p.pa % 64) p.n ≠ 0))
/-- An access holds its strand where it must not retire before it is performed: an access to the scratchpad of another core, a
synchronisation access on the own package, a load that meets a poisoned word as it issues, and a whole-register load (R78, R224, R280,
R342). -/
def holdsStrand (s : State) (c : Nat) (op : AccOp) (sync : Bool) (dest : AccDest) (ps : List Piece) : Bool :=
  ps.any (fun p => (decide (p.place = .pad) && decide ((padHolder p.pa).1 ≠ c)) ||
    (sync && decide (p.place ≠ .remote)) || (decide (op ≠ .store) && meetsPoison s c p)) ||
    (match dest with | .regs _ _ _ load trap => load || trap.isSome | .fencep _ _ => true | _ => false)
/-- Puts an access into flight. One that does not hold its strand retires, and a load's registers wait for it (R52). A replay performs its
accesses at once (R376). -/
def launchAcc (s : State) (c n len : Nat) (op : AccOp) (sync : Bool) (scope : Scope) (ord : Order) (dest : AccDest) (ps : List Piece) :
    State :=
  let t := s.strand c n
  let blocking := holdsStrand s c op sync dest ps
  let a : Acc :=
    { id := s.fresh, core := c, strand := n, act := t.act,
      dom := s.strandDomain c ((ps.head?.map (·.va)).getD 0), op := op, pieces := ps, sync := sync, scope := scope,
      ord := ord, blocking := blocking, len := len, relMark := t.relMark, relSys := t.relSys, dest := dest, frame := t.frame,
      pc := t.pc - word (4 * t.imx.length), refused := none, seq := s.fresh }
  if (s.core c).replay.isSome then
    match (if op = .store then none else replayPoison s c ps), dest with
    | some (i, va, pa), .regs d first _ load _ =>
      let (s, ps) := replayPieces s c op (ps.take (i / 32 * 32))
      (reportPoison (partlyMoved s { a with pieces := ps } d first (i / 32) load) c va pa).trapWith 0x1D 0x1B 0 (word va)
    | some (_, va, pa), _ => (reportPoison s c va pa).trap 0x1B 0 (word va)
    | none, .regs d first count load (some (cause, kind, va)) =>
      let (s, ps) := replayPieces s c op ps
      (partlyMoved s { a with pieces := ps } d first (count - first) load).trapWith 0x1D cause kind (word va)
    | none, _ =>
      let (s, ps) := replayPieces s c op ps
      (writeDest s { a with pieces := ps }).advance len
  else
    let s := { s with accs := s.accs ++ [a], fresh := s.fresh + 1 }
    if blocking then s.modStrand c n (fun t => { t with wait := .access a.id })
    else (s.modStrand c n (fun t => markBusy t dest true)).advance len

/-- Issues the pieces of an instruction of len bytes after the checks of R222. -/
def issue (s : State) (c n len : Nat) (u : Use) (op : AccOp) (sync : Bool) (scope : Scope) (ord : Order) (dest : AccDest) (ws : List Want) :
    State :=
  match checkWants s c n u op sync ws with
  | (s, .error (cause, kind, va)) => accessFails s c n cause kind va
  | (s, .ok ps) => launchAcc s c n len op sync scope ord dest ps

end Sys2Proof.Machine
end

