-- ==== Sys2Proof/Machine/Memory.lean ====
section
/-! DEFINITION. Loads, stores, fences and atomics (chapter 12), the steps that perform their pieces on the own package (R60, R68,
R122), and the reply that completes them (R224). -/

namespace Sys2Proof.Machine

/-! ### Shared forms -/

/-- A memory instruction of a strand: guard, wait for the registers it reads and writes, then its checks and effect (R222). -/
def memOp (g : Fin 8) (reads writes : List Nat) (s : State) (k : Nat → Nat → State → State) : Result :=
  onStrand s fun c n s => guarded g 4 s fun s =>
    if s.waitsFor writes then .next s else needing reads s fun s => .next (k c n s)

/-- The address of a format's base register and scaled offset (R202, R207, R221). -/
def formAddr {n : Nat} (s : State) (a : Nat) (off : BitVec n) (scale : Nat) : Nat :=
  effAddr (s.w a) ((s.imm off).toInt * scale)

/-- A footing core's access to its data memory: byte offsets, checked for alignment and then for range (R47, R48). -/
def dataAccess (s : State) (u ea n : Nat) (k : State → State) : State :=
  if ea % n ≠ 0 then s.footFault u 0x06 else if 0x800 < ea + n then s.footFault u 0x08 else k s

/-- A load of n bytes into w(d) from an address (R225; on a footing core R47). -/
def loadForm (g : Fin 8) (len n : Nat) (signed : Bool) (d a : Nat) (ea : State → Nat) (s : State) : Result :=
  match s.cur with
  | .none => .fault .noProcessor
  | .unit u =>
    .next (dataAccess s u (ea s) n fun s =>
      (s.setW d (loadValue n signed (Memory.readN (s.unit u).data (ea s) n))).advance len)
  | .strand _ _ => memOp g [a] [d] s fun c m s =>
      issue s c m len .load .load false .strand .none (.w d n signed) [⟨ea s, n, 0, 0, 0⟩]

/-- A store of the low n bytes of w(d) to an address (R225; on a footing core R47). -/
def storeForm (g : Fin 8) (len n : Nat) (d a : Nat) (ea : State → Nat) (s : State) : Result :=
  match s.cur with
  | .none => .fault .noProcessor
  | .unit u =>
    .next (dataAccess s u (ea s) n fun s =>
      (s.modUnit u (fun t => { t with data := Memory.writeN t.data (ea s) n (s.w d).toNat })).advance len)
  | .strand _ _ => memOp g [a, d] [] s fun c m s =>
      issue s c m len .store .store false .strand .none .none [⟨ea s, n, (s.w d).toNat % 2 ^ (8 * n), 0, 0⟩]

/-- The bytes of a size code (R225). -/
def sizeBytes (sz : Nat) : Nat := 2 ^ sz

/-! ### Loads and stores (R225–R227) -/

/-- LD (R225). -/
def execLd (g : Fin 8) (o : BitVec 10) (z : Fin 4) (d a : Fin 32) (s : State) : Result :=
  loadForm g 4 (sizeBytes z) true d a (fun s => formAddr s a o (sizeBytes z)) s
/-- LDN (R225). -/
def execLdn (g : Fin 8) (o : BitVec 10) (z : Fin 3) (d a : Fin 32) (s : State) : Result :=
  match s.cur with
  | .unit u => .next (s.footFault u 0x01)
  | _ => loadForm g 4 (sizeBytes z) false d a (fun s => formAddr s a o (sizeBytes z)) s
/-- ST (R225). -/
def execSt (g : Fin 8) (o : BitVec 10) (z : Fin 4) (d a : Fin 32) (s : State) : Result :=
  storeForm g 4 (sizeBytes z) d a (fun s => formAddr s a o (sizeBytes z)) s
/-- LDP: 16 bytes as one single-copy-atomic access (R226). -/
def execLdp (g : Fin 8) (o : BitVec 10) (d a : Fin 32) (s : State) : Result :=
  memOp g [a] [d, d.val + 1] s fun c m s =>
    issue s c m 4 .load .load false .strand .none (.pair d) [⟨formAddr s a o 8, 16, 0, 0, 0⟩]
/-- STP (R226). -/
def execStp (g : Fin 8) (o : BitVec 10) (d a : Fin 32) (s : State) : Result :=
  memOp g [a, d, d.val + 1] [] s fun c m s =>
    issue s c m 4 .store .store false .strand .none .none
      [⟨formAddr s a o 8, 16, (s.w d).toNat + 2 ^ 64 * (s.w (d.val + 1)).toNat, 0, 0⟩]
/-- LDA: a load that is an acquire at its scope (R227). -/
def execLda (g : Fin 8) (sc : Scope) (z : Fin 4) (d a : Fin 32) (s : State) : Result :=
  memOp g [a] [d] s fun c m s =>
    issue s c m 4 .load .load true sc .acquire (.w d (sizeBytes z) false) [⟨effAddr (s.w a) 0, sizeBytes z, 0, 0, 0⟩]
/-- STL: a store that is a release at its scope (R227). -/
def execStl (g : Fin 8) (sc : Scope) (z : Fin 4) (a b : Fin 32) (s : State) : Result :=
  memOp g [a, b] [] s fun c m s =>
    issue s c m 4 .store .store true sc .release .none
      [⟨effAddr (s.w a) 0, sizeBytes z, (s.w b).toNat % 2 ^ (8 * sizeBytes z), 0, 0⟩]
/-- A hint for a line on another package whose page carries RC fills the remote partition, where the home's port admits the read (R227). -/
def prefetchRemote (s : State) (c pa : Nat) : State :=
  let g := corePkg c
  let dom := (s.core c).domain
  if (s.rline g (pa / 64)).isSome || s.cannotReach g (paPkg pa) 2 || !portAdmits s c dom g (pa / 64 * 64) 64 false then s
  else (fillRemote s g dom (pa / 64)).1
/-- PFM: checked as a load, then no visible effect; it may bring a local line without FO into the L2, or a line of another package into
the remote partition (R60, R227). -/
def execPfm (g : Fin 8) (a : Fin 32) (s : State) : Result :=
  memOp g [a] [] s fun c n s =>
    match checkWants s c n .load .load false [⟨effAddr (s.w a) 0, 1, 0, 0, 0⟩] with
    | (s, .error (cause, kind, va)) => accessFails s c n cause kind va
    | (s, .ok ps) =>
      let s := ps.foldl (fun s p => if p.place = .l2 then touchLine s (s.core c).domain p.pa 64 false
        else if p.place = .rpart then prefetchRemote s c p.pa else s) s
      s.advance 4
/-- ZERO: a store of 64 zero bytes, which clears the line's scope record (R227, R343). -/
def execZero (g : Fin 8) (a : Fin 32) (s : State) : Result :=
  memOp g [a] [] s fun c n s =>
    issue s c n 4 .store .store false .strand .none .none [⟨effAddr (s.w a) 0, 64, 0, 1, 0⟩]

/-! ### Fences (R228, R229) -/

/-- Loads and atomics that the strand has issued and that have not completed. -/
def loadsOutstanding (s : State) (c n : Nat) : Bool := (inFlight s c n).any (fun a => decide (a.op ≠ .store))

/-- FENCE. Mortar instructions have completed before the fence is reached, since they hold the strand (R231); a release waits for the
strand's matrix commands (R283). -/
def execFence (g : Fin 8) (o : Order) (sc : Scope) (s : State) : Result :=
  onStrand s fun c n s => guarded g 4 s fun s =>
    if o.acq && loadsOutstanding s c n then .next s
    else if o.rel && (commandsBefore s c (s.strand c n).act s.fresh).any (·.accesses) then .next s
    else
      let s := if o.rel then s.modStrand c n (fun t => { t with relMark := s.fresh, relSys := t.relSys || decide (sc = .system) }) else s
      let s := if o.acq && decide (sc = .system) then s.invalidateRemote (corePkg c) else s
      .next (s.advance 4)

/-- A command of the core's matrix queue accesses a byte that lies on another package. -/
def MCmd.isRemote (s : State) (c : Nat) (m : MCmd) : Bool :=
  (m.spans c).any (fun r => (physSpans s c 258 r.1 r.2).any (fun q => decide (paPkg q.1 ≠ corePkg c ∧ q.1 < 2 ^ 53)))
/-- Everything that the strand has issued towards another package has completed or failed: its accesses, those of its queued matrix
commands, its mortar requests, and its messages, for which the allowance has returned (R229, step 1; R283). A message that went by the
reserved reply has completed when its target has accepted it. -/
def remoteDone (s : State) (c n : Nat) : Bool :=
  let far (line : Nat) : Bool := decide (paPkg line ≠ corePkg c)
  s.accs.all (fun a => !(decide (a.core = c ∧ a.strand = n) && a.isRemote)) &&
    s.mreqs.all (fun r => !(decide (r.iss = .strand c n) && far r.line)) &&
    s.mreps.all (fun r => !(decide (r.iss = .strand c n) && far r.line)) &&
    s.flits.all (fun f => !(decide (f.owner = some (.strand c n)) && f.far)) &&
    s.rets.all (fun r => !decide (r.core = c ∧ r.strand = n ∧ r.kind ≠ 2 ∧ r.kind ≠ 3 ∧ r.peer ≠ corePkg c)) &&
    (commandsBefore s c (s.strand c n).act s.fresh).all (fun m => !m.isRemote s c)
/-- The sticky per-peer bits as 2,048 bytes (R229, step 2). -/
def stickyImage (l : List Nat) : Nat := l.foldl (fun x p => x ||| 2 ^ p) 0

/-- FENCEP. The count is written when the stores have retired: at once, or with the reply where one of them goes to a scratchpad, which may
still refuse it and so leave the bits as they were (R229). -/
def execFencep (g : Fin 8) (d a : Fin 32) (s : State) : Result :=
  memOp g [a] [d] s fun c n s =>
    if !remoteDone s c n then s
    else
      let bitsSet := (s.strand c n).sticky
      let x := stickyImage bitsSet
      let ea := effAddr (s.w a) 0
      let ws := (List.range 32).map (fun i => (⟨(ea + 64 * i) % 2 ^ 56, 64, x / 2 ^ (512 * i) % 2 ^ 512, 0, i⟩ : Want))
      match checkWants s c n .store .store false ws with
      | (s, .error (cause, kind, va)) => accessFails s c n cause kind va
      | (s, .ok ps) =>
        let s := s.modStrand c n (fun t => { t with sticky := [] })
        if ps.any (fun p => decide (p.place = .pad)) then
          launchAcc s c n 4 .store false .strand .none (.fencep d bitsSet) ps
        else launchAcc (s.setW d (word bitsSet.length)) c n 4 .store false .strand .none .none ps

/-! ### Atomics (R230) -/

/-- An atomic of a handler number of R380 on n bytes; ATCAS also reads w(d). -/
def atomicForm (g : Fin 8) (h n : Nat) (o : Order) (sc : Scope) (d a b : Nat) (s : State) : Result :=
  memOp g (if h = 11 then [a, b, d] else [a, b]) [d] s fun c m s =>
    issue s c m 4 .atomic (.atomic h) true sc o (.w d n false) [⟨effAddr (s.w a) 0, n, (s.w b).toNat, if h = 11 then (s.w d).toNat else 0, 0⟩]

/-- ATADD (R230). -/
def execAtadd (g : Fin 8) (o : Order) (sc : Scope) (d a b : Fin 32) (s : State) : Result := atomicForm g 2 8 o sc d a b s
/-- ATAND (R230). -/
def execAtand (g : Fin 8) (o : Order) (sc : Scope) (d a b : Fin 32) (s : State) : Result := atomicForm g 3 8 o sc d a b s
/-- ATOR (R230). -/
def execAtor (g : Fin 8) (o : Order) (sc : Scope) (d a b : Fin 32) (s : State) : Result := atomicForm g 4 8 o sc d a b s
/-- ATXOR (R230). -/
def execAtxor (g : Fin 8) (o : Order) (sc : Scope) (d a b : Fin 32) (s : State) : Result := atomicForm g 5 8 o sc d a b s
/-- ATMIN, signed (R230). -/
def execAtmin (g : Fin 8) (o : Order) (sc : Scope) (d a b : Fin 32) (s : State) : Result := atomicForm g 6 8 o sc d a b s
/-- ATMAX, signed (R230). -/
def execAtmax (g : Fin 8) (o : Order) (sc : Scope) (d a b : Fin 32) (s : State) : Result := atomicForm g 7 8 o sc d a b s
/-- ATMINN, unsigned (R230). -/
def execAtminn (g : Fin 8) (o : Order) (sc : Scope) (d a b : Fin 32) (s : State) : Result := atomicForm g 8 8 o sc d a b s
/-- ATMAXN, unsigned (R230). -/
def execAtmaxn (g : Fin 8) (o : Order) (sc : Scope) (d a b : Fin 32) (s : State) : Result := atomicForm g 9 8 o sc d a b s
/-- ATSWP (R230). -/
def execAtswp (g : Fin 8) (o : Order) (sc : Scope) (d a b : Fin 32) (s : State) : Result := atomicForm g 10 8 o sc d a b s
/-- ATCAS (R230). -/
def execAtcas (g : Fin 8) (o : Order) (sc : Scope) (d a b : Fin 32) (s : State) : Result := atomicForm g 11 8 o sc d a b s
/-- ATFADD.FP64 (R230). -/
def execAtfaddFp64 (g : Fin 8) (o : Order) (sc : Scope) (d a b : Fin 32) (s : State) : Result := atomicForm g 12 8 o sc d a b s
/-- ATFADD.FP32 (R230). -/
def execAtfaddFp32 (g : Fin 8) (o : Order) (sc : Scope) (d a b : Fin 32) (s : State) : Result := atomicForm g 13 4 o sc d a b s

/-! ### 16-bit forms (R208) -/

/-- LD.64 wp, [wq + 8 × i]. -/
def execLd64C (i : Fin 32) (p q : Fin 8) (s : State) : Result :=
  loadForm 0 2 8 true (shortReg p) (shortReg q) (fun s => effAddr (s.w (shortReg q)) (8 * i.val : Nat)) s
/-- ST.64 [wq + 8 × i], wp. -/
def execSt64C (i : Fin 32) (p q : Fin 8) (s : State) : Result :=
  storeForm 0 2 8 (shortReg p) (shortReg q) (fun s => effAddr (s.w (shortReg q)) (8 * i.val : Nat)) s
/-- LD.32 wp, [wq + 4 × i]. -/
def execLd32C (i : Fin 32) (p q : Fin 8) (s : State) : Result :=
  loadForm 0 2 4 true (shortReg p) (shortReg q) (fun s => effAddr (s.w (shortReg q)) (4 * i.val : Nat)) s
/-- ST.32 [wq + 4 × i], wp. -/
def execSt32C (i : Fin 32) (p q : Fin 8) (s : State) : Result :=
  storeForm 0 2 4 (shortReg p) (shortReg q) (fun s => effAddr (s.w (shortReg q)) (4 * i.val : Nat)) s

/-! ### Performing an access on the own package -/

/-- The bank mask of a command: w(b)[31:16] of FSTART and FCMD (R294); FLOADO names no bank. -/
def UCmd.banks (c : UCmd) : Nat := match c.op with | .floado => 0 | _ => fieldOf c.b 31 16
/-- Every command of the channel that arrived before a demand access to a bank and names the bank has completed (R54). -/
def bankFree (s : State) (u bank seq : Nat) : Bool :=
  let earlier (c : UCmd) : Bool := decide (c.seq < seq) && bit c.banks bank
  ((s.unit u).cmd.map earlier).getD false == false && !(s.unit u).q.any earlier
/-- The pseudo-channel controller may perform an access to HBM that it serves now: the commands on the bank that arrived before it are done
(R54, R76). A channel that sleeps wakes for it (R65). -/
def bankOpen (s : State) (fo : Bool) (dom pa seq : Nat) : Bool :=
  !(isHbm pa && servedAsFo s fo dom pa) || bankFree s (unitOfPa pa) (bankOfPa pa) seq
/-- The same for a piece of a strand's access. -/
def channelReady (s : State) (dom seq : Nat) (p : Piece) : Bool := bankOpen s p.fo dom p.pa seq
/-- The same for a plain access of a domain that is made now. -/
def foOpen (s : State) (dom : Nat) (p : Place53) : Bool := bankOpen s (attrFO p.attr) dom p.pa s.fresh

/-- A piece may be performed in a place: the access is not refused, the order of R335 admits it, whole-register transfers go in ascending
order (R280), and what another core's port may still refuse writes nothing elsewhere before (R32, R263, R276). -/
def pieceReady (s : State) (a : Acc) (i : Nat) (p : Piece) : Bool :=
  !p.done && a.refused.isNone && mayPerform s a p &&
    (match a.dest with
      | .regs _ _ _ _ _ => (a.pieces.take i).all (·.done)
      | _ => decide (a.op = .load) || a.atPorts.contains p || a.atPorts.all (·.done))

/-- What a piece met: its data, or the cause of the refusal with the address of the first byte that failed (R222). -/
def setPiece (s : State) (id i : Nat) (p : Piece) (r : Except (Nat × Nat) Nat) : State :=
  match s.acc? id with
  | none => s
  | some a =>
    match r with
    | .ok x => s.setAcc { a with pieces := a.pieces.set i { p with got := x, done := true } }
    | .error (cause, va) => s.setAcc { a with refused := some (cause, 0, va) }

/-- One piece of an access performed at its home on the own package, where it may be: a SYSTEM release writes the remote partitions
back first (R73). -/
def performPiece (s : State) (place : Place) (id i : Nat) : State :=
  match s.acc? id with
  | none => s
  | some a =>
    match a.pieces[i]? with
    | none => s
    | some p =>
      if decide (p.place = place) && pieceReady s a i p && channelReady s a.dom a.seq p then
        let (s, r) := performAt (releaseFor s a) a p
        setPiece s id i p r
      else s

/-- The state after a store to a page with RC has entered the remote partition; none where that has no way for the line (R70, R71). -/
def Acc.intoPartition (a : Acc) (s : State) (p : Piece) : Option State :=
  if s.hasRemote (corePkg a.core) p.pa then
    s.addRline ((s.rlineOr (corePkg a.core) (p.pa / 64)).stored a.dom (p.pa % 64) p.n p.data (decide (p.cmp = 1)) (some (a.core, a.strand, a.act)))
  else none
/-- A plain piece to a line of the remote partition: a store writes its bytes there; a load needs them valid there, and meets the errors of
its words (R71, R77, R78, R333). Where the set has no way for a new line, or the partition has none any longer, the home performs the store
(R70). -/
def performRpart (s : State) (id i : Nat) : State :=
  match s.acc? id with
  | none => s
  | some a =>
    match a.pieces[i]? with
    | none => s
    | some p =>
      if decide (p.place = .rpart) && pieceReady s a i p then
        let s := releaseFor s a
        let g := corePkg a.core
        let line := p.pa / 64
        let off := p.pa % 64
        match a.op with
        | .load =>
          let s := meetRemote s (s.rlineOr g line) off p.n
          let r := s.rlineOr g line
          if lineMask off p.n &&& r.valid ≠ lineMask off p.n then s
          else
            match r.poisonIn off p.n with
            | some k => setPiece (reportRemotePoison s a.core (p.va + k) p.pa) id i p (.error (0x1B, p.va + k))
            | none => setPiece s id i p (.ok (r.bytes off p.n))
        | _ =>
          match a.intoPartition s p with
          | some s => setPiece s id i p (.ok 0)
          | none => s
      else s
/-- L2_ACCESS: the home slice, or the remote partition, performs pieces lo to lo + n − 1 of access r in order (R68, R71). -/
def execL2Access (r lo n : Nat) (s : State) : Result :=
  .next ((List.range n).foldl (fun s i => performRpart (performPiece s .l2 r (lo + i)) r (lo + i)) s)
/-- FO_ACCESS: the pseudo-channel controller performs pieces of access r uncached (R54, R60). -/
def execFoAccess (r lo n : Nat) (s : State) : Result :=
  .next ((List.range n).foldl (fun s i => performPiece s .fo r (lo + i)) s)
/-- SCRATCHPAD_ACCESS: a scratchpad port performs pieces of access r after the checks of R26 (R122). -/
def execScratchpadAccess (r lo n : Nat) (s : State) : Result :=
  .next ((List.range n).foldl (fun s i => performPiece s .pad r (lo + i)) s)
/-- PREFETCH: the prefetcher brings a line of a package's own HBM into its home slice, within the 64 KiB frame of an access without FO on
which it has trained, and for that access's domain. It changes no value (R61, R69). -/
def execPrefetch (g pa : Nat) (s : State) : Result :=
  match (s.die (dieOfSlice (homeSlice pa))).trained.find? (fun t => decide (t.1 = pa / 65536)) with
  | none => .next s
  | some (_, dom) => whenever (isHbm pa && decide (paPkg pa = g)) s (fun s => useLine s dom (pa / 64 * 64) 0 false)

/-! ### Completion -/

/-- Registers of VSAVE or VLOAD that are transferred whole: 32 words each (R280). -/
def wholeRegs (ps : List Piece) : Nat := (ps.takeWhile (·.done)).length / 32

/-- A trap of the strand that a completed access stops: at the instruction's first prefix, with nothing retired (R364). -/
def trapStrand (s : State) (c n cause detail kind : Nat) (addr : Word) : State :=
  let t := s.strand c n
  let pc := t.pc - word (4 * t.imx.length)
  takeTrap s c n cause detail kind addr pc pc none

/-- The strand's part of a completed access: the registers are written and a held instruction retires, or it traps (R222, R224,
R280). -/
def completeAcc (s : State) (a : Acc) : State :=
  let c := a.core
  let n := a.strand
  let retire (s : State) : State :=
    s.modStrand c n (fun t => { t with pc := t.pc + word a.len, wait := .none, imx := [] })
  let s := if a.refused.isSome then undoAcc s a else s
  match a.refused, a.dest with
  | some (cause, _, va), .regs d first _ load _ =>
    trapStrand (partlyMoved s a d first (wholeRegs a.pieces) load) c n 0x1D cause 0 (word va)
  | some (cause, kind, va), _ => trapStrand s c n cause 0 kind (word va)
  | none, .regs d first count load (some (cause, kind, va)) =>
    trapStrand (partlyMoved s a d first (count - first) load) c n 0x1D cause kind (word va)
  | none, _ => (fun s => if a.blocking then retire s else s.modStrand c n (fun t => markBusy t a.dest false)) (writeDest s a)
/-- A load that has retired finds its word poisoned where it is performed: its strand traps with the address and the PC of the load once it
waits for nothing else. The access stays in flight with its registers, and is performed again when the strand resumes (R78, R225;
log 15). -/
def lateTrap (s : State) (a : Acc) (cause kind va : Nat) : State :=
  let t := s.strand a.core a.strand
  if t.mode = .running ∧ t.wait = .none ∧ !(s.core a.core).preempted then
    takeTrap s a.core a.strand cause 0 kind (word va) a.pc (t.pc - word (4 * t.imx.length)) none
  else s
/-- A piece fails at another package or on the way: it reads 0, and the strand's sticky bit for that package is set (R224, R383). -/
def losePiece (s : State) (a : Acc) (i : Nat) (p : Piece) : State :=
  setSticky (s.setAcc { a with pieces := a.pieces.set i { p with got := 0, done := true } }) a.core a.strand a.act (paPkg p.pa)
/-- The pieces of an access that were performed at another package and whose replies must come over a link that is down (R387). -/
def lostReplies (s : State) (a : Acc) : List Nat :=
  (List.range a.pieces.length).filter (fun i =>
    match a.pieces[i]? with
    | some p => decide (p.place = .remote) && s.linkDown (paPkg p.pa) (corePkg a.core)
    | none => false)
/-- The access with those pieces lost. -/
def loseReplies (s : State) (r : Nat) (l : List Nat) : State :=
  l.foldl (fun s i =>
    match s.acc? r with
    | some a => (match a.pieces[i]? with | some p => losePiece s a i p | none => s)
    | none => s) s

/-- The reply to a load or atomic that has left the core waits for its RSP ring; the own scratchpad gives its data without the network (R182,
R189). -/
def Acc.repliesHeld (a : Acc) (s : State) : Bool :=
  decide (a.op ≠ .store) && rspStopped s a.core && a.pieces.any (fun p => !decide (p.place = .pad ∧ (padHolder p.pa).1 = a.core))
/-- A piece of a foreman's access to its own ranges is performed there: a write that must wait for launches stays to be done (R24, R75). -/
def controlPiece (s : State) (id i : Nat) : State :=
  match s.acc? id with
  | none => s
  | some a =>
    match a.pieces[i]? with
    | none => s
    | some p =>
      if decide (p.place = .control) && pieceReady s a i p then
        let old := foremanReads s p.pa p.n
        let put (v : Nat) : State :=
          match foremanWrites s p.pa p.n v with
          | some s => setPiece s id i p (.ok old)
          | none => s
        match a.op with
        | .load => setPiece s id i p (.ok old)
        | .store => put p.data
        | .atomic h => match atomicNew h old p.data p.cmp with | some v => put v | none => setPiece s id i p (.ok old)
      else s
/-- The pieces of an access that go to the foreman's own ranges, in order. -/
def performControl (s : State) (id : Nat) : State :=
  match s.acc? id with
  | none => s
  | some a => (List.range a.pieces.length).foldl (fun s i => controlPiece s id i) s

/-- LOAD_REPLY: the reply to access r, or a store's acknowledgement, reaches the strand once every piece is performed or the access
is refused; a reply lost on a fenced link brings 0 (R224). A SYSTEM acquire has invalidated the package's clean remote bytes before it
completes (R72). The reply of an activation that is over changes nothing. A foreman's access to its own ranges is performed with its reply
(R24). -/
def execLoadReply (r : Nat) (s : State) : Result :=
  let s := performControl s r
  match s.acc? r with
  | none => .next s
  | some a =>
    let t := s.strand a.core a.strand
    let live := decide (t.act = a.act ∧ t.mode ≠ .free)
    if !a.performed && a.refused.isNone ∨ a.repliesHeld s then .next s
    else
      match live && !a.blocking, a.refused with
      | true, some (cause, kind, va) => .next (lateTrap s a cause kind va)
      | _, _ =>
        let s := loseReplies s r (lostReplies s a)
        let a := (s.acc? r).getD a
        let s := s.dropAcc r
        let s := if a.ord.acq && decide (a.scope = .system) && a.refused.isNone then s.invalidateRemote (corePkg a.core) else s
        if live then .next (completeAcc s a) else .next s

end Sys2Proof.Machine
end

