-- ==== Sys2Proof/Machine/MortarInstr.lean ====
section
/-! DEFINITION. The mortar instructions (R231–R234): what a strand issues to an object's home, and what the reply does to the strand
(R99, R232). -/

namespace Sys2Proof.Machine

/-- What an instruction sends besides its code: the argument word, the data, and the operand that MINIT has translated. -/
structure MortarArg where
  arg : Word
  data : Nat
  basePa : Nat
  basePage : Nat
  baseAttr : BitVec 9
  deriving DecidableEq, Repr

/-- An argument word alone. -/
def wordArg (x : Word) : MortarArg := ⟨x, 0, 0, 0, 0⟩

/-- Sends a mortar request of the strand and holds the strand until its reply (R84, R231). Accesses that a release, or an earlier
release fence, orders before it are those numbered below its mark (R85, R228); the write-back of a fence is made when the request is
performed, and stays to be made where it never is. -/
def sendMortar (s : State) (c n op : Nat) (o : Order) (sc : Scope) (pa ea d v : Nat) (x : MortarArg) : State :=
  let t := s.strand c n
  let r : MReq :=
    { id := s.fresh, iss := .strand c n, ident := s.identOf c n, op := op, scope := sc, ord := o, line := pa, dom := (s.core c).domain,
      arg := x.arg, data := x.data, basePa := x.basePa, basePage := x.basePage, baseAttr := x.baseAttr,
      mark := if o.rel then s.fresh else t.relMark, relSys := t.relSys || (o.rel && decide (sc = .system)), admitted := false,
      from_ := corePkg c, launch := (s.core c).launch }
  ({ s with mreqs := s.mreqs ++ [r], fresh := s.fresh + 1 }).modStrand c n
    (fun t => { t with wait := .mortar r.id d v ea })

/-- A mortar instruction: guard, waits, the checks of R222, and the request (R231). The operand may end in a trap of its own
(R233). -/
def mortarForm (g : Fin 8) (op : Nat) (o : Order) (sc : Scope) (d v a : Nat) (reads writes : List Nat) (vecs : BitVec 16)
    (arg : Nat → Nat → State → State × Except (Nat × Nat × Nat) MortarArg) (s : State) : Result :=
  memOp g (a :: reads) writes s fun c n s =>
    if (s.strand c n).busyV &&& vecs ≠ 0 then s
    else
      let ea := effAddr (s.w a) 0
      if ea % 64 ≠ 0 then s.trap 0x06 0 (word ea)
      else
        match translateFor s c (s.core c).domain ea .mortar with
        | (s, .error r) => s.trapWith r.cause 0 r.kind (word ea)
        | (s, .ok p) =>
          if (s.strand c n).audit then s.trap 0x10 0 (word ea)
          else
            match arg c n s with
            | (s, .error (cause, kind, va)) => s.trapWith cause 0 kind (word va)
            | (s, .ok x) => sendMortar s c n op o sc p.pa ea d v x

/-- An operand that is a register or nothing. -/
def plainArg (f : State → Word) (_ _ : Nat) (s : State) : State × Except (Nat × Nat × Nat) MortarArg := (s, .ok (wordArg (f s)))
/-- The low 32 bits of w(b), for a count, phase or index (R231). -/
def low32 (b : Nat) (s : State) : Word := word ((s.w b).toNat % 2 ^ 32)
/-- A form with a w pair for status and result. -/
def pairForm (g : Fin 8) (op : Nat) (o : Order) (sc : Scope) (d a : Nat) (reads : List Nat) (f : State → Word) (s : State) : Result :=
  mortarForm g op o sc d 0 a reads [d, d + 1] 0 (plainArg f) s
/-- The mask of one vector register. -/
def vecBit (r : Nat) : BitVec 16 := BitVec.ofNat 16 (2 ^ r)

/-- The operand of MINIT (R233): the parameter image, and for a queue or condition the translation of its address. -/
def initArg (b : Nat) (c _n : Nat) (s : State) : State × Except (Nat × Nat × Nat) MortarArg :=
  let x := (s.v b).toNat % 2 ^ 512
  let ty := x % 256
  if ty = 4 ∨ ty = 5 then
    let va := x / 2 ^ 64 % 2 ^ 56
    match translate s c (s.core c).domain va with
    | (s, .error r) => (s, .error (r.cause, r.kind, va))
    | (s, .ok p) => (s, .ok ⟨0, x, p.pa, 2 ^ p.lg, p.attr⟩)
  else (s, .ok ⟨0, x, 0, 0, 0⟩)
/-- The operand of MQUE.ENQ and MQUE.TENQ: the length from w(d) and up to 32 bytes of v(b) (R231). -/
def enqArg (d b : Nat) (_ _ : Nat) (s : State) : State × Except (Nat × Nat × Nat) MortarArg :=
  (s, .ok ⟨s.w d, (s.v b).toNat % 2 ^ 256, 0, 0, 0⟩)

/-! ### The instructions (R231, Table 1) -/

/-- MINIT (R90, R233). -/
def execMinit (g : Fin 8) (o : Order) (sc : Scope) (d a : Fin 32) (b : Fin 16) (s : State) : Result :=
  mortarForm g 0x00 o sc d 0 a [] [d, d.val + 1] (vecBit b) (initArg b) s
/-- MREAD (R82, R233). -/
def execMread (g : Fin 8) (o : Order) (sc : Scope) (d : Fin 16) (a : Fin 32) (s : State) : Result :=
  mortarForm g 0x01 o sc 0 d a [] [] (vecBit d) (plainArg (fun _ => 0)) s
/-- MCANCEL (R100, R234). -/
def execMcancel (g : Fin 8) (o : Order) (sc : Scope) (d a b : Fin 32) (s : State) : Result :=
  pairForm g 0x02 o sc d a [b] (fun s => s.w b) s
/-- MCTR.ADD (R91). -/
def execMctrAdd (g : Fin 8) (o : Order) (sc : Scope) (d a b : Fin 32) (s : State) : Result :=
  pairForm g 0x10 o sc d a [b] (fun s => s.w b) s
/-- MCTR.FADD (R91). -/
def execMctrFadd (g : Fin 8) (o : Order) (sc : Scope) (d a b : Fin 32) (s : State) : Result :=
  pairForm g 0x11 o sc d a [b] (fun s => s.w b) s
/-- MCTR.WAIT (R91). -/
def execMctrWait (g : Fin 8) (o : Order) (sc : Scope) (d a b : Fin 32) (s : State) : Result :=
  pairForm g 0x12 o sc d a [b] (fun s => s.w b) s
/-- MCTR.CHUNK (R91): status, start and length. -/
def execMctrChunk (g : Fin 8) (o : Order) (sc : Scope) (d a : Fin 32) (s : State) : Result :=
  mortarForm g 0x13 o sc d 0 a [] [d, d.val + 1, d.val + 2] 0 (plainArg (fun _ => 0)) s
/-- MBAR.ARRIVE (R92). -/
def execMbarArrive (g : Fin 8) (o : Order) (sc : Scope) (d a b : Fin 32) (s : State) : Result :=
  pairForm g 0x20 o sc d a [b] (low32 b) s
/-- MBAR.AWAIT (R92). -/
def execMbarAwait (g : Fin 8) (o : Order) (sc : Scope) (d a b : Fin 32) (s : State) : Result :=
  pairForm g 0x21 o sc d a [b] (low32 b) s
/-- MBAR.WAITP (R92). -/
def execMbarWaitp (g : Fin 8) (o : Order) (sc : Scope) (d a b : Fin 32) (s : State) : Result :=
  pairForm g 0x22 o sc d a [b] (low32 b) s
/-- MLOCK.ACQ (R93). -/
def execMlockAcq (g : Fin 8) (o : Order) (sc : Scope) (d a : Fin 32) (s : State) : Result :=
  pairForm g 0x30 o sc d a [] (fun _ => 0) s
/-- MLOCK.TRY (R93). -/
def execMlockTry (g : Fin 8) (o : Order) (sc : Scope) (d a : Fin 32) (s : State) : Result :=
  pairForm g 0x31 o sc d a [] (fun _ => 0) s
/-- MLOCK.REL (R93). -/
def execMlockRel (g : Fin 8) (o : Order) (sc : Scope) (d a : Fin 32) (s : State) : Result :=
  pairForm g 0x32 o sc d a [] (fun _ => 0) s
/-- MQUE.ENQ (R94). -/
def execMqueEnq (g : Fin 8) (o : Order) (sc : Scope) (d a : Fin 32) (b : Fin 16) (s : State) : Result :=
  mortarForm g 0x40 o sc d 0 a [d] [d, d.val + 1] (vecBit b) (enqArg d b) s
/-- MQUE.TENQ (R94). -/
def execMqueTenq (g : Fin 8) (o : Order) (sc : Scope) (d a : Fin 32) (b : Fin 16) (s : State) : Result :=
  mortarForm g 0x41 o sc d 0 a [d] [d, d.val + 1] (vecBit b) (enqArg d b) s
/-- MQUE.ENQR (R94). -/
def execMqueEnqr (g : Fin 8) (o : Order) (sc : Scope) (d a : Fin 32) (s : State) : Result :=
  pairForm g 0x42 o sc d a [] (fun _ => 0) s
/-- MQUE.TENQR (R94). -/
def execMqueTenqr (g : Fin 8) (o : Order) (sc : Scope) (d a : Fin 32) (s : State) : Result :=
  pairForm g 0x43 o sc d a [] (fun _ => 0) s
/-- MQUE.COMMIT (R94). -/
def execMqueCommit (g : Fin 8) (o : Order) (sc : Scope) (d a b : Fin 32) (s : State) : Result :=
  pairForm g 0x44 o sc d a [b] (low32 b) s
/-- MQUE.DEQ (R94). -/
def execMqueDeq (g : Fin 8) (o : Order) (sc : Scope) (d a : Fin 32) (b : Fin 16) (s : State) : Result :=
  mortarForm g 0x45 o sc d b a [] [d, d.val + 1] (vecBit b) (plainArg (fun _ => 0)) s
/-- MQUE.TDEQ (R94). -/
def execMqueTdeq (g : Fin 8) (o : Order) (sc : Scope) (d a : Fin 32) (b : Fin 16) (s : State) : Result :=
  mortarForm g 0x46 o sc d b a [] [d, d.val + 1] (vecBit b) (plainArg (fun _ => 0)) s
/-- MQUE.DEQR (R94). -/
def execMqueDeqr (g : Fin 8) (o : Order) (sc : Scope) (d a : Fin 32) (s : State) : Result :=
  pairForm g 0x47 o sc d a [] (fun _ => 0) s
/-- MQUE.TDEQR (R94). -/
def execMqueTdeqr (g : Fin 8) (o : Order) (sc : Scope) (d a : Fin 32) (s : State) : Result :=
  pairForm g 0x48 o sc d a [] (fun _ => 0) s
/-- MQUE.FREE (R94). -/
def execMqueFree (g : Fin 8) (o : Order) (sc : Scope) (d a b : Fin 32) (s : State) : Result :=
  pairForm g 0x49 o sc d a [b] (low32 b) s
/-- MCOND.WAIT (R95). -/
def execMcondWait (g : Fin 8) (o : Order) (sc : Scope) (d a : Fin 32) (s : State) : Result :=
  pairForm g 0x50 o sc d a [] (fun _ => 0) s
/-- MCOND.SIG (R95). -/
def execMcondSig (g : Fin 8) (o : Order) (sc : Scope) (d a : Fin 32) (s : State) : Result :=
  pairForm g 0x51 o sc d a [] (fun _ => 0) s
/-- MCOND.BCAST (R95). -/
def execMcondBcast (g : Fin 8) (o : Order) (sc : Scope) (d a : Fin 32) (s : State) : Result :=
  pairForm g 0x52 o sc d a [] (fun _ => 0) s

/-! ### The reply -/

/-- The strand that a reply completes. -/
def Issuer.strandOf : Issuer → Option (Nat × Nat)
  | .strand c n => some (c, n)
  | .condAcq _ c n => some (c, n)
  | _ => none

/-- Writes status and result where the operation's form says (R231, R233). -/
def writeMortar (s : State) (c n d v : Nat) (p : MRep) : State :=
  let w (r : Nat) (x : Word) (s : State) : State := s.setWAt c n r x
  if p.op = 0x01 then
    s.modStrand c n (fun t => t.setVec v (BitVec.ofNat 2048 ((if p.status = 0 then p.bytes else 0) + p.status * 2 ^ 512)))
  else
    let s := w (d + 1) p.r1 (w d (word p.status) s)
    let s := if p.op = 0x13 then w (d + 2) p.r2 s else s
    if (p.op = 0x45 ∨ p.op = 0x46) ∧ p.status = 0 then s.modStrand c n (fun t => t.setVec v (BitVec.ofNat 2048 p.bytes)) else s

/-- A reply or wake-up reaches its strand and completes the instruction (R99, R232): it traps with the reply's cause, or the result
is written and the instruction retires. A lost or refused reply sets the sticky bit; an acquire at SYSTEM scope has invalidated the
clean remote bytes (R72, R85). A reply to a strand that no longer waits for it changes nothing. -/
def completeMortar (s : State) (p : MRep) : State :=
  match p.iss.strandOf with
  | none => s
  | some (c, n) =>
    let t := s.strand c n
    match t.wait with
    | .mortar id d v ea =>
      if id ≠ p.id ∨ t.mode = .free then s
      else
        let lost := paPkg p.line ≠ corePkg c ∧ s.linkDown (paPkg p.line) (corePkg c)
        let p := if lost then { p with status := 0x0A, r1 := 0, r2 := 0, bytes := 0, cause := 0, peer := paPkg p.line } else p
        let s := if p.status = 0x09 ∨ p.status = 0x0A ∨ p.status = 0x0B then setSticky s c n t.act p.peer else s
        if p.cause ≠ 0 then trapStrand s c n p.cause 0 0 (word ea)
        else
          let acq := decide (p.scope = .system) && decide (p.status ≠ 0x04) && (p.wake || p.ord.acq)
          let s := if acq then s.invalidateRemote (corePkg c) else s
          (writeMortar s c n d v p).modStrand c n (fun t => { t with pc := t.pc + 4, wait := .none, imx := [] })
    | _ => s

/-- A reply in flight by number. -/
def State.rep? (s : State) (r : Nat) : Option MRep := s.mreps.find? (fun p => decide (p.id = r ∧ p.iss.strandOf.isSome))
/-- Removes a reply. -/
def State.dropRep (s : State) (p : MRep) : State := { s with mreps := s.mreps.filter (fun x => decide (x ≠ p)) }

/-- The core runs the launch whose strand a reply answers; while it is saved for another owner, the reply waits (R99, R370; log 77). -/
def MRep.home (s : State) (p : MRep) (c : Nat) : Bool := decide ((s.core c).launch = p.launch)
/-- MORTAR_REPLY: the reply to a request that did not park reaches its strand (R232). A reply to a pre-empted core waits until the core
has resumed, as a wake-up does, and while the core's RSP ring is full it waits in grout (R99, R189, R368). -/
def execMortarReply (r : Nat) (s : State) : Result :=
  match s.rep? r with
  | none => .next s
  | some p =>
    match p.iss.strandOf with
    | none => .next s
    | some (c, _) => whenever (!p.wake && !(s.core c).preempted && p.home s c && !rspStopped s c) s (fun s => completeMortar (s.dropRep p) p)

/-- A wake-up has been diverted to its core's RSP spill ring (R99). -/
def wakeDiverted (s : State) (c r : Nat) : Bool := ((s.core c).ring 1).ents.any (fun e => decide (e.kind = .wake r))

/-- WAKE_UP: the wake-up of a parked request completes its instruction; one that finds its core pre-empted is diverted to the core's
spill ring, and one for a full ring waits in grout (R99, R189). -/
def execWakeUp (r : Nat) (s : State) : Result :=
  match s.rep? r with
  | none => .next s
  | some p =>
    match p.iss.strandOf with
    | none => .next s
    | some (c, _) =>
      if !p.wake || wakeDiverted s c r || !p.home s c then .next s
      else if (s.core c).preempted then
        match accept s c 1 Msg.zero 0 (.wake r) 0 0 with
        | (s, _) => .next s
      else if rspStopped s c then .next s
      else .next (completeMortar (s.dropRep p) p)

end Sys2Proof.Machine
end

