-- ==== Sys2Proof/Machine/Mortar.lean ====
section
/-! DEFINITION. Mortar objects at their home slice (R81–R102): layouts, operations, wait lists and wake-ups. -/

namespace Sys2Proof.Machine

/-! ### Objects and wait lists -/

/-- A mortar object as the 64 bytes of its line (R86). -/
abbrev MObj := Nat
/-- TYPE. -/
def objType (o : MObj) : Nat := hodField o 0 1
/-- The parked requests of a line, oldest first. -/
def waitsOn (s : State) (line : Nat) : List WaitEnt := (s.slice (homeSlice line)).waits.filter (fun e => decide (e.req.line = line))
/-- The common header for a list of parked requests: FLAGS, NPARK, WHEAD and WTAIL (R86, Table 1). -/
def withWaits (o : MObj) (l : List WaitEnt) : MObj :=
  let flags := (if l.isEmpty then 0 else 1) + (if l.any (fun e => decide (0x200 ≤ e.idx)) then 2 else 0)
  let head := match l.head? with | some e => e.idx | none => 0xFFFF
  let tail := match l.getLast? with | some e => e.idx | none => 0xFFFF
  setHodField (setHodField (setHodField (setHodField o 1 1 flags) 2 2 l.length) 4 2 head) 6 2 tail
/-- The object on a line. -/
def objAt (s : State) (line : Nat) : MObj := s.read line 64
/-- A wait entry as 64 bytes (R98, Table 10). -/
def waitBytes (e : WaitEnt) (next : Nat) : List Byte :=
  let q := e.req
  let arg := if [0x21, 0x22, 0x30].contains q.op then e.ticket else q.arg.toNat
  bytesLE (q.line + 2 ^ 64 * q.ident.toNat + 2 ^ 144 * next + 2 ^ 160 * q.op + 2 ^ 168 * (q.scope.code * 4 + q.ord.code) + 2 ^ 192 * arg +
    2 ^ 256 * (q.data % 2 ^ 256)) 64
/-- The address of an entry of a slice's overflow area: 2,048 entries of 64 bytes that the foreman has placed at the top of the slice's die
(R98; log 73). -/
def overflowEntry (k idx : Nat) : Nat :=
  paOf (k / 128) ((k % 128 / 64 + 1) * 0x3000000000 - 0x800000 + k % 64 * 0x20000 + (idx - 0x200) * 64)
/-- Writes the entries of an object's list that lie in the overflow area, each linked to the next (R97, R98). -/
def putOverflow (s : State) (dom line : Nat) : List WaitEnt → State
  | [] => s
  | e :: rest =>
    let pa := overflowEntry (homeSlice line) e.idx
    let l := waitBytes e ((rest.head?.map (·.idx)).getD 0xFFFF)
    putOverflow (if e.idx < 0x200 ∨ s.readBytes pa 64 = l then s else (touchLine s dom pa 64 true).writeBytes pa l) dom line rest
/-- Writes an object with the header that its wait list gives, and the list's entries in the overflow area (R81, R86, R98). A free object is
all zero. -/
def putObj (s : State) (dom line : Nat) (o : MObj) : State :=
  let s := putOverflow (touchLine s dom line 64 true) dom line (waitsOn s line)
  s.write line 64 (if objType o = 0 then o else withWaits o (waitsOn s line))
/-- The strand that a request is charged to (R95, R328, R337). -/
def MReq.chargedTo (r : MReq) : Nat × Nat :=
  match r.iss with
  | .strand c n | .copy c n | .condAcq _ c n => (c, n)
  | .fred _ c n => (c, n)
  | .condRel _ _ => (coreOfIdent r.ident, fieldOf r.ident 35 34)
/-- The party that a request is charged to. -/
def MReq.party (r : MReq) : Party := partyOf r.chargedTo.1 r.chargedTo.2

/-- The lowest free wait entry: on die while fewer than the cap are in use, else in the overflow area (R97, R98). -/
def freeWait (s : State) (line : Nat) : Option Nat :=
  let used := (s.slice (homeSlice line)).waits.map (·.idx)
  let die := (used.filter (fun i => decide (i < 0x200))).length
  match (if die < (s.pkg (paPkg line)).cap then (List.range 0x200).find? (fun i => !used.contains i) else none) with
  | some i => some i
  | none => (List.range 0x800).map (· + 0x200) |>.find? (fun i => !used.contains i)
/-- Sends a reply. -/
def reply (s : State) (r : MReq) (op status : Nat) (r1 r2 : Word) (bytes cause : Nat) (wake : Bool) : State :=
  { s with mreps := s.mreps ++ [⟨r.id, r.iss, op, status, r1, r2, bytes, cause, wake, r.scope, r.ord, r.line, paPkg r.line, r.launch⟩] }
/-- The code that the issuer's instruction has: a moved waiter's acquire completes its COND.WAIT (R95). -/
def MReq.shown (r : MReq) : Nat := match r.iss with | .condAcq _ _ _ => 0x50 | _ => r.op
/-- Takes a parked request off its list, frees its entry and completes it (R97, R99). -/
def wake (s : State) (e : WaitEnt) (status : Nat) (r1 : Word) (bytes cause : Nat) : State :=
  let s := s.modSlice (homeSlice e.req.line) (fun k => { k with waits := k.waits.filter (fun x => decide (x ≠ e)) })
  reply s e.req e.req.shown status r1 0 bytes cause true

/-! ### Bounded queues (R87, R94) -/

/-- A field of a queue object. -/
def queHead (o : MObj) : Nat := hodField o 14 4
/-- CLAIM. -/
def queClaim (o : MObj) : Nat := hodField o 18 4
/-- TAIL. -/
def queTail (o : MObj) : Nat := hodField o 22 4
/-- RESV. -/
def queResv (o : MObj) : Nat := hodField o 26 4
/-- N. -/
def queSlots (o : MObj) : Nat := 2 ^ hodField o 30 1
/-- S. -/
def queSize (o : MObj) : Nat := 2 ^ hodField o 31 1
/-- A difference of indices, modulo 2^32 (R87). -/
def idxSub (a b : Nat) : Nat := (a + 2 ^ 32 - b) % 2 ^ 32
/-- The address of the slot of an index (R87), on the object's package. -/
def slotAddr (line : Nat) (o : MObj) (i : Nat) : Nat := paOf (paPkg line) (hodField o 8 5 % 2 ^ 39) + i % queSlots o * queSize o
/-- Room for an enqueue. -/
def hasRoom (o : MObj) : Bool := decide (idxSub (queResv o) (queHead o) < queSlots o ∧ idxSub (queResv o) (queTail o) < 64)
/-- Work for a dequeue. -/
def hasWork (o : MObj) : Bool := decide (queClaim o ≠ queTail o ∧ idxSub (queClaim o) (queHead o) < 64)
/-- Shifts a mask down past its set low bits and advances an index with it. -/
def passRuns : Nat → Nat → Nat → Nat × Nat
  | 0, m, i => (m, i)
  | fuel + 1, m, i => if bit m 0 then passRuns fuel (m / 2) ((i + 1) % 2 ^ 32) else (m, i)
/-- commit(i). -/
def queCommitted (o : MObj) (i : Nat) : MObj :=
  let (m, t) := passRuns 64 (hodField o 32 8 ||| 2 ^ idxSub i (queTail o)) (queTail o)
  setHodField (setHodField o 32 8 m) 22 4 t
/-- free(i). -/
def queFreed (o : MObj) (i : Nat) : MObj :=
  let (m, h) := passRuns 64 (hodField o 40 8 ||| 2 ^ idxSub i (queHead o)) (queHead o)
  setHodField (setHodField o 40 8 m) 14 4 h
/-- The bytes of a slot that ENQ and DEQ move. -/
def moved (o : MObj) : Nat := Nat.min 32 (queSize o)
/-- ENQ of L bytes with room: the slot is written before TAIL passes it. -/
def enqueue (s : State) (dom line : Nat) (o : MObj) (len data : Nat) : State × MObj :=
  let i := queResv o
  let pa := slotAddr line o i
  let s := (touchLine s dom pa (moved o) true).write pa (moved o) (data % 2 ^ (8 * len))
  (s, queCommitted (setHodField o 26 4 (i + 1)) i)
/-- ENQR with room: the index. -/
def reserve (o : MObj) : MObj × Nat := (setHodField o 26 4 (queResv o + 1), queResv o)
/-- DEQ with work: the slot bytes and the index; none where the slot is poisoned, which is reported to the foreman of the issuer (R78). -/
def dequeue (s : State) (r : MReq) (o : MObj) : State × Option (MObj × Nat × Nat) :=
  let i := queClaim o
  let pa := slotAddr r.line o i
  let s := touchLine s r.dom pa (moved o) false
  if (s.poisonedAt pa (moved o)).isSome then (reportPoison s r.chargedTo.1 pa pa, none)
  else
    let s := s.correct pa (moved o)
    (s, some (queFreed (setHodField o 18 4 (i + 1)) i, s.read pa (moved o), i))
/-- DEQR with work: the index. -/
def claimNext (o : MObj) : MObj × Nat := (setHodField o 18 4 (queClaim o + 1), queClaim o)

/-- After every operation on a queue: parked dequeuers while there is work, parked enqueuers while there is room, repeated until
neither can advance (R94). The fuel bounds completions and turns. -/
def queProgress (line : Nat) : Nat → Bool → Bool → State → MObj → State × MObj
  | 0, _, _, s, o => (s, o)
  | fuel + 1, deq, moved?, s, o =>
    let parked := waitsOn s line
    if deq then
      match (if hasWork o then parked.find? (fun e => decide (e.req.op = 0x45 ∨ e.req.op = 0x47)) else none) with
      | none => queProgress line fuel false moved? s o
      | some e =>
        if e.req.op = 0x47 then
          let (o, i) := claimNext o
          queProgress line fuel true true (wake s e 0 (word i) 0 0) o
        else
          match dequeue s e.req o with
          | (s, none) => queProgress line fuel true true (wake s e 0 0 0 0x1B) o
          | (s, some (o, bytes, i)) => queProgress line fuel true true (wake s e 0 (word i) bytes 0) o
    else
      match (if hasRoom o then parked.find? (fun e => decide (e.req.op = 0x40 ∨ e.req.op = 0x42)) else none) with
      | none => if moved? then queProgress line fuel true false s o else (s, o)
      | some e =>
        if e.req.op = 0x42 then
          let (o, i) := reserve o
          queProgress line fuel false true (wake s e 0 (word i) 0 0) o
        else
          let (s, o) := enqueue s e.req.dom line o e.req.arg.toNat e.req.data
          queProgress line fuel false true (wake s e 0 0 0 0) o

/-! ### Completing parked requests (R91, R92, R96) -/

/-- VALUE of a counter. -/
def ctrValue (o : MObj) : Word := word (hodField o 8 8)
/-- PHASE of a barrier. -/
def barPhase (o : MObj) : Nat := hodField o 8 4
/-- A phase has passed (R92). -/
def passed (o : MObj) (p : Nat) : Bool :=
  let d := idxSub (barPhase o) p
  decide (1 ≤ d ∧ d < 2 ^ 31)

/-- What the processor completes after an operation, by the object's type (R91, R92, R94, R96). -/
def settle (s : State) (line : Nat) (o : MObj) : State × MObj :=
  let parked := waitsOn s line
  match objType o with
  | 1 =>
    ((parked.filter (fun e => !(ctrValue o).slt e.req.arg)).foldl (fun s e => wake s e 0 (ctrValue o) 0 0) s, o)
  | 2 =>
    ((parked.filter (fun e => passed o e.ticket)).foldl
      (fun s e => wake s e 0 (word (if e.req.op = 0x21 then e.ticket else barPhase o)) 0 0) s, o)
  | 4 => queProgress line (8 * parked.length + 8) true false s o
  | _ => (s, o)

/-! ### Requests at the home -/

/-- What an operation comes to: done with a status and results, the same with no change of the object, parked with a ticket, or a trap cause
with no effect. -/
inductive MRes where
  | done (s : State) (o : MObj) (status : Nat) (r1 r2 : Word) (bytes : Nat)
  | same (status : Nat) (r1 : Word) (bytes : Nat)
  | park (o : MObj) (ticket : Nat)
  | cause (s : State) (c : Nat)

/-- A release waits for the matrix commands that its strand has queued before it, whose accesses are the strand's; the LOCK.REL of a
COND.WAIT for those before that instruction (R85, R95, R283, R335). -/
def MReq.behindMatrix (s : State) (r : MReq) : Bool :=
  let (c, n) := r.chargedTo
  let before (k : Nat) : Bool := (commandsBefore s c (s.strand c n).act k).any (·.accesses)
  match r.iss with
  | .strand _ _ => r.ord.rel && before r.id
  | .condRel _ waiter => before waiter
  | _ => false
/-- A moved waiter's LOCK.ACQ goes behind the LOCK.REL that was sent for the waiter, whose result must be known, and behind the acquires of
the waiters that the same COND.BCAST moved before it (R84, R95, R96; log 74). -/
def MReq.behindMoved (s : State) (r : MReq) : Bool :=
  let rel (i : Issuer) : Bool := match i with | .condRel _ w => decide (w = r.id) | _ => false
  match r.iss with
  | .condAcq batch _ _ =>
    s.mreqs.any (fun q => rel q.iss) || s.mreps.any (fun p => rel p.iss) ||
      (s.mreqs.takeWhile (fun q => decide (q.id ≠ r.id))).any (fun q => match q.iss with | .condAcq b _ _ => decide (b = batch) | _ => false)
  | _ => false
/-- The request may be performed: the accesses that its release or an earlier fence orders before it are performed, no earlier
acquire is outstanding, and earlier loads of its line are performed (R85, R228, R335). -/
def MReq.ordered (s : State) (r : MReq) : Bool :=
  let (c, n) := r.chargedTo
  !r.behindMatrix s && !r.behindMoved s && s.accs.all (fun a =>
    !decide (a.core = c ∧ a.strand = n ∧ a.id < r.id) ||
      ((decide (r.mark ≤ a.id) || a.performed) && !a.ord.acq && a.pieces.all (fun p => p.done || !overlaps p.pa p.n r.line 64)))
/-- A request of the own package, or one that the home's port has admitted, is ready at its home. -/
def MReq.ready (s : State) (r : MReq) : Bool := (r.admitted || decide (paPkg r.line = r.from_)) && r.ordered s
/-- A request in flight. -/
def State.req? (s : State) (id op : Nat) (again : Bool) : Option MReq :=
  s.mreqs.find? (fun r => decide (r.id = id ∧ r.op = op) && (match r.iss with | .condAcq _ _ _ => again | _ => !again))
/-- Removes a request. -/
def State.dropReq (s : State) (r : MReq) : State := { s with mreqs := s.mreqs.filter (fun x => decide (x ≠ r)) }

/-- What follows a parked COND.WAIT: LOCK.REL at the waiter's scope goes to the bound lock on its behalf (R95). -/
def afterPark (s : State) (r : MReq) (o : MObj) : State :=
  if r.op = 0x50 then
    { s with mreqs := s.mreqs ++ [{ r with id := s.fresh, iss := .condRel r.line r.id, op := 0x32, ord := .release, line := hodField o 8 8,
                                           arg := 0, data := 0, mark := r.id, relSys := decide (r.scope = .system), admitted := false, from_ := paPkg r.line }],
             fresh := s.fresh + 1 }
  else s

/-- The state in which a request of the own package meets its line: its own release has written the remote partitions back (R73). -/
def homeState (s : State) (r : MReq) : State :=
  let (c, n) := r.chargedTo
  releaseRemote (s.dropReq r) c n r.mark (r.relSys && decide (paPkg r.line = r.from_))
/-- A request that frees its object, which meets no check of the line (R90, R343). -/
def MReq.frees (r : MReq) : Bool := decide (r.op = 0 ∧ r.data % 256 = 0)
/-- An operation is done: the line's record names its party, or is cleared where the object is freed (R341, R343), the reply leaves, and
the processor completes what the operation has made ready (R96). -/
def finishAt (s : State) (r : MReq) (o : MObj) (status : Nat) (r1 r2 : Word) (bytes : Nat) : State :=
  let s := if r.frees && decide (status = 0) then s.clearRecord r.line else s.setRecord r.line r.scope r.party
  let s := reply s r r.shown status r1 r2 bytes 0 false
  let (s, o) := settle s r.line o
  putObj s r.dom r.line o
/-- An operation that changes nothing is done: the line's record names its party, and the reply leaves (R89, R341). -/
def sameAt (s : State) (r : MReq) (status : Nat) (r1 : Word) (bytes : Nat) : State :=
  reply (s.setRecord r.line r.scope r.party) r r.shown status r1 0 bytes 0 false
/-- A request parks in a wait entry (R97). -/
def enlistAt (s : State) (r : MReq) (o : MObj) (ticket idx : Nat) : State :=
  let s := s.setRecord r.line r.scope r.party
  let s := s.modSlice (homeSlice r.line) (fun k => { k with waits := k.waits ++ [⟨idx, ticket, r⟩] })
  afterPark (putObj s r.dom r.line o) r o
/-- A request comes back with a trap cause and no effect (R232). -/
def failAt (s : State) (r : MReq) (cause : Nat) : State := reply s r r.shown 0 0 0 0 cause false

/-- The state in which an operation reads its line, with single-bit errors corrected (R69, R78). -/
def lineState (s : State) (r : MReq) : State := (touchLine s r.dom r.line 64 false).correct r.line 64
/-- A request is performed at its home, in its line's single order (R84): the scope checker (R341), the type (R88), then the
operation, or parking (R97), then what it completes (R96). -/
def atHome (s : State) (r : MReq) (type : Nat) (f : State → MReq → MObj → MRes) : State :=
  let s := homeState s r
  let o := objAt s r.line
  if !r.frees && !s.admits r.line r.scope r.party then failAt s r 0x0C
  else if !r.frees && (s.poisonedAt r.line 64).isSome then failAt (reportPoison (lineState s r) r.chargedTo.1 r.line r.line) r 0x1B
  else if r.op ≠ 0 ∧ (objType o = 0 ∨ 5 < objType o ∨ type ≠ 0 ∧ objType o ≠ type) then failAt s r 0x0F
  else
    let s := lineState s r
    match f s r o with
    | .cause s cause => failAt s r cause
    | .same status r1 bytes => sameAt s r status r1 bytes
    | .done s o status r1 r2 bytes => finishAt s r o status r1 r2 bytes
    | .park o ticket =>
      match freeWait s r.line with
      | none => failAt s r 0x0E
      | some idx => enlistAt s r o ticket idx

/-- A step of the opcode table that performs request id at its home, if it has the step's code and is ready. -/
def mortarEvent (id code type : Nat) (f : State → MReq → MObj → MRes) (s : State) : Result :=
  match s.req? id code false with
  | none => .next s
  | some r => whenever (r.ready s) s (fun s => atHome s r type f)

/-- Done with OK and one result. -/
def okay (s : State) (o : MObj) (r1 : Nat) : MRes := .done s o 0 (word r1) 0 0
/-- Done with another status, no change and no result (R89). -/
def refuse (status : Nat) : MRes := .same status 0 0

/-! ### Creating, reading and cancelling (R82, R90, R100) -/

/-- The object that INIT makes, or none where a parameter is out of range (R90, Table 9; R233, Table 2). -/
def initObj (s : State) (r : MReq) : Option MObj :=
  let p (off n : Nat) : Nat := hodField r.data off n
  let base := withWaits (r.data % 256) []
  let put (l : List (Nat × Nat)) : MObj := l.foldl (fun o x => setHodField o x.1 x.2 (p x.1 x.2)) base
  match r.data % 256 with
  | 1 => if p 24 4 = 0 ∨ p 28 4 = 0 ∨ p 32 8 = 0 then none else some (put [(8, 8), (16, 8), (24, 4), (28, 4), (32, 8)])
  | 2 => if p 12 4 = 0 then none else some (setHodField (put [(8, 4), (12, 4)]) 16 4 (p 12 4))
  | 3 => some base
  | 4 =>
    let len := 2 ^ p 30 1 * 2 ^ p 31 1
    let a := r.baseAttr
    if 16 < p 30 1 ∨ p 31 1 < 3 ∨ 12 < p 31 1 then none
    else if attrR a && attrW a && !attrM a && !attrFO a && isHbm r.basePa && decide (paPkg r.basePa = paPkg r.line) &&
        decide (r.basePa % 2 ^ p 31 1 = 0 ∧ r.basePa % r.basePage + len ≤ r.basePage) then
      some (setHodField (put [(30, 1), (31, 1)]) 8 5 (paLocal r.basePa))
    else none
  | 5 => if r.basePa % 64 = 0 ∧ attrM r.baseAttr ∧ objType (objAt s r.basePa) = 3 ∧ isHbm r.basePa then some (setHodField base 8 8 r.basePa) else none
  | _ => none
/-- INIT (R90). -/
def mortarInit (s : State) (r : MReq) (o : MObj) : MRes :=
  if r.data % 256 = 0 then
    if (waitsOn s r.line).isEmpty then okay s 0 0 else refuse 0x08
  else if objType o ≠ 0 then refuse 0x08
  else match initObj s r with | some o => okay s o 0 | none => refuse 0x07
/-- MORTAR_INIT (R90). -/
def execMortarInit (r : Nat) (s : State) : Result := mortarEvent r 0x00 0 mortarInit s

/-- READ: all 64 bytes (R82). -/
def mortarRead (_ : State) (_ : MReq) (o : MObj) : MRes := .same 0 0 o
/-- MORTAR_READ (R82). -/
def execMortarRead (r : Nat) (s : State) : Result := mortarEvent r 0x01 0 mortarRead s

/-- The parked requests that a selector names, or none where the selector is out of range (R100, R234). -/
def selected (x : Word) : Option (WaitEnt → Bool) :=
  if x = 0 then some (fun _ => true)
  else if bit x.toNat 0 && decide (fieldOf x 39 1 = 0) then
    some (fun e =>
      let (g, n, k, _) := identFields e.req.ident
      decide (g = fieldOf x 63 50 ∧ n = fieldOf x 49 40 ∧ k ≠ 4))
  else none
/-- The remaining tickets of a lock after a cancellation: SERVING + 1 and so on, with NEXT behind them (R100). -/
def renumber (s : State) (line : Nat) (o : MObj) : State × MObj :=
  if objType o ≠ 3 ∨ hodField o 8 4 = hodField o 12 4 then (s, o)
  else
    let left := waitsOn s line
    let ticket (i : Nat) : Nat := (hodField o 12 4 + 1 + i) % 2 ^ 32
    let place (e : WaitEnt) : Nat := (left.findIdx? (fun x => decide (x.idx = e.idx))).getD 0
    (s.modSlice (homeSlice line) (fun k =>
      { k with waits := k.waits.map (fun e => if e.req.line = line then { e with ticket := ticket (place e) } else e) }),
      setHodField o 8 4 (ticket left.length))
/-- CANCEL (R100). -/
def mortarCancel (s : State) (r : MReq) (o : MObj) : MRes :=
  match selected r.arg with
  | none => refuse 0x07
  | some p =>
    let l := (waitsOn s r.line).filter p
    let s := l.foldl (fun s e => wake s e 0x04 0 0 0) s
    let (s, o) := renumber s r.line o
    okay s o l.length
/-- MORTAR_CANCEL (R100). -/
def execMortarCancel (r : Nat) (s : State) : Result := mortarEvent r 0x02 0 mortarCancel s

/-! ### Counters (R91) -/

/-- CTR_ADD (R91). -/
def execCtrAdd (r : Nat) (s : State) : Result :=
  mortarEvent r 0x10 1 (fun s r o => okay s (setHodField o 8 8 (ctrValue o + r.arg).toNat) 0) s
/-- CTR_FADD (R91). -/
def execCtrFadd (r : Nat) (s : State) : Result :=
  mortarEvent r 0x11 1 (fun s r o => okay s (setHodField o 8 8 (ctrValue o + r.arg).toNat) (ctrValue o).toNat) s
/-- CTR_WAIT (R91). -/
def execCtrWait (r : Nat) (s : State) : Result :=
  mortarEvent r 0x12 1 (fun s r o => if (ctrValue o).slt r.arg then .park o 0 else okay s o (ctrValue o).toNat) s
/-- The next chunk of an iteration space: start and length, or none (R91). -/
def nextChunk (o : MObj) : Option (Nat × Nat) :=
  let rem := signedOf 64 (hodField o 16 8) - (ctrValue o).toInt
  if rem ≤ 0 then none
  else
    let n := rem.toNat
    some ((ctrValue o).toNat, Nat.min n (Nat.max (hodField o 32 8) (ceilDiv n (hodField o 28 4 * hodField o 24 4))))
/-- CTR_CHUNK (R91). -/
def execCtrChunk (r : Nat) (s : State) : Result :=
  mortarEvent r 0x13 1 (fun s _ o =>
    match nextChunk o with
    | none => .same 0x03 (ctrValue o) 0
    | some (start, len) => .done s (setHodField o 8 8 (start + len)) 0 (word start) (word len) 0) s

/-! ### Phased barriers (R92) -/

/-- An arrival: the object after it, or the status that refuses it. -/
def arrive (o : MObj) (c : Nat) : Except Nat MObj :=
  let pending := hodField o 16 4
  if c = 0 then .error 0x07
  else if pending < c then .error 0x06
  else if pending = c then .ok (setHodField (setHodField o 16 4 (hodField o 12 4)) 8 4 (barPhase o + 1))
  else .ok (setHodField o 16 4 (pending - c))
/-- BAR_ARRIVE (R92). -/
def execBarArrive (r : Nat) (s : State) : Result :=
  mortarEvent r 0x20 2 (fun s r o =>
    match arrive o r.arg.toNat with | .error e => refuse e | .ok o' => okay s o' (barPhase o)) s
/-- BAR_AWAIT (R92). -/
def execBarAwait (r : Nat) (s : State) : Result :=
  mortarEvent r 0x21 2 (fun s r o =>
    match arrive o r.arg.toNat with
    | .error e => refuse e
    | .ok o' => if passed o' (barPhase o) then okay s o' (barPhase o) else .park o' (barPhase o)) s
/-- BAR_WAITP (R92). -/
def execBarWaitp (r : Nat) (s : State) : Result :=
  mortarEvent r 0x22 2 (fun s r o => if passed o r.arg.toNat then okay s o (barPhase o) else .park o r.arg.toNat) s

/-! ### Ticket locks (R93) -/

/-- NEXT. -/
def lockNext (o : MObj) : Nat := hodField o 8 4
/-- SERVING. -/
def lockServing (o : MObj) : Nat := hodField o 12 4
/-- LOCK.ACQ. -/
def lockAcquire (s : State) (r : MReq) (o : MObj) : MRes :=
  let t := lockNext o
  let o := setHodField o 8 4 (t + 1)
  if t = lockServing o then okay s (setHodField o 16 8 r.ident.toNat) 0 else .park o t
/-- LOCK_ACQ (R93). -/
def execLockAcq (r : Nat) (s : State) : Result := mortarEvent r 0x30 3 lockAcquire s
/-- COND_REACQUIRE: the re-issued LOCK.ACQ of a moved waiter at the bound lock's home (R95). -/
def execCondReacquire (r : Nat) (s : State) : Result :=
  match s.req? r 0x30 true with
  | none => .next s
  | some q => whenever (q.ready s) s (fun s => atHome s q 3 lockAcquire)
/-- LOCK_TRY (R93). -/
def execLockTry (r : Nat) (s : State) : Result :=
  mortarEvent r 0x31 3 (fun s r o =>
    if lockNext o = lockServing o then okay s (setHodField (setHodField o 8 4 (lockNext o + 1)) 16 8 r.ident.toNat) 0
    else refuse 0x01) s
/-- LOCK.REL: the next ticket is granted. -/
def lockRelease (s : State) (r : MReq) (o : MObj) : MRes :=
  if lockNext o = lockServing o then refuse 0x05
  else
    let o := setHodField o 12 4 (lockServing o + 1)
    match (waitsOn s r.line).find? (fun e => decide (e.ticket = lockServing o)) with
    | some e => okay (wake s e 0 0 0 0) (setHodField o 16 8 e.req.ident.toNat) 0
    | none => okay s (setHodField o 16 8 0) 0
/-- LOCK_REL (R93), also the one sent for a COND.WAIT (R95). -/
def execLockRel (r : Nat) (s : State) : Result := mortarEvent r 0x32 3 lockRelease s

/-! ### Bounded queues (R94) -/

/-- ENQ and TENQ. -/
def queEnqueue (try_ : Bool) (s : State) (r : MReq) (o : MObj) : MRes :=
  let len := r.arg.toNat
  if len = 0 ∨ moved o < len then refuse 0x07
  else if hasRoom o then
    let (s, o) := enqueue s r.dom r.line o len r.data
    okay s o 0
  else if try_ then refuse 0x02 else .park o 0
/-- QUE_ENQ (R94). -/
def execQueEnq (r : Nat) (s : State) : Result := mortarEvent r 0x40 4 (queEnqueue false) s
/-- QUE_TENQ (R94). -/
def execQueTenq (r : Nat) (s : State) : Result := mortarEvent r 0x41 4 (queEnqueue true) s
/-- ENQR and TENQR. -/
def queReserve (try_ : Bool) (s : State) (_ : MReq) (o : MObj) : MRes :=
  if hasRoom o then
    let (o, i) := reserve o
    okay s o i
  else if try_ then refuse 0x02 else .park o 0
/-- QUE_ENQR (R94). -/
def execQueEnqr (r : Nat) (s : State) : Result := mortarEvent r 0x42 4 (queReserve false) s
/-- QUE_TENQR (R94). -/
def execQueTenqr (r : Nat) (s : State) : Result := mortarEvent r 0x43 4 (queReserve true) s
/-- QUE_COMMIT (R94). -/
def execQueCommit (r : Nat) (s : State) : Result :=
  mortarEvent r 0x44 4 (fun s r o =>
    let i := r.arg.toNat
    let j := idxSub i (queTail o)
    if j < idxSub (queResv o) (queTail o) && !bit (hodField o 32 8) j then okay s (queCommitted o i) 0 else refuse 0x07) s
/-- DEQ and TDEQ. -/
def queDequeue (try_ : Bool) (s : State) (r : MReq) (o : MObj) : MRes :=
  if hasWork o then
    match dequeue s r o with
    | (s, none) => .cause s 0x1B
    | (s, some (o, bytes, i)) => .done s o 0 (word i) 0 bytes
  else if try_ then refuse 0x03 else .park o 0
/-- QUE_DEQ (R94). -/
def execQueDeq (r : Nat) (s : State) : Result := mortarEvent r 0x45 4 (queDequeue false) s
/-- QUE_TDEQ (R94). -/
def execQueTdeq (r : Nat) (s : State) : Result := mortarEvent r 0x46 4 (queDequeue true) s
/-- DEQR and TDEQR. -/
def queClaimOne (try_ : Bool) (s : State) (_ : MReq) (o : MObj) : MRes :=
  if hasWork o then
    let (o, i) := claimNext o
    okay s o i
  else if try_ then refuse 0x03 else .park o 0
/-- QUE_DEQR (R94). -/
def execQueDeqr (r : Nat) (s : State) : Result := mortarEvent r 0x47 4 (queClaimOne false) s
/-- QUE_TDEQR (R94). -/
def execQueTdeqr (r : Nat) (s : State) : Result := mortarEvent r 0x48 4 (queClaimOne true) s
/-- QUE_FREE (R94). -/
def execQueFree (r : Nat) (s : State) : Result :=
  mortarEvent r 0x49 4 (fun s r o =>
    let i := r.arg.toNat
    let j := idxSub i (queHead o)
    if j < idxSub (queClaim o) (queHead o) && !bit (hodField o 40 8) j then okay s (queFreed o i) 0 else refuse 0x07) s

/-! ### Conditions (R95) -/

/-- COND_WAIT: the request parks, and LOCK.REL goes to the bound lock (R95). -/
def execCondWait (r : Nat) (s : State) : Result := mortarEvent r 0x50 5 (fun _ _ o => .park o 0) s
/-- Moves waiters off a condition: each is re-issued as LOCK.ACQ under its own identity and scope, in list order (R95, R96). The request
travels from the waiter's package, as one of the waiter's own, and its LOCK.REL from the condition's (log 75, DESIGN CHOICE). -/
def moveWaiters (s : State) (l : List WaitEnt) (o : MObj) : State :=
  let batch := s.fresh
  l.foldl (fun s e =>
    let s := s.modSlice (homeSlice e.req.line) (fun k => { k with waits := k.waits.filter (fun x => decide (x ≠ e)) })
    match e.req.iss with
    | .strand c n =>
      { s with mreqs := s.mreqs ++ [{ e.req with iss := .condAcq batch c n, op := 0x30, ord := .acquire, line := hodField o 8 8, arg := 0,
                                                 data := 0, mark := 0, relSys := false, admitted := false }] }
    | _ => s) s.tickFresh
/-- COND_SIG (R95). -/
def execCondSig (r : Nat) (s : State) : Result :=
  mortarEvent r 0x51 5 (fun s r o => let l := (waitsOn s r.line).take 1; okay (moveWaiters s l o) o l.length) s
/-- COND_BCAST (R95). -/
def execCondBcast (r : Nat) (s : State) : Result :=
  mortarEvent r 0x52 5 (fun s r o => let l := waitsOn s r.line; okay (moveWaiters s l o) o l.length) s
/-- The waiter whose LOCK.REL has failed: on the condition's list, or moved and not yet re-issued (R95). -/
def takeWaiter (s : State) (cond waiter : Nat) : State × Option MReq :=
  match (waitsOn s cond).find? (fun e => decide (e.req.id = waiter)) with
  | some e => (s.modSlice (homeSlice cond) (fun k => { k with waits := k.waits.filter (fun x => decide (x ≠ e)) }), some e.req)
  | none =>
    match s.req? waiter 0x30 true with
    | some q => (s.dropReq q, some q)
    | none => (s, none)
/-- The LOCK.REL of a COND.WAIT was not performed: the waiter completes with its status, towards the lock's package, or traps. -/
def endWaiter (s : State) (cond : Nat) (q : MReq) (status cause peer : Nat) : State :=
  { s with mreps := s.mreps ++ [⟨q.id, q.iss, 0x50, status, 0, 0, 0, cause, true, q.scope, q.ord, cond, peer, q.launch⟩] }
/-- COND_RELEASE_REPLY: the result of the LOCK.REL sent for a COND.WAIT reaches the condition's home. The waiter stays where it is on OK;
otherwise it leaves, completing with NOTHELD, also where the line is no longer a lock, or with trap 0x0C (R95), or with the status of
a request that a port refused or a link lost (R102). A poisoned lock line gives NOTHELD, the status of a line that is no lock (log 74,
DESIGN CHOICE). -/
def execCondReleaseReply (r : Nat) (s : State) : Result :=
  match s.mreps.find? (fun p => decide (p.id = r) && (match p.iss with | .condRel _ _ => true | _ => false)) with
  | none => .next s
  | some p =>
    let s := s.dropRep p
    match p.iss with
    | .condRel cond waiter =>
      let lost := decide (paPkg p.line ≠ paPkg cond) && s.linkDown (paPkg p.line) (paPkg cond)
      let status := if lost then 0x0A else p.status
      if status = 0 ∧ (p.cause = 0 ∨ lost) then .next s
      else
        match takeWaiter s cond waiter with
        | (s, none) => .next s
        | (s, some q) =>
          let s := if p.cause = 0x0C ∧ ¬lost then endWaiter s cond q 0 0x0C 0
            else endWaiter s cond q (if p.cause ≠ 0 ∧ ¬lost then 0x05 else status) 0 (paPkg p.line)
          .next (putObj s q.dom cond (objAt s cond))
    | _ => .next s

/-! ### Other codes, and the port of another package -/

/-- A code of Table 7 (R88). -/
def mortarCodes : List Nat :=
  [0x00, 0x01, 0x02, 0x10, 0x11, 0x12, 0x13, 0x20, 0x21, 0x22, 0x30, 0x31, 0x32, 0x40, 0x41, 0x42, 0x43, 0x44, 0x45, 0x46, 0x47, 0x48,
    0x49, 0x50, 0x51, 0x52]
/-- MORTAR_UNSUPPORTED: a request with any other code completes with UNSUPPORTED and performs nothing, where the scope checker admits it
(R88, R341). -/
def execMortarUnsupported (r : Nat) (s : State) : Result :=
  match s.mreqs.find? (fun q => decide (q.id = r) && !mortarCodes.contains q.op) with
  | none => .next s
  | some q => whenever (q.ready s) s (fun s =>
      let s := homeState s q
      if s.admits q.line q.scope q.party then reply s q q.op 0x09 0 0 0 0 false else failAt s q 0x0C)
/-- The feature of R382 that an operation asks of its home: bounded queues, conditions, or the base. -/
def MReq.feature (r : MReq) : Nat :=
  if 0x40 ≤ r.op ∧ r.op < 0x50 ∨ r.op = 0 ∧ r.data % 256 = 4 then 5
  else if 0x50 ≤ r.op ∧ r.op < 0x60 ∨ r.op = 0 ∧ r.data % 256 = 5 then 4
  else 0

/-- REMOTE_MORTAR: the home package's port hands handler 14 to the home slice, or replies REFUSED, or UNSUPPORTED where the home's
capability word lacks the operation (R102, R380–R382); a request caught on a link that is down fails and has no effect (R102). A SYSTEM
release has written back before the request travels (R73). -/
def execRemoteMortar (r : Nat) (s : State) : Result :=
  match s.mreqs.find? (fun q => decide (q.id = r)) with
  | none => .next s
  | some q =>
    if q.admitted || decide (paPkg q.line = q.from_) || !q.ordered s then .next s
    else
      let (c, n) := q.chargedTo
      let s := releaseRemote s c n q.mark q.relSys
      let answer (status : Nat) : State := reply (s.dropReq q) q q.shown status 0 0 0 0 false
      if s.linkDown q.from_ (paPkg q.line) then .next (answer 0x0A)
      else if !portAdmits s c q.dom q.from_ q.line 64 true then .next (answer 0x0B)
      else if !q.frees && !s.admits q.line q.scope q.party then .next (failAt (s.dropReq q) q 0x0C)
      else if s.lacks q.from_ (paPkg q.line) q.feature then .next (answer 0x09)
      else .next { s with mreqs := s.mreqs.map (fun x => if x = q then { x with admitted := true } else x) }

end Sys2Proof.Machine
end

