-- ==== Sys2Proof/Machine/Packets.lean ====
section
/-! DEFINITION. Fault messages of engines and base dies (R365, Table 2), and the packets by which a foreman resumes, ends, pre-empts
or aborts (R323, R366). -/

namespace Sys2Proof.Machine

/-- A fault message of an engine, unit or base die to the foreman of the issuing core's panel (R116, R37, R365): the cause, the cause
beneath it, its kind, the mortar status, the address, word m4, and the identity of the faulting party. -/
def engineFault (s : State) (c skind cause under kind status : Nat) (addr m4 ident : Word) : State :=
  s.postSystem c 0 skind (foremanIdent (panelKey c)) 0x10
    (word (cause + under * 2 ^ 8 + kind * 2 ^ 16 + fieldOf ident 39 36 * 2 ^ 24 + status * 2 ^ 32)) addr 0 ident m4 0

/-- A packet in flight by number. -/
def State.packet? (s : State) (r : Nat) : Option Packet := s.packets.find? (fun p => decide (p.id = r))
/-- The ACK of a packet (R366): the packet is gone, and a foreman strand that waits for it receives 0 acted or 1 nothing to act on
and retires (R323). -/
def ackPacket (s : State) (p : Packet) (v : Nat) : State :=
  let s := { s with packets := s.packets.filter (fun x => decide (x.id ≠ p.id)) }
  match p.back with
  | none => s
  | some (c, n, d) =>
    if (s.strand c n).wait = .packet p.id then
      (s.setWAt c n d (word v)).modStrand c n (fun t => { t with pc := t.pc + 4, wait := .none, imx := [] })
    else s

end Sys2Proof.Machine
end

