-- ==== Sys2Proof/Machine/Copy.lean ====
section
/-! DEFINITION. Copy requests (R103–R105, R113, R235–R237) and the copy engines that perform them (R106–R118). -/

namespace Sys2Proof.Machine

/-! ### The request (R103, Table 1; R113, Table 4) -/

/-- OP of a word 0. -/
def copyOp (w0 : Word) : Nat := fieldOf w0 63 56
/-- CMODE of a word 0. -/
def cmodeOf (w0 : Word) : Nat := fieldOf w0 36 35
/-- LEN of a word 0. -/
def copyLen (w0 : Word) : Nat := fieldOf w0 24 0
/-- SCOPE. -/
def CopyReq.scope (q : CopyReq) : Scope := Scope.ofCode (fieldOf q.w0 39 37)
/-- HSRC. -/
def CopyReq.fromHost (q : CopyReq) : Bool := bit q.w0.toNat 34
/-- TAG. -/
def CopyReq.tag (q : CopyReq) : Nat := fieldOf q.w0 32 25
/-- LEN. -/
def CopyReq.len (q : CopyReq) : Nat := copyLen q.w0
/-- The request is an exchange. -/
def CopyReq.isExchange (q : CopyReq) : Bool := decide (copyOp q.w0 = 2)
/-- WITHIN. -/
def exWithin (w2 : Word) : Bool := bit w2.toNat 12
/-- I. -/
def exI (w2 : Word) : Nat := fieldOf w2 11 8
/-- J. -/
def exJ (w2 : Word) : Nat := fieldOf w2 5 0
/-- The partner of an exchange (R114). -/
def partnerOf (c : Nat) (w2 : Word) : Nat :=
  if exWithin w2 then corePkg c * 2048 + (coreIdx c ^^^ 2 ^ exI w2) else (corePkg c ^^^ 2 ^ exI w2) * 2048 + coreIdx c
/-- own[I] of an exchange (R114). -/
def ownBit (c : Nat) (w2 : Word) : Bool := if exWithin w2 then bit (coreIdx c) (exI w2) else bit (corePkg c) (exI w2)
/-- The core that receives the completion message (R111). -/
def copyTarget (c : Nat) (w0 : Word) : Nat := corePkg c * 2048 + fieldOf w0 44 40 * 32 + fieldOf w0 49 45

/-- A word 2 and LEN that R113 accepts. -/
def exchangeValid (w0 w2 : Word) : Bool :=
  let len := copyLen w0
  decide (fieldOf w2 63 13 = 0 ∧ fieldOf w2 7 6 = 0 ∧ exI w2 ≤ (if exWithin w2 then 9 else 13) ∧ 6 ≤ exJ w2 ∧ 2 ^ (exJ w2 + 1) ≤ len ∧
    128 ≤ len ∧ 2 ^ len.log2 = len)
/-- The checks at acceptance: the cause of the first that fails (R105, R113, R236). -/
def copyRefused (s : State) (c op : Nat) (audit : Bool) (w0 w2 w3 : Word) : Option Nat :=
  let len := copyLen w0
  if copyOp w0 ≠ op ∨ bit w0.toNat 33 ∨ 5 ≤ fieldOf w0 39 37 ∨ len = 0 ∨ 16777216 < len ∨
      (bit (cmodeOf w0) 0 ∧ fieldOf w3 63 56 = 0) ∨ (bit w0.toNat 34 ∧ op = 2) ∨ (op = 2 ∧ !exchangeValid w0 w2) then some 0x02
  else if 2 ≤ cmodeOf w0 ∧ !sameArea s c (copyTarget c w0) then some 0x08
  else if audit && (decide (op = 2) && !exWithin w2 || bit (cmodeOf w0) 0) then some 0x10
  else none

/-! ### The instructions (R235–R237) -/

/-- Puts a request into the engine's queue. An exchange takes its place in the order towards its partner (R114). -/
def queueCopy (s : State) (c n : Nat) (w0 w1 w2 w3 : Word) : State :=
  let t := s.strand c n
  let p := partnerOf c w2
  let e := (s.core c).copy
  let k := if copyOp w0 = 2 then Table.get 0 e.exchanges p else 0
  let q : CopyReq :=
    { id := s.fresh, w0 := w0, w1 := w1, w2 := w2, w3 := w3, strand := n, act := t.act, audit := t.audit, mark := s.fresh, phase := .queued, cursor := 0,
      written := 0, buf := none, inflight := 0, paused := false, aborted := false, ordinal := k, paired := false }
  (s.modCore c (fun x => { x with copy := { e with q := e.q ++ [q],
                                                   exchanges := if copyOp w0 = 2 then Table.set e.exchanges p (k + 1) else e.exchanges } })).tickFresh
/-- CPY, CPYNB and CPX: the checks, then the queue (R236). A release fence before the request is complete when it is accepted
(R228). With the queue full, the instruction does what `full` says. -/
def copyForm (g : Fin 8) (op a : Nat) (accepted full : Nat → Nat → State → State) (s : State) : Result :=
  memOp g [a, a + 1, a + 2, a + 3] [] s fun c n s =>
    let t := s.strand c n
    match copyRefused s c op t.audit (s.w a) (s.w (a + 2)) (s.w (a + 3)) with
    | some cause => s.trap cause 0 0
    | none =>
      if 2 ≤ (s.core c).copy.q.length then full c n s
      else if !performedBelow s c n t.relMark then s
      else
        let s := releaseRemote s c n t.relMark t.relSys
        (accepted c n (queueCopy s c n (s.w a) (s.w (a + 1)) (s.w (a + 2)) (s.w (a + 3)))).advance 4

/-- CPY (R236). -/
def execCpy (g : Fin 8) (a : Fin 32) (s : State) : Result := copyForm g 1 a (fun _ _ s => s) (fun _ _ s => s) s
/-- CPYNB (R236). -/
def execCpynb (g d : Fin 8) (a : Fin 32) (s : State) : Result :=
  copyForm g 1 a (fun _ _ s => s.setK d 0) (fun _ _ s => (s.setK d 1).advance 4) s
/-- CPX (R236). -/
def execCpx (g : Fin 8) (a : Fin 32) (s : State) : Result := copyForm g 2 a (fun _ _ s => s) (fun _ _ s => s) s

/-- The engine's status word (R112, Table 3). -/
def copyStatus (e : CopyEngine) : Word :=
  let head := e.q.head?
  let paused := (head.map (·.paused)).getD false
  let pairing := (head.map (fun q => q.isExchange && decide (q.phase = .running) && !q.paired && !q.paused && !q.aborted)).getD false
  word (e.lastTag * 2 ^ 40 + e.lastSt * 2 ^ 32 + e.done * 2 ^ 16 + (if paused then 8 else 0) + (if pairing then 4 else 0) + e.q.length)
/-- CPQ (R237). -/
def execCpq (g : Fin 8) (d : Fin 32) (s : State) : Result :=
  strandOp g 4 [] [d] (fun c _ s => .ok (s.setW d (copyStatus (s.core c).copy))) s
/-- CPQ.TAG reads and clears one bit of the abort mask in one step (R237). -/
def execCpqTag (g : Fin 8) (d a : Fin 32) (s : State) : Result :=
  strandOp g 4 [a] [d] (fun c _ s =>
    let t := (s.w a).toNat % 256
    let e := (s.core c).copy
    .ok ((s.setW d (if e.aborts.getLsbD t then 1 else 0)).modCore c
      (fun k => { k with copy := { e with aborts := e.aborts &&& ~~~(BitVec.ofNat 256 (2 ^ t)) } }))) s

/-! ### The engine -/

/-- Changes a core's copy engine. -/
def State.modCopy (s : State) (c : Nat) (f : CopyEngine → CopyEngine) : State := s.modCore c (fun k => { k with copy := f k.copy })
/-- The request at the head of the queue. -/
def State.activeCopy (s : State) (c : Nat) : Option CopyReq := (s.core c).copy.q.head?
/-- Replaces a request. -/
def State.setCopy (s : State) (c : Nat) (q : CopyReq) : State :=
  s.modCopy c (fun e => { e with q := e.q.map (fun x => if x.id = q.id then q else x) })
/-- The engine's identity for a request (R111, Table 2). -/
def copyIdent (c : Nat) (q : CopyReq) : Word := engineIdent c 1 q.strand
/-- Reports a copy fault to the foreman (R116). -/
def reportCopy (s : State) (c : Nat) (q : CopyReq) (under kind status va : Nat) : State :=
  engineFault s c 1 0x19 under kind status (word va) (word q.tag) (copyIdent c q)
/-- A burst failed: the request pauses and the foreman is told (R116). -/
def pauseCopy (s : State) (c : Nat) (q : CopyReq) (under kind va : Nat) : State :=
  reportCopy (s.setCopy c { q with paused := true }) c q under kind 0 va
/-- An exchange of c ends without its bytes: its partner's exchange ends with ABORTED too, at once where it is active, and otherwise
when it becomes active (R113, R117). -/
def endExchange (s : State) (c : Nat) (q : CopyReq) : State :=
  let p := partnerOf c q.w2
  match s.activeCopy p with
  | some r =>
    if r.isExchange && decide (r.phase = .running ∧ partnerOf p r.w2 = c ∧ r.ordinal = q.ordinal) then
      { (s.setCopy p { r with aborted := true, paused := false, inflight := 0 }) with
        bulks := s.bulks.filter (fun b => !decide (b.core = p ∧ b.req = r.id)) }
    else s.modCopy c (fun e => { e with ended := e.ended ++ [(p, q.ordinal)] })
  | none => s.modCopy c (fun e => { e with ended := e.ended ++ [(p, q.ordinal)] })
/-- A request ends with ABORTED (R117). -/
def abortCopy (s : State) (c : Nat) (q : CopyReq) : State :=
  let s := s.setCopy c { q with aborted := true, paused := false, inflight := 0, buf := none }
  let s := { s with bulks := s.bulks.filter (fun b => !decide (b.core = c ∧ b.req = q.id)) }
  if q.isExchange then endExchange s c q else s

/-- What the tags of a copy make of it: bytes moved unchanged, or a conversion (R109). -/
inductive CopyPlan where
  | bytes | convert (src dst : Fmt)
  deriving DecidableEq, Repr

/-- The plan of two tags, or the cause of a refusal (R20, R109, R165). -/
def planOf (s : State) (c t u : Nat) : Except Nat CopyPlan :=
  if !tagValid t || !tagValid u then .error 0x03
  else
    let a := Fmt.ofCode (t / 8)
    let b := Fmt.ofCode (u / 8)
    if t = u ∨ a = .untyped ∨ b = .untyped then .ok .bytes
    else if t % 8 ≠ 0 ∨ u % 8 ≠ 0 ∨ !convertible a b then .error 0x03
    else if b = .k8t ∧ !bit (s.core c).tblstat.toNat 0 then .error 0x03
    else .ok (.convert a b)
/-- The plan of a request. -/
def CopyReq.plan (s : State) (c : Nat) (q : CopyReq) : Except Nat CopyPlan := planOf s c (fieldOf q.w1 63 56) (fieldOf q.w2 63 56)
/-- Source and destination element sizes of a plan, for counting bytes. -/
def CopyPlan.sizes : CopyPlan → Nat × Nat
  | .bytes => (1, 1)
  | .convert a b => (a.size, b.size)
/-- The checks of an activating request (R108, R109, R113): the cause of its refusal, or none. -/
def activationRefused (s : State) (c : Nat) (q : CopyReq) : Option Nat :=
  let a := fieldOf q.w1 55 0
  let t := fieldOf q.w1 63 56
  if q.isExchange then
    if !tagValid t then some 0x03
    else if a % q.len ≠ 0 then some 0x06
    else if exWithin q.w2 && !decide (scratchVa c 0 ≤ a ∧ a + q.len ≤ scratchVa c 0x80000) then some 0x08
    else none
  else
    match q.plan s c with
    | .error cause => some cause
    | .ok p =>
      let (es, ed) := p.sizes
      let size (t : Nat) : Nat := (Fmt.ofCode (t / 8)).size
      if a % size t ≠ 0 ∨ fieldOf q.w2 55 0 % size (fieldOf q.w2 63 56) ≠ 0 ∨ q.len % size t ≠ 0 ∨ 16777216 < q.len / es * ed then some 0x06
      else none

/-- No matrix command issued before the request has still to write, or touches a byte that the request reads or writes (R107, R283). -/
def CopyReq.clear (s : State) (c : Nat) (q : CopyReq) : Bool :=
  let cmds := commandsBefore s c q.act q.mark
  let runs := physSpans s c 258 (fieldOf q.w1 55 0) q.len ++
    (match q.isExchange, q.plan s c with
      | false, .ok p => physSpans s c 258 (fieldOf q.w2 55 0) (q.len / p.sizes.1 * p.sizes.2)
      | _, _ => [])
  cmds.all (fun m => decide (m.op ≠ .ast)) &&
    (cmds.isEmpty || !runs.any (fun r => matrixTouches s c q.act q.mark r.1 r.2))

/-- COPY_ACTIVATE: the request at the head becomes active once the strand's earlier accesses are performed and its earlier acquires have
completed (R72, R107, R335), or is refused and ends with ABORTED (R108, R117). The report of a refusal gives word 1's address, also
where the destination is at fault (log 78, DESIGN CHOICE). -/
def execCopyActivate (c : Nat) (s : State) : Result :=
  match s.activeCopy c with
  | none => .next s
  | some q =>
    whenever (decide (q.phase = .queued) && performedBelow s c q.strand q.mark && q.clear s c) s fun s =>
      let q := { q with phase := .running }
      let s := s.setCopy c q
      match activationRefused s c q with
      | none => s
      | some cause => abortCopy (reportCopy s c q cause 0 0 (fieldOf q.w1 55 0)) c q

/-! ### Bursts (R108, R116) -/

/-- Reads n bytes at a place in pieces that cross no line, through the remote partition where the page carries RC (R70, R333). -/
def burstRead (s : State) (a : Agent) : Nat → Place53 → Nat → State × Except Nat (List Byte)
  | 0, _, _ => (s, .ok [])
  | fuel + 1, p, n =>
    if n = 0 then (s, .ok [])
    else
      let k := Nat.min n (64 - p.pa % 64)
      match farRead s a p k with
      | (s, .error e) => (s, .error e)
      | (s, .ok x) =>
        match burstRead s a fuel { p with pa := p.pa + k } (n - k) with
        | (s, .ok rest) => (s, .ok (bytesLE x k ++ rest))
        | (s, .error e) => (s, .error e)
/-- Writes bytes at a place in pieces that cross no line. -/
def burstWrite (s : State) (a : Agent) : Nat → Place53 → List Byte → State × Option Nat
  | 0, _, _ => (s, none)
  | fuel + 1, p, l =>
    if l.isEmpty then (s, none)
    else
      let k := Nat.min l.length (64 - p.pa % 64)
      match farWrite s a p k (ofBytesLE (l.take k)) with
      | (s, some e) => (s, some e)
      | (s, none) => burstWrite s a fuel { p with pa := p.pa + k } (l.drop k)
/-- A burst to or from a place refused by its scratchpad as a whole writes nothing (R26, R32). -/
def burstRefused (s : State) (a : Agent) (pa n : Nat) (write : Bool) : Option Nat :=
  if inPad pa then padRefuses s a pa n write else none

/-- A burst would write a register of the foreman's ranges that must wait (R15, R75). -/
def burstHeld (s : State) (p : Place53) (l : List Byte) : Bool :=
  inControl p.pa && (List.range (l.length / 64 + 2)).any (fun i =>
    let at_ := if i = 0 then 0 else 64 * i - p.pa % 64
    let k := Nat.min (64 - (p.pa + at_) % 64) (l.length - at_)
    decide (at_ < l.length) && controlHeld s { p with pa := p.pa + at_ } k (ofBytesLE ((l.drop at_).take k)))
/-- The elements of a list of bytes, converted with rne; none where a source code is reserved (R109). -/
def convertBytes (tbl : DecTable) (src dst : Fmt) : Nat → List Byte → Option (List Byte)
  | 0, _ => some []
  | fuel + 1, l =>
    if l.isEmpty then some []
    else
      (convertElem .rne tbl src dst (ofBytesLE (l.take src.size))).bind fun x =>
        (convertBytes tbl src dst fuel (l.drop src.size)).map (fun rest => bytesLE x.1 dst.size ++ rest)
/-- A burst after conversion. -/
def CopyPlan.apply (p : CopyPlan) (s : State) (c : Nat) (l : List Byte) : Option (List Byte) :=
  match p with
  | .bytes => some l
  | .convert a b => convertBytes (s.tableOf c (if a.isK8 then a else b)) a b l.length l
/-- Bytes left in a 4 KiB piece. -/
def toBoundary (a : Nat) : Nat := 4096 - a % 4096

/-- Source bytes of the next burst of a copy (R108). -/
def burstLen (q : CopyReq) (p : CopyPlan) : Nat :=
  let (es, ed) := p.sizes
  let src := (fieldOf q.w1 55 0 + q.cursor) % 2 ^ 56
  let dst := (fieldOf q.w2 55 0 + q.cursor / es * ed) % 2 ^ 56
  Nat.min (q.len - q.cursor) (Nat.min (toBoundary src) (toBoundary dst / ed * es))
/-- Sends a BULK frame for a request (R386). -/
def sendBulk (s : State) (c pkg target : Nat) (q : CopyReq) (k : BulkKind) : State :=
  { (s.setCopy c { q with inflight := 1 }) with
    bulks := s.bulks ++ [⟨s.fresh, c, q.id, pkg, target, (s.core c).domain, k⟩], fresh := s.fresh + 1 }
/-- The lines of a range of the remote partition are written back, so that every write of a burst is acknowledged at its home (R110). -/
def writeThrough (s : State) (g pa n : Nat) : State :=
  ((List.range ((pa % 64 + n + 63) / 64)).map (pa / 64 + ·)).foldl (fun s l => s.writeBackLine g l) s
/-- The target refuses a burst that has gone there: the request pauses with the address that failed, and the issuing strand's sticky bit for
that package is set (R33, R116, R380, R383). -/
def refusedThere (s : State) (c pkg : Nat) (q : CopyReq) (cause kind va : Nat) : State :=
  let s := pauseCopy s c q cause kind va
  if pkg = corePkg c then s else setSticky s c q.strand q.act pkg
/-- The writing half of a burst: the destination is translated and checked, then written, at once or by a BULK frame (R108, R116). A
reserved table code or a poisoned word inside the burst is reported with the address at which the burst begins (log 78, DESIGN CHOICE). A
replay's writes all go to its shadow (R376). -/
def burstOut (s : State) (c : Nat) (q : CopyReq) (p : CopyPlan) (data : List Byte) : State :=
  let (es, ed) := p.sizes
  let va := (fieldOf q.w2 55 0 + q.cursor / es * ed) % 2 ^ 56
  let a := s.agent c
  match p.apply s c data with
  | none => pauseCopy s c { q with buf := none } 0x04 0 ((fieldOf q.w1 55 0 + q.cursor) % 2 ^ 56)
  | some out =>
    match translateFor s c a.dom va .store with
    | (s, .error r) => pauseCopy s c { q with buf := none } r.cause r.kind va
    | (s, .ok pl) =>
      let replay := (s.core c).replay.isSome
      let far := !ownPlace c pl.pa && !replay
      if q.audit && !ownPlace c pl.pa then pauseCopy s c { q with buf := none } 0x10 0 va
      else if far && !byPartition s c pl then sendBulk s c (paPkg pl.pa) 0 { q with buf := some data } (.copyWrite pl.pa pl.attr out)
      else if !far && !replay && (!foOpen s a.dom pl || burstHeld s pl out) then s.setCopy c { q with buf := some data }
      else if far && (s.cannotReach (corePkg c) (paPkg pl.pa) 6 || !portAdmits s c a.dom (corePkg c) pl.pa out.length true) then
        refusedThere s c (paPkg pl.pa) { q with buf := none } 0x08 0 va
      else
        match burstRefused s a pl.pa out.length true with
        | some cause => pauseCopy s c { q with buf := none } cause 0 va
        | none =>
          match burstWrite s a 70 pl out with
          | (s, some cause) => pauseCopy s c { q with buf := none } cause 0 va
          | (s, none) =>
            (if far then writeThrough s (corePkg c) pl.pa out.length else s).setCopy c
              { q with buf := none, cursor := q.cursor + data.length, written := q.written + out.length }

/-- Host memory of a range is poisoned, which CXL.cache delivers as a fault of the burst (R388). -/
def hostPoisoned (s : State) (a n : Nat) : Bool := s.hostPoison.any (fun l => decide (a < 64 * l + 64 ∧ 64 * l < a + n))
/-- The reading half of a burst (R104, R108, R388). -/
def burstIn (s : State) (c : Nat) (q : CopyReq) (p : CopyPlan) : State :=
  let n := burstLen q p
  let va := (fieldOf q.w1 55 0 + q.cursor) % 2 ^ 56
  let a := s.agent c
  if q.fromHost then
    match (s.pkg (corePkg c)).windows.find? (fun w => decide (w.1 = a.dom)) with
    | none => pauseCopy s c q 0x08 0 va
    | some (_, base, size) =>
      if size < va + n then pauseCopy s c q 0x08 0 va
      else if hostPoisoned s (base + va) n then pauseCopy s c q 0x1B 0 va
      else burstOut s c q p (Memory.bytes s.host (base + va) n)
  else
    match translateFor s c a.dom va .load with
    | (s, .error r) => pauseCopy s c q r.cause r.kind va
    | (s, .ok pl) =>
      let replay := (s.core c).replay.isSome
      if !ownPlace c pl.pa && !replay then sendBulk s c (paPkg pl.pa) 0 q (.copyRead pl.pa n pl.attr)
      else if !replay && !foOpen s a.dom pl then s
      else
        match burstRefused s a pl.pa n false with
        | some cause => pauseCopy s c q cause 0 va
        | none =>
          match burstRead s a 70 pl n with
          | (s, .error cause) => pauseCopy s c q cause 0 va
          | (s, .ok l) => burstOut s c q p l

/-- Offset of the next sent byte of an exchange at or after an offset (R114). -/
def nextSent (c : Nat) (w2 : Word) (o : Nat) : Nat :=
  if bit o (exJ w2) = ownBit c w2 then (o / 2 ^ exJ w2 + 1) * 2 ^ exJ w2 else o
/-- Bytes of an exchange's burst from a sent offset: the rest of its run, within a 4 KiB piece (R38, R114). -/
def exchangeLen (va : Nat) (w2 : Word) (o : Nat) : Nat := Nat.min (2 ^ exJ w2 - o % 2 ^ exJ w2) (toBoundary (va + o))
/-- The exchange has sent all its bytes. -/
def CopyReq.allSent (c : Nat) (q : CopyReq) : Bool := decide (q.len ≤ nextSent c q.w2 q.cursor) && q.buf.isNone
/-- The next outgoing burst of a paired exchange: read before any byte lands in its range, then sent to the partner (R114, R115). A burst
that its landing refused is translated again, and sent with the bytes that were read before the partner's could land (R115, R117). -/
def exchangeOut (s : State) (c : Nat) (q : CopyReq) : State :=
  let o := nextSent c q.w2 q.cursor
  let va := fieldOf q.w1 55 0
  let p := partnerOf c q.w2
  let send (s : State) (q : CopyReq) (l : List Byte) : State :=
    sendBulk s c (corePkg p) p { q with buf := some l, cursor := o } (.exchange (o ^^^ 2 ^ exJ q.w2) l)
  if q.len ≤ o then s
  else
    let n := exchangeLen va q.w2 o
    let a := s.agent c
    match translateFor s c a.dom ((va + o) % 2 ^ 56) .load with
    | (s, .error r) => pauseCopy s c q r.cause r.kind ((va + o) % 2 ^ 56)
    | (s, .ok pl) =>
      match q.buf with
      | some l => send s q l
      | none =>
        if !foOpen s a.dom pl then s
        else
          match burstRefused s a pl.pa n false with
          | some cause => pauseCopy s c q cause 0 ((va + o) % 2 ^ 56)
          | none =>
            match burstRead s a 70 pl n with
            | (s, .error cause) => pauseCopy s c q cause 0 ((va + o) % 2 ^ 56)
            | (s, .ok l) => send s q l

/-- COPY_BURST: the active request performs its next burst, or its next half (R108, R114). -/
def execCopyBurst (c : Nat) (s : State) : Result :=
  match s.activeCopy c with
  | none => .next s
  | some q =>
    whenever (decide (q.phase = .running) && !q.paused && !q.aborted && decide (q.inflight = 0)) s fun s =>
      if q.isExchange then (if q.paired then exchangeOut s c q else s)
      else
        match q.plan s c with
        | .error _ => s
        | .ok p =>
          match q.buf with
          | some l => burstOut s c q p l
          | none => if q.cursor < q.len then burstIn s c q p else s

/-! ### Pairing (R114) -/

/-- Two exchanges match (R114): the same I, J, WITHIN and LEN, and the same buffer address, or the same offset of the two scratchpads. Whether
their launches are of one domain is not compared (log 79, DESIGN CHOICE). -/
def matching (c p : Nat) (q r : CopyReq) : Bool :=
  decide (q.w2 = r.w2 ∧ q.len = r.len) &&
    (if exWithin q.w2 then decide (fieldOf q.w1 55 0 + coreIdx p * 0x80000 = fieldOf r.w1 55 0 + coreIdx c * 0x80000)
      else decide (fieldOf q.w1 55 0 = fieldOf r.w1 55 0))
/-- CPX_PAIRING: an active exchange meets its partner's exchange of the same ordinal, or both pause on a mismatch, as a side that resumes
alone does again; a partner outside the domain's packages or the rectangle, or one whose package lacks exchanges between packages, is a
protection fault, and a partner's exchange that ended early ends this one (R114, R117, R382). -/
def execCpxPairing (c : Nat) (s : State) : Result :=
  match s.activeCopy c with
  | none => .next s
  | some q =>
    whenever (q.isExchange && decide (q.phase = .running) && !q.paired && !q.paused && !q.aborted) s fun s =>
      let p := partnerOf c q.w2
      let va := fieldOf q.w1 55 0
      let there := if exWithin q.w2 then sameArea s c p
        else (Table.get [] (s.die (dieKey c)).pkgset (s.core c).domain).contains (corePkg p)
      if !there || s.lacks (corePkg c) (corePkg p) 7 then pauseCopy s c q 0x08 0 va
      else if (s.core p).copy.ended.contains (c, q.ordinal) then
        (s.modCopy p (fun e => { e with ended := e.ended.filter (fun x => decide (x ≠ (c, q.ordinal))) })).setCopy c { q with aborted := true }
      else
        match s.activeCopy p with
        | none => s
        | some r =>
          if r.isExchange && decide (r.phase = .running ∧ r.ordinal = q.ordinal ∧ partnerOf p r.w2 = c) && !r.paired && !r.aborted then
            if !matching c p q r then
              let s := pauseCopy s c q 0x08 0 va
              if r.paused then s else pauseCopy s p r 0x08 0 (fieldOf r.w1 55 0)
            else if r.paused then s
            else (s.setCopy c { q with paired := true }).setCopy p { r with paired := true }
          else s

/-! ### BULK frames of copies (R386) -/

/-- The target refuses the burst of a BULK frame. -/
def refusedAt (s : State) (b : Bulk) (q : CopyReq) (cause kind va : Nat) : State := refusedThere s b.core b.pkg q cause kind va
/-- A BULK frame at its target: a copy burst is read or written there, and a CPX half lands in the partner's buffer once the partner
has read its own bytes of that range, also while the partner is paused at another (R115, R116); the target's refusal is a fault of the burst
(R116, R380). In a page with FO the frame waits for earlier commands on its bank (R54). -/
def bulkCopy (s : State) (b : Bulk) : State :=
  match (s.core b.core).copy.q.find? (fun q => decide (q.id = b.req)) with
  | none => { s with bulks := s.bulks.filter (fun x => decide (x.id ≠ b.id)) }
  | some q =>
    let gone (s : State) : State := { s with bulks := s.bulks.filter (fun x => decide (x.id ≠ b.id)) }
    let a : Agent := ⟨b.core, b.dom, isForeman b.core, false, none⟩
    let q' := { q with inflight := 0 }
    match b.kind with
    | .copyRead pa n attr =>
      let va := (fieldOf q.w1 55 0 + q.cursor) % 2 ^ 56
      if !foOpen s b.dom ⟨pa, attr, 16⟩ then s
      else
        match burstRefused s a pa n false with
        | some cause => refusedAt (gone s) b q' cause 0 va
        | none =>
          match burstRead (gone s) a 70 ⟨pa, attr, 16⟩ n with
          | (s, .error cause) => refusedAt s b q' cause 0 va
          | (s, .ok l) => s.setCopy b.core { q' with buf := some l }
    | .copyWrite pa attr data =>
      let va := (fieldOf q.w2 55 0 + q.written) % 2 ^ 56
      if !foOpen s b.dom ⟨pa, attr, 16⟩ then s
      else
        match burstRefused s a pa data.length true with
        | some cause => refusedAt (gone s) b { q' with buf := none } cause 0 va
        | none =>
          match burstWrite (gone s) a 70 ⟨pa, attr, 16⟩ data with
          | (s, some cause) => refusedAt s b { q' with buf := none } cause 0 va
          | (s, none) =>
            let moved := (q.buf.map List.length).getD 0
            s.setCopy b.core { q' with buf := none, cursor := q.cursor + moved, written := q.written + data.length }
    | .exchange off data =>
      match s.activeCopy b.target with
      | none => gone s
      | some r =>
        let read := r.cursor + (r.buf.map List.length).getD 0
        if !(r.isExchange && r.paired && decide (off + data.length ≤ read ∨ r.len ≤ nextSent b.target r.w2 read)) then s
        else
          let va := (fieldOf r.w1 55 0 + off) % 2 ^ 56
          let (t, place) := if b.pkg = corePkg b.core then translateFor s b.target b.dom va .store
            else portTranslate s (dieKey b.target) b.dom va .store
          match place with
          | .error e => refusedAt (gone t) b q' e.cause e.kind va
          | .ok pl =>
            let ra : Agent := ⟨b.target, b.dom, false, false, none⟩
            match burstRefused t ra pl.pa data.length true with
            | some cause => refusedAt (gone t) b q' cause 0 va
            | none =>
              if !foOpen t b.dom pl then s
              else
                match burstWrite (gone t) ra 70 pl data with
                | (s, some cause) => refusedAt s b q' cause 0 va
                | (s, none) =>
                  let s := if ownPlace b.target pl.pa then s else writeThrough s (corePkg b.target) pl.pa data.length
                  (s.setCopy b.core { q' with buf := none, cursor := q.cursor + data.length }).setCopy b.target
                    { r with written := r.written + data.length }
    | .hodPull _ => s

/-! ### Completion (R110–R112) -/

/-- The request has performed everything, or ends early. -/
def CopyReq.finished (c : Nat) (q : CopyReq) : Bool :=
  decide (q.phase = .running) && !q.paused && decide (q.inflight = 0) &&
    (q.aborted || (if q.isExchange then q.paired && q.allSent c && decide (q.written = q.len / 2) else decide (q.cursor = q.len)))
/-- The status word and the abort mask record the completion (R112). -/
def recordCopy (s : State) (c : Nat) (q : CopyReq) : State :=
  s.modCopy c (fun e =>
    { e with lastTag := q.tag, lastSt := if q.aborted then 1 else 0, done := (e.done + 1) % 2 ^ 16,
             aborts := if q.aborted then e.aborts ||| BitVec.ofNat 256 (2 ^ q.tag) else e.aborts })
/-- The request leaves the queue. -/
def popCopy (s : State) (c : Nat) : State := s.modCopy c (fun e => { e with q := e.q.drop 1 })
/-- After the arrive, or without one: the message, or the end (R110). -/
def afterArrive (s : State) (c : Nat) (q : CopyReq) : State :=
  if 2 ≤ cmodeOf q.w0 then s.setCopy c { q with phase := .messaging } else popCopy s c
/-- The barrier arrive, a release at SCOPE charged to the issuing strand (R110, R337); a translation that fails is reported. -/
def copyArrive (s : State) (c : Nat) (q : CopyReq) : State :=
  let va := fieldOf q.w3 55 0
  let fails (s : State) (cause kind : Nat) : State := afterArrive (reportCopy s c q cause kind 0 va) c q
  if va % 64 ≠ 0 then fails s 0x06 0
  else
    match translateFor s c (s.core c).domain va .mortar with
    | (s, .error r) => fails s r.cause r.kind
    | (s, .ok p) =>
      let r : MReq :=
        { id := s.fresh, iss := .copy c q.strand, ident := copyIdent c q, op := 0x20, scope := q.scope, ord := .release, line := p.pa,
          dom := (s.core c).domain, arg := word (fieldOf q.w3 63 56), data := 0, basePa := 0, basePage := 0, baseAttr := 0, mark := 0,
          relSys := decide (q.scope = .system), admitted := false, from_ := corePkg c, launch := (s.core c).launch }
      { (s.setCopy c { q with phase := .arriving r.id }) with mreqs := s.mreqs ++ [r], fresh := s.fresh + 1 }
/-- The statuses of a request that never reached its object: UNSUPPORTED, FAILED and REFUSED (R102). -/
def unreached (status : Nat) : Bool := [0x09, 0x0A, 0x0B].contains status
/-- The reply of the arrive: a status that is not OK, or a cause, is reported, and the copy goes on (R110). One that did not reach an object
on another package sets the issuing strand's sticky bit (R102). -/
def arriveReply (s : State) (c : Nat) (q : CopyReq) (p : MRep) : State :=
  let s := { s with mreps := s.mreps.filter (fun x => decide (x ≠ p)) }
  let lost := decide (paPkg p.line ≠ corePkg c) && s.linkDown (paPkg p.line) (corePkg c)
  let status := if lost then 0x0A else p.status
  let cause := if lost then 0 else p.cause
  let s := if unreached status && decide (paPkg p.line ≠ corePkg c) then setSticky s c q.strand q.act (paPkg p.line) else s
  let s := if cause ≠ 0 then reportCopy s c q cause 0 0 (fieldOf q.w3 55 0)
    else if status ≠ 0 then reportCopy s c q 0 0 status (fieldOf q.w3 55 0) else s
  afterArrive s c q

/-- COPY_COMPLETE: a finished request is recorded and completes by its CMODE, and the reply of its arrive is taken (R110, R112). In a replay
no completion is sent (R376). -/
def execCopyComplete (c : Nat) (s : State) : Result :=
  match s.activeCopy c with
  | none => .next s
  | some q =>
    match q.phase with
    | .arriving id =>
      match s.mreps.find? (fun p => decide (p.id = id ∧ p.iss = .copy c q.strand)) with
      | none => .next s
      | some p => .next (arriveReply s c q p)
    | _ =>
      whenever (q.finished c) s fun s =>
        let s := recordCopy s c q
        if (s.core c).replay.isSome then popCopy s c
        else if bit (cmodeOf q.w0) 0 then copyArrive s c q else afterArrive s c q

/-- The completion message (R111, Table 2). -/
def copyMessage (c : Nat) (q : CopyReq) : Msg :=
  let t := copyTarget c q.w0
  ⟨stamp (header0 0 (corePkg c) (coordOf t).1 (coordOf t).2 false) c q.strand 1, word (fieldOf q.w0 55 50 * 2 ^ 58),
    word ((if q.aborted then 256 else 0) + q.tag), q.w1, q.w2, word q.written, q.w3, copyIdent c q⟩
/-- COPY_COMPLETION_MESSAGE: sent once the engine holds an allowance (R111). -/
def execCopyCompletionMessage (c : Nat) (s : State) : Result :=
  match s.activeCopy c with
  | none => .next s
  | some q =>
    whenever (decide (q.phase = .messaging) && decide (0 < (s.core c).copy.allow)) s fun s =>
      let s := s.modCopy c (fun e => { e with allow := e.allow - 1 })
      popCopy (s.post c 0 (copyMessage c q) (some (.copy c q.strand)) false none 0 0) c

/-! ### Resume and abort (R117) -/

/-- The paused active request of the core that a packet names. -/
def pausedCopy (s : State) (p : Packet) : Option (Nat × CopyReq) :=
  let c := coreOfIdent p.target
  match s.activeCopy c with
  | some q => if q.paused then some (c, q) else none
  | none => none
/-- A packet for a copy engine. -/
def forCopy (p : Packet) (action : Nat) : Bool := decide (p.sfn = 0x19 ∧ fieldOf p.target 39 36 = 1 ∧ p.action = action)
/-- COPY_RESUME: PAUSED is cleared and the burst is tried again (R117). -/
def execCopyResume (r : Nat) (s : State) : Result :=
  match s.packet? r with
  | none => .next s
  | some p =>
    whenever (forCopy p 0) s fun s =>
      match pausedCopy s p with
      | none => ackPacket s p 1
      | some (c, q) => ackPacket (s.setCopy c { q with paused := false }) p 0
/-- COPY_ABORT: the request ends with ABORTED (R117). -/
def execCopyAbort (r : Nat) (s : State) : Result :=
  match s.packet? r with
  | none => .next s
  | some p =>
    whenever (forCopy p 1) s fun s =>
      match pausedCopy s p with
      | none => ackPacket s p 1
      | some (c, q) => ackPacket (abortCopy s c q) p 0

end Sys2Proof.Machine
end

