-- ==== Sys2Proof/Machine/Vector.lean ====
section
/-! DEFINITION. The vector instructions that stay in registers, majors 0x22–0x2A (R262–R275), and their 16-bit forms. -/

namespace Sys2Proof.Machine

/-! ### Shared forms -/

/-- The strand must wait for one of its v registers (R334). -/
def vecBusy (s : State) (c n : Nat) (vs : List Nat) : Bool := vs.any (fun r => (s.strand c n).busyV.getLsbD r)
/-- A vector instruction: waits for the v registers that it names and the w registers that it reads and writes; the guard acts on
lanes (R263). -/
def vecForm (vs reads writes : List Nat) (s : State) (k : Nat → Nat → State → State) : Result :=
  onStrand s fun c n s =>
    if vecBusy s c n vs || s.waitsFor writes then .next s else needing reads s fun s => .next (k c n s)
/-- The lanes that a guard makes active take f's results and set its flags; the others keep their values (R263). -/
def lanewise (old : VWord) (e n : Nat) (k : Word) (f : Nat → Nat × Nat) : VWord × Nat :=
  let r := (List.range n).map (fun j => if laneOn k e j then f j else (lane old e j, 0))
  (ofLanes e (r.map (·.1)), r.foldl (fun a x => a ||| x.2) 0)
/-- An element-wise instruction of type t on v(d): the new lanes, their flags, and PC moves on. -/
def laneOp (g : Fin 8) (len : Nat) (t : Fmt) (d : Nat) (vs reads : List Nat) (f : State → Nat → Nat × Nat) (s : State) : Result :=
  vecForm (d :: vs) reads [] s fun _ _ s =>
    let (x, fl) := lanewise (s.v d) t.size t.lanes (s.k g) (f s)
    ((s.setV d x).orFlags fl).advance len

/-- A floating operation on two encodings: exact, then one rounding (R151, R263). -/
def fpBin (t : Fmt) (m : RMode) (f : Val → Val → Val × Nat) (x y : Nat) : Nat × Nat :=
  let (v, fl) := f ((fpOf t).decode x) ((fpOf t).decode y)
  let (r, fl') := (fpOf t).rnd m v
  (r, fl ||| fl')
/-- A floating operation on one encoding. -/
def fpUn (t : Fmt) (m : RMode) (f : Val → Val × Nat) (x : Nat) : Nat × Nat :=
  let (v, fl) := f ((fpOf t).decode x)
  let (r, fl') := (fpOf t).rnd m v
  (r, fl ||| fl')
/-- Both parts of a CF32 element (R149). -/
def bothParts (f : Nat → Nat → Nat × Nat) (x y : Nat) : Nat × Nat :=
  let (re, a) := f (x % 2 ^ 32) (y % 2 ^ 32)
  let (im, b) := f (x / 2 ^ 32 % 2 ^ 32) (y / 2 ^ 32 % 2 ^ 32)
  (re + im * 2 ^ 32, a ||| b)
/-- An addition-like operation of every type that has one (R264). -/
def addLike (t : Fmt) (m : RMode) (fp : Val → Val → Val × Nat) (int : Int → Int → Int) (x y : Nat) : Nat × Nat :=
  if t.isFp then fpBin t m fp x y
  else if t = .cf32 then bothParts (fpBin .fp32 m fp) x y
  else (intBits (8 * t.size) (int (intOf t x) (intOf t y)), 0)
/-- The exact sum and difference of two values. -/
def addVal (m : RMode) (x y : Val) : Val × Nat := sumVals m [x, y]
/-- The exact difference. -/
def subVal (m : RMode) (x y : Val) : Val × Nat := sumVals m [x, y.flip]
/-- x × y + d exactly; 0 × ∞ is invalid with any addend (R264). -/
def fmaVal (m : RMode) (x y d : Val) : Val × Nat :=
  let (p, a) := mulVals x y
  let (v, b) := sumVals m [p, d]
  (v, a ||| b)

/-! ### Element-wise arithmetic (R264–R266) -/

/-- `op.type vd, va, vb`. -/
def vecRR (g : Fin 8) (len : Nat) (t : Fmt) (d a b : Nat) (f : State → Nat → Nat → Nat × Nat) (s : State) : Result :=
  laneOp g len t d [a, b] [] (fun s j => f s (lane (s.v a) t.size j) (lane (s.v b) t.size j)) s
/-- `op.type vd, va`. -/
def vecR (g : Fin 8) (len : Nat) (t : Fmt) (d a : Nat) (f : State → Nat → Nat × Nat) (s : State) : Result :=
  laneOp g len t d [a] [] (fun s j => f s (lane (s.v a) t.size j)) s
/-- VFMA and VFMS, which also read v(d). -/
def vecFma (g : Fin 8) (t : Fmt) (d a b : Nat) (neg : Bool) (s : State) : Result :=
  laneOp g 4 t d [a, b] [] (fun s j =>
    let x := (fpOf t).decode (lane (s.v a) t.size j)
    let y := (fpOf t).decode (lane (s.v b) t.size j)
    let (v, fl) := fmaVal s.mode (if neg then x.flip else x) y ((fpOf t).decode (lane (s.v d) t.size j))
    let (r, fl') := (fpOf t).rnd s.mode v
    (r, fl ||| fl')) s
/-- Minimum and maximum of every type that has one (R173, R264). -/
def pickLike (less : Bool) (t : Fmt) (m : RMode) (x y : Nat) : Nat × Nat :=
  if t.isFp then fpBin t m (pickVals less) x y
  else (intBits (8 * t.size) (if less then min (intOf t x) (intOf t y) else max (intOf t x) (intOf t y)), 0)

/-- VADD (R264). -/
def execVadd (g : Fin 8) (t : Fmt) (d a b : Fin 16) (s : State) : Result :=
  vecRR g 4 t d a b (fun s => addLike t s.mode (addVal s.mode) (· + ·)) s
/-- VSUB (R264). -/
def execVsub (g : Fin 8) (t : Fmt) (d a b : Fin 16) (s : State) : Result :=
  vecRR g 4 t d a b (fun s => addLike t s.mode (subVal s.mode) (· - ·)) s
/-- VMUL (R264). -/
def execVmul (g : Fin 8) (t : Fmt) (d a b : Fin 16) (s : State) : Result :=
  vecRR g 4 t d a b (fun s => addLike t s.mode mulVals (· * ·)) s
/-- VFMA (R264). -/
def execVfma (g : Fin 8) (t : Fmt) (d a b : Fin 16) (s : State) : Result := vecFma g t d a b false s
/-- VFMS (R264). -/
def execVfms (g : Fin 8) (t : Fmt) (d a b : Fin 16) (s : State) : Result := vecFma g t d a b true s
/-- VMIN (R173, R264). -/
def execVmin (g : Fin 8) (t : Fmt) (d a b : Fin 16) (s : State) : Result := vecRR g 4 t d a b (fun s => pickLike true t s.mode) s
/-- VMAX (R173, R264). -/
def execVmax (g : Fin 8) (t : Fmt) (d a b : Fin 16) (s : State) : Result := vecRR g 4 t d a b (fun s => pickLike false t s.mode) s
/-- VDIV (R264). -/
def execVdiv (g : Fin 8) (t : Fmt) (d a b : Fin 16) (s : State) : Result := vecRR g 4 t d a b (fun s => fpBin t s.mode divVals) s

/-- A sign operation: of a floating value, of both parts of CF32, or of a signed integer, which saturates at −2^(8e−1) (R265). -/
def signLike (t : Fmt) (m : RMode) (fp : Val → Val) (int : Int → Int) (x : Nat) : Nat × Nat :=
  let one (t : Fmt) (x : Nat) : Nat × Nat := fpUn t m (fun v => (fp v, snanFlag [v])) x
  if t.isFp then one t x
  else if t = .cf32 then bothParts (fun x _ => one .fp32 x) x x
  else
    let (n, fl) := toRange (rangeOf t).1 (rangeOf t).2 (int (intOf t x))
    (intBits (8 * t.size) n, fl)
/-- VABS (R265). -/
def execVabs (g : Fin 8) (t : Fmt) (d a : Fin 16) (s : State) : Result :=
  vecR g 4 t d a (fun s => signLike t s.mode Val.abs (fun n => (n.natAbs : Int))) s
/-- VNEG (R265). -/
def execVneg (g : Fin 8) (t : Fmt) (d a : Fin 16) (s : State) : Result :=
  vecR g 4 t d a (fun s => signLike t s.mode Val.flip (fun n => -n)) s
/-- VSQRT (R266). -/
def execVsqrt (g : Fin 8) (t : Fmt) (d a : Fin 16) (s : State) : Result := vecR g 4 t d a (fun s => fpUn t s.mode sqrtVal) s
/-- VRCP (R266). -/
def execVrcp (g : Fin 8) (t : Fmt) (d a : Fin 16) (s : State) : Result :=
  vecR g 4 t d a (fun s => fpUn t s.mode (divVals (.fin false 1 0))) s
/-- VRSQ (R266). -/
def execVrsq (g : Fin 8) (t : Fmt) (d a : Fin 16) (s : State) : Result := vecR g 4 t d a (fun s => fpUn t s.mode rsqrtVal) s
/-- VEXP2 (R266). -/
def execVexp2 (g : Fin 8) (t : Fmt) (d a : Fin 16) (s : State) : Result := vecR g 4 t d a (fun s => fpUn t s.mode exp2Val) s
/-- VLOG2 (R266). -/
def execVlog2 (g : Fin 8) (t : Fmt) (d a : Fin 16) (s : State) : Result := vecR g 4 t d a (fun s => fpUn t s.mode log2Val) s
/-- VMOV: bits unchanged (R265). -/
def execVmov (g : Fin 8) (t : Fmt) (d a : Fin 16) (s : State) : Result := vecR g 4 t d a (fun _ x => (x, 0)) s

/-! ### Logic and shifts (R267) -/

/-- VAND, byte by byte (R267). -/
def execVand (g : Fin 8) (d a b : Fin 16) (s : State) : Result := vecRR g 4 .untyped d a b (fun _ x y => (x &&& y, 0)) s
/-- VOR (R267). -/
def execVor (g : Fin 8) (d a b : Fin 16) (s : State) : Result := vecRR g 4 .untyped d a b (fun _ x y => (x ||| y, 0)) s
/-- VXOR (R267). -/
def execVxor (g : Fin 8) (d a b : Fin 16) (s : State) : Result := vecRR g 4 .untyped d a b (fun _ x y => (x ^^^ y, 0)) s
/-- A shift of an integer lane by a count modulo 8e. -/
def shiftLanes (g : Fin 8) (t : Fmt) (d a b : Nat) (f : Nat → Nat → Nat → Nat) (s : State) : Result :=
  vecRR g 4 t d a b (fun _ x y => (f (8 * t.size) x (y % (8 * t.size)), 0)) s
/-- VSHL (R267). -/
def execVshl (g : Fin 8) (t : Fmt) (d a b : Fin 16) (s : State) : Result := shiftLanes g t d a b (fun _ x k => x * 2 ^ k) s
/-- VSHR (R267). -/
def execVshr (g : Fin 8) (t : Fmt) (d a b : Fin 16) (s : State) : Result := shiftLanes g t d a b (fun _ x k => x / 2 ^ k) s
/-- VSAR (R267). -/
def execVsar (g : Fin 8) (t : Fmt) (d a b : Fin 16) (s : State) : Result :=
  shiftLanes g t d a b (fun w x k => intBits w (signedOf w x / 2 ^ k)) s
/-- VROTL (R267). -/
def execVrotl (g : Fin 8) (t : Fmt) (d a b : Fin 16) (s : State) : Result :=
  shiftLanes g t d a b (fun w x k => x * 2 ^ k % 2 ^ w + x / 2 ^ (w - k)) s

/-! ### Compares (R268) -/

/-- The outcome of a condition on two floating values, and its flags (R268). -/
def fpCond (c : Cond) (x y : Val) : Bool × Nat :=
  let unordered := x.isNan || y.isNan
  let quiet := snanFlag [x, y]
  match c with
  | .eq => (!unordered && x.eqv y, quiet)
  | .ne => (unordered || !x.eqv y, quiet)
  | .lt => (!unordered && x.lt y, if unordered then flagNV else 0)
  | .le => (!unordered && !y.lt x, if unordered then flagNV else 0)
  | .un => (unordered, quiet)
  | _ => (false, 0)
/-- The outcome of a condition on two lanes of a type. -/
def laneCond (c : Cond) (t : Fmt) (x y : Nat) : Bool × Nat :=
  if t.isFp then fpCond c ((fpOf t).decode x) ((fpOf t).decode y)
  else if t = .cf32 then
    let (p, a) := fpCond .eq (fpF32.decode (x % 2 ^ 32)) (fpF32.decode (y % 2 ^ 32))
    let (q, b) := fpCond .eq (fpF32.decode (x / 2 ^ 32)) (fpF32.decode (y / 2 ^ 32))
    ((p && q) != decide (c = .ne), a ||| b)
  else
    let (p, q) := (intOf t x, intOf t y)
    (match c with | .eq => decide (p = q) | .ne => decide (p ≠ q) | .lt => decide (p < q) | .le => decide (p ≤ q) | _ => false, 0)
/-- VCMP (R268). -/
def execVcmp (g : Fin 8) (c : Cond) (t : Fmt) (d : Fin 8) (a b : Fin 16) (s : State) : Result :=
  vecForm [a, b] [] [] s fun _ _ s =>
    let k := s.k g
    let at_ (j : Nat) : Bool × Nat := laneCond c t (lane (s.v a) t.size j) (lane (s.v b) t.size j)
    let active := (List.range t.lanes).filter (fun j => laneOn k t.size j)
    let per := 4 / t.size
    let bitOf (i : Nat) : Bool :=
      if 4 ≤ t.size then (at_ (i * 4 / t.size)).1 else (List.range per).all (fun j => (at_ (i * per + j)).1)
    let on (i : Nat) : Bool := if t.size = 8 then k.getLsbD (i / 2 * 2) else k.getLsbD i
    let x := (List.range 64).foldl (fun x i => if (if on i then bitOf i else (s.k d).getLsbD i) then x + 2 ^ i else x) 0
    ((s.setK d (word x)).orFlags (active.foldl (fun f j => f ||| (at_ j).2) 0)).advance 4

/-! ### Conversion (R269–R272) -/

/-- VCVT (R269). -/
def execVcvt (g : Fin 8) (t u : Fmt) (d a : Fin 16) (s : State) : Result :=
  laneOp g 4 t d [a] [] (fun s j =>
    if j < Nat.min t.lanes u.lanes then (convertElem s.mode tableA u t (lane (s.v a) u.size j)).getD (0, 0) else (0, 0)) s
/-- The K8 format of a table selector (R270). -/
def k8Of (k : Fin 3) : Fmt := match k with | 0 => .k8a | 1 => .k8b | _ => .k8t
/-- VDEC8 (R270). -/
def execVdec8 (g : Fin 8) (t : Fmt) (k : Fin 3) (q : Fin 8) (d a : Fin 16) (s : State) : Result :=
  vecForm [d, a] [] [] s fun c _ s =>
    let tbl := s.tableOf c (k8Of k)
    let code (j : Nat) : Nat := lane (s.v a) 1 (t.lanes * q.val + j)
    match ((List.range t.lanes).filter (fun j => laneOn (s.k g) t.size j)).find? (fun j => (tbl.get (code j)).isNone) with
    | some j => s.trap 0x04 0 (word j)
    | none =>
      let (x, fl) := lanewise (s.v d) t.size t.lanes (s.k g) (fun j => (convertElem s.mode tbl (k8Of k) t (code j)).getD (0, 0))
      ((s.setV d x).orFlags fl).advance 4
/-- VENC8 (R271). -/
def execVenc8 (g : Fin 8) (t : Fmt) (k : Fin 3) (q : Fin 8) (d a : Fin 16) (s : State) : Result :=
  vecForm [d, a] [] [] s fun c _ s =>
    let tbl := s.tableOf c (k8Of k)
    let active := (List.range t.lanes).filter (fun j => laneOn (s.k g) t.size j)
    if !tbl.enc && !active.isEmpty then s.trap 0x05 0 0
    else
      let r := active.map (fun j => (t.lanes * q.val + j, tbl.encode ((fpOf t).decode (lane (s.v a) t.size j)),
        snanFlag [(fpOf t).decode (lane (s.v a) t.size j)]))
      let x := ofLanes 1 ((List.range 256).map (fun i =>
        match r.find? (fun e => decide (e.1 = i)) with | some e => e.2.1.1 | none => lane (s.v d) 1 i))
      ((s.setV d x).orFlags (r.foldl (fun f e => f ||| e.2.1.2 ||| e.2.2) 0)).advance 4
/-- The copy engine or the matrix queue still uses the core's K8T table (R109, R272). -/
def tableInUse (s : State) (c : Nat) : Bool :=
  (s.core c).copy.q.any (fun q => decide (fieldOf q.w1 63 59 = 14 ∨ fieldOf q.w2 63 59 = 14)) ||
    (s.core c).mq.any (fun m => decide (m.t = .k8t) && decide (m.op ≠ .ast ∧ m.op ≠ .ald))
/-- An entry of the table as TBLLD writes it (R155, R272). -/
def tableEntry (x : Nat) : Nat :=
  let rsv := bit x 0 || decide (bits x 12 1 ≠ 0) || decide (bits x 30 23 = 0 ∧ bits x 22 13 ≠ 0)
  x / 2 ^ 13 * 2 ^ 13 + (if rsv then 1 else 0)
/-- Writes a core's decode table and TBLSTAT (R159, R272). -/
def writeTable (s : State) (c : Nat) (l : List Nat) : State :=
  let x := l.foldr (fun e acc => e % 2 ^ 32 + 2 ^ 32 * acc) 0
  (s.write (padBase c + 0x15400) 1024 x).modCore c (fun k => { k with tblstat := tblstatOf l })
/-- TBLLD: it writes the table once the strand's earlier accesses to it are performed (R272, R335). -/
def execTblld (g : Fin 8) (a : Fin 16) (s : State) : Result :=
  onStrand s fun c n s => guarded g 4 s fun s =>
    if vecBusy s c n [a, a.val + 1, a.val + 2, a.val + 3] || tableInUse s c || bytesInFlight s c n (padBase c + 0x15400) 1024 then .next s
    else
      let l := (List.range 256).map (fun i => tableEntry (lane (s.v (a.val + i / 64)) 4 (i % 64)))
      .next ((writeTable s c l).advance 4)

/-! ### Lane moves (R273) -/

/-- VPERM. -/
def execVperm (g : Fin 8) (t : Fmt) (d a b : Fin 16) (s : State) : Result :=
  laneOp g 4 t d [a, b] [] (fun s j => (lane (s.v a) t.size (lane (s.v b) t.size j % t.lanes), 0)) s
/-- VBCAST. -/
def execVbcast (g : Fin 8) (t : Fmt) (d a : Fin 16) (b : Fin 32) (s : State) : Result :=
  laneOp g 4 t d [a] [b] (fun s _ => (lane (s.v a) t.size ((s.w b).toNat % t.lanes), 0)) s
/-- VSPLAT. -/
def execVsplat (g : Fin 8) (t : Fmt) (d : Fin 16) (a : Fin 32) (s : State) : Result :=
  laneOp g 4 t d [] [a] (fun s _ => ((s.w a).toNat % 2 ^ (8 * t.size), 0)) s
/-- A lane in a w register: sign-extended for INT types, else zero-extended (R273, R274). -/
def laneWord (t : Fmt) (x : Nat) : Word := if t.isSigned then signExt (8 * t.size) x else zeroExt (8 * t.size) x
/-- VEXT; the predicate governs it whole. -/
def execVext (g : Fin 8) (t : Fmt) (d : Fin 32) (a : Fin 16) (b : Fin 32) (s : State) : Result :=
  onStrand s fun _ _ s => guarded g 4 s fun s =>
    vecForm [a] [b] [d] s fun _ _ s => (s.setW d (laneWord t (lane (s.v a) t.size ((s.w b).toNat % t.lanes)))).advance 4
/-- VINS. -/
def execVins (g : Fin 8) (t : Fmt) (d : Fin 16) (a b : Fin 32) (s : State) : Result :=
  laneOp g 4 t d [] [a, b] (fun s j =>
    (if j = (s.w b).toNat % t.lanes then (s.w a).toNat % 2 ^ (8 * t.size) else lane (s.v d) t.size j, 0)) s
/-- VSEL, on 4-byte groups. -/
def execVsel (g c : Fin 8) (d a b : Fin 16) (s : State) : Result :=
  laneOp g 4 .fp32 d [a, b] [] (fun s i => (lane (if (s.k c).getLsbD i then s.v a else s.v b) 4 i, 0)) s
/-- VCLR. -/
def execVclr (g : Fin 8) (d : Fin 16) (s : State) : Result := laneOp g 4 .untyped d [] [] (fun _ _ => (0, 0)) s

/-! ### Reductions and scans (R173, R174, R274) -/

/-- One step of a reduction on two lanes (R274, Table 5). -/
def redStep (o : RedOp) (t : Fmt) (m : RMode) (x y : Nat) : Nat × Nat :=
  match o with
  | .add => addLike t m (addVal m) (· + ·) x y
  | .adds =>
    let (n, fl) := toRange (rangeOf t).1 (rangeOf t).2 (intOf t x + intOf t y)
    (intBits (8 * t.size) n, fl)
  | .min => pickLike true t m x y
  | .max => pickLike false t m x y
  | .and => (x &&& y, 0)
  | .or => (x ||| y, 0)
  | .xor => (x ^^^ y, 0)
/-- The identity of a reduction (R274, Table 5). -/
def redIdentity (o : RedOp) (t : Fmt) : Nat :=
  match o with
  | .min => if t.isFp then (fpOf t).inf false else intBits (8 * t.size) (rangeOf t).2
  | .max => if t.isFp then (fpOf t).inf true else intBits (8 * t.size) (rangeOf t).1
  | .and => 2 ^ (8 * t.size) - 1
  | _ => 0
/-- A step of the tree, where an inactive lane is absent (R274). One lane alone is its own result, bit for bit and with no flag, also where it
is a NaN or a BF16 code of value zero (log 99, DESIGN CHOICE). -/
def redPair (o : RedOp) (t : Fmt) (m : RMode) : Option Nat → Option Nat → Option Nat × Nat
  | some x, some y => let (r, f) := redStep o t m x y; (some r, f)
  | some x, none => (some x, 0)
  | none, y => (y, 0)
/-- One level of the tree. -/
def redLevel (o : RedOp) (t : Fmt) (m : RMode) : List (Option Nat) → List (Option Nat) × Nat
  | x :: y :: rest =>
    let (r, f) := redPair o t m x y
    let (l, f') := redLevel o t m rest
    (r :: l, f ||| f')
  | l => (l, 0)
/-- The tree down to one value; the fuel is the number of levels. -/
def redTree (o : RedOp) (t : Fmt) (m : RMode) : Nat → List (Option Nat) → Option Nat × Nat
  | 0, l => (l.headD none, 0)
  | fuel + 1, l =>
    let (l, f) := redLevel o t m l
    let (r, f') := redTree o t m fuel l
    (r, f ||| f')
/-- VRED (R173, R274). -/
def execVred (g : Fin 8) (o : RedOp) (t : Fmt) (d : Fin 32) (a : Fin 16) (s : State) : Result :=
  vecForm [a] [] [d] s fun _ _ s =>
    let l := (List.range t.lanes).map (fun j => if laneOn (s.k g) t.size j then some (lane (s.v a) t.size j) else none)
    let (r, f) := redTree o t s.mode (t.lanes.log2) l
    ((s.setW d (laneWord t (r.getD (redIdentity o t)))).orFlags f).advance 4
/-- The running values of a scan over active lanes (R174, R274). -/
def scanLanes (o : RedOp) (t : Fmt) (m : RMode) : Option Nat → List (Option Nat) → List (Option Nat) × Nat
  | _, [] => ([], 0)
  | run, none :: rest => let (l, f) := scanLanes o t m run rest; (none :: l, f)
  | run, some x :: rest =>
    let (r, f) := redPair o t m run (some x)
    let (l, f') := scanLanes o t m r rest
    (r :: l, f ||| f')
/-- VSCAN (R174, R274). -/
def execVscan (g : Fin 8) (o : RedOp) (t : Fmt) (d a : Fin 16) (s : State) : Result :=
  vecForm [d, a] [] [] s fun _ _ s =>
    let l := (List.range t.lanes).map (fun j => if laneOn (s.k g) t.size j then some (lane (s.v a) t.size j) else none)
    let (r, f) := scanLanes o t s.mode none l
    let x := ofLanes t.size ((List.range t.lanes).map (fun j => ((r[j]?).getD none).getD (lane (s.v d) t.size j)))
    ((s.setV d x).orFlags f).advance 4

/-! ### Complex lanes (R275) -/

/-- The real or imaginary part of a CF32 element, as an FP32 value. -/
def partVal (x i : Nat) : Val := fpF32.decode (x / 2 ^ (32 * i) % 2 ^ 32)
/-- A component: the sum of two products and perhaps an addend, rounded once (R275). -/
def complexPart (m : RMode) (p q : Val × Nat) (neg : Bool) (d : Option Val) : Nat × Nat :=
  let (v, fl) := sumVals m ((match d with | some d => [d] | none => []) ++ [p.1, if neg then q.1.flip else q.1])
  let (r, fl') := fpF32.rnd m v
  (r, p.2 ||| q.2 ||| fl ||| fl')
/-- The product of two CF32 elements, with an addend for VCFMA. -/
def complexMul (m : RMode) (a b : Nat) (d : Option Nat) : Nat × Nat :=
  let ar := partVal a 0
  let ai := partVal a 1
  let br := partVal b 0
  let bi := partVal b 1
  let (re, f) := complexPart m (mulVals ar br) (mulVals ai bi) true (d.map (fun d => partVal d 0))
  let (im, f') := complexPart m (mulVals ar bi) (mulVals ai br) false (d.map (fun d => partVal d 1))
  (re + im * 2 ^ 32, f ||| f')
/-- VCMUL (R275). -/
def execVcmul (g : Fin 8) (d a b : Fin 16) (s : State) : Result := vecRR g 4 .cf32 d a b (fun s x y => complexMul s.mode x y none) s
/-- VCFMA (R275). -/
def execVcfma (g : Fin 8) (d a b : Fin 16) (s : State) : Result :=
  laneOp g 4 .cf32 d [a, b] [] (fun s j =>
    complexMul s.mode (lane (s.v a) 8 j) (lane (s.v b) 8 j) (some (lane (s.v d) 8 j))) s

/-! ### 16-bit forms (R208) -/

/-- VADD.FP32 vp, vp, vq. -/
def execVaddC (p q : Fin 8) (s : State) : Result := vecRR 0 2 .fp32 p p q (fun s => addLike .fp32 s.mode (addVal s.mode) (· + ·)) s
/-- VSUB.FP32 vp, vp, vq. -/
def execVsubC (p q : Fin 8) (s : State) : Result := vecRR 0 2 .fp32 p p q (fun s => addLike .fp32 s.mode (subVal s.mode) (· - ·)) s
/-- VMUL.FP32 vp, vp, vq. -/
def execVmulC (p q : Fin 8) (s : State) : Result := vecRR 0 2 .fp32 p p q (fun s => addLike .fp32 s.mode mulVals (· * ·)) s
/-- VMOV vp, vq. -/
def execVmovC (p q : Fin 8) (s : State) : Result := vecR 0 2 .untyped p q (fun _ x => (x, 0)) s
/-- VCLR vp. -/
def execVclrC (p : Fin 8) (s : State) : Result := laneOp 0 2 .untyped p [] [] (fun _ _ => (0, 0)) s

end Sys2Proof.Machine
end

