-- ==== Sys2Proof/Machine/Tensor.lean ====
section
/-! DEFINITION. Reads of a strand or of one of its matrix commands that follow its domain, and block scales (R161–R163). -/

namespace Sys2Proof.Machine

/-! ### Reads of a strand (R162, R376) -/

/-- n bytes of one line that a strand, or the command at the head of its core's queue, reads at once, as a number: the answer is the cause,
kind and address of a failure. -/
def strandRead (s : State) (a : Agent) (va n : Nat) : State × Except (Nat × Nat × Nat) Nat :=
  match translateFor s a.core a.dom va .load with
  | (s, .error r) => (s, .error (r.cause, r.kind, va))
  | (s, .ok p) =>
    match farRead s a p n with
    | (s, .error cause) => (s, .error (cause, 0, va))
    | (s, .ok x) => (s, .ok x)
/-- A load of one byte by a strand has to wait: an earlier access or matrix command has still to do with it, an acquire comes first, or
earlier commands on its bank (R54, R283, R335). -/
def byteInFlight (s : State) (c n va : Nat) : Bool :=
  match translate s c (s.core c).domain va with
  | (_, .ok p) => !loadReady s c n p.pa 1 || !foOpen s (s.core c).domain p
  | _ => false
/-- The scale bytes at a list of addresses; 255 traps 0x04 (R161, R162), with the address of the scale byte (log 98, DESIGN CHOICE). -/
def readScales (s : State) (a : Agent) : List Nat → State × Except (Nat × Nat × Nat) (List Nat)
  | [] => (s, .ok [])
  | va :: rest =>
    match strandRead s a va 1 with
    | (s, .error e) => (s, .error e)
    | (s, .ok x) =>
      if e8Reserved x then (s, .error (0x04, 0, va))
      else
        match readScales s a rest with
        | (s, .error e) => (s, .error e)
        | (s, .ok l) => (s, .ok (x :: l))

end Sys2Proof.Machine
end

