-- ==== Sys2Proof/Machine/VectorMem.lean ====
section
/-! DEFINITION. Vector loads and stores, majors 0x2B–0x2E (R276–R280). -/

namespace Sys2Proof.Machine

/-- An element of a vector access: its lane, its address, and the address of its scale. -/
structure VElem where
  lane : Nat
  va : Nat
  scale : Nat
  deriving DecidableEq, Repr

/-- How the lanes of an access come to it: their elements in lane order up to the first that traps by the instruction's own rule,
that trap's cause and address, the lanes of a load that become zero, and whether it is scaled. -/
structure VPlan where
  elems : List VElem
  ends : Option (Nat × Nat)
  zeros : List Nat
  scaled : Bool
  deriving DecidableEq, Repr

/-- A register's or map's tag for an access of a type (R276, item 3): the cause of its trap, or whether the access is scaled. The
scale source is missing where its base is 0. -/
def tagCheck (tag : Nat) (t : Fmt) (source : Nat) : Except Nat Bool :=
  if !tagValid tag then .error 0x03
  else if tag % 8 = 0 then .ok false
  else if !t.isFp then .error 0x03
  else if source = 0 then .error 0x11
  else .ok true

/-- The access itself, once its plan is known: the elements' checks, the plan's own trap, the scales, and the accesses (R222, R276).
The flags of a scaled store are set as it retires, with those of another core's port that may still refuse it when that has taken it (R263). -/
def vecAccess (s : State) (c n len : Nat) (t : Fmt) (d : Nat) (store : Bool) (p : VPlan) : State :=
  if p.scaled && p.elems.any (fun e => byteInFlight s c n e.scale) then s
  else
    let u := if store then Use.store else Use.load
    let op := if store then AccOp.store else AccOp.load
    let want (data : Nat) (e : VElem) : Want := ⟨e.va, t.size, data, 0, e.lane⟩
    match checkWants s c n u op false (p.elems.map (want 0)) with
    | (s, .error (cause, kind, va)) => accessFails s c n cause kind va
    | (s, .ok ps) =>
      match p.ends with
      | some (cause, va) => s.trap cause 0 (word va)
      | none =>
        match (if p.scaled then readScales s (s.strandAgent c n) (p.elems.map (·.scale)) else (s, .ok [])) with
        | (s, .error (cause, kind, va)) => s.trapWith cause 0 kind (word va)
        | (s, .ok scales) =>
          let scaleOf (i : Nat) : Nat := scales[i]?.getD 127
          if store then
            let raw (q : Piece) : Nat := lane (s.v d) t.size q.lane
            let out (i : Nat) (q : Piece) : Nat × Nat :=
              if p.scaled then
                let v := (fpOf t).decode (raw q)
                let (x, f) := (fpOf t).rnd s.mode (v.scale (127 - (scaleOf i : Int)))
                (x, f ||| snanFlag [v])
              else (raw q, 0)
            let r := (ps.zipIdx).map (fun q => (({ q.1 with data := (out q.2 q.1).1 } : Piece), (out q.2 q.1).2))
            let f := r.foldl (fun f q => f ||| q.2) 0
            if holdsStrand s c .store false .none ps then launchAcc s c n len .store false .strand .none (.flags f) (r.map (·.1))
            else launchAcc (s.orFlags f) c n len .store false .strand .none .none (r.map (·.1))
          else
            let perLane := (List.range t.lanes).map (fun j =>
              match p.elems.findIdx? (fun e => decide (e.lane = j)) with | some i => scaleOf i | none => 127)
            launchAcc s c n len .load false .strand .none (.v d t perLane p.scaled p.zeros) ps

/-- A vector access through a register: guard lanes, tag and scales by SCB (R21, R276). The tag is decoded once for the instruction, also where
no lane is active (log 96, DESIGN CHOICE), and its trap gives the base without the offset (log 97, DESIGN CHOICE). -/
def vecMem (g : Fin 8) (len : Nat) (t : Fmt) (store : Bool) (d : Nat) (vs reads : List Nat) (base : State → Word)
    (addr : State → Nat → Nat) (s : State) : Result :=
  vecForm (d :: vs) reads [] s fun c n s =>
    let active := (List.range t.lanes).filter (fun j => laneOn (s.k g) t.size j)
    let tag := fieldOf (base s) 63 56
    let scb := (s.strand c n).scb.toNat
    match tagCheck tag t scb with
    | .error cause => s.trap cause 0 (word (fieldOf (base s) 55 0))
    | .ok scaled =>
      let elems := active.map (fun j => (⟨j, addr s j % 2 ^ 56, (scb + j / 2 ^ (tag % 8 + 2)) % 2 ^ 56⟩ : VElem))
      vecAccess s c n len t d store ⟨elems, none, [], scaled⟩
/-- A base address plus a signed offset, modulo 2^56. -/
def offsetVa (base : Nat) (off : Int) : Nat := ((base + off : Int) % 2 ^ 56).toNat

/-! ### Contiguous, strided and indexed (R277, R278) -/

/-- VLD (R277). -/
def execVld (g : Fin 8) (o : BitVec 8) (t : Fmt) (d : Fin 16) (a : Fin 32) (s : State) : Result :=
  vecMem g 4 t false d [] [a] (fun s => s.w a) (fun s j => formAddr s a o 256 + j * t.size) s
/-- VST (R277). -/
def execVst (g : Fin 8) (o : BitVec 8) (t : Fmt) (d : Fin 16) (a : Fin 32) (s : State) : Result :=
  vecMem g 4 t true d [] [a] (fun s => s.w a) (fun s j => formAddr s a o 256 + j * t.size) s
/-- VLDS (R278). -/
def execVlds (g : Fin 8) (t : Fmt) (d : Fin 16) (a b : Fin 32) (s : State) : Result :=
  vecMem g 4 t false d [] [a, b] (fun s => s.w a) (fun s j => offsetVa (effAddr (s.w a) 0) (j * (s.w b).toInt)) s
/-- VSTS (R278). -/
def execVsts (g : Fin 8) (t : Fmt) (d : Fin 16) (a b : Fin 32) (s : State) : Result :=
  vecMem g 4 t true d [] [a, b] (fun s => s.w a) (fun s j => offsetVa (effAddr (s.w a) 0) (j * (s.w b).toInt)) s
/-- The address of a lane of VLDX and VSTX: its index sign-extended, times the element size (R278). -/
def indexVa (s : State) (t : Fmt) (a b j : Nat) : Nat :=
  offsetVa (effAddr (s.w a) 0) (signedOf (8 * t.size) (lane (s.v b) t.size j) * t.size)
/-- VLDX (R278). -/
def execVldx (g : Fin 8) (t : Fmt) (d : Fin 16) (a : Fin 32) (b : Fin 16) (s : State) : Result :=
  vecMem g 4 t false d [b] [a] (fun s => s.w a) (fun s j => indexVa s t a b j) s
/-- VSTX (R278). -/
def execVstx (g : Fin 8) (t : Fmt) (d : Fin 16) (a : Fin 32) (b : Fin 16) (s : State) : Result :=
  vecMem g 4 t true d [b] [a] (fun s => s.w a) (fun s j => indexVa s t a b j) s

/-! ### Tiles (R279) -/

/-- The plan of VLDT and VSTT for row r of a map's tile: in lane order, lanes past the tile or, with ZPAD, past the matrix become
zero or are dropped, and without ZPAD an element past the matrix traps 0x08 (R279). -/
def tilePlan (m : TMap) (e r : Nat) (scaled : Bool) : List Nat → VPlan
  | [] => ⟨[], none, [], scaled⟩
  | j :: rest =>
    let i := tmRow0 m + r
    let k := tmCol0 m + j
    if tmTcols m ≤ j ∨ (!tmInside m i k ∧ tmZpad m) then
      let p := tilePlan m e r scaled rest
      { p with zeros := j :: p.zeros }
    else if !tmInside m i k then ⟨[], some (0x08, 0), [], scaled⟩
    else
      let p := tilePlan m e r scaled rest
      { p with elems := ⟨j, tmAddr m e i k, if scaled then tmScaleAddr m i k else 0⟩ :: p.elems }
/-- VLDT and VSTT (R279). -/
def tileMem (g : Fin 8) (t : Fmt) (store : Bool) (d a b : Nat) (s : State) : Result :=
  vecForm [d] [b] [] s fun c n s =>
    let m := s.tmap c a
    let r := (s.w b).toNat
    let active := (List.range t.lanes).filter (fun j => laneOn (s.k g) t.size j)
    if !tmValid m ∨ tmTrows m ≤ r ∨ t.lanes < tmTcols m ∨ tmStride m % t.size ≠ 0 then s.trap 0x02 0 (word (tmapVa c a))
    else
      match tagCheck (tmTag m) t (tmScales m) with
      | .error cause => s.trap cause 0 (word (tmBase m))
      | .ok scaled => vecAccess s c n 4 t d store (tilePlan m t.size r scaled active)
/-- VLDT (R279). -/
def execVldt (g : Fin 8) (t : Fmt) (d a : Fin 16) (b : Fin 32) (s : State) : Result := tileMem g t false d a b s
/-- VSTT (R279). -/
def execVstt (g : Fin 8) (t : Fmt) (d a : Fin 16) (b : Fin 32) (s : State) : Result := tileMem g t true d a b s

/-! ### Whole registers (R280) -/

/-- The pieces of one register of VSAVE or VLOAD: 32 words. -/
def regWants (s : State) (ea d i : Nat) : List Want :=
  (List.range 32).map (fun j => ⟨(ea + 256 * i + 8 * j) % 2 ^ 56, 8, lane (s.v (d + i)) 8 j, 0, j⟩)
/-- The registers from i on that pass their checks, as pieces, and the trap of the first that does not (R280). -/
def regPieces (s : State) (c n ea d : Nat) (load : Bool) : List Nat → State × List Piece × Nat × Option (Nat × Nat × Nat)
  | [] => (s, [], 0, none)
  | i :: rest =>
    match checkWants s c n (if load then .load else .store) (if load then .load else .store) false (regWants s ea d i) with
    | (s, .error e) => (s, [], 0, some e)
    | (s, .ok ps) =>
      let (s, qs, k, e) := regPieces s c n ea d load rest
      (s, ps ++ qs, k + 1, e)
/-- VSAVE and VLOAD: registers from VRESUME up are transferred; a failure at register i leaves VRESUME at i and traps 0x1D (R280). They are
no vector loads and stores in the sense of R20: the tag of the pointer is not decoded, and a reserved FMT in it does not trap (log 89,
DESIGN CHOICE). -/
def regMem (g : Fin 8) (cnt d a : Nat) (load : Bool) (s : State) : Result :=
  onStrand s fun c n s => guarded g 4 s fun s =>
    vecForm ((List.range cnt).map (d + ·)) [a] [] s fun _ _ s =>
      let ea := effAddr (s.w a) 0
      let first := (s.strand c n).vresume.toNat
      if ea % 256 ≠ 0 then s.trap 0x06 0 (word ea)
      else if cnt ≤ first then (s.modMe (fun t => { t with vresume := 0 })).advance 4
      else
        let (s, ps, k, e) := regPieces s c n ea d load ((List.range (cnt - first)).map (first + ·))
        let op := if load then AccOp.load else AccOp.store
        match e with
        | none => launchAcc (s.modMe (fun t => { t with vresume := 0 })) c n 4 op false .strand .none (.regs d first cnt load none) ps
        | some (cause, kind, va) =>
          if bankPending s c n cause va then s
          else if k = 0 then s.trapWith 0x1D cause kind (word va)
          else launchAcc s c n 4 op false .strand .none (.regs d first (first + k) load (some (cause, kind, va))) ps
/-- VSAVE (R280); the field holds the count less one. -/
def execVsave (g : Fin 8) (n d : Fin 16) (a : Fin 32) (s : State) : Result := regMem g (n.val + 1) d a false s
/-- VLOAD (R280). -/
def execVload (g : Fin 8) (n d : Fin 16) (a : Fin 32) (s : State) : Result := regMem g (n.val + 1) d a true s

/-! ### 16-bit forms (R208) -/

/-- VLD.FP32 vp, [wq + 256 × i]. -/
def execVldC (i : Fin 32) (p q : Fin 8) (s : State) : Result :=
  vecMem 0 2 .fp32 false p [] [shortReg q] (fun s => s.w (shortReg q))
    (fun s j => effAddr (s.w (shortReg q)) (256 * i.val : Nat) + j * 4) s
/-- VST.FP32 [wq + 256 × i], vp. -/
def execVstC (i : Fin 32) (p q : Fin 8) (s : State) : Result :=
  vecMem 0 2 .fp32 true p [] [shortReg q] (fun s => s.w (shortReg q))
    (fun s j => effAddr (s.w (shortReg q)) (256 * i.val : Nat) + j * 4) s

end Sys2Proof.Machine
end

