-- ==== Sys2Proof/Machine/Matrix.lean ====
section
/-! DEFINITION. The matrix instructions, majors 0x2F and 0x30 (R281–R292), and the steps that the matrix command queue takes: one
slot of a SETST, one row of any other command at a time. -/

namespace Sys2Proof.Machine

/-! ### Issue (R281) -/

/-- The cores of the bond that a core is in, in ascending core number. -/
def bondCores (s : State) (c : Nat) : List Nat :=
  match (s.core c).bond with
  | some r => rectCores (corePkg c) r
  | none => []
/-- The course of a core: the members of its bond with its y, from the head on. -/
def courseOf (s : State) (c : Nat) : List Nat := (bondCores s c).filter (fun x => decide ((coordOf x).2 = (coordOf c).2))
/-- The head of a course: its member with the lowest x (R288). -/
def isCourseHead (s : State) (c : Nat) : Bool := decide ((courseOf s c).head? = some c)
/-- The bond of a core is square (R289). -/
def squareBond (s : State) (c : Nat) : Bool :=
  match (s.core c).bond with
  | some r => decide (bits r 12 10 = bits r 15 13)
  | none => false

/-- A matrix command before it is queued: its fields, and no progress. -/
def matrixCmd (op : MOp) (t : Fmt) (d n : Nat) (across : Bool) (mode : AccMode) : MCmd :=
  { id := 0, op := op, strand := 0, act := 0, actseq := 0, pc := 0, audit := false, claim := 0, t := t, d := d, n := n, across := across,
    mode := mode, map := 0, fctl := 0, row := 0, flags := 0, formed := false, tile := [], fault := none }
/-- The command names an accumulator. -/
def MCmd.usesTile (m : MCmd) : Bool :=
  match m.op with | .setst | .relst => false | _ => true

/-- A limit of a map, or of its shape for the command, is broken (R141, R281, R285, R287, R289). -/
def mapBroken (m : MCmd) (map : TMap) : Bool :=
  let d := accDim m.mode
  !tmFits map m.t.size ||
    (match m.op with
      | .setst | .mrot => decide (tmTrows map ≠ d ∨ tmTcols map ≠ d)
      | .mma | .mmag => decide (tmTcols map ≠ d ∨ d < tmTrows map)
      | _ => false)
/-- The tag of a command's map is refused: the cause (R20, R21, R281). A scaled map is for A streams of the narrow formats only. -/
def mapTag (m : MCmd) (map : TMap) : Option Nat :=
  let narrow := m.t.isK8 || decide (m.t = .bf16) || decide (m.t = .fp16)
  let stream := match m.op with | .mma | .mmag | .mrot => true | _ => false
  if !tagValid (tmTag map) then some 0x03
  else if !tmScaled map then none
  else if !(stream && narrow) then some 0x03
  else if tmScales map = 0 then some 0x11 else none
/-- A SETST source of tile t breaks R126: a byte of it lies in a bank that is not ORDINARY, or in the bank being fired outside slot t.
The answer is the address of the first run that does. -/
def sourceBroken (s : State) (c : Nat) (m : MCmd) : Option Nat :=
  let map := m.map.toNat
  let d := accDim m.mode
  let bad (t : Nat) (q : Nat × Nat) : Bool :=
    inPad q.1 &&
      (let (h, off) := padHolder q.1
       let own := 0x40000 + m.d * 0x20000
       let slot := own + t * 0x2000
       s.firedBank h off q.2 false ||
         decide (h = c ∧ off < own + 0x20000 ∧ own < off + q.2 ∧ ¬ (slot ≤ off ∧ off + q.2 ≤ slot + 0x2000)))
  ((List.range m.n).flatMap (fun t =>
    ((tileSpans map m.t.size (tileOrigin map m.across d t).1 (tileOrigin map m.across d t).2 d d).filter (fun r =>
      (physSpans s c 258 r.1 r.2).any (bad t))).map (·.1))).head?

/-- The checks of R281, step 1, in order: the cause, detail and TRAPA of the first that fails. -/
def matrixRefused (s : State) (c n : Nat) (m : MCmd) (map : Option Nat) : Option (Nat × Nat × Nat) :=
  let x := m.map.toNat
  if m.usesTile ∧ !bit (s.strand c n).claim m.d then some (0x12, 0, 0)
  else
    match (match map with
        | none => none
        | some i =>
          if mapBroken m x then some (0x02, 0, tmapVa c i)
          else (mapTag m x).map (fun cause => (cause, 0, tmBase x))) with
    | some e => some e
    | none =>
      match (if m.op = .setst then sourceBroken s c m else none) with
      | some va => some (0x0A, 0, va)
      | none =>
        match m.op with
        | .mmag => if (s.core c).bond.isNone then some (0x13, 0, 0) else none
        | .mrot | .mrotBuf => if squareBond s c then none else some (0x13, 0, 0)
        | _ => none

/-- A piece that core c's port has checked and not yet performed touches bank b: of an access of its own strands, which it checks as they
issue, or of another core's, which it checks with the first piece (R127, R222). -/
def bankAwaited (s : State) (c b : Nat) : Bool :=
  s.accs.any (fun a => a.pieces.any (fun p =>
    !p.done && decide (p.place = .pad ∧ (padHolder p.pa).1 = c) && touchesBank b (padHolder p.pa).2 p.n &&
      (decide (a.core = c) || (a.checkedWith p).any (·.done))))
/-- Issues a matrix command: a gated form is illegal (R131), then the checks, then it waits while the queue is full or an earlier
activation's command still uses a tile that this one claims (R140), and is queued with copies of its map and of FCTL (R281). A SETST is
accepted when the port has performed the accesses to its bank that it has checked already (R127; log 86, DESIGN CHOICE). Only the head of a
course uses the map of an MMAG (R288). -/
def matrixForm (g : Fin 8) (m : MCmd) (map : Option Nat) (s : State) : Result :=
  onStrand s fun c n s =>
    let gated := match m.op with | .setst | .mma | .mmag | .mrot | .mrotBuf => m.t.isGated | _ => false
    if gated && (s.pkg (corePkg c)).narrow then .next (s.trap 0x01 0x04 s.firstPc)
    else guarded g 4 s fun s =>
      let t := s.strand c n
      let map := if m.op = .mmag && (s.core c).bond.isSome && !isCourseHead s c then none else map
      let m := { m with
        id := s.fresh, strand := n, act := t.act, actseq := t.actseq, pc := s.firstPc, audit := t.audit, claim := t.claim,
        map := (map.map (fun i => BitVec.ofNat 512 (s.tmap c i))).getD 0, fctl := t.fctl }
      match matrixRefused s c n m map with
      | some (cause, detail, va) => .next (s.trap cause detail (word va))
      | none =>
        let held := (s.core c).mq.any (fun x => decide (x.act ≠ t.act) && x.usesTile && bit t.claim x.d)
        if 8 ≤ (s.core c).mq.length ∨ held ∨ (m.op = .setst ∧ bankAwaited s c m.d) then .next s
        else .next (((s.modCore c (fun k => { k with mq := k.mq ++ [m] })).tickFresh).advance 4)

/-- SETST (R285); the field holds the count less one. -/
def execSetst (g : Fin 8) (t : Fmt) (x : Bool) (cnt : Fin 16) (k : Fin 2) (a : Fin 16) (s : State) : Result :=
  matrixForm g (matrixCmd .setst t k (cnt.val + 1) x (accModeOf t)) (some a) s
/-- RELST (R286). -/
def execRelst (g : Fin 8) (k : Fin 2) (s : State) : Result := matrixForm g (matrixCmd .relst .untyped k 0 false .none) none s
/-- ACLR (R286). -/
def execAclr (g : Fin 8) (d : Fin 4) (s : State) : Result := matrixForm g (matrixCmd .aclr .untyped d 0 false .none) none s
/-- AST (R291). -/
def execAst (g : Fin 8) (t : Fmt) (d : Fin 16) (a : Fin 4) (s : State) : Result :=
  matrixForm g (matrixCmd .ast t a 0 false .none) (some d) s
/-- ALD (R292). -/
def execAld (g : Fin 8) (t : Fmt) (mode : AccMode) (d : Fin 4) (a : Fin 16) (s : State) : Result :=
  matrixForm g (matrixCmd .ald t d 0 false mode) (some a) s
/-- MMA (R287). -/
def execMma (g : Fin 8) (t : Fmt) (slot : Fin 16) (d : Fin 4) (a : Fin 16) (s : State) : Result :=
  matrixForm g (matrixCmd .mma t d slot false (accModeOf t)) (some a) s
/-- MMAG (R288). -/
def execMmag (g : Fin 8) (t : Fmt) (slot : Fin 16) (d : Fin 4) (a : Fin 16) (s : State) : Result :=
  matrixForm g (matrixCmd .mmag t d slot false (accModeOf t)) (some a) s
/-- MROT (R289). -/
def execMrot (g : Fin 8) (t : Fmt) (slot : Fin 16) (d : Fin 4) (a : Fin 16) (s : State) : Result :=
  matrixForm g (matrixCmd .mrot t d slot false (accModeOf t)) (some a) s
/-- MROT.BUF (R289). -/
def execMrotBuf (g : Fin 8) (t : Fmt) (slot : Fin 16) (d : Fin 4) (s : State) : Result :=
  matrixForm g (matrixCmd .mrotBuf t d slot false (accModeOf t)) none s

/-! ### The queue -/

/-- A continuation of the core belongs to an activation. -/
def contOfAct (k : Core) (act : Nat) : Bool :=
  k.inbox.any (fun x => match x.kind with | .cont y => decide (y.act = act) | _ => false) ||
    (List.range 4).any (fun p => (k.ring p).ents.any (fun x => match x.kind with | .cont y => decide (y.act = act) | _ => false))
/-- ROWPROG of the strand that issued a command. -/
def setRowprog (s : State) (c act row : Nat) : State :=
  match strandOfAct s c act with
  | some n => saveAlso (s.modStrand c n (fun t => { t with rowprog := word row })) c n 8 (word row)
  | none => s
/-- Replaces the command at the head. -/
def setHead (s : State) (c : Nat) (m : MCmd) : State := s.modCore c (fun k => { k with mq := m :: k.mq.drop 1 })
/-- The command at the head has completed r rows. -/
def rowDone (s : State) (c : Nat) (m : MCmd) (r : Nat) : State := setRowprog (setHead s c { m with row := r }) c m.act r
/-- The command at the head is complete and ROWPROG returns to 0 (R282). -/
def commandDone (s : State) (c : Nat) (m : MCmd) : State :=
  setRowprog (s.modCore c (fun k => { k with mq := k.mq.drop 1 })) c m.act 0
/-- The bank that a SETST was filling keeps its former slots (R285). -/
def unstage (k : Core) (m : MCmd) : Core :=
  if m.op = .setst then { k with banks := Table.modify .init k.banks m.d (fun b => { b with staged := [] }) } else k

/-- A matrix trap (R282): the queue stops, ROWPROG holds the rows completed, and the strand takes the trap before its next instruction.
Where the activation has ended, the supervisor receives a fault message and the command is discarded. -/
def matrixTrap (s : State) (c : Nat) (m : MCmd) (cause detail kind addr row : Nat) : State :=
  let row := if m.op = .setst then 0 else row
  let s := s.modCore c (fun k => unstage k m)
  if (strandOfAct s c m.act).isNone ∧ !contOfAct (s.core c) m.act then
    let detail := if cause = 0x07 then kind else detail
    let skind := if isForeman (s.seenCore c) then 4 else 0
    let s := sendFault s c m.strand (word (cause + detail * 2 ^ 8 + kind * 2 ^ 16 + skind * 2 ^ 24), word addr, m.pc,
      s.identOf c m.strand, word row, m.actseq)
    s.modCore c (fun k => { k with mq := k.mq.drop 1 })
  else
    (setRowprog (setHead s c { m with row := row, formed := m.formed, fault := some (cause, detail, kind, addr) }) c m.act row).modCore c
      (fun k => { k with mstop := true })

/-- The instruction at which a strand stands has done nothing yet, so that a matrix trap may be taken before it: it is not issued, or its
access or mortar request waits for the stopped command itself, and is taken back and issued again on resumption (R282, R283). -/
def beforeIssue (s : State) (c n : Nat) : Option State :=
  let idle (s : State) : State := s.modStrand c n (fun t => { t with wait := .none })
  match (s.strand c n).wait with
  | .none => some s
  | .access id =>
    match s.acc? id with
    | some a =>
      let untouched := match a.op with | .atomic _ => a.pieces.all (fun p => !p.done) | _ => true
      let blocked := a.pieces.any (fun p => !p.done && matrixTouches s c a.act a.id p.pa p.n) ||
        (a.ord.rel && (commandsBefore s c a.act a.id).any (·.accesses))
      if untouched && blocked then some (idle (undoAcc (s.dropAcc id) a)) else none
    | none => none
  | .mortar id _ _ _ =>
    match s.mreqs.find? (fun q => decide (q.id = id ∧ q.iss = .strand c n)) with
    | some q => if q.behindMatrix s then some (idle (s.dropReq q)) else none
    | none => none
  | _ => none
/-- The trap that a strand takes before its next instruction because a command of its activation met a matrix trap (R282): TRAPPC is
the command's PC, and the strand continues where it stopped. -/
def pendingMatrixTrap (s : State) (c n : Nat) : Option State :=
  let k := s.core c
  let t := s.strand c n
  match k.mq.head? with
  | none => none
  | some m =>
    match m.fault with
    | none => none
    | some (cause, detail, kind, addr) =>
      if k.mstop ∧ m.act = t.act ∧ t.mode = .running ∧ t.mtrap.isNone then
        (beforeIssue s c n).map (fun s =>
          takeTrap (s.modStrand c n (fun t => { t with mtrap := some m.id })) c n cause detail kind (word addr) m.pc
            (t.pc - word (4 * t.imx.length)) (some m.row))
      else none

/-- An access of its strand that was issued before a command has to be over before it: an acquire, which must have completed; one that
touches a byte of the command; and for a store, one before a release fence of the strand, or before the command where the strand runs the
activation no more (R72, R85, R127, R228, R283, R335). -/
def precedes (s : State) (c : Nat) (m : MCmd) (a : Acc) : Bool :=
  let floor := ((strandOfAct s c m.act).map (fun n => (s.strand c n).relMark)).getD m.id
  let spans := (m.spans c).flatMap (fun r => physSpans s c 258 r.1 r.2)
  a.ord.acq || (!a.performed && (decide (m.op = .ast ∧ a.id < floor) ||
    a.pieces.any (fun p => !p.done && spans.any (fun q => overlaps p.pa p.n q.1 q.2))))
/-- The command at the head of a running queue, if it is of the kind asked for and no earlier access holds it. -/
def matrixHead (s : State) (c : Nat) (op : MOp → Bool) : Option MCmd :=
  let k := s.core c
  match k.mq.head? with
  | none => none
  | some m =>
    if op m.op ∧ !k.mstop ∧ s.accs.all (fun a => !decide (a.core = c ∧ a.act = m.act ∧ a.id < m.id) || !precedes s c m a) then some m
    else none

/-! ### Elements -/

/-- The lines that a run of bytes touches, by an address in each. -/
def runLines (r : Nat × Nat) : List Nat := r.1 :: (List.range ((r.1 % 64 + r.2 + 63) / 64 - 1)).map (fun i => (r.1 / 64 + i + 1) * 64)
/-- Every byte of the runs may be accessed now (R54, R65). -/
def spansOpen (s : State) (c : Nat) (l : List (Nat × Nat)) : Bool :=
  l.all (fun r => (runLines r).all (fun va => match translate s c (s.core c).domain (va % 2 ^ 56) with
    | (_, .ok p) => (s.core c).replay.isSome || foOpen s (s.core c).domain p
    | _ => true))
/-- The agent of a command at the head of its queue: its accesses are those of the strand that issued it (R283). -/
def cmdAgent (s : State) (c : Nat) (m : MCmd) : Agent :=
  { s.agent c with head := true, issuer := some ((strandOfAct s c m.act).getD m.strand, m.act) }
/-- One element of e bytes read for a command: the source of a SETST in the bank being fired is read as ordinary bytes (R126), and a
remote read that fails gives 0 (R224). -/
def elemRead (s : State) (c : Nat) (m : MCmd) (va e : Nat) : State × Except (Nat × Nat × Nat) Nat :=
  if va % e ≠ 0 then (s, .error (0x06, 0, va))
  else
    match translateFor s c (s.core c).domain va .load with
    | (s, .error r) => (s, .error (r.cause, r.kind, va))
    | (s, .ok p) =>
      let bank := padBase c + 0x40000 + m.d * 0x20000
      if m.op = .setst ∧ bank ≤ p.pa ∧ p.pa + e ≤ bank + 0x20000 then
        match s.poisonedAt p.pa e with
        | some at_ => (reportPoison s c va at_, .error (0x1B, 0, va + (at_ - p.pa)))
        | none => (s.correct p.pa e, .ok (s.read p.pa e))
      else strandRead s (cmdAgent s c m) va e

/-- Element (i, k) of a command's map and its scale: none where ZPAD makes it zero (R279, R285, R287). -/
def mapElem (s : State) (c : Nat) (m : MCmd) (scaled : Bool) (i k : Nat) : State × Except (Nat × Nat × Nat) (Option (Nat × Nat)) :=
  let map := m.map.toNat
  if !tmInside map i k then (s, if tmZpad map then .ok none else .error (0x08, 0, 0))
  else
    match elemRead s c m (tmAddr map m.t.size i k) m.t.size with
    | (s, .error e) => (s, .error e)
    | (s, .ok x) =>
      if scaled then
        match readScales s (cmdAgent s c m) [tmScaleAddr map i k] with
        | (s, .error e) => (s, .error e)
        | (s, .ok l) => (s, .ok (some (x, l.headD 127)))
      else (s, .ok (some (x, 127)))
/-- Elements of a list of positions, in order, up to the first failure. -/
def mapElems (s : State) (c : Nat) (m : MCmd) (scaled : Bool) :
    List (Nat × Nat) → State × Except (Nat × Nat × Nat) (List (Option (Nat × Nat)))
  | [] => (s, .ok [])
  | (i, k) :: rest =>
    match mapElem s c m scaled i k with
    | (s, .error e) => (s, .error e)
    | (s, .ok x) =>
      match mapElems s c m scaled rest with
      | (s, .error e) => (s, .error e)
      | (s, .ok l) => (s, .ok (x :: l))

/-- An element as the arithmetic takes it: a real and an imaginary part, and an integer. -/
structure MElem where
  re : Val
  im : Val
  int : Int
  deriving DecidableEq, Repr
/-- The element zero. -/
def MElem.zero : MElem := ⟨.zero false, .zero false, 0⟩
/-- A raw element of a format with its scale exponent; none for a reserved code (R157, R161). -/
def MElem.ofRaw (tbl : DecTable) (t : Fmt) (x scale : Nat) : Option MElem :=
  let k : Int := (scale : Int) - 127
  if t.isK8 then (tbl.get x).map (fun v => ⟨v.scale k, .zero false, 0⟩)
  else
    match t with
    | .int8 => some ⟨.zero false, .zero false, signedOf 8 x⟩
    | .cf32 => some ⟨fpF32.decode (x % 2 ^ 32), fpF32.decode (x / 2 ^ 32), 0⟩
    | _ => some ⟨((fpOf t).decode x).scale k, .zero false, 0⟩
/-- A format is held as K19 (R125, Table 5). -/
def heldK19 (t : Fmt) : Bool := t.isK8 || decide (t = .bf16) || decide (t = .fp16)
/-- The element that a held encoding stands for (R125). -/
def MElem.ofHeld (t : Fmt) (x : Nat) : MElem :=
  if heldK19 t then ⟨fpK19.decode x, .zero false, 0⟩ else (MElem.ofRaw tableA t x 127).getD .zero
/-- The hold encoding of a raw element; none for a reserved code (R125). -/
def heldOf (tbl : DecTable) (t : Fmt) (x : Nat) : Option Nat :=
  if heldK19 t then (MElem.ofRaw tbl t x 127).map (fun v => (fpK19.rnd .rne v.re).1) else some x
/-- The table that a command decodes with. -/
def cmdTable (s : State) (c : Nat) (t : Fmt) : DecTable := if t.isK8 then s.tableOf c t else tableA

/-! ### SETST, RELST and ACLR (R285, R286) -/

/-- Elements of one tile converted for their slot, from index b on; the address of a reserved code is its element's. -/
def stageTile (tbl : DecTable) (t : Fmt) : Nat → List (Option (Nat × Nat)) → Table Nat → Option (Table Nat)
  | _, [], st => some st
  | b, none :: rest, st => stageTile tbl t (b + 1) rest st
  | b, some (x, _) :: rest, st =>
    match heldOf tbl t x with
    | none => none
    | some h => stageTile tbl t (b + 1) rest (if h = 0 then st else Table.set st b h)
/-- The first element of a tile, in order, whose code is reserved. -/
def reservedAt (tbl : DecTable) (t : Fmt) (l : List (Option (Nat × Nat))) : Option Nat :=
  l.findIdx? (fun x => match x with | some (x, _) => (heldOf tbl t x).isNone | none => false)

/-- SETST_FILL: the next slot of a SETST at the head of the queue; with the last slot the bank fires, slots from n on holding zero
tiles (R124–R126, R285). -/
def execSetstFill (c : Nat) (s : State) : Result :=
  match matrixHead s c (fun o => decide (o = .setst)) with
  | none => .next s
  | some m =>
    let map := m.map.toNat
    let d := accDim m.mode
    let (i0, k0) := tileOrigin map m.across d m.row
    let places := (List.range (d * d)).map (fun q => (i0 + q / d, k0 + q % d))
    if !spansOpen s c (tileSpans map m.t.size i0 k0 d d) then .next s
    else
      match mapElems s c m false places with
      | (s, .error (cause, kind, va)) => .next (matrixTrap s c m cause 0 kind va 0)
      | (s, .ok l) =>
        let tbl := cmdTable s c m.t
        match stageTile tbl m.t (m.row * 4096) l ((s.core c).bank m.d).staged with
        | none =>
          let q := (reservedAt tbl m.t l).getD 0
          .next (matrixTrap s c m 0x04 0 0 (tmAddr map m.t.size (i0 + q / d) (k0 + q % d)) 0)
        | some st =>
          if m.row + 1 < m.n then
            .next (setHead (s.modCore c (fun k =>
              { k with banks := Table.modify .init k.banks m.d (fun b => { b with staged := st }) })) c { m with row := m.row + 1 })
          else
            let fired : Bank :=
              { (s.core c).bank m.d with state := .fired, fmt := m.t, n := m.n, held := st, poison := 0, single := [], staged := [] }
            .next (commandDone (s.modCore c (fun k => { k with banks := Table.set k.banks m.d fired })) c m)

/-- RELST_DRAIN: a RELST at the head makes a fired bank DRAINING, and stays at the head until the zeroing ends; on an ORDINARY bank it
has no effect (R124, R128). -/
def execRelstDrain (c : Nat) (s : State) : Result :=
  match matrixHead s c (fun o => decide (o = .relst)) with
  | none => .next s
  | some m =>
    match ((s.core c).bank m.d).state with
    | .fired =>
      .next (s.modCore c (fun k =>
        { k with banks := Table.set k.banks m.d { k.bank m.d with state := .draining, drainEnd := s.cycle + 64, poison := 0, single := [] } }))
    | .draining => .next s
    | _ => .next (commandDone s c m)

/-- BANK_DRAIN_END: 64 cycles later every byte of the bank is zero and the bank is ORDINARY (R124, R128). -/
def execBankDrainEnd (c b : Nat) (s : State) : Result :=
  let k := s.core c
  whenever (decide ((k.bank b).state = .draining ∧ (k.bank b).drainEnd ≤ s.cycle)) s fun s =>
    let s := (s.zeroRange (padBase c + 0x40000 + b * 0x20000) 0x20000).modCore c (fun k => { k with banks := Table.set k.banks b .init })
    match k.mq.head? with
    | some m => if m.op = .relst ∧ m.d = b then commandDone s c m else s
    | none => s

/-- A tile of a core. -/
def Core.tile (k : Core) (a : Nat) : Tile := Table.get .init k.tiles a
/-- Replaces a tile. -/
def State.setTile (s : State) (c a : Nat) (x : Tile) : State := s.modCore c (fun k => { k with tiles := Table.set k.tiles a x })
/-- ACLR_EXECUTE (R284, R286). -/
def execAclrExecute (c : Nat) (s : State) : Result :=
  match matrixHead s c (fun o => decide (o = .aclr)) with
  | none => .next s
  | some m => .next (commandDone (s.setTile c m.d .init) c m)

/-! ### Multiplying (R287) -/

/-- A row of A, decoded; the index of the first reserved code otherwise. -/
def decodeRow (tbl : DecTable) (t : Fmt) : Nat → List (Option (Nat × Nat)) → Except Nat (List MElem)
  | _, [] => .ok []
  | j, x :: rest =>
    match (match x with | none => some MElem.zero | some (r, e) => MElem.ofRaw tbl t r e) with
    | none => .error j
    | some v => (decodeRow tbl t (j + 1) rest).map (v :: ·)

/-- An element of an accumulator after one pass: its bytes, and NV, OF and SAT (R168–R171). The pairs are those of a row of A with a
column of B. -/
def passElem (mode : AccMode) (ab : List (MElem × MElem)) (acc : Nat) : Nat × Bool × Bool × Bool :=
  let re := ab.map (fun p => (p.1.re, p.2.re))
  let no (l : List (Val × Val)) : List Bool := l.map (fun _ => false)
  match mode with
  | .int => let (x, sat) := intPass (ab.map (fun p => (p.1.int, p.2.int))) acc; (x, false, false, sat)
  | .p32 =>
    let (h, l, nv, o) := pairPass fpF32 64 re (no re) (acc % 2 ^ 32) (acc / 2 ^ 32)
    (h + 2 ^ 32 * l, nv, o, false)
  | .p64 =>
    let (h, l, nv, o) := pairPass fpF64 128 re (no re) (acc % 2 ^ 64) (acc / 2 ^ 64)
    (h + 2 ^ 64 * l, nv, o, false)
  | .pcx =>
    let rr := ab.flatMap (fun p => [(p.1.re, p.2.re), (p.1.im, p.2.im)])
    let ii := ab.flatMap (fun p => [(p.1.re, p.2.im), (p.1.im, p.2.re)])
    let (h, l, nv, o) := pairPass fpF32 64 rr (ab.flatMap (fun _ => [false, true])) (acc % 2 ^ 32) (acc / 2 ^ 32 % 2 ^ 32)
    let (h', l', nv', o') := pairPass fpF32 64 ii (no ii) (acc / 2 ^ 64 % 2 ^ 32) (acc / 2 ^ 96)
    (h + 2 ^ 32 * l + 2 ^ 64 * h' + 2 ^ 96 * l', nv || nv', o || o', false)
  | _ => let (x, nv, o) := narrowPass re acc; (x, nv, o, false)

/-- Row i of a tile after a pass with a row of A and a slot of a bank of format t. -/
def passRow (b : Bank) (t : Fmt) (slot i : Nat) (a : List MElem) (x : Tile) : Tile :=
  let mode := (accModeOf t)
  let d := accDim mode
  let w := accBytes mode
  (List.range d).foldl (fun x j =>
    let col := (List.range d).map (fun k => MElem.ofHeld t (Table.get 0 b.held (slot * 4096 + k * d + j)))
    let off := w * (d * i + j)
    let (v, nv, o, sat) := passElem mode (a.zip col) (Memory.readN x.data off w)
    { x with data := Memory.writeN x.data off w v, nv := x.nv || nv, ovf := x.ovf || o, sat := x.sat || sat }) { x with mode := mode }

/-- The checks of R287 at the head, and the poison of the slot (R130): cause and detail. -/
def multiplyRefused (k : Core) (m : MCmd) : Option (Nat × Nat) :=
  let b := k.bank k.active
  let x := k.tile m.d
  if b.state ≠ .fired ∨ b.fmt ≠ m.t then some (0x0A, 0)
  else if x.mode ≠ .none ∧ x.mode ≠ m.mode then some (0x12, 1)
  else if b.poison.getLsbD m.n then some (0x1B, 0) else none
/-- A 64-bit word of a bank lies in a slot (R130). -/
def inSlot (slot w : Nat) : Bool := decide (w / 1024 = slot)
/-- The single-bit errors of a slot that an MMA reads are corrected and counted, word by word (R79, R130). -/
def correctSlot (s : State) (c b slot : Nat) : State :=
  let k := (((s.core c).bank b).single.filter (inSlot slot)).length
  if k = 0 then s
  else
    (s.modCore c (fun x => { x with banks := Table.modify .init x.banks b (fun y => { y with single := y.single.filter (fun w => !inSlot slot w) }) })).countCore
      c k
/-- Row i of a member's accumulator is computed. -/
def multiplyRow (s : State) (c : Nat) (m : MCmd) (i : Nat) (a : List MElem) : State :=
  let k := s.core c
  (correctSlot s c k.active m.n).setTile c m.d (passRow (k.bank k.active) m.t m.n i a (k.tile m.d))

/-- Row i of the A tile of a command's map: the raw elements with scales, and the elements (R287). -/
def readRow (s : State) (c : Nat) (m : MCmd) (i : Nat) :
    State × Except (Nat × Nat × Nat) (List (Option (Nat × Nat)) × List MElem) :=
  let map := m.map.toNat
  let d := accDim m.mode
  match mapElems s c m (tmScaled map) ((List.range d).map (fun k => (tmRow0 map + i, tmCol0 map + k))) with
  | (s, .error e) => (s, .error e)
  | (s, .ok l) =>
    match decodeRow (cmdTable s c m.t) m.t 0 l with
    | .ok a => (s, .ok (l, a))
    | .error j => (s, .error (0x04, 0, tmAddr map m.t.size (tmRow0 map + i) (tmCol0 map + j)))
/-- Bytes of row i of a command's A stream or read-out may be accessed now. -/
def rowOpen (s : State) (c : Nat) (m : MCmd) (i nc : Nat) : Bool :=
  let map := m.map.toNat
  spansOpen s c (tileSpans map m.t.size (tmRow0 map + i) (tmCol0 map) 1 nc ++ scaleSpans map (tmRow0 map + i) (tmCol0 map) 1 nc)
/-- The tile takes its mode before the first row (R287). -/
def takeMode (s : State) (c : Nat) (m : MCmd) : State := s.setTile c m.d { (s.core c).tile m.d with mode := m.mode }

/-- MMA_EXECUTE: the next row of an MMA at the head of the queue (R287). -/
def execMmaExecute (c : Nat) (s : State) : Result :=
  match matrixHead s c (fun o => decide (o = .mma)) with
  | none => .next s
  | some m =>
    if !rowOpen s c m m.row (accDim m.mode) then .next s
    else
      match multiplyRefused (s.core c) m with
      | some (cause, detail) => .next (matrixTrap s c m cause detail 0 0 m.row)
      | none =>
        match readRow (takeMode s c m) c m m.row with
        | (s, .error (cause, kind, va)) => .next (matrixTrap s c m cause 0 kind va m.row)
        | (s, .ok (_, a)) =>
          let s := multiplyRow s c m m.row a
          .next (if m.row + 1 < tmTrows m.map.toNat then rowDone s c m (m.row + 1) else commandDone s c m)

/-! ### Across a bond (R288, R289) -/

/-- A core runs the launch of another and is in its bond: one that has been saved and given to another launch is no member (R290, R370). -/
def inBond (s : State) (c x : Nat) : Bool := decide ((s.core x).launch = (s.core c).launch ∧ (s.core x).bond = (s.core c).bond)
/-- The commands at the heads of a list of cores of core c's bond, where every one is of the kind asked for. -/
def gangHeads (s : State) (op : MOp → Bool) (c : Nat) : List Nat → Option (List (Nat × MCmd))
  | [] => some []
  | x :: rest =>
    match matrixHead s x op, gangHeads s op c rest with
    | some m, some l => if inBond s c x then some ((x, m) :: l) else none
    | _, _ => none
/-- Every member takes a matrix trap. -/
def trapAll (s : State) (l : List (Nat × MCmd)) (cause : Nat) : State :=
  l.foldl (fun s p => matrixTrap s p.1 p.2 cause 0 0 0 p.2.row) s

/-- The joint of a list of heads may form or has formed: every one is in it already, or no member is pre-empted (R290). -/
def jointOpen (s : State) (all : List (Nat × MCmd)) : Bool :=
  all.all (fun p => p.2.formed) || all.all (fun p => !(s.core p.1).preempted)
/-- The heads of a list of cores leave their joint. -/
def unform (s : State) (all : List (Nat × MCmd)) : State := all.foldl (fun s p => setHead s p.1 { p.2 with formed := false }) s
/-- MMAG_JOINT: the next row of the gang multiply of core c's course, once every member has an MMAG at the head of its queue (R288). The
row is the head's own: where its faulting command is discarded and a new one joins, the other members compute rows again that they have done
(log 100, DESIGN CHOICE). -/
def execMmagJoint (c : Nat) (s : State) : Result :=
  match gangHeads s (fun o => decide (o = .mmag)) c (courseOf s c) with
  | none => .next s
  | some [] => .next s
  | some ((h, m) :: rest) =>
    let all := (h, m) :: rest
    if !jointOpen s all then .next s
    else if all.any (fun p => decide (p.2.t ≠ m.t)) then .next (trapAll s all 0x13)
    else
      let out := all.map (fun p => (p.1, { p.2 with formed := false }))
      let failing := all.filterMap (fun p => (multiplyRefused (s.core p.1) p.2).map (fun e => (p, e)))
      if !failing.isEmpty then
        .next (failing.foldl (fun s f => matrixTrap s f.1.1 { f.1.2 with formed := false } f.2.1 f.2.2 0 0 f.1.2.row) (unform s out))
      else if !rowOpen s h m m.row (accDim m.mode) then .next s
      else
        let s := all.foldl (fun s p => takeMode s p.1 p.2) s
        match readRow s h m m.row with
        | (s, .error (cause, kind, va)) => .next (matrixTrap (unform s out) h { m with formed := false } cause 0 kind va m.row)
        | (s, .ok (_, a)) =>
          let s := all.foldl (fun s p => multiplyRow s p.1 p.2 m.row a) s
          .next (all.foldl (fun s p =>
            if m.row + 1 < tmTrows m.map.toNat then rowDone s p.1 { p.2 with formed := true } (m.row + 1) else commandDone s p.1 p.2) s)

/-- The member dx columns to the west or dy rows to the north of a core within a bond, wrapping (R289). -/
def bondNeighbour (s : State) (c dx dy : Nat) : Nat :=
  match (s.core c).bond with
  | none => c
  | some r =>
    let (x, y) := coordOf c
    let w := 2 ^ bits r 12 10
    let h := 2 ^ bits r 15 13
    let x0 := bits r 4 0
    let y0 := bits r 9 5
    corePkg c * 2048 + (y0 + (y - y0 + h - dy) % h) * 32 + (x0 + (x - x0 + w - dx) % w)

/-- One row of a member's step: A comes from its map or from its rotation buffer, and is kept for the exchange (R289). -/
def rotRow (s : State) (c : Nat) (m : MCmd) : State :=
  let d := accDim m.mode
  if d ≤ m.row then s
  else if m.op = .mrotBuf ∧ (((s.core c).rot).map (·.fmt)) ≠ some m.t then matrixTrap s c m 0x13 0 0 0 m.row
  else
    match multiplyRefused (s.core c) m with
    | some (cause, detail) => matrixTrap s c m cause detail 0 0 m.row
    | none =>
      let finish (s : State) (l : List (Option (Nat × Nat))) (a : List MElem) : State :=
        let s := multiplyRow s c m m.row a
        let kept := (l.zipIdx).foldl (fun t p => match p.1 with
          | some (x, e) => Table.set t (m.row * d + p.2) (1 + x * 256 + e)
          | none => t) m.tile
        rowDone s c { m with tile := kept } (m.row + 1)
      if m.op = .mrotBuf then
        match (s.core c).rot with
        | none => s
        | some r =>
          let l := (List.range d).map (fun k => match Table.get 0 r.elems (m.row * d + k) with | 0 => none | x + 1 => some (x / 256, x % 256))
          match decodeRow (cmdTable s c m.t) m.t 0 l with
          | .ok a => finish (takeMode s c m) l a
          | .error _ => matrixTrap s c m 0x04 0 0 0 m.row
      else if !rowOpen s c m m.row d then s
      else
        match readRow (takeMode s c m) c m m.row with
        | (s, .error (cause, kind, va)) => matrixTrap s c m cause 0 kind va m.row
        | (s, .ok (l, a)) => finish s l a

/-- The exchange of a step (R289): every member's A goes to the west member's rotation buffer, its slot to the north member's inactive
bank, which fires, and every member's inactive bank becomes the active one. The n recorded for that bank, which R133 saves, is the larger of
its former n, where the bank keeps its slots, and slot + 1 (log 85, DESIGN CHOICE). -/
def exchange (s : State) (all : List (Nat × MCmd)) : State :=
  let before := s
  all.foldl (fun s p =>
    let (c, m) := p
    let src := before.core c
    let b := src.bank src.active
    let d := accDim m.mode
    let sent := b.held.filter (fun e => decide (m.n * 4096 ≤ e.1 ∧ e.1 < m.n * 4096 + d * d))
    let w := bondNeighbour s c 1 0
    let n := bondNeighbour s c 0 1
    let s := s.modCore w (fun k => { k with rot := some ⟨m.t, m.tile⟩ })
    let s := s.modCore n (fun k =>
      let i := 1 - (before.core n).active
      let o := (before.core n).bank i
      let keeps := decide (o.state = .fired ∧ o.fmt = m.t)
      let kept := if keeps then o.held.filter (fun e => !decide (m.n * 4096 ≤ e.1 ∧ e.1 < m.n * 4096 + 4096)) else []
      let clear (x : BitVec 16) : BitVec 16 := if keeps then x &&& ~~~(BitVec.ofNat 16 (2 ^ m.n)) else 0
      let fired : Bank :=
        { o with state := .fired, fmt := m.t, n := Nat.max (if keeps then o.n else 0) (m.n + 1), poison := clear o.poison,
                 single := if keeps then o.single.filter (fun w => !inSlot m.n w) else [], staged := [],
                 held := sent.foldl (fun t e => Table.set t e.1 e.2) kept }
      { k with active := i, banks := Table.set k.banks i fired })
    commandDone s c m) s

/-- An MROT or MROT.BUF. -/
def MOp.isRot (o : MOp) : Bool := decide (o = .mrot ∨ o = .mrotBuf)
/-- The heads of a list of cores, where every one is an MROT whose joint has formed, stopped or not. -/
def rotating (s : State) : List Nat → Option (List (Nat × MCmd))
  | [] => some []
  | c :: rest =>
    match (s.core c).mq.head?, rotating s rest with
    | some m, some l => if m.op.isRot && m.formed then some ((c, m) :: l) else none
    | _, _ => none
/-- A step whose joint has formed goes on: each member multiplies, a row in each turn, but for one whose queue a fault has stopped; once all
have finished they exchange (R282, R289). -/
def rotStep (s : State) (all : List (Nat × MCmd)) : State :=
  if all.all (fun p => decide (accDim p.2.mode ≤ p.2.row)) then exchange s all
  else all.foldl (fun s p => if (s.core p.1).mstop then s else rotRow s p.1 p.2) s
/-- The inactive bank of a core. -/
def Core.inactive (k : Core) : Nat := 1 - k.active
/-- MROT_JOINT: with an MROT at the head of every member's queue, and no member pre-empted, the joint forms, once the accesses to the inactive
banks that their ports have checked are performed (R127, R289, R290; log 86, DESIGN CHOICE). A member that is in the step already keeps its
rows. -/
def execMrotJoint (c : Nat) (s : State) : Result :=
  match rotating s (bondCores s c) with
  | some [] => .next s
  | some all => .next (rotStep s all)
  | none =>
    match gangHeads s MOp.isRot c (bondCores s c) with
    | none => .next s
    | some [] => .next s
    | some ((h, m) :: rest) =>
      let all := (h, m) :: rest
      let new := all.filter (fun p => !p.2.formed)
      if !jointOpen s all || new.any (fun p => bankAwaited s p.1 (s.core p.1).inactive) then .next s
      else if all.any (fun p => decide (p.2.t ≠ m.t ∨ p.2.n ≠ m.n)) then .next (trapAll s all 0x13)
      else if new.any (fun p => let k := s.core p.1; !decide (k.shown k.inactive = .ordinary ∨ k.shown k.inactive = .fired)) then
        .next (trapAll s all 0x0A)
      else
        let all := all.map (fun p => (p.1, { p.2 with formed := true }))
        .next (rotStep (all.foldl (fun s p => setHead s p.1 p.2) s) all)

/-! ### Reading out and loading (R291, R292) -/

/-- The types that AST accepts from a mode (R291, Table 2). -/
def astAccepts (mode : AccMode) (t : Fmt) : Bool :=
  match mode with
  | .none => t.isAst
  | .nar | .p32 => decide (t = .fp64) || decide (t = .fp32) || decide (t = .fp16) || decide (t = .bf16)
  | .int => decide (t = .int32) || decide (t = .int16) || decide (t = .int8) || decide (t = .fp32)
  | .pcx => decide (t = .cf32)
  | .p64 => decide (t = .fp64) || decide (t = .fp32)
/-- rnd(hi + lo) in a format, where a NaN or infinity in hi stands for itself (R291). -/
def readPair (m : RMode) (f out : FpFmt) (hi lo : Nat) : Nat × Nat :=
  let h := f.decode hi
  let (v, fl) := if h.isNan || h.isInf then (h, snanFlag [h]) else sumVals m [h, f.decode lo]
  let (x, g) := out.rnd m v
  (x, fl ||| g)
/-- The element that AST writes from the bytes of an accumulator element, and its flags (R291, Table 2). -/
def readOut (m : RMode) (mode : AccMode) (t : Fmt) (x : Nat) : Nat × Nat :=
  match mode with
  | .none => (0, 0)
  | .nar => let v := fpF32.decode x; let (r, f) := (fpOf t).rnd m v; (r, f ||| snanFlag [v])
  | .int => if t = .int32 then (x, 0) else (convertElem m tableA .int32 t x).getD (0, 0)
  | .p32 => readPair m fpF32 (fpOf t) (x % 2 ^ 32) (x / 2 ^ 32)
  | .p64 => readPair m fpF64 (fpOf t) (x % 2 ^ 64) (x / 2 ^ 64)
  | .pcx =>
    let (r, f) := readPair m fpF32 fpF32 (x % 2 ^ 32) (x / 2 ^ 32 % 2 ^ 32)
    let (i, g) := readPair m fpF32 fpF32 (x / 2 ^ 64 % 2 ^ 32) (x / 2 ^ 96)
    (r + 2 ^ 32 * i, f ||| g)

/-- The checks of the stores of one row, in order: the places, or the first failure (R222, R291). -/
def rowPlaces (s : State) (c : Nat) (m : MCmd) : List (Nat × Nat) → State × Except (Nat × Nat × Nat) (List (Place53 × Nat))
  | [] => (s, .ok [])
  | (va, v) :: rest =>
    let e := m.t.size
    if va % e ≠ 0 then (s, .error (0x06, 0, va))
    else
      match translateFor s c (s.core c).domain va .store with
      | (s, .error r) => (s, .error (r.cause, r.kind, va))
      | (s, .ok p) =>
        let own := ownPlace c p.pa
        match (if inPad p.pa && own then padRefuses s (cmdAgent s c m) p.pa e true else none) with
        | some cause => (s, .error (cause, 0, va))
        | none =>
          if m.audit ∧ !own then (s, .error (0x10, 0, va))
          else
            match rowPlaces s c m rest with
            | (s, .error f) => (s, .error f)
            | (s, .ok l) => (s, .ok ((p, v) :: l))
/-- One element stored for a command. -/
def elemWrite (s : State) (c : Nat) (m : MCmd) (p : Place53) (v : Nat) : State := (farWrite s (cmdAgent s c m) p m.t.size v).1

/-- The stores of a command behind a SYSTEM release fence of its strand make that release (R73, R228). -/
def behindFence (s : State) (c : Nat) (m : MCmd) : State :=
  match strandOfAct s c m.act with
  | some n => releaseRemote s c n (s.strand c n).relMark (s.strand c n).relSys
  | none => s
/-- AST_EXECUTE: the next row of an AST at the head of the queue; with the last row its flags and the tile's reach FFLAGS (R172, R291). -/
def execAstExecute (c : Nat) (s : State) : Result :=
  match matrixHead s c (fun o => decide (o = .ast)) with
  | none => .next s
  | some m =>
    let map := m.map.toNat
    let x := (s.core c).tile m.d
    let mode := x.mode
    let d := accDim mode
    if !astAccepts mode m.t then .next (matrixTrap s c m 0x12 1 0 0 m.row)
    else if d < tmTrows map ∨ d < tmTcols map then .next (matrixTrap s c m 0x02 0 0 0 m.row)
    else if !rowOpen s c m m.row (tmTcols map) then .next s
    else
      let cols := (List.range (tmTcols map)).filter (fun j => tmInside map (tmRow0 map + m.row) (tmCol0 map + j) || !tmZpad map)
      if cols.any (fun j => !tmInside map (tmRow0 map + m.row) (tmCol0 map + j)) then .next (matrixTrap s c m 0x08 0 0 0 m.row)
      else
        let outs := cols.map (fun j =>
          readOut (modeOf m.fctl) mode m.t (Memory.readN x.data (accBytes mode * (d * m.row + j)) (accBytes mode)))
        let wants := (cols.map (fun j => tmAddr map m.t.size (tmRow0 map + m.row) (tmCol0 map + j))).zip (outs.map (·.1))
        match rowPlaces s c m wants with
        | (s, .error (cause, kind, va)) => .next (matrixTrap s c m cause 0 kind va m.row)
        | (s, .ok ps) =>
          let s := behindFence s c m
          let s := ps.foldl (fun s p => elemWrite s c m p.1 p.2) s
          let fl := outs.foldl (fun f o => f ||| o.2) m.flags
          if m.row + 1 < tmTrows map then .next (rowDone s c { m with flags := fl } (m.row + 1))
          else
            let all := fl ||| (if x.nv then flagNV else 0) ||| (if x.ovf then flagOF else 0) ||| (if x.sat then flagSAT else 0)
            let n := flagStrand s c m
            let s := s.modStrand c n (fun t => { t with fflags := t.fflags ||| word all })
            .next (commandDone (saveAlso s c n 3 (s.strand c n).fflags) c m)

/-- The bytes of an accumulator element that ALD loads: the exact value, with lo +0 in the paired modes (R292). -/
def loadIn (mode : AccMode) (t : Fmt) (x : Nat) : Nat :=
  match mode with
  | .nar => if t = .fp32 then x else (fpF32.rnd .rne ((fpOf t).decode x)).1
  | .p64 => if t = .fp64 then x else (fpF64.rnd .rne (fpF32.decode x)).1
  | .pcx => x % 2 ^ 32 + 2 ^ 64 * (x / 2 ^ 32)
  | _ => x

/-- ALD_EXECUTE: the next row of an ALD at the head of the queue; a change of mode first clears the tile (R292). -/
def execAldExecute (c : Nat) (s : State) : Result :=
  match matrixHead s c (fun o => decide (o = .ald)) with
  | none => .next s
  | some m =>
    let map := m.map.toNat
    let mode := m.mode
    let d := accDim mode
    let x0 := (s.core c).tile m.d
    let s := if x0.mode = mode then s else s.setTile c m.d { Tile.init with mode := mode }
    if d < tmTrows map ∨ d < tmTcols map then .next (matrixTrap s c m 0x02 0 0 0 m.row)
    else if !rowOpen s c m m.row (tmTcols map) then .next s
    else
      match mapElems s c m false ((List.range (tmTcols map)).map (fun j => (tmRow0 map + m.row, tmCol0 map + j))) with
      | (s, .error (cause, kind, va)) => .next (matrixTrap s c m cause 0 kind va m.row)
      | (s, .ok l) =>
        let x := (s.core c).tile m.d
        let data := (l.zipIdx).foldl (fun dt p =>
          Memory.writeN dt (accBytes mode * (d * m.row + p.2)) (accBytes mode) (loadIn mode m.t ((p.1.map (·.1)).getD 0))) x.data
        let s := s.setTile c m.d { x with data := data }
        .next (if m.row + 1 < tmTrows map then rowDone s c m (m.row + 1) else commandDone s c m)

end Sys2Proof.Machine
end

