-- ==== Sys2Proof/Machine/Control.lean ====
section
/-! DEFINITION. Prefixes, branches, calls and loops (R207, R312, R313), ending and yielding (R314, R315), the system instructions that
need no other core (R321, R322, R324–R326), illegal instructions and fetch faults (R201, R212). -/

namespace Sys2Proof.Machine

/-! ### Branches, calls and loops (R312, R313) -/

/-- PC + 2 × off (R312). -/
def target {n : Nat} (s : State) (off : BitVec n) : Word := s.pc + BitVec.ofInt 64 (2 * off.toInt)
/-- A branch of len bytes: taken when the predicate equals not F. -/
def branchForm {n : Nat} (g : Fin 8) (f : Bool) (len : Nat) (o : BitVec n) (s : State) : Result :=
  onProcessor s fun s => .next (if s.predicate g = !f then s.jump (target s o) else s.advance len)
/-- A loop of len bytes on w(a): the register counts down modulo 2^64, and the branch is taken unless it reaches 0. -/
def loopForm (g : Fin 8) (len a : Nat) (t : State → Word) (s : State) : Result :=
  onProcessor s fun s => guarded g len s fun s =>
    needing [a] s fun s =>
      let x := s.w a - 1
      let s' := s.setW a x
      .next (if x ≠ 0 then s'.jump (t s) else s'.advance len)
/-- A jump to an address held in a register: an odd one is misaligned and PC stays (R201; on a footing core R48). -/
def jumpTo (s : State) (x : Word) (k : State → State) : State :=
  if x.getLsbD 0 then
    match s.cur with
    | .unit u => s.footFault u 0x06
    | _ => s.trap 0x06 0 x
  else (k s).jump x
/-- `JR` and `RET` of len bytes. -/
def jumpForm (g : Fin 8) (len a : Nat) (s : State) : Result :=
  onProcessor s fun s => guarded g len s fun s => needing [a] s fun s => .next (jumpTo s (s.w a) id)

/-- BR and BR.F (R312). -/
def execBr (g : Fin 8) (f : Bool) (o : BitVec 16) (s : State) : Result := branchForm g f 4 o s
/-- BR, 16-bit form (R208, Table 5). -/
def execBrC (o : BitVec 11) (s : State) : Result := branchForm 0 false 2 o s
/-- CALL (R312). -/
def execCall (g : Fin 8) (o : BitVec 16) (d : Fin 32) (s : State) : Result :=
  onProcessor s fun s => guarded g 4 s fun s =>
    if s.waitsFor [d.val] then .next s else .next ((s.setW d (s.pc + 4)).jump (target s o))
/-- LOOP (R312). -/
def execLoop (g : Fin 8) (o : BitVec 12) (a : Fin 32) (s : State) : Result := loopForm g 4 a (fun s => target s o) s
/-- LOOP, 16-bit form: it branches back by u halfwords (R208, Table 5). -/
def execLoopC (u : Fin 256) (p : Fin 8) (s : State) : Result := loopForm 0 2 (shortReg p) (fun s => s.pc - word (2 * u.val)) s
/-- CALLI: w(a) is read before w(d) is written (R313). -/
def execCalli (g : Fin 8) (d a : Fin 32) (s : State) : Result :=
  onProcessor s fun s => guarded g 4 s fun s =>
    if s.waitsFor [d.val] then .next s
    else needing [a] s fun s => .next (jumpTo s (s.w a) (fun s => s.setW d (s.pc + 4)))
/-- JR (R313). -/
def execJr (g : Fin 8) (a : Fin 32) (s : State) : Result := jumpForm g 4 a s
/-- JR, 16-bit form. -/
def execJrC (p : Fin 8) (s : State) : Result := jumpForm 0 2 (shortReg p) s
/-- RET: the effect of JR (R313). -/
def execRet (g : Fin 8) (a : Fin 32) (s : State) : Result := jumpForm g 4 a s
/-- NOP: no effect except on PC, with either predicate (R313). -/
def execNop (s : State) : Result := onProcessor s fun s => .next (s.advance 4)
/-- NOP, 16-bit form. -/
def execNopC (s : State) : Result := onProcessor s fun s => .next (s.advance 2)
/-- IMMX: the prefix is kept for the instruction that follows, with which it forms one instruction (R206, R207). -/
def execImmx (x : BitVec 27) (s : State) : Result :=
  match s.cur with
  | .none => .fault .noProcessor
  | .strand c n => .next (s.modStrand c n (fun t => { t with imx := t.imx ++ [x], pc := t.pc + 4 }))
  | .unit u => .next (s.modUnit u (fun t => { t with imx := t.imx ++ [x], pc := t.pc + 4 }))

/-- ILLEGAL_INSTRUCTION: trap 0x01 with its detail and the address of the first halfword; on a footing core the fault of R48
(R211–R213). -/
def execIllegalInstruction (detail : Nat) (s : State) : Result := onProcessor s fun s => .next (s.trap 0x01 detail s.firstPc)
/-- FETCH_FAULT: trap 0x08 with the address that could not be fetched (R120, R201); on a footing core the fault of R48. -/
def execFetchFault (addr : Word) (s : State) : Result :=
  onProcessor s fun s =>
    match s.cur with
    | .unit u => .next (s.footFault u 0x08)
    | _ => .next (s.trap 0x08 0 addr)

/-! ### Ending and yielding (R314, R315) -/

/-- An activation may end now: its loads have written their registers, and a sampled activation's requests and commands have
completed (R334, R375). -/
def mayEnd (s : State) (c n : Nat) : Bool := !loadsOutstanding s c n && !sampleBusy s c n
/-- END of an activation: its digest is formed where it is sampled, and it ends (R314, R375). -/
def endNow (s : State) (c n : Nat) : State := endActivation (finishSample s c n) c n
/-- END of len bytes. -/
def endForm (g : Fin 8) (len : Nat) (s : State) : Result :=
  onStrand s fun c n s => guarded g len s fun s => if mayEnd s c n then .next (endNow s c n) else .next s
/-- END (R314). -/
def execEndAct (g : Fin 8) (s : State) : Result := endForm g 4 s
/-- END, 16-bit form. -/
def execEndC (s : State) : Result := endForm 0 2 s

/-- Every allowance of a strand has returned (R186, R315). -/
def allowancesHome (t : Strand) : Bool := decide (t.allow = 8 ∧ t.arsp = 2)
/-- The continuation that a YIELD of len bytes leaves (R315). -/
def contOf (t : Strand) (n len : Nat) : Cont :=
  { frame := t.frame, cls := t.cls, act := t.act, actseq := t.actseq, rres := t.rres, pc := t.pc + word len, strand := n,
    sticky := t.sticky, hod := t.hod, built := t.built, fol := if t.fol = 1 then 2 else t.fol, followed := t.followed,
    relMark := t.relMark, relSys := t.relSys }
/-- What the activation reads as its message after a YIELD: a DIRECT header from this strand with its class, and b0–b5 (R315). -/
def contMsg (s : State) (c n : Nat) : Msg :=
  let t := s.strand c n
  { t.b with h0 := stamp (headerTo 0 (s.identOf c 0)) c n (skindOf c), h1 := word (t.cls * 2 ^ 58) }
/-- YIELD of len bytes: it waits for its allowances, and for a place for the continuation. -/
def yieldForm (g : Fin 8) (len : Nat) (s : State) : Result :=
  onStrand s fun c n s => guarded g len s fun s =>
    let t := s.strand c n
    if t.audit then .next (s.trap 0x10 0 0)
    else if !allowancesHome t || loadsOutstanding s c n then .next s
    else
      match accept s c 0 (contMsg s c n) 0 (.cont (contOf t n len)) 0 0 with
      | (s, false) => .next s
      | (s, true) =>
        .next (s.modStrand c n (fun t =>
          { t with mode := .free, wait := .none, imx := [], deadline := none, claim := 0, serial := false, rres := false, fol := 0,
                   folq := [], followed := false, hod := none, built := [] }))
/-- YIELD (R315). -/
def execYield (g : Fin 8) (s : State) : Result := yieldForm g 4 s
/-- YIELD, 16-bit form. -/
def execYieldC (s : State) : Result := yieldForm 0 2 s

/-! ### Traps on request, and the return from a local trap routine (R321, R322) -/

/-- BRK of len bytes: trap 0x1C, taken after the instruction has retired. -/
def breakForm (g : Fin 8) (len : Nat) (s : State) : Result :=
  onStrand s fun _ _ s => guarded g len s fun s => .next (s.trapAfter 0x1C 0 0 len)
/-- BRK (R321). -/
def execBrk (g : Fin 8) (s : State) : Result := breakForm g 4 s
/-- BRK, 16-bit form. -/
def execBrkC (s : State) : Result := breakForm 0 2 s
/-- A trap on request whose detail is w(a)[7:0] and whose TRAPA is w(a). -/
def requestTrap (g : Fin 8) (cause a : Nat) (s : State) : Result :=
  onStrand s fun _ _ s => guarded g 4 s fun s => needing [a] s fun s => .next (s.trapAfter cause (fieldOf (s.w a) 7 0) (s.w a) 4)
/-- TRAP (R321). -/
def execTrap (g : Fin 8) (a : Fin 32) (s : State) : Result := requestTrap g 0x16 a s
/-- SVC (R321). -/
def execSvc (g : Fin 8) (a : Fin 32) (s : State) : Result := requestTrap g 0x17 a s

/-- The parked strand of a core that an identity names. -/
def parkedStrand (s : State) (c : Nat) (ident : Word) : Option Nat :=
  (List.range 4).find? (fun j => decide ((s.strand c j).mode = .parked) && decide (s.identOf c j = ident))
/-- RTE: the strand that the activation's trap message names resumes, or its activation ends, and then this activation ends
(R322). -/
def execRte (g : Fin 8) (a : Fin 32) (s : State) : Result :=
  onStrand s fun c n s => guarded g 4 s fun s => needing [a.val] s fun s =>
    match (if (s.strand c n).cls = 63 then parkedStrand s c (s.strand c n).m.w3 else none) with
    | none => .next (s.trap 0x08 0 0)
    | some j =>
      if !mayEnd s c n then .next s
      else
        let s := if (s.w a).getLsbD 0 then endActivation s c j else resumeStrand s c j
        .next (endNow s c n)

/-! ### Waiting (R324) -/

/-- The conditions of WAITX that do not hold, as a mask. -/
def waitMask (s : State) (c n : Nat) : Nat :=
  let t := s.strand c n
  (if (s.core c).copy.q.isEmpty then 0 else 1) +
  (if (s.core c).mq.any (fun m => decide (m.strand = n)) then 2 else 0) +
  (if s.pendAt c n = 0 then 0 else 4) +
  (if allowancesHome t then 0 else 8) +
  (if remoteDone s c n then 0 else 16)
/-- WAITX: it ends when every selected condition holds, or at its deadline; while it waits, the strand holds one (R324, R359). -/
def execWaitx (g : Fin 8) (d a : Fin 32) (s : State) : Result :=
  onStrand s fun c n s => guarded g 4 s fun s =>
    if s.waitsFor [d.val] then .next s
    else needing [a.val] s fun s =>
      let x := s.w a
      let left := waitMask s c n &&& (x.toNat % 32)
      let limit := fieldOf x 63 32
      let past : Bool := match (s.strand c n).deadline with | some t => decide (limit ≠ 0 ∧ t ≤ s.cycle) | none => false
      if decide (left = 0) || past then .next ((s.setW d (word left)).advance 4)
      else if (s.strand c n).deadline = none then
        .next (s.modStrand c n (fun t => { t with deadline := some (s.cycle + limit) }))
      else .next s

/-! ### Shootdowns and the routine table (R325, R326) -/

/-- The packages that a shootdown of a domain at a scope must reach from a core (R39). -/
def shootTargets (s : State) (c dom : Nat) (sc : Scope) : List Nat :=
  let g := corePkg c
  if sc = .system then
    let l := Table.get [] (s.die (2 * g)).pkgset dom ++ Table.get [] (s.die (2 * g + 1)).pkgset dom
    g :: (l.filter (fun p => decide (p ≠ g))).eraseDups
  else [g]
/-- TLBINV: starts a shootdown and waits for its acknowledgement. -/
def execTlbinv (g : Fin 8) (sc : Scope) (d a b : Fin 32) (s : State) : Result :=
  onStrand s fun c n s => guarded g 4 s fun s => needing [d.val, a.val, b.val] s fun s =>
    let dom := fieldOf (s.w d) 15 0
    if !isForeman c && decide (dom ≠ (s.core c).domain) then .next (s.trap 0x08 0 0)
    else if (s.strand c n).audit then .next (s.trap 0x10 0 0)
    else
      let lo := fieldOf (s.w a) 55 16 * 65536
      let len := (s.w b).toNat
      let hi := if len = 0 then 0 else lo + ceilDiv len 65536 * 65536
      let x : Shoot :=
        { id := s.fresh, core := c, strand := n, dom := dom, lo := lo, hi := hi, scope := sc, left := shootTargets s c dom sc,
          mark := s.fresh }
      .next (({ s with shoots := s.shoots ++ [x] }.tickFresh).modStrand c n (fun t => { t with wait := .shootdown x.id }))
/-- RTSET: writes a routine-table entry whole, once the strand's earlier accesses to it are performed (R326, R335). -/
def execRtset (g : Fin 8) (a b : Fin 32) (s : State) : Result :=
  onStrand s fun c n s => guarded g 4 s fun s => needing [a.val, b.val, b.val + 1] s fun s =>
    if (s.strand c n).audit then .next (s.trap 0x10 0 0)
    else
      let at_ := padBase c + 0x15800 + 16 * fieldOf (s.w a) 5 0
      if bytesInFlight s c n at_ 16 then .next s
      else .next ((s.write at_ 16 ((s.w b).toNat + 2 ^ 64 * (s.w (b.val + 1)).toNat)).advance 4)

end Sys2Proof.Machine
end

