-- ==== Sys2Proof/Machine/Bonds.lean ====
section
/-! DEFINITION. Bonds, following and their joints (R316–R319). -/

namespace Sys2Proof.Machine

/-- A strand waits at a joint of a kind. -/
def waitsAtJoint (s : State) (c n : Nat) (j : Joint) : Bool :=
  decide ((s.strand c n).mode = .running ∧ (s.strand c n).wait = .joint j) && !(s.core c).preempted
/-- The strand begins to wait at a joint. -/
def waitAtJoint (s : State) (c n : Nat) (j : Joint) : State := s.modStrand c n (fun t => { t with wait := .joint j })
/-- The instruction of a strand at a joint retires. -/
def leaveJoint (s : State) (c n : Nat) : State := s.modStrand c n (fun t => { t with wait := .none, pc := t.pc + 4, imx := [] })
/-- A strand that waits at a joint traps with a bond violation (R316, R319). -/
def jointTrap (s : State) (c n : Nat) : State := takeTrap s c n 0x13 0 0 0 (s.strand c n).pc (s.strand c n).pc none

/-- The rectangle that a core's waiting GANG names. -/
def gangOf (k : Core) : Option (Nat × Nat) :=
  (List.range 4).findSome? (fun n => match (k.strand n).wait with | .joint (.gang r) => some (n, r) | _ => none)
/-- A rectangle lies inside a launch's (R316, R356): both ends do. -/
def Launch.covers (l : Launch) (r : Nat) : Bool :=
  rectHolds l.rect (bits r 4 0) (bits r 9 5) &&
    rectHolds l.rect (bits r 4 0 + 2 ^ bits r 12 10 - 1) (bits r 9 5 + 2 ^ bits r 15 13 - 1)
/-- A GANG of core c that names a rectangle breaks R316. -/
def gangBad (s : State) (c r : Nat) : Bool :=
  !rectAligned r || !((s.launchOf c).map (fun l => l.covers r)).getD false || !rectHolds r (coordOf c).1 (coordOf c).2 ||
    decide (1024 ≤ coreIdx c) || (s.core c).bond.isSome || (gangOf (s.core c)).isSome

/-- GANG: checks the rectangle and waits for the joint (R316). -/
def execGang (g : Fin 8) (a : Fin 32) (s : State) : Result :=
  onStrand s fun c n s => guarded g 4 s fun s => needing [a.val] s fun s =>
    let r := fieldOf (s.w a) 15 0
    .next (if gangBad s c r then s.trap 0x13 0 0 else waitAtJoint s c n (.gang r))
/-- UNGANG: waits for the joint (R317). -/
def execUngang (g : Fin 8) (s : State) : Result :=
  onStrand s fun c n s => guarded g 4 s fun s =>
    .next (if (s.core c).bond.isNone then s.trap 0x13 0 0 else waitAtJoint s c n .ungang)
/-- FOLLOW: waits for the joint (R318). -/
def execFollow (g : Fin 8) (s : State) : Result :=
  onStrand s fun c n s => guarded g 4 s fun s =>
    .next (if (s.core c).bond.isNone then s.trap 0x13 0 0 else waitAtJoint s c n .follow)
/-- DETACH: in a leader's stream its followers detach after it, which their own streams hold; elsewhere it has no effect (R319). -/
def execDetach (g : Fin 8) (s : State) : Result := onStrand s fun _ _ s => guarded g 4 s fun s => .next (s.advance 4)

/-- The leader of a core's bond: its origin core (R316). -/
def leaderOf (s : State) (c : Nat) : Option Nat := (s.core c).bond.map (fun r => corePkg c * 2048 + bits r 9 5 * 32 + bits r 4 0)
/-- A strand of a member has detached since the last FOLLOW joint and its activation has not ended; it may have yielded (R315, R319). -/
def isDetached (s : State) (m n : Nat) : Bool :=
  decide (2 ≤ (s.strand m n).fol) ||
    (s.core m).inbox.any (fun x => match x.kind with | .cont y => decide (y.strand = n ∧ 2 ≤ y.fol) | _ => false) ||
    (List.range 4).any (fun p => ((s.core m).ring p).ents.any (fun x =>
      match x.kind with | .cont y => decide (y.strand = n ∧ 2 ≤ y.fol) | _ => false))
/-- The members whose strand n the leader's REJOIN waits for. -/
def detachedMembers (s : State) (c n : Nat) : List Nat := (bondCores s c).filter (fun m => decide (m ≠ c) && isDetached s m n)

/-- A follower of strand n has not yet executed everything that its leader has, and may still detach (R318, R319). -/
def followersBehind (s : State) (c n : Nat) : Bool :=
  (bondCores s c).any (fun m => decide (m ≠ c ∧ (s.strand m n).fol = 1 ∧ (s.strand m n).folq ≠ []))
/-- REJOIN: on the leader it waits until its followers have come this far, and then for the detached strands; on a detached strand it
waits for the leader; on a strand that has never followed it traps (R319). -/
def execRejoin (g : Fin 8) (m : Fin 16) (s : State) : Result :=
  onStrand s fun c n s => guarded g 4 s fun s =>
    let t := s.strand c n
    if leaderOf s c = some c then
      .next (if followersBehind s c n then s
        else if (detachedMembers s c n).isEmpty then s.advance 4 else waitAtJoint s c n (.rejoin m))
    else if !t.followed then .next (s.trap 0x13 0 0)
    else if t.fol = 1 then .next (s.advance 4)
    else .next (waitAtJoint s c n (.rejoin m))

/-! ### The joints -/

/-- GANG_JOINT: every core of the rectangle waits in a GANG that names it, and the bond forms; where one of them names another
rectangle, every GANG waiting for any of these rectangles traps (R316). -/
def execGangJoint (c : Nat) (s : State) : Result :=
  match gangOf (s.core c) with
  | none => .next s
  | some (_, r) =>
    let cores := rectCores (corePkg c) r
    let found := cores.map (fun m => if (s.core m).preempted then none else (gangOf (s.core m)).map (fun x => (m, x.1, x.2)))
    if found.any (·.isNone) then .next s
    else
      let all := found.filterMap id
      if all.all (fun x => decide (x.2.2 = r)) then
        .next (all.foldl (fun s x => leaveJoint (s.modCore x.1 (fun k => { k with bond := some r })) x.1 x.2.1) s)
      else
        let rects := r :: all.map (·.2.2)
        let waiting := (List.range 1024).filterMap (fun i =>
          let m := corePkg c * 2048 + i
          (gangOf (s.core m)).bind (fun x => if rects.contains x.2 then some (m, x.1) else none))
        .next (if waiting.any (fun x => (s.core x.1).preempted) then s else waiting.foldl (fun s x => jointTrap s x.1 x.2) s)

/-- The strand of a core that waits at UNGANG. -/
def ungangStrand (s : State) (m : Nat) : Option Nat := (List.range 4).find? (fun n => waitsAtJoint s m n .ungang)
/-- A strand waits in a REJOIN. -/
def inRejoin (t : Strand) : Bool := match t.wait with | .joint (.rejoin _) => decide (t.mode = .running) | _ => false
/-- The REJOINs of a leader wait for nobody when its bond dissolves (R319). -/
def releaseRejoins (s : State) (m : Nat) : State :=
  if leaderOf s m = some m then (List.range 4).foldl (fun s n => if inRejoin (s.strand m n) then leaveJoint s m n else s) s else s
/-- UNGANG_JOINT: every member waits at UNGANG and no queue of theirs holds an MMAG or MROT; following strands detach and the bond
dissolves, so that no leader's REJOIN waits any more (R317, R319). -/
def execUngangJoint (c : Nat) (s : State) : Result :=
  let ms := bondCores s c
  let ready (m : Nat) : Bool :=
    (ungangStrand s m).isSome && (s.core m).mq.all (fun q => decide (q.op ≠ .mmag ∧ q.op ≠ .mrot ∧ q.op ≠ .mrotBuf))
  whenever (!ms.isEmpty && ms.all ready) s fun s =>
    ms.foldl (fun s m =>
      let s := releaseRejoins s m
      let s := match ungangStrand s m with | some n => leaveJoint s m n | none => s
      s.modCore m (fun k =>
        (List.range 4).foldl (fun k n => k.setStrand n { k.strand n with fol := 0, folq := [] }) { k with bond := none })) s

/-- FOLLOW_JOINT: strand n of every member waits at FOLLOW; those of the members follow the leader's (R318). -/
def execFollowJoint (c n : Nat) (s : State) : Result :=
  let ms := bondCores s c
  whenever (!ms.isEmpty && ms.all (fun m => waitsAtJoint s m n .follow)) s fun s =>
    ms.foldl (fun s m =>
      let s := leaveJoint s m n
      if leaderOf s m = some m then s else s.modStrand m n (fun t => { t with fol := 1, folq := [], followed := true })) s

/-- The marker at which a strand waits in a REJOIN. -/
def rejoinMarker (t : Strand) : Option Nat := match t.wait with | .joint (.rejoin m) => some m | _ => none
/-- A detached strand is waited for: it waits at the marker, or has not been stopped by a trap for another one (R319). -/
def awaitedAt (s : State) (k m n : Nat) : Bool := decide ((s.strand m n).fol ≠ 3) || waitsAtJoint s m n (.rejoin k)
/-- REJOIN_JOINT: strand n of leader c waits at a REJOIN. Detached strands that wait at another marker trap and are no longer waited
for; when every other one has reached the marker, they follow again (R319). -/
def execRejoinJoint (c n : Nat) (s : State) : Result :=
  match rejoinMarker (s.strand c n) with
  | none => .next s
  | some k =>
    if leaderOf s c ≠ some c ∨ (s.core c).preempted then .next s
    else
      let ms := detachedMembers s c n
      let away := ms.filter (fun m => !(s.core m).preempted && (match rejoinMarker (s.strand m n) with
        | some j => decide (j ≠ k) | none => false))
      let there := ms.filter (fun m => awaitedAt s k m n)
      if !away.isEmpty then
        .next (away.foldl (fun s m => (jointTrap s m n).modStrand m n (fun t => { t with fol := 3 })) s)
      else if there.all (fun m => waitsAtJoint s m n (.rejoin k)) then
        .next (leaveJoint (there.foldl (fun s m => (leaveJoint s m n).modStrand m n (fun t => { t with fol := 1, folq := [] })) s) c n)
      else .next s

end Sys2Proof.Machine
end

