-- ==== Sys2Proof/Machine/Footing.lean ====
section
/-! DEFINITION. Footing commands and reductions from cores (R51–R54, R294, R295), the footing units and their cores (R46–R50, R296–R298),
the reduction engines (R55–R59), and power-down of a pseudo-channel (R63–R65, R392). -/

namespace Sys2Proof.Machine

/-! ### Issue (R51, R294, R295) -/

/-- Marks register d of a strand's frame pending (R51). -/
def markPending (s : State) (c n d : Nat) : State :=
  s.modCore c (fun k => { k with pend := Table.modify 0 k.pend (k.strand n).frame (fun m => m ||| BitVec.ofNat 32 (2 ^ d)) })
/-- A footing instruction of a strand: an audit-eligible activation traps (R294), then its own checks and effect. -/
def footForm (g : Fin 8) (d : Nat) (reads : List Nat) (s : State) (k : Nat → Nat → State → State) : Result :=
  memOp g reads [d] s fun c n s => if (s.strand c n).audit then s.trap 0x10 0 0 else k c n s
/-- Sends a command to the footing unit that w(b) names, stalling while its queue is full (R51). -/
def unitCommand (op : UOp) (d a b c n : Nat) (s : State) : State :=
  let u := corePkg c * 512 + (s.w b).toNat % 512
  if 8 ≤ (s.unit u).q.length then s
  else
    let cmd : UCmd :=
      { op := op, core := c, strand := n, frame := (s.strand c n).frame, reg := d, launch := (s.core c).launch, domain := (s.core c).domain,
        a := s.w a, b := s.w b, seq := s.fresh }
    ((markPending (s.modUnit u (fun t => { t with q := t.q ++ [cmd] })) c n d).tickFresh).advance 4

/-- FLOADO (R294, R295). -/
def execFloado (g : Fin 8) (d a b : Fin 32) (s : State) : Result :=
  footForm g d [a, b] s fun c n s =>
    if effAddr (s.w a) 0 % 4096 ≠ 0 then s.trap 0x06 0 (word (effAddr (s.w a) 0)) else unitCommand .floado d a b c n s
/-- FSTART (R294). -/
def execFstart (g : Fin 8) (d a b : Fin 32) (s : State) : Result := footForm g d [a, b] s fun c n s => unitCommand .fstart d a b c n s
/-- FCMD (R294). -/
def execFcmd (g : Fin 8) (d a b : Fin 32) (s : State) : Result := footForm g d [a, b] s fun c n s => unitCommand .fcmd d a b c n s

/-- FRED (R295): DEST, word 2 of the block, chooses the stack; a block or destination on another package gives the reply REMOTE at once. -/
def execFred (g : Fin 8) (d a : Fin 32) (s : State) : Result :=
  footForm g d [a] s fun c n s =>
    let ea := effAddr (s.w a) 0
    let dom := (s.core c).domain
    let remote (s : State) : State := (s.setW d (failReply 0x06 0)).advance 4
    if ea % 64 ≠ 0 then s.trap 0x06 0 (word ea)
    else
      match translateFor s c dom ea .load with
      | (s, .error r) => s.trapWith r.cause 0 r.kind (word ea)
      | (s, .ok p) =>
        if !ownPlace c p.pa then remote s
        else if !loadReady s c n (p.pa + 16) 8 || !foOpen s dom p then s
        else
          match localRead s (s.agent c) { p with pa := p.pa + 16 } 8 with
          | (s, .error cause) => s.trap cause 0 (word (ea + 16))
          | (s, .ok w) =>
            let dest := w % 2 ^ 56
            match translate s c dom dest with
            | (s, .error r) => s.trapWith r.cause 0 r.kind (word dest)
            | (s, .ok q) =>
              if !ownPlace c q.pa then remote s
              else if !isHbm q.pa then s.trap 0x08 0 (word dest)
              else
                let k := unitOfPa q.pa / 64
                if 16 ≤ (s.hbm k).q.length then s
                else
                  let f : Fred :=
                    { core := c, strand := n, act := (s.strand c n).act, frame := (s.strand c n).frame, reg := d, launch := (s.core c).launch,
                      domain := dom, block := ea, words := [], phase := .check, next := 0, parked := none }
                  ((markPending (s.modHbm k (fun b => { b with q := b.q ++ [f] })) c n d)).advance 4

/-! ### Arithmetic (R50, R57) -/

/-- A format with its subnormals flushed (R50). -/
def flushed (f : FpFmt) : FpFmt := { f with sub := false }
/-- NV where an input or result is a NaN (R50). -/
def nanFlag (l : List Val) : Nat := if l.any Val.isNan then flagNV else 0
/-- One accumulate into a lane: the lane and its flags (R50). -/
def accumulate (acc : BitVec 40) (x : Val) : BitVec 40 × Nat :=
  let (v, _) := sumVals .rne [fpF40.decode acc.toNat, x]
  let (r, f) := fpF40.rnd .rne v
  (BitVec.ofNat 40 r, f ||| nanFlag [v])
/-- The read-out of a lane as FP32 (R50). -/
def laneOut (acc : BitVec 40) : Nat × Nat :=
  let v := fpF40.decode acc.toNat
  let (r, f) := (flushed fpF32).rnd .rne v
  (r, f ||| nanFlag [v])
/-- add of R57 on FP32 encodings. -/
def treeAdd (x y : Nat) : Nat :=
  ((flushed fpF32).rnd .rne (sumVals .rne [(flushed fpF32).decode x, (flushed fpF32).decode y]).1).1
/-- The largest power of two below n. -/
def halfSplit (n : Nat) : Nat := 2 ^ (n - 1).log2
/-- The fixed tree sum of R57; the fuel bounds its depth. -/
def treeSum : Nat → List Nat → Nat
  | 0, l => l.headD 0
  | fuel + 1, l =>
    if l.length ≤ 1 then l.headD 0
    else treeAdd (treeSum fuel (l.take (halfSplit l.length))) (treeSum fuel (l.drop (halfSplit l.length)))
/-- A BF16 code as FP32, which holds its value exactly; BF16 has no subnormals (R57, R147, R148). -/
def widenB16 (x : Nat) : Nat := (fpF32.rnd .rne (fpB16.decode x)).1
/-- One element of the destination from those of the sources: BF16 sources widen exactly, a NaN is canonical, and a BF16 destination is
rounded once more and flushed (R57). -/
def reduceElem (sbf dbf : Bool) (l : List Nat) : Nat :=
  let r := treeSum 8 (l.map (fun x => if sbf then widenB16 x else x))
  let r := if (fpF32.decode r).isNan then fpF32.nan else r
  if dbf then (fpB16.rnd .rne (fpF32.decode r)).1 else r

/-! ### Commands at the head of a unit's queue (R48, R49, R296) -/

/-- A strand's earlier accesses to the unit's channel have been performed: commands and accesses arrive in issue order (R54). -/
def demandDone (s : State) (u : Nat) (cmd : UCmd) : Bool :=
  s.accs.all (fun a => !decide (a.core = cmd.core ∧ a.strand = cmd.strand ∧ a.id < cmd.seq) ||
    a.pieces.all (fun p => p.done || !decide (p.place = .fo ∧ unitOfPa p.pa = u)))
/-- The command at the head that the unit may take now. -/
def unitHead (s : State) (u : Nat) (op : UOp) : Option UCmd :=
  let t := s.unit u
  match t.q.head? with
  | none => none
  | some cmd =>
    if cmd.op = op ∧ t.cmd.isNone ∧ t.parked.isNone ∧ t.stopping.isNone ∧ t.power = .awake ∧ demandDone s u cmd then some cmd else none
/-- The command leaves the queue. -/
def dropCommand (s : State) (u : Nat) : State := s.modUnit u (fun t => { t with q := t.q.drop 1 })
/-- The reply of a command. -/
def replyCommand (s : State) (cmd : UCmd) (v : Word) : State := s.sendReply cmd.core cmd.frame cmd.reg cmd.launch v
/-- The issuer is not entitled (R49). -/
def unitDenied (s : State) (u : Nat) (cmd : UCmd) : Bool :=
  match (s.unit u).owner with
  | none => true
  | some (l, c) => decide (cmd.launch ≠ l) || (decide (cmd.op ≠ .fcmd) && decide (cmd.core ≠ c))
/-- The identity of a footing unit. -/
def unitIdent (u : Nat) : Word := identity (u / 512) (u % 512) 5 0
/-- A command is parked and the foreman of the issuing core's panel is told (R37). -/
def parkUnit (s : State) (u : Nat) (cmd : UCmd) (cause kind va : Nat) : State :=
  engineFault (s.modUnit u (fun t => { t with parked := some (cause, kind, va) })) cmd.core (skindOf cmd.core) 0x18 cause kind 0 (word va)
    (word (u % 512)) (unitIdent u)
/-- Bytes of memory that a base die reads, whose channel wakes for it: a poisoned word is reported and gives 0x1B (R65, R78). -/
def dieRead (s : State) (core va pa n : Nat) : State × Except Nat Nat :=
  let s := if isHbm pa then wakeFor s pa else s
  match s.poisonedAt pa n with
  | some at_ => (reportPoison s core va at_, .error 0x1B)
  | none => (s.correct pa n, .ok (s.read pa n))

/-- FLOADO_COMMAND (R36, R296). The code that it reads from an FO page waits for the commands on its bank that arrived before it (R54). -/
def execFloadoCommand (u : Nat) (s : State) : Result :=
  match unitHead s u .floado with
  | none => .next s
  | some cmd =>
    if unitDenied s u cmd then .next (replyCommand (dropCommand s u) cmd (failReply 0x02 0))
    else
      let va := effAddr cmd.a 0
      match hbmTranslate s (u / 64) cmd.domain va .foLoad with
      | (s, .error r) => .next (parkUnit s u cmd r.cause r.kind va)
      | (s, .ok p) =>
        if !bankOpen s (attrFO p.attr) cmd.domain p.pa cmd.seq then .next s
        else
        match dieRead s cmd.core va p.pa 4096 with
        | (s, .error cause) => .next (parkUnit s u cmd cause 0 va)
        | (s, .ok x) =>
          let s := s.modUnit u (fun t => { t with overlay := Memory.writeN [] 0 4096 x, run := .halted, imx := [] })
          .next (replyCommand (dropCommand s u) cmd 0)

/-- FSTART_COMMAND (R48, R296). -/
def execFstartCommand (u : Nat) (s : State) : Result :=
  match unitHead s u .fstart with
  | none => .next s
  | some cmd =>
    let s' := dropCommand s u
    if unitDenied s u cmd then .next (replyCommand s' cmd (failReply 0x02 0))
    else if cmd.a.toNat % 2 = 1 then
      .next (replyCommand (s'.modUnit u (fun t => { t with run := .halted, status := 0x06, openBlk := [], imx := [] })) cmd (failReply 0x03 0x06))
    else
      .next (s'.modUnit u (fun t =>
        { t with openBlk := [], pc := cmd.a.toNat % 0x1000, run := .running, cmd := some cmd, reply := 0, imx := [] }))

/-- A command completes the FWAITC at which the core waits: w(d) and w(d+1) are those of its encoding (R298). -/
def completeWait (s : State) (u : Nat) (cmd : UCmd) : State :=
  let t := s.unit u
  let d := Memory.readN t.overlay t.pc 4 / 2 ^ 7 % 16
  let data := Memory.writeN (Memory.writeN t.data (8 * d) 8 cmd.a.toNat) (8 * (d + 1)) 8 (cmd.b.toNat / 2 ^ 16 * 2 ^ 16)
  let s := s.modUnit u (fun t => { t with data := data, run := .running, cmd := some cmd, reply := 0 })
  if t.pc + 4 < 0x1000 then s.modUnit u (fun t => { t with pc := t.pc + 4 }) else s.footFault u 0x08
/-- FCMD_COMMAND (R296, R298). -/
def execFcmdCommand (u : Nat) (s : State) : Result :=
  match unitHead s u .fcmd with
  | none => .next s
  | some cmd =>
    let s' := dropCommand s u
    if unitDenied s u cmd then .next (replyCommand s' cmd (failReply 0x02 0))
    else
      match (s.unit u).run with
      | .waiting => .next (completeWait s' u cmd)
      | _ => .next (replyCommand s' cmd (failReply 0x04 0))

/-- A packet for a footing unit or a reduction engine (R323). -/
def forKind (p : Packet) (kind action : Nat) : Bool := decide (p.sfn = 0x19 ∧ fieldOf p.target 39 36 = kind ∧ p.action = action)
/-- The unit that a packet names. -/
def packetUnit (p : Packet) : Nat := fieldOf p.target 63 50 * 512 + fieldOf p.target 49 40 % 512
/-- FOOTING_COMMAND_RESUME: the parked command translates again (R37). -/
def execFootingCommandResume (r : Nat) (s : State) : Result :=
  match s.packet? r with
  | none => .next s
  | some p =>
    whenever (forKind p 5 0) s fun s =>
      let u := packetUnit p
      if (s.unit u).parked.isSome then ackPacket (s.modUnit u (fun t => { t with parked := none })) p 0 else ackPacket s p 1
/-- The command parked at the head of a unit's queue ends with ABORTED (R37). -/
def abortUnit (s : State) (u : Nat) : State :=
  match (s.unit u).q.head? with
  | some cmd => replyCommand ((dropCommand s u).modUnit u (fun t => { t with parked := none })) cmd (failReply 0x01 0)
  | none => s.modUnit u (fun t => { t with parked := none })
/-- FOOTING_COMMAND_ABORT: the parked command ends with ABORTED (R37). -/
def execFootingCommandAbort (r : Nat) (s : State) : Result :=
  match s.packet? r with
  | none => .next s
  | some p =>
    whenever (forKind p 5 1) s fun s =>
      if (s.unit (packetUnit p)).parked.isSome then ackPacket (abortUnit s (packetUnit p)) p 0 else ackPacket s p 1

/-- FOOTING_REPLY: the reply writes its frame word and clears the mark, whether or not the strand runs (R51); a frame kept only for
it becomes free (R52). It waits in grout while the core's RSP ring is full (R189). A reply to a launch that is over is dropped. -/
def execFootingReply (r : Nat) (s : State) : Result :=
  match s.freplies.find? (fun f => decide (f.id = r)) with
  | none => .next s
  | some f =>
    let s' := { s with freplies := s.freplies.filter (fun x => decide (x.id ≠ r)) }
    if (s.core f.core).launch ≠ f.launch then .next s'
    else if rspStopped s f.core then .next s
    else
      let s := s'.write (regAddr f.core f.frame f.reg) 8 f.value.toNat
      let s := s.modCore f.core (fun k =>
        { k with pend := Table.modify 0 k.pend f.frame (fun m => m &&& ~~~(BitVec.ofNat 32 (2 ^ f.reg))) })
      .next (releaseFrame s f.core f.frame)

/-! ### Power (R63–R65, R392) -/

/-- The foreman of a panel stores a status word with a release at SYSTEM scope: every dirty line of the remote partitions is written back
before it, and none keeps a copy of its line (R73, R333, R337, R392). A store that no link carries or that its home refuses has no effect
(R224, R381). -/
def foremanStore (s : State) (pk va v : Nat) : State :=
  let c := foremanOf pk
  match translateFor s c 0 va .store with
  | (s, .error _) => s
  | (s, .ok p) =>
    let a := s.firmware c 0
    let s := (s.writeBackAll (corePkg c)).dropCopy (corePkg c) p.pa
    if !ownPlace c p.pa && farRefused s a p 8 true then (refusedFar s a p).1
    else (localWrite (s.setRecord p.pa .system (partyOf c 0)) a p 8 v).1
/-- A pseudo-channel is live (R63). -/
def unitLive (s : State) (u : Nat) : Bool :=
  let t := s.unit u
  (match t.owner with | some (l, _) => ((s.launch? l).map (fun x => decide (x.state = .running))).getD false | none => false) ||
    !t.q.isEmpty || t.lanes.any (fun l => decide (l.2 ≠ 0)) || t.flags.any (fun f => decide (f.2 ≠ 0))
/-- The state of a unit as its save area takes it (R45, R64). -/
def Unit.image (t : Unit) : USave := ⟨t.overlay, t.data, t.pc, t.run, t.lanes, t.flags⟩
/-- The state of a unit goes to its save area, and the forced requests that wait for it complete with SPILLED; the channel takes the state
that the last of them asks for (R45, R64). -/
def finishStop (s : State) (u : Nat) : State :=
  let t := s.unit u
  match t.stopping with
  | none => s
  | some (_, l) =>
    let p := (l.getLast?.map (·.1)).getD t.power
    l.foldl (fun s q => foremanStore s (u / 512 * 8) q.2 2)
      (s.modUnit u (fun t => { t with save := t.save.orElse (fun _ => some t.image), stopping := none, power := p }))
/-- The SYSTEM message of a function at the head of a foreman's SYS partition. -/
def sysHead (s : State) (pk sfn : Nat) : Option Msg :=
  match (s.panel pk).sys.head? with
  | some m => if msgKind m = 3 ∧ msgSfn m = sfn then some m else none
  | none => none
/-- The foreman is done with that message, and the aperture's next one may follow. -/
def dropSys (s : State) (pk : Nat) : State := s.modPanel pk (fun p => Panel.drain pk 16 { p with sys := p.sys.drop 1 })
/-- A POWER request with an action at the foreman of panel 0 of a package (R392): a reserved bit or action
gives BADARG. After a failed boot no foreman answers (R394). -/
def powerRequest (g : Nat) (actions : List Nat) (f : State → Nat → Bool → Nat → State) (s : State) : Result :=
  match (if s.answers g then sysHead s (g * 8) 0x40 else none) with
  | none => .next s
  | some m =>
    let act := fieldOf m.w0 10 9
    if !actions.contains act then .next s
    else
      let s := dropSys s (g * 8)
      let va := fieldOf m.w1 55 0
      if act = 3 ∨ fieldOf m.w0 63 12 ≠ 0 then .next (foremanStore s (g * 8) va 3)
      else .next (f s (g * 512 + fieldOf m.w0 8 0) (bit m.w0.toNat 11) va)
/-- Puts a channel into a power state: DONE for one that is in it already or is not live, LIVE for an unforced request to a live one, and
for a forced one SPILLED once the unit has stopped. A request to a unit that is stopping already joins the others (R63, R64, R392). -/
def lowerPower (p : FPower) (g : Nat) (s : State) (u : Nat) (forced : Bool) (va : Nat) : State :=
  let t := s.unit u
  if t.power = p ∨ !unitLive s u then foremanStore (s.modUnit u (fun t => { t with power := p })) (g * 8) va 0
  else if !forced then foremanStore s (g * 8) va 1
  else
    let (since, l) := t.stopping.getD (s.cycle, [])
    let s := s.modUnit u (fun t => { t with stopping := some (since, l ++ [(p, va)]) })
    if t.run = .running ∧ t.power = .awake then s else finishStop s u
/-- POWER_DOWN (R392); action 3 is answered here with BADARG. -/
def execPowerDown (g : Nat) (s : State) : Result := powerRequest g [0, 3] (lowerPower .down g) s
/-- SELF_REFRESH (R392). -/
def execSelfRefresh (g : Nat) (s : State) : Result := powerRequest g [1] (lowerPower .refresh g) s
/-- POWER_EXIT (R392). -/
def execPowerExit (g : Nat) (s : State) : Result :=
  powerRequest g [2] (fun s u _ va => foremanStore (if (s.unit u).power = .awake then s else wakeUnit s u) (g * 8) va 0) s
/-- FOOTING_STOP_TIMEOUT: 65,536 cycles after a forced request, the footing core stops at an instruction boundary (R64). -/
def execFootingStopTimeout (u : Nat) (s : State) : Result :=
  match (s.unit u).stopping with
  | none => .next s
  | some (since, _) => whenever (decide (since + 65536 ≤ s.cycle)) s (fun s => finishStop s u)
/-- CHANNEL_WAKE: an access or command wakes a powered-down channel; it may also wake of itself, which changes no result (R65). -/
def execChannelWake (u : Nat) (s : State) : Result := whenever (decide ((s.unit u).power ≠ .awake)) s (fun s => wakeUnit s u)

/-! ### Instructions of the footing core (R297, R298) -/

/-- The open block of a bank, as its channel-local number. -/
def Unit.blockOf (t : Unit) (n : Nat) : Option Nat := (Table.get none t.openBlk n).map (fun b => b * 16 + n)
/-- FOPEN (R297). -/
def execFopen (n a : Fin 16) (s : State) : Result :=
  onUnit s fun u s =>
    let t := s.unit u
    let b := (s.w a).toNat
    let granted := t.grants.any (fun r => decide (r.1 ≤ b * 16 + n.val ∧ b * 16 + n.val < r.1 + r.2))
    if 12287 < b ∨ !granted ∨ !((t.cmd.map (fun c => bit c.banks n)).getD false) then .next (s.footFault u 0x08)
    else .next ((s.modUnit u (fun t => { t with openBlk := Table.set t.openBlk n (some b) })).advance 4)
/-- A lane of a bank. -/
def Unit.lane (t : Unit) (n l : Nat) : BitVec 40 := Table.get 0 t.lanes (n * 64 + l)
/-- 64 elements of e bytes of the open block accumulated in lane order (R50, R297). -/
def accForm (e limit : Nat) (f : FpFmt) (n a : Fin 16) (s : State) : Result :=
  onUnit s fun u s =>
    let t := s.unit u
    let i := (s.w a).toNat
    match t.blockOf n with
    | none => .next (s.footFault u 0x08)
    | some b =>
      if limit ≤ i then .next (s.footFault u 0x08)
      else
        match dieRead s ((t.owner.map (·.2)).getD (foremanOf (u / 512 * 8))) 0 (blockPa u b + 64 * e * i) (64 * e) with
        | (s, .error cause) => .next (s.footFault u cause)
        | (s, .ok x) =>
          let step (acc : Table (BitVec 40) × Nat) (l : Nat) : Table (BitVec 40) × Nat :=
            let v := (flushed f).decode (x / 2 ^ (8 * e * l) % 2 ^ (8 * e))
            let (y, fl) := accumulate (Table.get 0 acc.1 (n.val * 64 + l)) v
            (Table.set acc.1 (n.val * 64 + l) y, acc.2 ||| fl)
          let (lanes, fl) := (List.range 64).foldl step (t.lanes, Table.get 0 t.flags n)
          .next ((s.modUnit u (fun t => { t with lanes := lanes, flags := Table.set t.flags n fl })).advance 4)
/-- FACC (R297). -/
def execFacc (n a : Fin 16) (s : State) : Result := accForm 4 16 fpF32 n a s
/-- FACCF (R297). -/
def execFaccf (n a : Fin 16) (s : State) : Result := accForm 2 32 fpB16 n a s
/-- FRDO (R297). -/
def execFrdo (n d a : Fin 16) (s : State) : Result :=
  onUnit s fun u s =>
    let t := s.unit u
    let i := (s.w a).toNat
    match t.blockOf n with
    | none => .next (s.footFault u 0x08)
    | some b =>
      if 16 ≤ i then .next (s.footFault u 0x08)
      else
        let outs := (List.range 64).map (fun l => laneOut (t.lane n l))
        let fl := outs.foldl (fun f o => f ||| o.2) (Table.get 0 t.flags n)
        let s := (wakeFor s (blockPa u b)).write (blockPa u b + 256 * i) 256 (outs.foldr (fun o x => o.1 + 2 ^ 32 * x) 0)
        .next (((s.modUnit u (fun t => { t with flags := Table.set t.flags n fl })).setW d (word fl)).advance 4)
/-- FCLRA (R50, R297). -/
def execFclra (n : Fin 16) (s : State) : Result :=
  onUnit s fun u s =>
    .next ((s.modUnit u (fun t =>
      { t with lanes := t.lanes.filter (fun l => decide (l.1 / 64 ≠ n.val)), flags := Table.erase t.flags n })).advance 4)
/-- FREPLY (R53, R297). -/
def execFreply (a : Fin 16) (s : State) : Result :=
  onUnit s fun u s =>
    let v := word ((s.w a).toNat % 2 ^ 63)
    .next ((s.modUnit u (fun t => { t with reply := if t.cmd.isSome then v else t.reply })).advance 4)
/-- FWAITC: ends the current command with its reply, closes every open block and waits; PC stays at the FWAITC, which the next FCMD
completes (R298). A core that a forced power-down is stopping stops here (R64). -/
def execFwaitc (_d : Fin 16) (s : State) : Result :=
  onUnit s fun u s =>
    let s := (s.endCommand u (s.unit u).reply).modUnit u (fun t => { t with run := .waiting, openBlk := [], imx := [] })
    .next (finishStop s u)

/-! ### The reduction engine (R55–R59) -/

/-- A word of a parameter block. -/
def Fred.word (f : Fred) (i : Nat) : Nat := (f.words[i]?.getD 0).toNat
/-- NM1. -/
def Fred.nm1 (f : Fred) : Nat := bits (f.word 0) 11 8
/-- SFMT: BF16 sources. -/
def Fred.sbf (f : Fred) : Bool := bit (f.word 0) 12
/-- DFMT: a BF16 destination. -/
def Fred.dbf (f : Fred) : Bool := bit (f.word 0) 13
/-- CMODE. -/
def Fred.cmode (f : Fred) : Nat := bits (f.word 0) 15 14
/-- LEN. -/
def Fred.len (f : Fred) : Nat := bits (f.word 0) 63 32
/-- The 192-bit field of source offsets. -/
def Fred.soffs (f : Fred) : Nat := f.word 5 + 2 ^ 64 * f.word 6 + 2 ^ 128 * f.word 7
/-- Address of element e of source i (R55). A sum past 2^56 wraps; the manual gives the sum alone (log 83, DESIGN CHOICE). -/
def Fred.source (f : Fred) (i e : Nat) : Nat :=
  (f.word 1 + bits f.soffs (12 * i + 11) (12 * i) * 2 ^ (12 + bits (f.word 0) 22 19) + e * (if f.sbf then 2 else 4)) % 2 ^ 56
/-- Address of element e of the destination, which wraps in the same way (log 83, DESIGN CHOICE). -/
def Fred.dest (f : Fred) (e : Nat) : Nat := (f.word 2 + e * (if f.dbf then 2 else 4)) % 2 ^ 56
/-- The words at fault in a parameter block (R56). -/
def fredOffences (f : Fred) : List Nat :=
  let w0 := f.word 0
  let se := if f.sbf then 128 else 256
  let de := if f.dbf then 128 else 256
  let extra := f.soffs / 2 ^ (12 * (f.nm1 + 1))
  let low := if extra = 0 then 0 else 12 * (f.nm1 + 1) + ((List.range 192).find? (fun i => bit extra i)).getD 0
  (if bits w0 7 0 ≠ 1 ∨ f.len = 0 ∨ 4194304 < f.len ∨ bits w0 31 23 ≠ 0 ∨ 5 ≤ bits w0 18 16 ∨ f.cmode = 3 then [0] else []) ++
    (if bits (f.word 1) 63 56 ≠ 0 ∨ (List.range (f.nm1 + 1)).any (fun i => decide (f.source i 0 % se ≠ 0)) then [1] else []) ++
    (if bits (f.word 2) 63 56 ≠ 0 ∨ f.dest 0 % de ≠ 0 then [2] else []) ++
    (if bits (f.word 3) 63 56 ≠ 0 ∨ (f.cmode = 1 ∧ f.word 3 % 8 ≠ 0) ∨ (f.cmode = 2 ∧ f.word 3 % 64 ≠ 0) then [3] else []) ++
    (if f.cmode = 2 ∧ bits (f.word 4) 63 32 ≠ 0 then [4] else []) ++ (if extra ≠ 0 then [5 + low / 64] else [])

/-- The FRED at the head of an engine's queue. -/
def fredHead (s : State) (k : Nat) : Option Fred := (s.hbm k).q.head?
/-- Replaces it. -/
def setFred (s : State) (k : Nat) (f : Fred) : State := s.modHbm k (fun b => { b with q := f :: b.q.drop 1 })
/-- It ends with a reply. -/
def endFred (s : State) (k : Nat) (f : Fred) (v : Word) : State :=
  (s.modHbm k (fun b => { b with q := b.q.drop 1 })).sendReply f.core f.frame f.reg f.launch v
/-- The identity of a reduction engine for a FRED. -/
def fredIdent (k : Nat) (f : Fred) : Word := identity (k / 8) (k % 8) 3 f.strand
/-- It is parked, and the foreman of the issuing core's panel is told (R37, R59). -/
def parkFred (s : State) (k : Nat) (f : Fred) (cause kind va status : Nat) : State :=
  engineFault (setFred s k { f with parked := some (cause, kind, va, status) }) f.core (skindOf f.core) 0x18 cause kind status (word va) 0
    (fredIdent k f)
/-- FRED_CHECK: the block is read and checked (R56). -/
def execFredCheck (k : Nat) (s : State) : Result :=
  match fredHead s k with
  | none => .next s
  | some f =>
    if f.phase ≠ .check ∨ f.parked.isSome then .next s
    else
      match hbmTranslate s k f.domain f.block .foLoad with
      | (s, .error r) => .next (parkFred s k f r.cause r.kind f.block 0)
      | (s, .ok p) =>
        if paPkg p.pa ≠ k / 8 then .next (endFred s k f (failReply 0x06 0))
        else if !foOpen s f.domain p then .next s
        else
          match dieRead s f.core f.block p.pa 64 with
          | (s, .error cause) => .next (parkFred s k f cause 0 f.block 0)
          | (s, .ok x) =>
            let f := { f with words := (List.range 8).map (fun i => word (x / 2 ^ (64 * i))), phase := .chunks }
            match (fredOffences f).head? with
            | some i => .next (endFred s k f (failReply 0x05 i))
            | none => .next (setFred s k f)

/-- Translates the addresses of a chunk in order: the places, or a failure, with no cause where a page lies on another package (R58). -/
def chunkPlaces (s : State) (k dom : Nat) : List (Nat × Use) → State × Except (Option (Nat × Nat × Nat)) (List Place53)
  | [] => (s, .ok [])
  | (va, u) :: rest =>
    match hbmTranslate s k dom va u with
    | (s, .error r) => (s, .error (some (r.cause, r.kind, va)))
    | (s, .ok p) =>
      if paPkg p.pa ≠ k / 8 then (s, .error none)
      else
        match chunkPlaces s k dom rest with
        | (s, .error e) => (s, .error e)
        | (s, .ok l) => (s, .ok (p :: l))
/-- Reads n bytes at each of a list of places and addresses: the numbers, or the cause and address of the first failure. -/
def readAll (s : State) (core n : Nat) : List (Place53 × Nat) → State × Except (Nat × Nat) (List Nat)
  | [] => (s, .ok [])
  | (p, va) :: rest =>
    match dieRead s core va p.pa n with
    | (s, .error cause) => (s, .error (cause, va))
    | (s, .ok x) =>
      match readAll s core n rest with
      | (s, .error e) => (s, .error e)
      | (s, .ok l) => (s, .ok (x :: l))

/-- FRED_CHUNK: the next 64 elements are translated, read from all sources, tree-summed and written (R57, R58). The sources are
translated in ascending order and the destination last, which decides the failure reported where several pages fail (log 84, DESIGN
CHOICE). -/
def execFredChunk (k : Nat) (s : State) : Result :=
  match fredHead s k with
  | none => .next s
  | some f =>
    if f.phase ≠ .chunks ∨ f.parked.isSome then .next s
    else
      let n := Nat.min 64 (f.len - f.next)
      let se := if f.sbf then 2 else 4
      let de := if f.dbf then 2 else 4
      let vas := (List.range (f.nm1 + 1)).map (fun i => f.source i f.next)
      match chunkPlaces s k f.domain (vas.map (fun va => (va, Use.foLoad)) ++ [(f.dest f.next, .foStore)]) with
      | (s, .error none) => .next (endFred s k f (failReply 0x06 0))
      | (s, .error (some (cause, kind, va))) => .next (parkFred s k f cause kind va 0)
      | (s, .ok ps) =>
        if !ps.all (foOpen s f.domain) then .next s
        else
          match readAll s f.core (n * se) ((ps.take (f.nm1 + 1)).zip vas) with
          | (s, .error (cause, va)) => .next (parkFred s k f cause 0 va 0)
          | (s, .ok xs) =>
            let outs := (List.range n).map (fun j => reduceElem f.sbf f.dbf (xs.map (fun x => x / 2 ^ (8 * se * j) % 2 ^ (8 * se))))
            let s := match ps.getLast? with
              | some p => (wakeFor s p.pa).write p.pa (n * de) (outs.foldr (fun o x => o + 2 ^ (8 * de) * x) 0)
              | none => s
            let f := { f with next := f.next + n }
            .next (setFred s k (if f.len ≤ f.next then { f with phase := .completing } else f))

/-- A completion towards another package does not get through: the issuing strand's sticky bit for the package is set (R102, R383). -/
def fredLost (s : State) (k : Nat) (f : Fred) (pa : Nat) : State :=
  if paPkg pa = k / 8 then s else setSticky s f.core f.strand f.act (paPkg pa)
/-- The flag of CMODE 1: a release at SCOPE charged to the issuing strand, which never goes by the remote partition; the underlying cause
and status of a failure (R59, R74, R333, R337, R342). -/
def fredFlag (s : State) (k : Nat) (f : Fred) : State × Option (Nat × Nat × Nat) :=
  let va := f.word 3 % 2 ^ 56
  let sc := Scope.ofCode (bits (f.word 0) 18 16)
  let q := partyOf f.core f.strand
  match hbmTranslate s k f.domain va .foStore with
  | (s, .error r) => (s, some (r.cause, r.kind, 0))
  | (s, .ok p) =>
    let far := decide (paPkg p.pa ≠ k / 8)
    let a : Agent := ⟨f.core, f.domain, isForeman f.core, false, none⟩
    if far && s.linkDown (k / 8) (paPkg p.pa) then (fredLost s k f p.pa, some (0, 0, 0x0A))
    else if far && farRefused s a p 8 true then (fredLost s k f p.pa, some (0x08, 0, 0))
    else
      let refused := if inPad p.pa then padRefuses s a p.pa 8 true else none
      match refused with
      | some cause => (s, some (cause, 0, 0))
      | none =>
        if !s.admits p.pa sc q then (s, some (0x0C, 0, 0))
        else
          let s := (if sc = .system then s.writeBackAll (k / 8) else s).dropCopy (k / 8) p.pa
          let s := s.setRecord p.pa sc q
          (if inPad p.pa then padWrite s false p.pa 8 (f.word 4)
           else (reachHbm s (attrFO p.attr) f.domain p.pa 8 true).write p.pa 8 (f.word 4), none)
/-- The flag's place may be written now: the commands on the bank of an FO page that arrived before it are done (R54). -/
def flagOpen (s : State) (k : Nat) (f : Fred) : Bool :=
  match hbmTranslate s k f.domain (f.word 3 % 2 ^ 56) .foStore with
  | (s, .ok p) => foOpen s f.domain p
  | (_, .error _) => true
/-- The arrive of CMODE 2 is sent (R59). -/
def fredArrive (s : State) (k : Nat) (f : Fred) : State :=
  let va := f.word 3 % 2 ^ 56
  match hbmTranslate s k f.domain va .mortar with
  | (s, .error r) => parkFred s k f r.cause r.kind va 0
  | (s, .ok p) =>
    let sc := Scope.ofCode (bits (f.word 0) 18 16)
    let r : MReq :=
      { id := s.fresh, iss := .fred k f.core f.strand, ident := fredIdent k f, op := 0x20, scope := sc, ord := .release, line := p.pa,
        dom := f.domain, arg := word (f.word 4 % 2 ^ 32), data := 0, basePa := 0, basePage := 0, baseAttr := 0, mark := 0,
        relSys := decide (sc = .system), admitted := false, from_ := k / 8, launch := f.launch }
    { (setFred s k { f with phase := .arriving r.id }) with mreqs := s.mreqs ++ [r], fresh := s.fresh + 1 }
/-- The reply of the arrive: the FRED ends, or parks with the cause or status (R59). One that did not reach an object on another package
sets the issuing strand's sticky bit (R102). -/
def fredArrived (s : State) (k : Nat) (f : Fred) (p : MRep) : State :=
  let s := { s with mreps := s.mreps.filter (fun x => decide (x ≠ p)) }
  let lost := decide (paPkg p.line ≠ k / 8) && s.linkDown (paPkg p.line) (k / 8)
  let f := { f with phase := .completing }
  let va := f.word 3 % 2 ^ 56
  let s := if lost || unreached p.status then fredLost s k f p.line else s
  if lost ∨ p.status = 0x0A then parkFred s k f 0 0 va 0x0A
  else if p.cause ≠ 0 then parkFred s k f p.cause 0 va 0
  else if p.status = 0x0B then parkFred s k f 0x08 0 va 0
  else if p.status ≠ 0 then parkFred s k f 0 0 va p.status
  else endFred s k f 0
/-- FRED_COMPLETION (R59). -/
def execFredCompletion (k : Nat) (s : State) : Result :=
  match fredHead s k with
  | none => .next s
  | some f =>
    if f.parked.isSome then .next s
    else
      match f.phase with
      | .completing =>
        if f.cmode = 1 then
          if !flagOpen s k f then .next s
          else
          match fredFlag s k f with
          | (s, none) => .next (endFred s k f 0)
          | (s, some (cause, kind, status)) => .next (parkFred s k f cause kind (f.word 3 % 2 ^ 56) status)
        else if f.cmode = 2 then .next (fredArrive s k f)
        else .next (endFred s k f 0)
      | .arriving id =>
        match s.mreps.find? (fun p => decide (p.id = id ∧ p.iss = .fred k f.core f.strand)) with
        | none => .next s
        | some p => .next (fredArrived s k f p)
      | _ => .next s

/-- The engine that a packet names. -/
def packetStack (p : Packet) : Nat := fieldOf p.target 63 50 * 8 + fieldOf p.target 49 40 % 8
/-- FRED_RESUME (R37, R59). -/
def execFredResume (r : Nat) (s : State) : Result :=
  match s.packet? r with
  | none => .next s
  | some p =>
    whenever (forKind p 3 0) s fun s =>
      let k := packetStack p
      match fredHead s k with
      | some f => if f.parked.isSome then ackPacket (setFred s k { f with parked := none }) p 0 else ackPacket s p 1
      | none => ackPacket s p 1
/-- FRED_ABORT (R37, R59). -/
def execFredAbort (r : Nat) (s : State) : Result :=
  match s.packet? r with
  | none => .next s
  | some p =>
    whenever (forKind p 3 1) s fun s =>
      let k := packetStack p
      match fredHead s k with
      | some f => if f.parked.isSome then ackPacket (endFred s k f (failReply 0x01 0)) p 0 else ackPacket s p 1
      | none => ackPacket s p 1

/-- BASE_DIE_TRANSLATION: a miss of the base die's TLB for the domain of a command or FRED of the stack fills it by the die's walker
(R35). -/
def execBaseDieTranslation (k dom va : Nat) (s : State) : Result :=
  let asked := (s.hbm k).q.any (fun f => decide (f.domain = dom)) ||
    (List.range 64).any (fun i => (s.unit (k * 64 + i)).q.any (fun c => decide (c.domain = dom)))
  whenever (asked && !inWindow va) s (fun s => (hbmTranslate s k dom va .load).1)

end Sys2Proof.Machine
end

