-- ==== Sys2Proof/Machine/Send.lean ====
section
/-! DEFINITION. Sending messages and the deques (R183–R186, R299–R305). -/

namespace Sys2Proof.Machine

/-! ### Sending (R185, R300) -/

/-- Step 1 of R185: a reserved KIND, a reserved field that is not zero, or DEC = 0. -/
def headerReserved (m : Msg) : Bool :=
  decide (5 ≤ msgKind m) || decide (fieldOf m.h0 4 0 ≠ 0) ||
    (match msgKind m with
     | 0 => decide (fieldOf m.h1 57 0 ≠ 0)
     | 1 => decide (fieldOf m.h1 63 58 ≠ 0 ∨ fieldOf m.h1 33 0 ≠ 0 ∨ fieldOf m.h1 49 34 = 0)
     | 3 => decide (fieldOf m.h1 29 0 ≠ 0)
     | _ => false)
/-- A message on the own package goes to a core outside the rectangle of the sender's launch (R185, step 4). A foreman strand, which runs no
launch, sends to any core (log 104, DESIGN CHOICE). -/
def outsideArea (s : State) (c : Nat) (m : Msg) : Bool :=
  decide (fieldOf m.h0 58 45 = corePkg c) && !bit m.h0.toNat 5 && !isForeman c && !sameArea s (s.seenCore c) (msgCore m)
/-- The checks of a send, in order (R185, R300): the cause of the first that fails. -/
def sendRefused (s : State) (c : Nat) (m : Msg) (reply : Bool) : Option Nat :=
  if headerReserved m then some 0x02
  else if msgKind m = 2 ∨ msgKind m = 4 then some 0x08
  else if msgKind m = 3 ∧ !bit m.h0.toNat 5 then some 0x08
  else if outsideArea s c m then some 0x08
  else if reply ∧ msgKind m ≠ 0 then some 0x08
  else none
/-- The build registers as a strand's send leaves them: bh0 with its source fields (R300). -/
def stampedB (s : State) (c n : Nat) : Msg :=
  let b := (s.strand c n).b
  { b with h0 := stamp b.h0 (s.seenCore c) n (skindOf (s.seenCore c)) }
/-- Takes the reserved reply, or one allowance (R186). -/
def takeAllowance (t : Strand) (reply : Bool) : Strand :=
  if reply then (if t.rres then { t with rres := false } else { t with arsp := t.arsp - 1 }) else { t with allow := t.allow - 1 }
/-- A release fence that the strand made before is performed before what it sends next (R228, R301). -/
def fencePending (s : State) (c n : Nat) : Bool := !releasedBelow s c n (s.strand c n).relMark
/-- The bytes of a message that a digest covers: bh0[34:6] taken as zero (R375). -/
def digestBytes (m : Msg) : List Byte :=
  ({ m with h0 := word (m.h0.toNat / 2 ^ 35 * 2 ^ 35 + m.h0.toNat % 64) } : Msg).bytes

/-- Sends the build registers whole: bh0 takes the source fields, an allowance is taken, and the flit is injected, or in a replay only
digested (R300, R376). -/
def sendNow (s : State) (c n : Nat) (reply : Bool) : State :=
  let m := stampedB s c n
  let s := releaseRemote s c n (s.strand c n).relMark (s.strand c n).relSys
  let s := s.modStrand c n (fun t => { t with b := m })
  let s := traceBytes s c n (if (s.strand c n).samp.isSome then digestBytes m else [])
  if (s.core c).replay.isSome then s
  else
    let reserved := reply && (s.strand c n).rres
    let cls := if reply then 1 else if msgKind m = 3 then 4 else 0
    let t := s.strand c n
    let f : Flit := { s.flitFrom c cls m with owner := some (.strand c n), act := t.act, rsp := reply, reserved := reserved, src := t.relMark }
    (s.modStrand c n (fun t => takeAllowance t reply)).inject f

/-- A send: its checks, then whether the strand holds what it needs, then the message (R300). `none` is the way of SENDT, which has
no k register and traps. -/
def sendForm (g : Fin 8) (reply : Bool) (d : Option Nat) (s : State) : Result :=
  onStrand s fun c n s => guarded g 4 s fun s =>
    let t := s.strand c n
    match sendRefused s c t.b reply with
    | some cause => .next (s.trap cause 0 0)
    | none =>
      let have_ := if reply then t.rres || decide (0 < t.arsp) else decide (0 < t.allow)
      if !have_ then
        match d with
        | none => .next (s.trap 0x0D 0 0)
        | some d => .next ((s.setK d 1).advance 4)
      else if fencePending s c n then .next s
      else
        let s := sendNow s c n reply
        match d with
        | none => .next (s.advance 4)
        | some d => .next ((s.setK d 0).advance 4)

/-- SEND (R300). -/
def execSend (g d : Fin 8) (s : State) : Result := sendForm g false (some d) s
/-- SENDT (R300). -/
def execSendt (g : Fin 8) (s : State) : Result := sendForm g false none s
/-- SENDR (R300). -/
def execSendr (g d : Fin 8) (s : State) : Result := sendForm g true (some d) s
/-- BCLR (R302). -/
def execBclr (g : Fin 8) (s : State) : Result :=
  onStrand s fun c n s => guarded g 4 s fun s => .next ((s.modStrand c n (fun t => { t with b := .zero })).advance 4)

/-! ### Deques (R303–R305) -/

/-- The deque range of a core is valid (R303). -/
def dequeValid (k : Core) : Bool :=
  let b := k.dqbase.toNat
  let l := k.dqlim.toNat
  decide (b % 64 = 0 ∧ l % 64 = 0 ∧ 0x18000 ≤ b ∧ b + 128 ≤ l ∧ l ≤ 0x40000)
/-- next(p) of a core's deque. -/
def dequeNext (k : Core) (p : Word) : Word := if p + 64 = k.dqlim then k.dqbase else p + 64
/-- prev, its inverse. -/
def dequePrev (k : Core) (p : Word) : Word := if p = k.dqbase then k.dqlim - 64 else p - 64
/-- The deque is empty. -/
def dequeEmpty (k : Core) : Bool := decide (k.dqhead = k.dqtail)
/-- The physical address of an entry. -/
def dequePa (c : Nat) (p : Word) : Nat := padBase c + p.toNat % 2 ^ 20
/-- The entry of a core's deque at an offset as the deque unit reads it, or the address of its first poisoned word, which is reported
to the foreman of core `by_`'s panel (R78). -/
def dequeEntry (s : State) (c : Nat) (p : Word) (by_ : Nat) : State × Except Nat Msg :=
  let va (pa : Nat) : Nat := scratchVa c (pa - padBase c)
  match s.poisonedAt (dequePa c p) 64 with
  | some a => (reportPoison s by_ (va a) a, .error (va a))
  | none =>
    let s := s.correct (dequePa c p) 64
    (s, .ok (Msg.ofNat (s.read (dequePa c p) 64)))
/-- Takes the newest entry of a core's deque (DQPOP). -/
def dequePop (s : State) (c : Nat) : State := s.modCore c (fun k => { k with dqhead := dequePrev k k.dqhead })
/-- Takes the oldest entry of a core's deque (DQSTEAL). -/
def dequeSteal (s : State) (c : Nat) : State := s.modCore c (fun k => { k with dqtail := dequeNext k k.dqtail })

/-- DQPUSH: a release at PACKAGE scope (R304, R305). The range of the deque is checked before the header (log 105, DESIGN CHOICE). -/
def execDqpush (g d : Fin 8) (s : State) : Result :=
  onStrand s fun c n s => guarded g 4 s fun s =>
    let k := s.core c
    let b := (s.strand c n).b
    if !dequeValid k then .next (s.trap 0x08 0 0)
    else if headerReserved b then .next (s.trap 0x02 0 0)
    else if msgKind b ≠ 0 then .next (s.trap 0x08 0 0)
    else if decide (dequeNext k k.dqhead = k.dqtail) then .next ((s.setK d 1).advance 4)
    else if !releasedBelow s c n s.fresh then .next s
    else
      let m := stampedB s c n
      let s := s.modStrand c n (fun t => { t with b := m })
      let s := s.write (dequePa c k.dqhead) 64 m.toNat
      let s := s.modCore c (fun k => { k with dqhead := dequeNext k k.dqhead })
      .next ((s.setK d 0).advance 4)
/-- DQPOP: an acquire, whose reading of the entry comes after the strand's earlier acquires (R304, R305, R335). -/
def execDqpop (g d : Fin 8) (s : State) : Result :=
  onStrand s fun c n s => guarded g 4 s fun s =>
    let k := s.core c
    if !dequeValid k then .next (s.trap 0x08 0 0)
    else if dequeEmpty k then .next ((s.setK d 1).advance 4)
    else if !loadReady s c n (dequePa c (dequePrev k k.dqhead)) 64 then .next s
    else
      match dequeEntry s c (dequePrev k k.dqhead) c with
      | (s, .error va) => .next (s.trap 0x1B 0 (word va))
      | (s, .ok m) => .next ((((dequePop s c).modStrand c n (fun t => { t with b := m })).setK d 0).advance 4)
/-- DQSTEAL: the request goes to the target's deque unit once the strand's earlier acquires have completed, and the strand waits for the
reply (R304, R335). -/
def execDqsteal (g d : Fin 8) (a : Fin 32) (s : State) : Result :=
  onStrand s fun c n s => guarded g 4 s fun s => needing [a.val] s fun s =>
    let t := corePkg c * 2048 + fieldOf (s.w a) 9 0
    if !sameArea s (s.seenCore c) t then .next (s.trap 0x08 0 0)
    else if (inFlight s c n).any (·.ord.acq) then .next s
    else
      let x : Steal := { id := s.fresh, core := c, strand := n, target := t, d := d, len := 4 }
      .next (({ s with steals := s.steals ++ [x] }.tickFresh).modStrand c n (fun t => { t with wait := .steal x.id }))

/-- DEQUE_STEAL_REQUEST: the target's deque unit takes its oldest entry and replies; the reply completes the DQSTEAL (R304, R305). -/
def execDequeStealRequest (r : Nat) (s : State) : Result :=
  match s.steals.find? (fun x => decide (x.id = r)) with
  | none => .next s
  | some x =>
    let s := { s with steals := s.steals.filter (fun y => decide (y.id ≠ r)) }
    let c := x.core
    let n := x.strand
    let k := s.core x.target
    let done (s : State) (v : Word) : State :=
      s.modStrand c n (fun t => { t.setMask x.d v with wait := .none, pc := t.pc + word x.len, imx := [] })
    let fails (s : State) (cause va : Nat) : State := takeTrap s c n cause 0 0 (word va) (s.strand c n).pc (s.strand c n).pc none
    if (s.strand c n).wait ≠ .steal r then .next s
    else if !dequeValid k then .next (fails s 0x08 0)
    else if dequeEmpty k then .next (done s 1)
    else
      match dequeEntry s x.target k.dqtail c with
      | (s, .error va) => .next (fails s 0x1B va)
      | (s, .ok m) => .next (done ((dequeSteal s x.target).modStrand c n (fun t => { t with b := m })) 0)

end Sys2Proof.Machine
end

