-- ==== Sys2Proof/Machine/Hods.lean ====
section
/-! DEFINITION. The hod instructions (R306–R311), and how a hod engine forwards, parks and finishes a hod (R195–R198). -/

namespace Sys2Proof.Machine

/-! ### Where a hod lies -/

/-- Where a hod lies: a landing slot of a core, or an entry of a launch's park area. -/
inductive HodAt where
  | slot (core i : Nat)
  | park (launch e : Nat)
  deriving DecidableEq, Repr

/-- The landing slot at an address of the scratch window, whose BUSY bit is set (R195, R306). -/
def slotAt (s : State) (g va : Nat) : Option HodAt :=
  if scratchWindow ≤ va then
    let c := g * 2048 + (va - scratchWindow) / 0x80000
    ((List.range (nslot (s.core c))).find? (fun i => decide (slotVa s c i = va) && slotBusy (s.core c) i)).map (HodAt.slot c)
  else none
/-- The park entry at an address, in a launch that passes a test. -/
def parkAt (s : State) (va : Nat) (ok : Launch → Bool) : Option HodAt :=
  s.launches.findSome? (fun l =>
    if ok l then (l.parked.find? (fun e => decide (parkVa l e = va))).map (HodAt.park l.id) else none)
/-- The virtual address of a hod. -/
def hodVa (s : State) : HodAt → Nat
  | .slot c i => slotVa s c i
  | .park l e => ((s.launch? l).map (fun l => parkVa l e)).getD 0
/-- The domain in which a hod's address stands. -/
def hodDomain (s : State) : HodAt → Nat
  | .slot c _ => (s.core c).domain
  | .park l _ => ((s.launch? l).map (·.dom)).getD 0
/-- The agent of a core's hod engine in the domain of a hod. -/
def hodAgent (s : State) (c : Nat) (w : HodAt) : Agent := ⟨c, hodDomain s w, isForeman c, false, none⟩

/-- The header and stops of a hod, as the hod engine of a core reads them, or the cause, kind and address of a failure. In a replay they
are read as a load reads them (R376). -/
def hodRead (s : State) (c : Nat) (w : HodAt) : State × Except (Nat × Nat × Nat) HodImage :=
  match w with
  | .slot t i =>
    match (s.core c).replay with
    | some r =>
      match replayMeets s r (slotPa s t i) 192 with
      | some a => (reportPoison s c (scratchVa t (a - padBase t)) a, .error (0x1B, 0, scratchVa t (a - padBase t)))
      | none => (s, .ok (replayRead s r (slotPa s t i) 192))
    | none =>
      match s.poisonedAt (slotPa s t i) 192 with
      | some a => (reportPoison s c (scratchVa t (a - padBase t)) a, .error (0x1B, 0, scratchVa t (a - padBase t)))
      | none =>
        let s := s.correct (slotPa s t i) 192
        (s, .ok (slotImage s t i))
  | .park _ _ =>
    match readVa s (hodAgent s c w) .load 4 (hodVa s w) 192 with
    | (s, .ok l) => (s, .ok (ofBytesLE l))
    | (s, .error e) => (s, .error e)
/-- Writes the header and stops of a hod. -/
def hodWrite (s : State) (c : Nat) (w : HodAt) (h : HodImage) : State :=
  match w with
  | .slot t i =>
    if (s.core c).replay.isSome then
      let pa := slotPa s t i
      s.modCore c (fun k => { k with replay := k.replay.map (fun r => replayWrite r pa 192 h) })
    else setSlotImage s t i h
  | .park _ _ => (writeVa s (hodAgent s c w) 4 (hodVa s w) (bytesLE h 192)).1

/-- The place that the operand of a hod instruction names (R306): a landing slot of the own package, or for a foreman strand and for
HODRESUME an entry of a park area: a launch of the package's for a foreman, one of the strand's domain for the supervisor, which may run
on another package (R311). -/
def hodPlace (s : State) (c va : Nat) (resume : Bool) : Option HodAt :=
  let g := corePkg (s.seenCore c)
  let own (l : Launch) : Bool := decide (l.pkg = g) && (isForeman c || decide (l.dom = (s.core c).domain))
  let far (l : Launch) : Bool := !isForeman c && decide (l.dom = (s.core c).domain)
  (slotAt s g va).orElse (fun _ =>
    if isForeman c || resume then (parkAt s va own).orElse (fun _ => parkAt s va far) else none)
/-- The physical bytes of a hod's place: runs of an address and a length, translated in the hod's domain (R403). -/
def hodSpans (s : State) (c : Nat) : HodAt → List (Nat × Nat)
  | .slot t i => [(slotPa s t i, 0x4100)]
  | .park l e => physSpansIn s c (hodDomain s (.park l e)) 4 (hodVa s (.park l e)) 0x4100
/-- An access of the strand in flight touches the hod that an operand names: the instruction waits for it (R335). -/
def hodBusy (s : State) (c n va : Nat) (resume : Bool) : Bool :=
  ((hodPlace s c va resume).map (fun w => (hodSpans s c w).any (fun q => bytesInFlight s c n q.1 q.2))).getD false
/-- The hod operand of an instruction (R306): the place and the image, or the trap. A landing slot of the own core holds a hod that
is BUILT or RUNNING; another place is for a foreman strand and for HODRESUME, and holds a hod that is PARKED, FAULT or UNREACH. -/
def hodOperand (s : State) (c va : Nat) (resume : Bool) : State × Except (Nat × Nat × Nat) (HodAt × HodImage) :=
  let me := s.seenCore c
  let far := isForeman c || resume
  let bad := (0x14, 0, va)
  match hodPlace s c va resume with
  | none => (s, .error bad)
  | some w =>
    match hodRead s c w with
    | (s, .error e) => (s, .error e)
    | (s, .ok h) =>
      let st := hodStatus h
      let live := match w with | .slot t _ => decide (t = me ∧ (st = 0 ∨ st = 3)) | .park _ _ => false
      let rest := far && decide (4 ≤ st ∧ st ≤ 6) && (isForeman c || decide (hodDomain s w = (s.core c).domain))
      if !hodWellFormed h || !(live || rest) then (s, .error bad) else (s, .ok (w, h))

/-- An activation's hold on a landing slot. -/
def letGo (i : Nat) (hod : Option Nat) (built : List Nat) : Option Nat × List Nat :=
  (if hod = some i then none else hod, built.filter (fun j => decide (j ≠ i)))
/-- Nothing on the core holds the hod of slot i any more: no strand and no continuation. -/
def dropHeld (s : State) (c i : Nat) : State :=
  let kind (x : SlotKind) : SlotKind :=
    match x with
    | .cont y => .cont { y with hod := (letGo i y.hod y.built).1, built := (letGo i y.hod y.built).2 }
    | x => x
  s.modCore c (fun k =>
    { k with strands := k.strands.map (fun p =>
               (p.1, { p.2 with hod := (letGo i p.2.hod p.2.built).1, built := (letGo i p.2.hod p.2.built).2 })),
             inbox := k.inbox.map (fun x => { x with kind := kind x.kind }),
             rings := k.rings.map (fun p => (p.1, { p.2 with ents := p.2.ents.map (fun e => { e with kind := kind e.kind }) })) })

/-- A word of the header of a hod in a park entry, where it can be read. -/
def parkWord (s : State) (c : Nat) (w : HodAt) (off : Nat) : State × Option Word :=
  match readVa s (hodAgent s c w) .load 2 (hodVa s w + off) 8 with
  | (s, .ok l) => (s, some (word (ofBytesLE l)))
  | (s, .error _) => (s, none)
/-- Parks a hod from where it lies (R198): a landing slot's to the park area; one that already lies in an entry stays there with the
status and cause, and its supervisor is told: the launch's where the header does not tell another, with HID 0 where it does not tell that
(log 82, DESIGN CHOICE). -/
def parkHod (s : State) (c : Nat) (w : HodAt) (st : HodStatus) (cause : Nat) : State :=
  match w with
  | .slot t i => (parkSlot (dropHeld s t i) t i st cause).1
  | .park l _ =>
    let s := (writeVa s (hodAgent s c w) 2 (hodVa s w + 5) [BitVec.ofNat 8 st.code, BitVec.ofNat 8 cause]).1
    let (s, hid) := parkWord s c w 16
    let (s, supv) := parkWord s c w 32
    hodMessage s c (supv.getD (((s.launch? l).map (·.supv)).getD (s.supvOf c))) (hid.getD 0) st cause (hodVa s w)
/-- The place of a hod is zeroed and freed (R196, step 6; R311). -/
def freeHod (s : State) (c : Nat) (w : HodAt) : State :=
  match w with
  | .slot t i => emptySlot s t i
  | .park l e =>
    let s := (writeVa s (hodAgent s c w) 270 (hodVa s w) (List.replicate 0x4100 0)).1
    s.modLaunch l (fun x => { x with parked := x.parked.filter (fun j => decide (j ≠ e)) })

/-! ### Forwarding (R195–R197) -/

/-- The target of a stop or of its alternate, as a core (R193, Table 9). -/
def stopTarget (w : Nat) (alt : Bool) : Nat :=
  if alt then bits w 45 32 * 2048 + bits w 55 51 * 32 + bits w 50 46 else bits w 13 0 * 2048 + bits w 23 19 * 32 + bits w 18 14
/-- The target can be reached (R197): on the own package it lies in the launch's rectangle, where that launch is of the package, runs a
launch of the domain and accepts hods; another package lies in the domain, and its port decides. -/
def stopReachable (s : State) (g dom : Nat) (l : Option Launch) (t : Nat) : Bool :=
  if corePkg t = g then
    (l.map (fun l => decide (l.pkg ≠ g) || l.holds t)).getD false && decide ((s.core t).launch ≠ 0 ∧ (s.core t).domain = dom ∧ nslot (s.core t) ≠ 0)
  else
    ((Table.get [] (s.die (2 * g)).pkgset dom).contains (corePkg t) || (Table.get [] (s.die (2 * g + 1)).pkgset dom).contains (corePkg t)) &&
      !s.linkDown g (corePkg t)
/-- Sends the hod of a place to its current stop, or to the alternate, or parks it UNREACH (R196 step 3, R197). The hod engine of core
c sends, with an allowance of its own and in the hod's domain (R403); `sender` is the identity that the message carries. DIV is set where
the alternate is tried. -/
def forwardHod (s : State) (c : Nat) (w : HodAt) (l : Option Launch) (h : HodImage) (sender : Word) : State :=
  let g := corePkg c
  let dom := hodDomain s w
  let stop := hodStop h (hodCur h)
  let can (alt : Bool) : Bool := (!alt || bit stop 30) && stopReachable s g dom l (stopTarget stop alt)
  let choice := if !hodDiv h && can false then some false else if can true then some true else none
  let h := setHodField h 56 1 (if choice = some false then 0 else if bit stop 30 || hodDiv h then 1 else 0)
  match choice with
  | none => parkHod (hodWrite s c w h) c w .unreach 0
  | some alt =>
    let t := stopTarget stop alt
    let s := hodWrite s c w (setHodField h 5 1 HodStatus.transit.code)
    let f : HodFwd :=
      { id := s.fresh, core := (match w with | .slot t _ => t | .park _ _ => c), launch := (l.map (·.id)).getD 0, sender := c, dom := dom,
        addr := hodVa s w, slot := (match w with | .slot _ i => some i | .park _ _ => none),
        park := (match w with | .slot _ _ => none | .park _ e => some e), ident := sender, target := t, cls := bits stop 29 24,
        hid := word (hodHid h), ack := none, fetched := none }
    let m : Msg :=
      ⟨stamp (headerTo 2 (engineIdent t 0 0)) c 0 2, word (f.cls * 2 ^ 58), word f.addr, f.hid, sender, 0, 0, 0⟩
    let s := ({ s with fwds := s.fwds ++ [f] }.tickFresh).modCore c (fun k => { k with hodAllow := k.hodAllow - 1 })
    s.inject { s.flitFrom c 0 m with hodOwner := some c, fwd := f.id, dom := dom }
/-- Where the hod of a forward lies. -/
def HodFwd.place (f : HodFwd) : HodAt :=
  match f.slot, f.park with
  | some i, _ => .slot f.core i
  | none, e => .park f.launch (e.getD 0)
/-- The launch of a forward. -/
def fwdLaunch (s : State) (f : HodFwd) : Option Launch := if f.launch = 0 then none else s.launch? f.launch
/-- A HOD message that cannot be delivered makes its stop unreachable: the allowance is back at the hod engine that sent it, and that
engine diverts to an alternate that the stop names, or parks (R197). -/
def hodUnreachable (s : State) (id : Nat) : State :=
  match s.fwds.find? (fun f => decide (f.id = id)) with
  | none => s
  | some f =>
    let s := { s with fwds := s.fwds.filter (fun x => decide (x.id ≠ id)) }
    let s := s.modCore f.sender (fun k => { k with hodAllow := k.hodAllow + 1 })
    match hodRead s f.sender f.place with
    | (s, .error (cause, _, _)) => parkHod s f.sender f.place .fault cause
    | (s, .ok h) =>
      if hodDiv h || !bit (hodStop h (hodCur h)) 30 then parkHod s f.sender f.place .unreach 0
      else forwardHod s f.sender f.place (fwdLaunch s f) (setHodField h 56 1 1) f.ident

/-! ### The instructions -/

/-- The frame of an instruction with a hod operand: guard, registers, operand, effect, advance. -/
def hodForm (g : Fin 8) (a : Nat) (reads writes : List Nat) (resume : Bool)
    (k : Nat → Nat → HodAt → HodImage → State → Except (Nat × Nat × Nat) State) (s : State) : Result :=
  onStrand s fun c n s => guarded g 4 s fun s =>
    if s.waitsFor writes then .next s
    else needing (a :: reads) s fun s =>
      if hodBusy s c n (fieldOf (s.w a) 55 0) resume then .next s
      else
      match hodOperand s c (fieldOf (s.w a) 55 0) resume with
      | (s, .error (cause, kind, va)) => .next (s.trapWith cause 0 kind (word va))
      | (s, .ok (w, h)) =>
        match k c n w h s with
        | .ok s => .next (s.advance 4)
        | .error (cause, kind, va) => .next (s.trapWith cause 0 kind (word va))

/-- low: the first stop that an edit may touch (R309). -/
def lowStop (h : HodImage) : Nat := if hodStatus h = 3 then hodCur h + 1 else hodCur h
/-- The stops of a hod: word 0 and ARG of each. -/
def stopsOf (h : HodImage) : List Nat := (List.range (hodNstop h)).map (fun n => hodField h (64 + 16 * n) 16)
/-- A hod with other stops; the places after them are zero. -/
def withStops (h : HodImage) (l : List Nat) : HodImage :=
  let h := setHodField h 3 1 l.length
  setHodField h 64 128 (l.foldr (fun x acc => x + 2 ^ 128 * acc) 0)
/-- A stop from a register pair. -/
def stopFrom (s : State) (b : Nat) : Nat := (s.w b).toNat + 2 ^ 64 * (s.w (b + 1)).toNat

/-- HODSET (R309). -/
def execHodset (g n : Fin 8) (a b : Fin 32) (s : State) : Result :=
  hodForm g a [b.val, b.val + 1] [] false (fun c _ w h s =>
    if n.val < lowStop h ∨ hodNstop h ≤ n.val ∨ !stopValid (s.w b).toNat then .error (0x14, 0, hodVa s w)
    else .ok (hodWrite s c w (withStops h ((stopsOf h).set n.val (stopFrom s b))))) s
/-- HODINS (R309). -/
def execHodins (g n : Fin 8) (a b : Fin 32) (s : State) : Result :=
  hodForm g a [b.val, b.val + 1] [] false (fun c _ w h s =>
    if n.val < lowStop h ∨ hodNstop h < n.val ∨ hodNstop h = 8 ∨ !stopValid (s.w b).toNat then .error (0x14, 0, hodVa s w)
    else .ok (hodWrite s c w (withStops h ((stopsOf h).take n.val ++ stopFrom s b :: (stopsOf h).drop n.val)))) s
/-- HODDEL (R309). -/
def execHoddel (g n : Fin 8) (a : Fin 32) (s : State) : Result :=
  hodForm g a [] [] false (fun c _ w h s =>
    if n.val < lowStop h ∨ hodNstop h ≤ n.val ∨ hodNstop h = 1 then .error (0x14, 0, hodVa s w)
    else .ok (hodWrite s c w (withStops h ((stopsOf h).eraseIdx n.val)))) s
/-- The field that a selector names (R310, Table 3). -/
def hodSelect (h : HodImage) (sel : Nat) : Nat :=
  match sel with
  | 8 => hodHid h
  | 9 => hodSupv h
  | 10 => hodField h 24 8
  | 11 => hodTaddr h
  | 12 => hodField h 8 8
  | 13 => hodField h 0 8
  | 14 => hodField h 48 8
  | 15 => hodField h 56 1
  | n => hodStop h n
/-- HODGET (R310). -/
def execHodget (g : Fin 8) (sel : Fin 16) (d a : Fin 32) (s : State) : Result :=
  hodForm g a [] [d.val] false (fun _ _ w h s =>
    if sel.val < 8 ∧ hodNstop h ≤ sel.val then .error (0x14, 0, hodVa s w)
    else .ok (s.setW d (word (hodSelect h sel.val)))) s
/-- HODPARK: parks a BUILT or RUNNING hod with status PARKED and a cause (R311). -/
def execHodpark (g : Fin 8) (a b : Fin 32) (s : State) : Result :=
  hodForm g a [b.val] [] false (fun c _ w h s =>
    if hodStatus h ≠ 0 ∧ hodStatus h ≠ 3 then .error (0x14, 0, hodVa s w)
    else if (s.core c).replay.isSome then .ok (hodWrite s c w (setHodStatus h .parked (fieldOf (s.w b) 7 0)))
    else .ok (parkHod s c w .parked (fieldOf (s.w b) 7 0))) s

/-- HODNEXT (R196, R308): the strand's earlier accesses are performed, CUR moves on unless the hod is BUILT, DIV is cleared, the audit
digest is written (R375), and the hod is finished or forwarded. In a replay the forward is digested and not sent (R376). -/
def execHodnext (g : Fin 8) (a : Fin 32) (s : State) : Result :=
  onStrand s fun c n s => guarded g 4 s fun s => needing [a.val] s fun s =>
    match hodOperand s c (fieldOf (s.w a) 55 0) false with
    | (s, .error (cause, kind, va)) => .next (s.trapWith cause 0 kind (word va))
    | (s, .ok (w, h)) =>
      if !releasedBelow s c n s.fresh ∨ (s.core c).hodAllow = 0 then .next s
      else
        let s := releaseRemote s c n s.fresh (s.strand c n).relSys
        let h := setHodField h 4 1 (if hodStatus h = 0 then hodCur h else hodCur h + 1)
        let h := setHodField h 56 1 0
        let s := if (s.strand c n).samp.isSome then traceBytes s c n (bytesLE h (64 + 16 * hodNstop h)) else s
        let h := match strandDigest s c n with | some d => setHodField h 48 8 d.toNat | none => h
        let s := hodWrite s c w h
        if (s.core c).replay.isSome then .next ((hodWrite s c w (setHodField h 5 1 HodStatus.transit.code)).advance 4)
        else
          let s := match w with | .slot t i => dropHeld s t i | .park _ _ => s
          let l := match w with | .slot t _ => s.launchOf t | .park l _ => s.launch? l
          if hodCur h = hodNstop h then .next ((parkHod s c w .done 0).advance 4)
          else .next ((forwardHod s c w l h (engineIdent c 2 0)).advance 4)

/-- HODRESUME (R311): for a foreman strand, and for a strand of the core that SUPV names. -/
def execHodresume (g : Fin 8) (a : Fin 32) (s : State) : Result :=
  onStrand s fun c n s => guarded g 4 s fun s => needing [a.val] s fun s =>
    if hodBusy s c n (fieldOf (s.w a) 55 0) true then .next s
    else
    match hodOperand s c (fieldOf (s.w a) 55 0) true with
    | (s, .error (cause, kind, va)) => .next (s.trapWith cause 0 kind (word va))
    | (s, .ok (w, h)) =>
      let (sp, sc, sk, _) := identFields (word (hodSupv h))
      let supervisor := decide (sk ≠ 4 ∧ sp = corePkg c ∧ sc = coreIdx (s.seenCore c))
      if !isForeman c && !supervisor then .next (s.trap 0x08 0 (word (hodVa s w)))
      else if hodStatus h < 4 then .next (s.trap 0x14 0 (word (hodVa s w)))
      else if hodCur h = hodNstop h then
        let s := hodWrite s c w (setHodStatus h .done 0)
        .next ((hodMessage s c (word (hodSupv h)) (word (hodHid h)) .done 0 (hodVa s w)).advance 4)
      else if (s.core c).hodAllow = 0 then .next s
      else
        let h := setHodField h 6 1 0
        let l := match w with | .slot t _ => s.launchOf t | .park l _ => s.launch? l
        if (s.core c).replay.isSome then .next ((hodWrite s c w (setHodField h 5 1 HodStatus.transit.code)).advance 4)
        else .next ((forwardHod (hodWrite s c w h) c w l h (s.identOf c n)).advance 4)

/-- Bytes that the hod engine reads for a strand's HODNEW, with the checks of its loads. -/
def hodSource (s : State) (c m va n : Nat) : State × Except (Nat × Nat × Nat) (List Byte) :=
  readVa s (s.strandAgent c m) .load (n / 64 + 2) va n
/-- HODNEW (R307). The image of the header is read with the checks of 8-byte loads (log 81, DEDUCED) and examined; then the stops and the
tile are read. -/
def execHodnew (g : Fin 8) (d a : Fin 32) (s : State) : Result :=
  onStrand s fun c n s => guarded g 4 s fun s =>
    if s.waitsFor [d.val] then .next s
    else needing [a.val] s fun s =>
      let va := fieldOf (s.w a) 55 0
      if va % 8 ≠ 0 then .next (s.trap 0x06 0 (word va))
      else if !releasedBelow s c n s.fresh then .next s
      else
        let me := s.seenCore c
        let fails (s : State) (e : Nat × Nat × Nat) : Result := .next (s.trapWith e.1 0 e.2.1 (word e.2.2))
        match hodSource s c n va 64 with
        | (s, .error e) => fails s e
        | (s, .ok x) =>
          let h := ofBytesLE x
          if !hodImageValid h then fails s (0x14, 0, va)
          else
            match freeLanding (s.core me) with
            | none => .next ((s.setW d 0).advance 4)
            | some i =>
              match hodSource s c n (va + 64) (16 * hodNstop h) with
              | (s, .error e) => fails s e
              | (s, .ok y) =>
                let h := h + 2 ^ 512 * ofBytesLE y
                if (List.range (hodNstop h)).any (fun j => !stopValid (hodStop h j)) then fails s (0x14, 0, va)
                else
                  match hodSource s c n (hodTaddr h % 2 ^ 56) (hodLen h) with
                  | (s, .error e) => fails s e
                  | (s, .ok tile) =>
                    let h := setHodField h 24 8 (s.identOf c n).toNat
                    let h := setHodStatus (setHodField h 4 1 0) .built 0
                    let h := setHodField (setHodField h 56 1 0) 48 8 0
                    let h := setHodField h 40 8 (slotVa s me i + 0x100)
                    let s := hodWrite s c (.slot me i) h
                    let s := if (s.core c).replay.isSome then s
                      else
                        let s := s.writeBytes (slotPa s me i + 0x100) tile
                        (s.modCore me (fun k => setBusy k i)).modStrand c n (fun t => { t with built := t.built ++ [i] })
                    .next ((s.setW d (word (slotVa s me i))).advance 4)

end Sys2Proof.Machine
end

