-- ==== Sys2Proof/Machine/Grout.lean ====
section
/-! DEFINITION. The grout network: injection, hops, deflection, ejection and resequencing of message flits (R175–R181). Memory, mortar,
copy and reply traffic is not followed hop by hop: its pieces are performed where and in the order that their own rules say (log 11). -/

namespace Sys2Proof.Machine

/-- The key of router (x, y) of a package. -/
def routerKey (g x y : Nat) : Nat := g * 1024 + y * 32 + x
/-- Changes a flit. -/
def State.modFlit (s : State) (id : Nat) (k : Flit → Flit) : State :=
  { s with flits := s.flits.map (fun f => if f.id = id then k f else f) }
/-- A flit by number. -/
def State.flit? (s : State) (id : Nat) : Option Flit := s.flits.find? (fun f => decide (f.id = id))
/-- Removes a flit. -/
def State.dropFlit (s : State) (id : Nat) : State := { s with flits := s.flits.filter (fun f => decide (f.id ≠ id)) }
/-- The neighbours of a router: +x, −x, +y, −y, modulo 32 (R175). -/
def neighbours (x y : Nat) : List (Nat × Nat) := [((x + 1) % 32, y), ((x + 31) % 32, y), (x, (y + 1) % 32), (x, (y + 31) % 32)]
/-- Torus distance along one axis. -/
def axisDistance (a b : Nat) : Nat := Nat.min ((b + 32 - a) % 32) ((a + 32 - b) % 32)
/-- Torus distance from (x, y) to a flit's destination. -/
def Flit.distance (f : Flit) (x y : Nat) : Nat := axisDistance x f.dx + axisDistance y f.dy
/-- Cycles that a link adds where it crosses the die boundary (R175). -/
def linkExtra (y y' : Nat) : Nat :=
  if (y = 15 ∧ y' = 16) ∨ (y = 16 ∧ y' = 15) ∨ (y = 31 ∧ y' = 0) ∨ (y = 0 ∧ y' = 31) then 8 else 0

/-- The flits at a router that it assigns in this cycle. -/
def arrivedAt (s : State) (r : Nat) : List Flit :=
  s.flits.filter (fun f => match f.loc with
    | .at_ x y t _ => decide (routerKey f.pkg x y = r ∧ t ≤ s.cycle)
    | _ => false)
/-- The core or foreman at whose router a flit is ejected. -/
def Flit.goal (f : Flit) : Nat :=
  if f.dep = 3 then foremanOf (panelKey (f.pkg * 2048 + f.dy * 32 + f.dx)) else f.pkg * 2048 + f.dy * 32 + f.dx
/-- The sequence number that the endpoint of a flit takes next from its source and class (R178). -/
def State.nextSeq (s : State) (f : Flit) : Nat := Table.get 0 s.seqIn (seqKey f)

/-! ### Outputs (R175, R177, R178) -/

/-- When a flit that takes the link from row y to row y' now reaches the other end (R175). -/
def linkArrival (s : State) (y y' : Nat) : Nat := s.cycle + 1 + linkExtra y y'
/-- The links of router (x, y) that no flit has taken in this cycle (R175). -/
def freeLinks (s : State) (g x y : Nat) : List (Nat × Nat) :=
  (neighbours x y).filter (fun p => s.flits.all (fun f => !decide (f.loc = .at_ p.1 p.2 (linkArrival s y p.2) (routerKey g x y))))
/-- The ejected flits of a flit's class at its destination, in the ejection queue or the resequencing buffer. -/
def beside (s : State) (f : Flit) : List Flit :=
  s.flits.filter (fun g => decide ((g.loc = .queued ∨ g.loc = .held) ∧ g.pkg = f.pkg ∧ g.dx = f.dx ∧ g.dy = f.dy ∧ g.cls = f.cls))
/-- The ejection queue of the flit's class at its destination has room for one more (R178). -/
def queueRoom (s : State) (f : Flit) : Bool := decide (((beside s f).filter (fun g => decide (g.loc = .queued))).length < 4)
/-- The flit is next in order, or the resequencing buffer of its class, of 16, has room for all that are not (R178). -/
def inSequence (s : State) (f : Flit) : Bool :=
  decide (f.seq = s.nextSeq f) || decide (((beside s f).filter (fun g => decide (g.seq ≠ s.nextSeq g))).length < 16)
/-- The inbox partitions that a class feeds (R187). -/
def partitionsOf (cls : Nat) : List Nat := match cls with | 0 => [0, 3] | 1 => [1] | _ => [2]
/-- A ring that is full stops the core's ejection of its class (R189, R192). -/
def ejectionStopped (s : State) (f : Flit) : Bool :=
  decide (f.dep = 0) && (partitionsOf f.cls).any (fun p => ringFull (s.core f.goal) p)
/-- The ejection port of router (x, y) takes the flit in this cycle (R177, R178). -/
def ejects (s : State) (x y : Nat) (f : Flit) : Bool :=
  decide (f.dx = x ∧ f.dy = y ∧ (Table.get (0, 0) s.ports (routerKey f.pkg x y)).1 ≠ s.cycle + 1) && queueRoom s f && inSequence s f &&
    !ejectionStopped s f
/-- One flit takes an output of router (x, y): the ejection port at its destination, a free link that shortens its way, or any free
link, which deflects it (R177). -/
def assignFlit (s : State) (x y : Nat) (f : Flit) : State :=
  let r := routerKey f.pkg x y
  if ejects s x y f then
    let s := s.modFlit f.id (fun f => { f with loc := .queued })
    { s with ports := Table.modify (0, 0) s.ports r (fun q => (s.cycle + 1, q.2)) }
  else
    let free := freeLinks s f.pkg x y
    let good := free.filter (fun p => decide (f.distance p.1 p.2 < f.distance x y))
    let options := if good.isEmpty then free else good
    match options[Config.pick s.fresh % options.length]? with
    | none => s
    | some p =>
      let age := if good.isEmpty then Nat.min 1023 (f.age + 1) else f.age
      s.tickFresh.modFlit f.id (fun f => { f with loc := .at_ p.1 p.2 (linkArrival s y p.2) r, age := age })

/-- A flit ranks before another: AGE, then source core number, then class (R177). -/
def Flit.before (f g : Flit) : Bool :=
  let a := f.sy * 32 + f.sx
  let b := g.sy * 32 + g.sx
  decide (g.age < f.age ∨ (f.age = g.age ∧ (a < b ∨ (a = b ∧ f.cls ≤ g.cls))))
/-- A flit put in rank order. -/
def insertFlit (f : Flit) : List Flit → List Flit
  | [] => [f]
  | g :: rest => if f.before g then f :: g :: rest else g :: insertFlit f rest
/-- Router r assigns the flits that have arrived to its outputs in rank order (R177). -/
def hopAt (s : State) (r : Nat) : State :=
  ((arrivedAt s r).foldr insertFlit []).foldl (fun s f => assignFlit s (r % 32) (r / 32 % 32) f) s
/-- FLIT_HOP. -/
def execFlitHop (r : Nat) (s : State) : Result := .next (hopAt s r)

/-! ### Injection (R179) -/

/-- The injection of a flit has waited 128 cycles (R179). -/
def Flit.starved (f : Flit) (now : Nat) : Bool := match f.loc with | .waiting t => decide (t + 128 ≤ now) | _ => false
/-- A neighbour of the flit's router signals starvation, so the router injects nothing new: no flit but one that has waited as long itself
(R179, R180; log 80). -/
def heldBack (s : State) (f : Flit) : Bool :=
  !f.starved s.cycle && (neighbours f.sx f.sy).any (fun p => s.starving.any (fun q => decide (q.1 = routerKey f.pkg p.1 p.2)))
/-- Router r may inject a waiting flit in this cycle: it has assigned every flit that arrived, has injected none yet, no neighbour's
signal stops it, and an output that the flit can take is free (R177, R179). -/
def mayInject (s : State) (f : Flit) : Bool :=
  let r := routerKey f.pkg f.sx f.sy
  (match f.loc with | .waiting _ => true | _ => false) && (arrivedAt s r).isEmpty &&
    decide ((Table.get (0, 0) s.ports r).2 ≠ s.cycle + 1) && !heldBack s f &&
    (ejects s f.sx f.sy f || !(freeLinks s f.pkg f.sx f.sy).isEmpty)
/-- A waiting flit is injected and takes its output; the signal that it raised is released (R177, R179). -/
def injectNow (s : State) (f : Flit) : State :=
  let r := routerKey f.pkg f.sx f.sy
  let s := assignFlit s f.sx f.sy f
  { s with ports := Table.modify (0, 0) s.ports r (fun q => (q.1, s.cycle + 1)),
           starving := s.starving.filter (fun q => !decide (q.1 = r ∧ q.2 = f.id)) }
/-- FLIT_INJECTION. -/
def execFlitInjection (i : Nat) (s : State) : Result :=
  match s.flit? i with
  | none => .next s
  | some f => whenever (mayInject s f) s (fun s => injectNow s f)
/-- A router whose injection has waited 128 cycles signals its neighbours (R179). -/
def signalStarvation (s : State) (r : Nat) : State :=
  if s.starving.any (fun q => decide (q.1 = r)) then s
  else
    match s.flits.find? (fun f => decide (routerKey f.pkg f.sx f.sy = r) && f.starved s.cycle) with
    | some f => { s with starving := Table.set s.starving r f.id }
    | none => s
/-- INJECTION_STARVATION. -/
def execInjectionStarvation (r : Nat) (s : State) : Result := .next (signalStarvation s r)

/-! ### The cycle of the network -/

/-- The routers at which flits have arrived. -/
def dueRouters (s : State) : List Nat :=
  (s.flits.filterMap (fun f => match f.loc with
    | .at_ x y t _ => if t ≤ s.cycle then some (routerKey f.pkg x y) else none
    | _ => none)).eraseDups
/-- What every router does before the cycle ends: it assigns the flits that arrived, which it never holds, injects a waiting flit where an
output is left free, and signals starvation (R177, R179). -/
def gridCycle (s : State) : State :=
  let s := (dueRouters s).foldl hopAt s
  let waiting := s.flits.filter (fun f => match f.loc with | .waiting _ => true | _ => false)
  waiting.foldl (fun s f => signalStarvation (if mayInject s f then injectNow s f else s) (routerKey f.pkg f.sx f.sy)) s
/-- How many of n cycles may pass before the network acts again: one while a flit waits, and none past the next arrival. -/
def quietCycles (s : State) (n : Nat) : Nat :=
  s.flits.foldl (fun n f => match f.loc with
    | .waiting _ => Nat.min n 1
    | .at_ _ _ t _ => Nat.min n (Nat.max 1 (t - s.cycle))
    | _ => n) n

/-! ### Ejection (R178, R181) -/

/-- The flit leaves its ejection queue or resequencing buffer in its turn; a single-bit error is corrected and counted at the physical core
of the router (R178, R181). -/
def leaveQueue (s : State) (f : Flit) : State :=
  let s := if f.single then s.countCore (f.pkg * 2048 + f.dy * 32 + f.dx) 1 else s
  { s.dropFlit f.id with seqIn := Table.set s.seqIn (seqKey f) ((s.nextSeq f + 1) % 256) }
/-- A message whose route header cannot be corrected is handed to the sender's supervisor with cause 0x1B by the foreman of the
panel of the detecting router (R181). -/
def handBroken (s : State) (f : Flit) : State :=
  let fc := foremanOf (panelKey (f.pkg * 2048 + f.dy * 32 + f.dx))
  let source := msgSource f.msg
  let skind := fieldOf f.msg.h0 8 6
  let m := f.msg
  if msgKind m = 2 then { s with fwds := s.fwds.map (fun x => if x.id = f.fwd then { x with ack := some 0x1B } else x) }
  else
    let target := s.supvOf source
    (s.foremanSends fc target 0x10 (word (0x1B + skind * 2 ^ 24)) m.h0 m.h1 (foremanIdent (panelKey fc)) 0 0).foremanSends fc target 0x15
      m.w0 m.w1 m.w2 m.w3 m.w4 m.w5

/-- FLIT_EJECTION: an ejected flit is checked and corrected; one whose route header is lost is turned over in its turn, and one that is
not next in its order moves to the resequencing buffer (R178, R181). -/
def execFlitEjection (i : Nat) (s : State) : Result :=
  match s.flit? i with
  | none => .next s
  | some f =>
    if f.loc ≠ .queued ∧ f.loc ≠ .held then .next s
    else if f.seq ≠ s.nextSeq f then .next (s.modFlit i (fun f => { f with loc := .held }))
    else if f.badHeader then .next (handBroken ((leaveQueue s f).giveBack f none) f)
    else
      let s := if f.single then s.countCore (f.pkg * 2048 + f.dy * 32 + f.dx) 1 else s
      .next (s.modFlit i (fun f => { f with single := false }))

/-- The ejected flit is the next that its endpoint takes from its source and class (R178). -/
def State.frontFlit (s : State) (i : Nat) : Option Flit :=
  (s.flit? i).filter (fun f => decide ((f.loc = .queued ∨ f.loc = .held) ∧ f.seq = s.nextSeq f) && !f.badHeader)

/-- The route header that hardware writes (R176, Table 2): OPW is zero for a message, EIDX is its Nelyen port, and LAST belongs to
transfers of several flits. -/
def Flit.header (f : Flit) : BitVec 128 :=
  let eidx := if f.dep = 4 then ((List.range 12).find? (fun n => decide (portRouter n = (f.dx, f.dy)))).getD 0 else 0
  BitVec.ofNat 128 (f.seq * 2 ^ 43 + f.age * 2 ^ 33 + eidx * 2 ^ 27 + f.dep * 2 ^ 24 + f.cls * 2 ^ 20 + f.sy * 2 ^ 15 + f.sx * 2 ^ 10 +
    f.dy * 2 ^ 5 + f.dx)

end Sys2Proof.Machine
end

