-- ==== Sys2Proof/Machine/Inbox.lean ====
section
/-! DEFINITION. Messages at their endpoint: the inbox and its spill rings (R187–R191), dataflow counters (R192), late messages (R409),
returning allowances (R186), and messages from another package (R380, R381). -/

namespace Sys2Proof.Machine

/-! ### Arrival -/

/-- The core runs a launch of the sender's domain, and the one that the message is for; a SYSTEM message comes from hardware or a foreman,
and for it any domain will do (R366, R409). One that reaches a launch which is ending finds none (R362). For a message from another package
that was sent before any launch ran there, check 1 of R381 alone decides. -/
def takesFrom (s : State) (t : Nat) (f : Flit) : Bool :=
  let k := s.core t
  isForeman t || (decide (k.launch ≠ 0) && !((s.launchOf t).map (·.closing.isSome)).getD false &&
    (decide (f.launch = k.launch) || (decide (f.launch = 0) && f.far)) &&
    (decide (k.domain = f.dom) || decide (msgKind f.msg = 3)))
/-- A flit has been taken by its endpoint in its turn, and its allowance returns (R178, R186). -/
def takeFlit (s : State) (f : Flit) : State := (leaveQueue s f).giveBack f none
/-- What a message is about when it is handed on: its class, counter index or SYSTEM function (R408). -/
def aboutOf (m : Msg) : Nat := match msgKind m with | 1 => fieldOf m.h1 57 50 | 3 => msgSfn m | _ => msgClass m

/-- A message with a poisoned header word reaches a core or foreman: what reads the header meets 0x1B, so the message starts nothing and is
logged (R78, R181; log 94). -/
def meetBad (s : State) (t : Nat) (f : Flit) : State := reportPoison (s.logAt (panelKey t) [f.msg]) t 0 (padBase t)
/-- A message is accepted by a core: a HOD message into its partition, a SYSTEM message unless its function is reserved (R366), any
other into REQ or RSP by its class. The answer says whether it was taken. -/
def arriveCore (s : State) (t : Nat) (f : Flit) : State × Bool :=
  let m := f.msg
  if f.bad &&& 3 ≠ 0 ∧ f.fwd = 0 then (meetBad s t f, true)
  else if msgKind m = 2 then accept s t 3 m f.bad (.hod f.fwd none) f.src f.id
  else if msgKind m = 3 ∧ !sfnKnown (msgSfn m) then (s.handOn t (s.supvOf t) m 0x04 (msgSfn m), true)
  else accept s t (if f.cls = 4 then 2 else if f.cls = 1 then 1 else 0) m f.bad .message f.src f.id
/-- A message is accepted by a foreman: one that it acts on into its SYS partition of eight, and others into its log, which is where its
firmware keeps them (R365, R366). A DIRECT message goes to its inbox. One with a poisoned word starts nothing: the firmware, which reads
it, meets 0x1B (R78, R181). -/
def arriveForeman (s : State) (t : Nat) (f : Flit) : State × Bool :=
  if f.bad &&& 3 ≠ 0 then (meetBad s t f, true)
  else if msgKind f.msg ≠ 3 then accept s t (if f.cls = 1 then 1 else 0) f.msg f.bad .message f.src f.id
  else if f.bad ≠ 0 then (meetBad s t f, true)
  else
    match (s.panel (panelKey t)).take (panelKey t) f.msg with
    | (p, ok) => (s.modPanel (panelKey t) (fun _ => p), ok)
/-- What its endpoint does with a message. -/
def arriveAt (s : State) (f : Flit) : State × Bool := if f.dep = 3 then arriveForeman s f.goal f else arriveCore s f.goal f
/-- An endpoint that has taken a flit lets it go; one that has not leaves it where it is. -/
def taken (f : Flit) : State × Bool → State
  | (s, true) => takeFlit s f
  | (s, false) => s

/-- A COUNTER message, of the own package or in the form of handler 80 (R380). -/
def isCounter (m : Msg) : Bool := decide (msgKind m = 1) || (decide (msgKind m = 4) && decide (fieldOf m.h1 63 56 = 80))
/-- MESSAGE_ARRIVAL (R187, R188). -/
def execMessageArrival (i : Nat) (s : State) : Result :=
  match s.frontFlit i with
  | none => .next s
  | some f =>
    if (f.dep ≠ 0 ∧ f.dep ≠ 3) ∨ isCounter f.msg ∨ !takesFrom s f.goal f then .next s
    else .next (taken f (arriveAt s f))

/-! ### Dataflow counters (R192) -/

/-- The physical address of a counter-table entry. -/
def counterPa (c i : Nat) : Nat := padBase c + 0x14800 + 8 * i
/-- Applies a COUNTER message at a core. The answer says whether it was taken. A poisoned header word tells no counter: the core, which
consumes it, meets 0x1B (R78, R181). -/
def applyCounter (s : State) (t : Nat) (m : Msg) (f : Flit) (idx dec : Nat) : State × Bool :=
  let e := s.read (counterPa t idx) 8
  let count := bits e 15 0
  if ringFull (s.core t) 0 then (s, false)
  else if f.bad &&& 3 ≠ 0 then (meetBad s t f, true)
  else if !bit e 39 then (s.handOn t (s.supvOf t) m 0x01 idx, true)
  else if dec < count then (s.write (counterPa t idx) 8 (e - dec), true)
  else
    match accept s t 0 m f.bad (.fired (bits e 37 32)) 1 f.id with
    | (s, false) => (s, false)
    | (s, true) => (s.write (counterPa t idx) 8 (e - count + bits e 31 16), true)
/-- A COUNTER message at its core, or with FM at the core of a foreman: CIDX and DEC by R184, or in the form of handler 80 by R379. -/
def countAt (s : State) (f : Flit) : State × Bool :=
  if msgKind f.msg = 4 then applyCounter s f.goal f.msg f (fieldOf f.msg.h1 23 16) (fieldOf f.msg.h1 15 0)
  else applyCounter s f.goal f.msg f (fieldOf f.msg.h1 57 50) (fieldOf f.msg.h1 49 34)
/-- COUNTER_MESSAGE (R192). -/
def execCounterMessage (i : Nat) (s : State) : Result :=
  match s.frontFlit i with
  | none => .next s
  | some f =>
    if (f.dep ≠ 0 ∧ f.dep ≠ 3) ∨ !isCounter f.msg ∨ !takesFrom s f.goal f then .next s else .next (taken f (countAt s f))

/-- A message to another package fails on the link, or is refused there: its allowance returns and its sticky bit is set, and a HOD
message makes its stop unreachable (R300, R197). -/
def failMessage (s : State) (f : Flit) : State :=
  if msgKind f.msg = 2 then hodUnreachable (leaveQueue s f) f.fwd
  else (leaveQueue s f).giveBack f (some f.peer)
/-- LATE_MESSAGE: a message for a core that runs no launch of its sender's domain, or another than the message is for. A HOD message makes
its stop unreachable, one from another package is refused, and any other is handed on to the foreman of the core's panel (R409). -/
def execLateMessage (i : Nat) (s : State) : Result :=
  match s.frontFlit i with
  | none => .next s
  | some f =>
    let t := f.goal
    if f.dep ≠ 0 ∨ takesFrom s t f then .next s
    else if msgKind f.msg = 2 ∨ f.via.isSome then .next (failMessage s f)
    else .next ((takeFlit s f).handOn t (foremanIdent (panelKey t)) f.msg 0x05 (aboutOf f.msg))

/-! ### From another package (R380, R381) -/

/-- The header word 1 that the issuing port writes: handler 16 + CLASS, or 80 with CIDX and DEC (R379, Table 1). -/
def remoteHeader (m : Msg) (dom : Nat) : Word :=
  if msgKind m = 1 then word (80 * 2 ^ 56 + dom * 2 ^ 40 + fieldOf m.h1 57 50 * 2 ^ 16 + fieldOf m.h1 49 34)
  else word ((16 + msgClass m) * 2 ^ 56 + dom * 2 ^ 40)
/-- The message as it travels: KIND REMOTE-OP. -/
def remoteForm (m : Msg) (dom : Nat) : Msg := { m with h0 := word (4 * 2 ^ 60 + m.h0.toNat % 2 ^ 60), h1 := remoteHeader m dom }
/-- The core that a message addresses, a foreman's where FM is set. -/
def Flit.target (f : Flit) : Nat := if bit f.msg.h0.toNat 5 then foremanOf (panelKey (msgCore f.msg)) else msgCore f.msg
/-- The port of the target admits handlers 16 to 80 and HOD messages: the domain is set up there for the issuing package, and the core that
the message names, unless it is a foreman, runs a launch of it (R381, check 1; R409; log 95). A SYSTEM message is no handler's: of it the
core only has to run the launch that it is for. -/
def portTakes (s : State) (t : Nat) (f : Flit) : Bool :=
  (decide (msgKind f.msg = 3) || rootAdmits s (2 * corePkg t) f.dom f.pkg || rootAdmits s (2 * corePkg t + 1) f.dom f.pkg) && takesFrom s t f &&
    (decide (msgKind f.msg ≠ 2) || decide (nslot (s.core t) ≠ 0))
/-- A flit that has reached its Nelyen port. -/
def atPort (s : State) (i : Nat) : Option Flit := (s.frontFlit i).filter (fun f => decide (f.dep = 4))
/-- A message cannot go on to its package: no link leads there, or it is for a handler from 16 to 80, which the package does not have
(R102, R382, R387). -/
def Flit.cutOff (f : Flit) (s : State) : Bool :=
  s.linkDown f.pkg f.peer || (decide (msgKind f.msg < 2) && !bit f.msg.h0.toNat 5 && s.lacks f.pkg f.peer 1)
/-- The port at which a message enters its package: the one that faces the last port of its route (R384). -/
def State.entryPort (s : State) (g dst : Nat) : Nat := (((s.route 128 g dst).bind List.getLast?).map (fun q => q.2 ^^^ 2)).getD 12
/-- A message in the grout of its package: it is injected at the router of the port that it came by (R175, Table 1; R386). A DIRECT or
COUNTER message has the form of a REMOTE-OP, of class REQ (R182, R379, R380). -/
def entered (s : State) (f : Flit) : Flit :=
  let port := portRouter (s.entryPort f.pkg f.peer)
  let m := if msgKind f.msg < 2 then remoteForm f.msg f.dom else f.msg
  let (dep, dx, dy) := s.endpoint f.peer f.msg
  { f with pkg := f.peer, sx := port.1, sy := port.2, dx := dx, dy := dy, dep := dep, cls := if msgKind f.msg < 2 then 0 else f.cls,
           msg := m, single := false, via := some f.pkg }
/-- A message at its port leaves its package: it fails on the link or at the target's port, or enters the target's grout. One whose header
word 0 is poisoned names no package that the port could read (R181; log 94). -/
def crossPort (s : State) (f : Flit) : State :=
  if f.bad.getLsbD 0 then handBroken ((leaveQueue s f).giveBack f none) f
  else if f.cutOff s || !portTakes s f.target f then failMessage s f
  else (leaveQueue s f).inject (entered s f)
/-- REMOTE_MESSAGE (R380). -/
def execRemoteMessage (i : Nat) (s : State) : Result :=
  match atPort s i with
  | none => .next s
  | some f => if msgKind f.msg = 1 then .next s else .next (crossPort s f)
/-- REMOTE_COUNTER (R380). -/
def execRemoteCounter (i : Nat) (s : State) : Result :=
  match atPort s i with
  | none => .next s
  | some f => if msgKind f.msg ≠ 1 then .next s else .next (crossPort s f)

/-! ### Spill rings (R188, R191) -/

/-- One word of a ring entry, and whether it is poisoned, which is reported (R78, R191). -/
def spilledWord (s : State) (t va : Nat) : State × Except (Nat × Nat × Nat) (Nat × Bool) :=
  match readVa s (s.agent t) .load 2 va 8 with
  | (s, .ok l) => (s, .ok (ofBytesLE l, false))
  | (s, .error (cause, kind, at_)) =>
    match (if cause = 0x1B then (translate s t (s.core t).domain va).2.toOption else none) with
    | some pl => (s, .ok (s.read pl.pa 8, true))
    | none => (s, .error (cause, kind, at_))
/-- Words of a ring entry from word i on: what they hold, and which are poisoned. -/
def spilledWords (s : State) (t va : Nat) : Nat → State × Except (Nat × Nat × Nat) (Nat × Nat)
  | 0 => (s, .ok (0, 0))
  | k + 1 =>
    match spilledWord s t va with
    | (s, .error e) => (s, .error e)
    | (s, .ok (x, bad)) =>
      match spilledWords s t (va + 8) k with
      | (s, .error e) => (s, .error e)
      | (s, .ok (y, bads)) => (s, .ok (x + 2 ^ 64 * y, (if bad then 1 else 0) + 2 * bads))
/-- Reads the 64 bytes of a ring entry: the message, and which of its words are poisoned; or the cause, kind and address of a failure. -/
def readSpilled (s : State) (t p pos : Nat) : State × Except (Nat × Nat × Nat) (Msg × BitVec 8) :=
  match spilledWords s t (ringVa (s.core t).spillq p pos) 8 with
  | (s, .ok (x, bad)) => (s, .ok (Msg.ofNat x, BitVec.ofNat 8 bad))
  | (s, .error e) => (s, .error e)
/-- SPILL_REDELIVERY: the head of a ring moves into a free slot; a diverted wake-up completes its instruction (R99, R188, R191). -/
def execSpillRedelivery (t p : Nat) (s : State) : Result :=
  let k := s.core t
  let r := k.ring p
  match r.ents with
  | [] => .next s
  | e :: rest =>
    if k.preempted ∨ r.rfail then .next s
    else
      match e.kind with
      | .wake id =>
        let s := s.modCore t (fun k => k.setRing p { r with ents := rest })
        match s.rep? id with
        | none => .next s
        | some q => .next (completeMortar (s.dropRep q) q)
      | kind =>
        match k.freeSlot p with
        | none => .next s
        | some i =>
          match readSpilled s t p e.pos with
          | (s, .error (cause, tkind, va)) => .next (ringFails s t p cause tkind va none)
          | (s, .ok (m, bad)) =>
            .next (s.modCore t (fun k =>
              { (k.setRing p { k.ring p with ents := rest, reported := false }) with
                inbox := k.inbox ++ [⟨p, i, m, bad, e.arr, kind, e.src⟩] }))
/-- The read of the head that failed is tried again: it succeeds or stays failed. -/
def retryRead (s : State) (t p : Nat) : State :=
  match ((s.core t).ring p).ents with
  | [] => s.modCore t (fun k => k.setRing p { k.ring p with rfail := false })
  | e :: _ =>
    match readSpilled s t p e.pos with
    | (s, .error (cause, kind, va)) => ringFails s t p cause kind va none
    | (s, .ok _) => s.modCore t (fun k => k.setRing p { k.ring p with rfail := false, reported := false })
/-- The write that failed is tried again: the message that waits for it arrives once more. Where it has gone another way, the ring is
written no message, and what counts is whether the tail can be. -/
def retryWrite (s : State) (t p i : Nat) : State :=
  let s := s.modCore t (fun k => k.setRing p { k.ring p with wfail := none, tried := s.cycle })
  match s.frontFlit i with
  | some f =>
    if takesFrom s f.goal f then taken f (if isCounter f.msg then countAt s f else arriveAt s f)
    else s
  | none =>
    let k := s.core t
    let va := ringVa k.spillq p (k.ring p).tail
    match translateFor s t k.domain va .store with
    | (s, .error r) => ringFails s t p r.cause r.kind va (some 0)
    | (s, .ok _) => s.modCore t (fun k => k.setRing p { k.ring p with reported := false })
/-- SPILL_RETRY: the failed accesses of a ring are tried again once every 2^K cycles, and at once after a shootdown, which sets its last
try to 0 (R191). -/
def execSpillRetry (t p : Nat) (s : State) : Result :=
  let r := (s.core t).ring p
  let due := decide (r.tried = 0 ∨ r.tried + 2 ^ fieldOf (s.core t).prioage 4 0 ≤ s.cycle)
  whenever (r.failed && due) s (fun s =>
    let s := if r.rfail then retryRead s t p else s
    match r.wfail with
    | some i => retryWrite s t p i
    | none => s)

/-! ### Allowances (R186) -/

/-- ALLOWANCE_RETURN: the allowance is back, once the RSP class reaches the core (R182, R189); a message that failed on its way to another
package sets the strand's sticky bit (R300). -/
def execAllowanceReturn (r : Nat) (s : State) : Result :=
  match s.rets.find? (fun x => decide (x.id = r)) with
  | none => .next s
  | some x =>
    if rspStopped s x.core then .next s
    else
    let s := { s with rets := s.rets.filter (fun y => decide (y.id ≠ r)) }
    match x.kind with
    | 2 => .next (s.modCopy x.core (fun e => { e with allow := e.allow + 1 }))
    | 3 => .next (s.modCore x.core (fun k => { k with hodAllow := k.hodAllow + 1 }))
    | k =>
      let s := match k with
        | 0 => s.modStrand x.core x.strand (fun t => { t with allow := t.allow + 1 })
        | 1 => s.modStrand x.core x.strand (fun t => { t with arsp := t.arsp + 1 })
        | _ => s
      .next (match x.failedPkg with
        | some g => setSticky s x.core x.strand x.act g
        | none => s)

end Sys2Proof.Machine
end

