-- ==== Sys2Proof/Machine/Dispatching.lean ====
section
/-! DEFINITION. The routine table, the choice of dispatch, the start of an activation, and the idle step (R135, R144, R145, R196 step 7,
R315, R350–R356). -/

namespace Sys2Proof.Machine

/-! ### The routine table (R350, R351) -/

/-- An entry of the routine table as its two words. -/
abbrev RoutineEnt := Nat × Nat
/-- ENTRY. -/
def entryPc (e : RoutineEnt) : Nat := bits e.1 15 0
/-- PRIO. -/
def entryPrio (e : RoutineEnt) : Nat := bits e.1 18 17
/-- SERIAL. -/
def entrySerial (e : RoutineEnt) : Bool := bit e.1 19
/-- CLAIM. -/
def entryClaim (e : RoutineEnt) : Nat := bits e.1 23 20
/-- COPY. -/
def entryCopy (e : RoutineEnt) : Nat := bits e.1 26 24
/-- AUDIT. -/
def entryAudit (e : RoutineEnt) : Bool := bit e.1 27
/-- PSTR, where PIN is set. -/
def entryPin (e : RoutineEnt) : Option Nat := if bit e.1 30 then some (bits e.1 29 28) else none
/-- AUDMAPS. -/
def entryAudmaps (e : RoutineEnt) : Nat := bits e.2 15 0
/-- The entry passes R351. -/
def entryGood (e : RoutineEnt) : Bool :=
  entryV e && decide (bits e.1 63 31 = 0 ∧ bits e.2 63 16 = 0 ∧ entryPc e % 2 = 0 ∧ entryCopy e ≠ 7)

/-! ### Candidates (R352) -/

/-- The class that a slot's message starts, for a candidate (R352, R380). -/
def candClass (x : Slot) : Option Nat :=
  match x.kind with
  | .message =>
    if x.part = 2 then some 62
    else if x.part = 3 then none
    else if msgKind x.msg = 4 then some (fieldOf x.msg.h1 63 56 - 16)
    else some (msgClass x.msg)
  | .fired c => some c
  | .cont y => some y.cls
  | .stolen => some (msgClass x.msg)
  | .trapped _ _ => some 63
  | .hod _ landed => if landed.isSome then some (msgClass x.msg) else none
  | .wake _ => none
/-- The candidates of a core with their classes. -/
def candidates (k : Core) : List (Slot × Nat) := k.inbox.filterMap (fun x => (candClass x).map (fun c => (x, c)))
/-- A frame whose pending words an ended activation of the strand left behind keeps the strand occupied (R52). -/
def awaitsReplies (s : State) (c n : Nat) : Bool :=
  let f := (s.strand c n).frame
  decide (s.pendAt c n ≠ 0) && !contHolds (s.core c) f &&
    (List.range 4).all (fun m => decide (m = n) || !decide ((s.strand c m).mode ≠ .free ∧ (s.strand c m).frame = f))
/-- A strand is free (R52, R352). -/
def strandFree (s : State) (c n : Nat) : Bool :=
  decide ((s.strand c n).mode = .free) && allowancesHome (s.strand c n) && !awaitsReplies s c n
/-- The strands that hold an activation. -/
def busyStrands (s : State) (c : Nat) : List Strand := ((List.range 4).map (s.strand c)).filter (fun t => decide (t.mode ≠ .free))
/-- The lowest-numbered free frame. -/
def freeFrame (k : Core) : Option Nat := (List.range 32).find? (fun f => !k.frames.getLsbD f)
/-- A candidate of a class is eligible for a strand: the five conditions of R352, in their order. -/
def eligible (s : State) (c n cls : Nat) : Bool :=
  let e := routineEntry s c cls
  entryGood e && (!entrySerial e || (busyStrands s c).all (fun t => decide (t.cls ≠ cls))) &&
    (busyStrands s c).all (fun t => decide (t.claim &&& entryClaim e = 0)) &&
    (match entryPin e with | some p => decide (p = n) | none => true) &&
    (freeFrame (s.core c)).isSome
/-- Aged priority (R353). -/
def agedPrio (s : State) (c : Nat) (x : Slot) (cls : Nat) : Nat :=
  let k := s.core c
  let base := if cls = 0 then k.prio else entryPrio (routineEntry s c cls)
  let urg := match x.kind with | .cont _ => 0 | _ => if bit x.msg.h0.toNat 59 then 1 else 0
  Nat.min 3 (base + urg + (s.cycle - x.arr) / 2 ^ fieldOf k.prioage 4 0)
/-- Among equal priorities and arrivals: SYS, RSP, HOD, REQ (R353). -/
def partRank (p : Nat) : Nat := match p with | 2 => 0 | 1 => 1 | 3 => 2 | _ => 3
/-- A candidate goes before another (R353). -/
def ahead (s : State) (c : Nat) (a b : Slot × Nat) : Bool :=
  let p := agedPrio s c a.1 a.2
  let q := agedPrio s c b.1 b.2
  let ka := (partRank a.1.part, a.1.slot)
  let kb := (partRank b.1.part, b.1.slot)
  decide (q < p ∨ (p = q ∧ (a.1.arr < b.1.arr ∨ (a.1.arr = b.1.arr ∧ (ka.1 < kb.1 ∨ (ka.1 = kb.1 ∧ ka.2 < kb.2))))))
/-- The best of a list. -/
def best (s : State) (c : Nat) : List (Slot × Nat) → Option (Slot × Nat)
  | [] => none
  | x :: rest =>
    match best s c rest with
    | none => some x
    | some y => if ahead s c y x then some y else some x
/-- What dispatch starts, and where: the lowest free strand with an eligible candidate, and its best one (R353). -/
def choose (s : State) (c : Nat) : Option (Nat × Slot × Nat) :=
  (List.range 4).findSome? (fun n =>
    if strandFree s c n then
      (best s c ((candidates (s.core c)).filter (fun x => eligible s c n x.2))).map (fun x => (n, x.1, x.2))
    else none)

/-! ### The start of an activation (R135, R144, R145) -/

/-- The message that an activation reads: for a landed hod the landing message (R196, step 7). -/
def startMsg (s : State) (c : Nat) (x : Slot) : Msg :=
  match x.kind with
  | .hod _ (some i) =>
    let h := slotImage s c i
    ⟨x.msg.h0, x.msg.h1, word (slotVa s c i), word (hodArg h (hodCur h)), word (hodHid h), word (hodCur h), x.msg.w2, 0⟩
  | _ => x.msg
/-- The first COPY words of a message go to w0 and on, poisoned words with them (R78, R144). -/
def copyWords (s : State) (c f k : Nat) (m : Msg) (bad : BitVec 8) : State :=
  (List.range k).foldl (fun s i =>
    let s := s.write (regAddr c f i) 8 (m.get (2 + i)).toNat
    if bad.getLsbD (2 + i) then { s with poison := regAddr c f i / 8 :: s.poison } else s) s
/-- The class-0 message of a launch takes its state from the register image (R145, R348 step 6); so does any later class-0 message of a
foreman, while one that a strand sends starts by R144 (log 101, DESIGN CHOICE). -/
def isFirst (x : Slot) (cls : Nat) : Bool := decide (cls = 0 ∧ x.part = 0 ∧ fieldOf x.msg.h0 8 6 = 3)
/-- Word i of the register image at an offset (R347, Table 5). -/
def imageWord (l : Launch) (off i : Nat) : Nat := l.regs / 2 ^ (8 * (off + 8 * i)) % 2 ^ 64
/-- The strand's registers from the register image: v, k, FCTL and SCB (R145). -/
def fromImage (l : Launch) (t : Strand) : Strand :=
  let vs := (List.range 16).map (fun r => (r, BitVec.ofNat 2048 (l.regs / 2 ^ (8 * (0x100 + 256 * r)))))
  let t := vs.foldl (fun t p => t.setVec p.1 p.2) t
  let t := (List.range 8).foldl (fun t r => t.setMask r (word (imageWord l 0x1100 r))) t
  { t with fctl := word (imageWord l 0x1140 0) &&& ctlBits 0x010, scb := word (imageWord l 0x1140 1) &&& ctlBits 0x012 }
/-- The core registers from the register image; the deque is empty (R143, R145). -/
def coreImageRegs (l : Launch) (k : Core) : Core :=
  let w (i : Nat) : Word := word (imageWord l 0x1150 i)
  { k with trapmask := w 0 &&& ctlBits 0x023, dqbase := w 1, dqhead := w 1, dqtail := w 1, dqlim := w 2, stealmask := w 3 &&& ctlBits 0x044 }
/-- The frame words from the register image. -/
def frameImage (s : State) (l : Launch) (c f : Nat) : State :=
  (List.range 32).foldl (fun s i => s.write (regAddr c f i) 8 (imageWord l 0 i)) s
/-- The state of a strand at the start of an activation (R143, Table 3; R144). -/
def startStrand (t : Strand) (e : RoutineEnt) (cls frame act : Nat) (actseq : Word) (m : Msg) (bad : BitVec 8) (rres : Bool) : Strand :=
  { Strand.init with
    allow := t.allow, arsp := t.arsp, mode := .running, pc := word (entryPc e), frame := frame, cls := cls, claim := entryClaim e,
    serial := entrySerial e, audit := entryAudit e, act := act, actseq := actseq, m := m, mbad := bad, rres := rres }
/-- The activation must see what another package has written: the message comes from there behind a release fence, from a copy or from the
previous stop, or a counter has taken messages, from wherever. Clean bytes of the remote partitions could hide that, and are dropped; within
a package they hide nothing (R301, R337; log 47). -/
def acquires (c : Nat) (x : Slot) : Bool :=
  let away := decide (corePkg (msgSource x.msg) ≠ corePkg c)
  match x.kind with
  | .fired _ => true
  | .hod _ _ => away
  | _ => away && decide (x.src ≠ 0 ∨ fieldOf x.msg.h0 8 6 = 1)

/-- A continuation goes on, on any strand that its entry permits (R315). -/
def continueActivation (s : State) (c n : Nat) (x : Slot) (y : Cont) : State :=
  let e := routineEntry s c y.cls
  let s := s.modCore c (fun k => k.dropSlot x.part x.slot)
  s.modStrand c n (fun t =>
    { startStrand t e y.cls y.frame y.act y.actseq x.msg x.bad y.rres with
      pc := y.pc, sticky := y.sticky, hod := y.hod, built := y.built, fol := y.fol, followed := y.followed, relMark := y.relMark,
      relSys := y.relSys })
/-- A new activation starts on a strand in the lowest free frame (R135, R144, R353), and is sampled if its class and ACTSEQ say so
(R374). -/
def startActivation (s : State) (c n : Nat) (x : Slot) (cls : Nat) : State :=
  let e := routineEntry s c cls
  let f := (freeFrame (s.core c)).getD 0
  let m := startMsg s c x
  let q := (s.core c).actseq
  let act := s.fresh
  let s := s.tickFresh
  let s := if acquires c x then s.invalidateRemote (corePkg c) else s
  let s := s.modCore c (fun k =>
    { k.dropSlot x.part x.slot with frames := k.frames ||| BitVec.ofNat 32 (2 ^ f), actseq := k.actseq + 1 })
  let s := s.zeroRange (regAddr c f 0) 256
  let rres := decide (x.part = 0)
  let s := s.modStrand c n (fun t => startStrand t e cls f act q m x.bad rres)
  let s :=
    match (if isFirst x cls then s.launchOf c else none) with
    | some l => ((frameImage s l c f).modStrand c n (fromImage l)).modCore c (coreImageRegs l)
    | none => copyWords s c f (entryCopy e) m x.bad
  let s :=
    match x.kind with
    | .hod _ (some i) =>
      (setSlotImage s c i (setHodField (slotImage s c i) 5 1 HodStatus.running.code)).modStrand c n (fun t => { t with hod := some i })
    | _ => s
  if entryAudit e then takeSample s c n cls (entryAudmaps e) q m else s

/-! ### Entries that fail (R351, R354, R365) -/

/-- A trap message is delivered to the supervisor instead (R351, R354, R365). -/
def toSupervisor (s : State) (c : Nat) (x : Slot) (n : Nat) : State :=
  let m := x.msg
  sendFault (s.modCore c (fun k => k.dropSlot x.part x.slot)) c n (m.w0, m.w1, m.w2, m.w3, m.w4, m.w5)
/-- A candidate whose entry fails R351 leaves its slot: a SYSTEM message goes to the foreman of the panel, which reports it to the host;
a trap message to the supervisor; a continuation ends its activation and is handed on as a DIRECT message; any other message is handed on. -/
def turnAway (s : State) (c : Nat) (x : Slot) (cls : Nat) : State :=
  let gone := s.modCore c (fun k => k.dropSlot x.part x.slot)
  match x.kind with
  | .trapped n _ => toSupervisor s c x n
  | .cont y =>
    let s := y.built.foldl (fun s i => (parkSlot s c i .parked 0).1) (match y.hod with | some i => (parkSlot gone c i .parked 0).1 | none => gone)
    let s := releaseFrame s c y.frame
    s.handOn c (s.supvOf c) x.msg 0x06 cls
  | _ =>
    if x.part = 2 then
      let s := gone.handOn c (foremanIdent (panelKey c)) x.msg 0x02 62
      s.modPkg (corePkg c) (fun p => { p with hostLog := p.hostLog ++ [x.msg] })
    else gone.handOn c (s.supvOf c) x.msg 0x02 cls
/-- The class-63 messages that wait at a core, with their strands and activations: in slots, and in the SYS ring, an entry of which counts as
slot 8 + its position (R354). -/
def waitingTraps (k : Core) : List (Slot × Nat × Nat) :=
  k.inbox.filterMap (fun x => match x.kind with | .trapped n a => some (x, n, a) | _ => none) ++
    (k.ring 2).ents.filterMap (fun e =>
      match e.kind with | .trapped n a => some (⟨2, 8 + e.pos, Msg.zero, 0, e.arr, e.kind, e.src⟩, n, a) | _ => none)
/-- A trap message goes to the supervisor from its slot, or from the SYS ring, which gives its words (R191, R354, R365). -/
def trapToSupervisor (s : State) (c : Nat) (x : Slot) (n : Nat) : State :=
  if x.slot < 8 then toSupervisor s c x n
  else if ((s.core c).ring 2).rfail then s
  else
    match readSpilled s c 2 (x.slot - 8) with
    | (s, .error (cause, kind, va)) => ringFails s c 2 cause kind va none
    | (s, .ok (m, _)) =>
      let s := s.modCore c (fun k => k.setRing 2 { k.ring 2 with ents := (k.ring 2).ents.filter (fun e => decide (e.pos ≠ x.slot - 8)) })
      toSupervisor s c { x with msg := m } n
/-- Every strand holds an activation parked by a trap whose class-63 message is waiting: the oldest of those messages (R354). -/
def stuckTrap (s : State) (c : Nat) : Option (Slot × Nat) :=
  let waiting := waitingTraps (s.core c)
  let mine (n : Nat) : Bool := decide ((s.strand c n).mode = .parked) && waiting.any (fun w => decide (w.2.1 = n ∧ w.2.2 = (s.strand c n).act))
  if (List.range 4).all mine then
    match waiting with
    | [] => none
    | w :: rest => let oldest := rest.foldl (fun a b => if b.1.arr < a.1.arr then b else a) w; some (oldest.1, oldest.2.1)
  else none

/-- DISPATCH: one decision of a core (R351–R354). -/
def execDispatch (c : Nat) (s : State) : Result :=
  if (s.core c).preempted then .next s
  else
    match (candidates (s.core c)).find? (fun x => !entryGood (routineEntry s c x.2)) with
    | some x => .next (turnAway s c x.1 x.2)
    | none =>
      match stuckTrap s c with
      | some (x, n) => .next (trapToSupervisor s c x n)
      | none =>
        match choose s c with
        | none => .next s
        | some (n, x, cls) =>
          .next (match x.kind with | .cont y => continueActivation s c n x y | _ => startActivation s c n x cls)

/-! ### The idle step (R356) -/

/-- The cores that a core's stealing rectangle names, where it is in force. -/
def stealVictims (s : State) (c : Nat) : List Nat :=
  let m := (s.core c).stealmask
  let r := fieldOf m 15 0
  if m.getLsbD 16 ∧ rectAligned r ∧ ((s.launchOf c).map (fun l => l.covers r)).getD false then
    (rectCores (corePkg c) r).filter (fun t => decide (t ≠ c))
  else []
/-- The next victim after the pointer, round robin in ascending core number. -/
def nextVictim (l : List Nat) (at_ : Nat) : Option Nat :=
  match l.find? (fun t => decide (at_ < coreIdx t)) with
  | some t => some t
  | none => l.head?
/-- An entry that the idle step has taken becomes a candidate, as a DIRECT message of its class. -/
def stolenEntry (s : State) (c slot : Nat) (from_ : Nat) (p : Word) : State :=
  let pa := dequePa from_ p
  let bad := (List.range 8).foldl (fun m i => if (s.poisonedAt (pa + 8 * i) 8).isSome then m + 2 ^ i else m) 0
  s.modCore c (fun k =>
    { k with inbox := k.inbox ++ [⟨0, slot, Msg.ofNat (s.read pa 64), BitVec.ofNat 8 bad, s.cycle, .stolen, 0⟩] })
/-- IDLE_STEP: an idle core takes an entry of its own deque, or tries one victim (R356). -/
def execIdleStep (c : Nat) (s : State) : Result :=
  let k := s.core c
  let idle := (candidates k).isEmpty && (List.range 4).any (strandFree s c) && (freeFrame k).isSome && !k.preempted &&
    decide (k.launch ≠ 0) && decide (k.idleAt = 0 ∨ k.idleAt + 16 ≤ s.cycle)
  if !idle then .next s
  else
    match k.freeSlot 0 with
    | none => .next s
    | some slot =>
      let s := s.modCore c (fun k => { k with idleAt := s.cycle })
      if dequeValid k && !dequeEmpty k then .next (dequePop (stolenEntry s c slot c (dequePrev k k.dqhead)) c)
      else
        match nextVictim (stealVictims s c) k.stealAt with
        | none => .next s
        | some t =>
          let s := s.modCore c (fun k => { k with stealAt := coreIdx t })
          let kt := s.core t
          if dequeValid kt && !dequeEmpty kt then .next (dequeSteal (stolenEntry s c slot t kt.dqtail) t) else .next s

end Sys2Proof.Machine
end

