-- ==== Sys2Proof/Machine/Preempt.lean ====
section
/-! DEFINITION. RESUME and PREEMPT (R323), a supervisor's request to act on a strand (R366), the return from a trap by a foreman (R367),
and pre-emption and resumption of a core (R368–R370). -/

namespace Sys2Proof.Machine

/-! ### The instructions (R210, R323) -/

/-- An instruction reserved to foreman strands: a core strand traps, whatever its guard (R210). -/
def onForeman (g : Fin 8) (reads writes : List Nat) (s : State) (k : Nat → Nat → State → Result) : Result :=
  onStrand s fun c n s =>
    if !isForeman c then .next (s.trap 0x08 0 0)
    else guarded g 4 s fun s => if s.waitsFor writes then .next s else needing reads s fun s => k c n s
/-- Sends a packet, for whose reply the strand waits. -/
def sendPacket (s : State) (c n d sfn action : Nat) (target : Word) : State :=
  let p : Packet := { id := s.fresh, sfn := sfn, action := action, target := target, back := some (c, n, d) }
  ({ s with packets := s.packets ++ [p] }.tickFresh).modStrand c n (fun t => { t with wait := .packet p.id })
/-- RESUME (R323): an identity of a kind that it does not list has nothing to act on. -/
def execResume (g : Fin 8) (d a b : Fin 32) (s : State) : Result :=
  onForeman g [a.val, b.val] [d.val] s fun c n s =>
    if [0, 1, 3, 5].contains (fieldOf (s.w a) 39 36) then .next (sendPacket s c n d 0x19 (fieldOf (s.w b) 0 0) (s.w a))
    else .next ((s.setW d 1).advance 4)
/-- PREEMPT (R323). -/
def execPreempt (g : Fin 8) (d a b : Fin 32) (s : State) : Result :=
  onForeman g [a.val, b.val] [d.val] s fun c n s =>
    if fieldOf (s.w b) 1 0 = 3 then .next ((s.setW d 2).advance 4)
    else .next (sendPacket s c n d 0x18 (fieldOf (s.w b) 1 0) (s.w a))

/-! ### Parked strands (R366, R367) -/

/-- A packet that names a strand. -/
def forStrand (p : Packet) (action : Nat) : Bool := decide (p.sfn = 0x19 ∧ fieldOf p.target 39 36 = 0 ∧ p.action = action)
/-- STRAND_RESUME: the parked strand goes on where its trap left it; the foreman may have written its frame words (R367). A
packet for a pre-empted core waits there (R368). -/
def execStrandResume (r : Nat) (s : State) : Result :=
  match s.packet? r with
  | none => .next s
  | some p =>
    let c := coreOfIdent p.target
    whenever (forStrand p 0 && !(s.core c).preempted) s (fun s =>
      match parkedStrand s c p.target with
      | none => ackPacket s p 1
      | some n => ackPacket (resumeStrand s c n) p 0)
/-- The accesses whose refusal has parked a strand go with its activation (R367). -/
def dropRefused (s : State) (c n : Nat) : State :=
  { s with accs := s.accs.filter (fun a => !(decide (a.core = c ∧ a.strand = n) && a.refused.isSome)) }
/-- STRAND_END: the parked strand's activation ends as by END (R367), which waits for its loads (R334). -/
def execStrandEnd (r : Nat) (s : State) : Result :=
  match s.packet? r with
  | none => .next s
  | some p =>
    let c := coreOfIdent p.target
    whenever (forStrand p 1 && !(s.core c).preempted) s (fun s =>
      match parkedStrand s c p.target with
      | none => ackPacket s p 1
      | some n =>
        let t := dropRefused s c n
        if mayEnd t c n then ackPacket (endNow t c n) p 0 else s)

/-- The package, core and kind of a message's sender are those of an identity (R366). -/
def sentBy (m : Msg) (ident : Word) : Bool :=
  let kind := fieldOf ident 39 36
  match fieldOf m.h0 8 6 with
  | 0 => decide (kind = 0 ∧ msgSource m = coreOfIdent ident)
  | 3 => decide (kind = 4 ∧ foremanOf (panelKey (msgSource m)) = coreOfIdent ident)
  | _ => false
/-- STRAND_ACTION: the foreman of a panel takes a request to resume or end a parked strand, and acts by RESUME where the sender is the
supervisor of the strand's launch; otherwise it ignores the message (R366). -/
def execStrandAction (p : Nat) (s : State) : Result :=
  match sysHead s p 0x14 with
  | none => .next s
  | some m =>
    let s := dropSys s p
    let entitled := ((s.launchOf (coreOfIdent m.w3)).map (fun l => sentBy m l.supv)).getD false
    if !entitled ∨ fieldOf m.w3 39 36 ≠ 0 then .next s
    else
      let k : Packet := { id := s.fresh, sfn := 0x19, action := fieldOf m.w0 0 0, target := m.w3, back := none }
      .next { s with packets := s.packets ++ [k], fresh := s.fresh + 1 }

/-! ### Save areas (R369) -/

/-- SSTATE.MODE (R369, Table 5). -/
def modeCode (t : Strand) : Nat :=
  match t.mode, t.wait with
  | .free, _ => 0
  | .parked, _ => 2
  | .running, .mortar _ _ _ _ => 3
  | .running, .joint _ => 4
  | .running, _ => 1
/-- SSTATE (R369, Table 5). -/
def sstate (t : Strand) : Nat :=
  t.allow * 2 ^ 20 + t.arsp * 2 ^ 18 + (if t.rres then 2 ^ 17 else 0) + (if t.samp.isSome then 2 ^ 16 else 0) + t.cls * 2 ^ 8 +
    Nat.min t.fol 2 * 2 ^ 6 + modeCode t
/-- The ten control words of a save area in order. -/
def saveWords (t : Strand) : List Word :=
  [t.pc, word (0x16000 + t.frame * 0x100), t.fctl, t.fflags, t.scb, t.trapc, t.trapa, t.trappc, t.rowprog, t.vresume]
/-- The context engine writes a strand's save area (R369, Table 4). -/
def saveStrand (s : State) (c n : Nat) : State :=
  let t := s.strand c n
  let at_ := padBase c + saveOffset n
  let s := (List.range 16).foldl (fun s r => s.write (at_ + 256 * r) 256 (t.vec r).toNat) s
  let s := (List.range 8).foldl (fun s r => s.write (at_ + 0x1000 + 8 * r) 8 (if r = 0 then 0 else (t.mask r).toNat)) s
  let s := (s.write (at_ + 0x1040) 64 t.b.toNat).write (at_ + 0x1080) 64 t.m.toNat
  let s := (saveWords t).zipIdx.foldl (fun s x => s.write (at_ + 0x10C0 + 8 * x.2) 8 x.1.toNat) s
  ((s.write (at_ + 0x1110) 8 (sstate t)).write (at_ + 0x1118) 8 (s.pendAt c n).toNat).write (at_ + 0x1120) 224 0
/-- The run state of a saved MODE. -/
def modeOfCode (m : Nat) : SMode := match m with | 0 => .free | 2 => .parked | _ => .running
/-- A strand read back from its save area; what the area has no place for stays as it is, and
reserved bits read as zero (R7, R146, R369). -/
def restoreStrand (s : State) (c n : Nat) : State :=
  let at_ := padBase c + saveOffset n
  let w (i : Nat) : Word := word (s.read (at_ + 0x10C0 + 8 * i) 8)
  let x := s.read (at_ + 0x1110) 8
  s.modStrand c n (fun t =>
    let t := (List.range 16).foldl (fun t r => t.setVec r (BitVec.ofNat 2048 (s.read (at_ + 256 * r) 256))) t
    let t := (List.range 8).foldl (fun t r => t.setMask r (word (s.read (at_ + 0x1000 + 8 * r) 8))) t
    { t with b := Msg.ofNat (s.read (at_ + 0x1040) 64), m := Msg.ofNat (s.read (at_ + 0x1080) 64), pc := w 0,
             frame := ((w 1).toNat - 0x16000) / 0x100 % 32, fctl := w 2 &&& ctlBits 0x010, fflags := w 3 &&& ctlBits 0x011,
             scb := w 4 &&& ctlBits 0x012, trapc := w 5 &&& ctlBits 0x020, trapa := w 6, trappc := w 7, rowprog := w 8 &&& ctlBits 0x024,
             vresume := w 9 &&& ctlBits 0x025, cls := bits x 13 8, fol := if bits x 7 6 = 2 ∧ t.fol = 3 then 3 else bits x 7 6,
             mode := modeOfCode (bits x 2 0) })

/-! ### Pre-emption (R368) -/

/-- A strand is at an instruction boundary, or in an instruction that is saved as it waits: a mortar instruction and a joint. A DQSTEAL, a
TLBINV, a packet and a held access complete first, but for an access that has done nothing and waits for a matrix command, which is issued
again on resumption. Loads that have retired go on, and write their registers in the save area too (R146, R368). -/
def atBoundary (s : State) (c n : Nat) : Bool :=
  decide ((s.strand c n).mode ≠ .running) ||
    (match (s.strand c n).wait with
      | .none | .mortar _ _ _ _ | .joint _ => true
      | .access _ => (beforeIssue s c n).isSome
      | _ => false)
/-- Such an access is taken back. -/
def takeBack (s : State) (c n : Nat) : State :=
  match (s.strand c n).wait with
  | .access _ => (beforeIssue s c n).getD s
  | _ => s
/-- A strand stopped: prefixes already read, a WAITX and a stall for queue space are abandoned, and a follower detaches (R318, R368). -/
def stopStrand (t : Strand) : Strand :=
  { t with pc := if t.wait = .none then t.pc - word (4 * t.imx.length) else t.pc, imx := if t.wait = .none then [] else t.imx,
           deadline := none, fol := if t.fol = 1 then 2 else t.fol, folq := [] }
/-- A trap message that has taken a slot in the cycle of a pre-emption goes to the SYS ring (R371, Table 7). -/
def spillTraps (s : State) (c : Nat) : State :=
  (s.core c).inbox.foldl (fun s x =>
    match x.kind with
    | .trapped _ _ =>
      if x.arr ≠ s.cycle ∨ ringFull (s.core c) x.part then s
      else
        match spill s c x.part x.msg x.bad x.kind x.src 0 with
        | (s, true) => s.modCore c (fun k => k.dropSlot x.part x.slot)
        | (s, false) => s
    | _ => s) s
/-- Every strand of a core stops and is saved. -/
def stopCore (s : State) (c : Nat) : State :=
  let s := (List.range 4).foldl (fun s n => saveStrand ((takeBack s c n).modStrand c n stopStrand) c n) s
  (spillTraps s c).modCore c (fun k => { k with preempted := true })
/-- Every strand of a stopped core is read back from its save area and goes on (R368). -/
def resumeCore (s : State) (c : Nat) : State :=
  ((List.range 4).foldl (fun s n => restoreStrand s c n) s).modCore c (fun k => { k with preempted := false })
/-- A PREEMPT packet with an action, and its core. -/
def forCore (p : Packet) (action : Nat) : Bool := decide (p.sfn = 0x18 ∧ p.action = action)
/-- The launch of a core is being ended or aborted. -/
def launchEnding (s : State) (c : Nat) : Bool := ((s.launchOf c).map (fun l => decide (l.state = .ending))).getD false
/-- PREEMPT_CORE: a pre-emption by action 0 or 1, once every strand is at a boundary. Action 0 is acknowledged; a core that is pre-empted
already, that nobody runs on, or whose launch is being aborted, has nothing to act on (R323, R368). -/
def execPreemptCore (r : Nat) (s : State) : Result :=
  match s.packet? r with
  | none => .next s
  | some p =>
    let c := coreOfIdent p.target
    let k := s.core c
    let nothing := decide (k.launch = 0) || k.saved && k.preempted || isForeman c || launchEnding s c
    whenever (forCore p 0 || forCore p 1) s (fun s =>
      if nothing || (k.preempted && forCore p 0) then ackPacket s p 1
      else if k.preempted ∨ !(List.range 4).all (fun n => atBoundary s c n) then s
      else if forCore p 0 then ackPacket (stopCore s c) p 0 else stopCore s c)

/-- The matrix queue stands: it is empty or stopped, its first command waits at a joint, and everything ahead of that is done, or an access
of the command's strand that cannot go on holds it (R282, R290). -/
def queueStands (s : State) (c : Nat) : Bool :=
  match (s.core c).mq.head? with
  | none => true
  | some m => (!m.formed && decide (m.op = .mmag ∨ m.op = .mrot ∨ m.op = .mrotBuf)) || (matrixHead s c (fun _ => true)).isNone
/-- An access cannot go on until its parked strand or a command of the matrix queue does. -/
def stuckAcc (s : State) (a : Acc) : Bool := a.refused.isSome || a.pieces.any (fun p => !p.done && !mayPerform s a p)
/-- A bank is neither FILLING nor DRAINING by a command under way; one that a SETST fills only later is saved as it is (R133). -/
def bankStands (s : State) (c b : Nat) : Bool :=
  decide (((s.core c).bank b).state ≠ .draining) &&
    (((s.core c).mq.head?.map (fun m => decide (m.op ≠ .setst ∨ m.d ≠ b))).getD true || queueStands s c)
/-- A core may pass to another domain: no word is pending (R52), its engine is idle (R118), its queue stands (R290), no access of its
strands is on its way but those that are saved with the core, and no bank is FILLING or DRAINING (R133). -/
def maySave (s : State) (c : Nat) : Bool :=
  let k := s.core c
  k.pend.all (fun p => decide (p.2 = 0)) && k.copy.q.isEmpty && queueStands s c &&
    s.accs.all (fun a => decide (a.core ≠ c) || stuckAcc s a) && (List.range 2).all (bankStands s c)
/-- The accesses of a core's strands leave the machine with the core. -/
def holdAccs (s : State) (c : Nat) : State :=
  { s with accs := s.accs.filter (fun a => decide (a.core ≠ c)) }.modCore c (fun k =>
    { k with held := s.accs.filter (fun a => decide (a.core = c)) })
/-- PEER LOSS: the sticky bits of a strand are reported to SUPV and discarded (R383). -/
def peerLoss (s : State) (c n : Nat) : State :=
  let l := (s.strand c n).sticky
  if l.isEmpty then s
  else
    (s.postSystem c n 0 (s.supvOf c) 0x42 (word l.length) 0 0 (s.identOf c n) 0 0).modStrand c n (fun t => { t with sticky := [] })
/-- PREEMPT_SAVE: action 1 completes once the core may pass to another domain (R370, R383). -/
def execPreemptSave (r : Nat) (s : State) : Result :=
  match s.packet? r with
  | none => .next s
  | some p =>
    let c := coreOfIdent p.target
    let k := s.core c
    whenever (forCore p 1 && k.preempted && !k.saved && decide (k.launch ≠ 0) && !launchEnding s c && maySave s c) s (fun s =>
      let s := (List.range 4).foldl (fun s n => peerLoss s c n) s
      ackPacket ((holdAccs s c).modCore c (fun k => { k with saved := true })) p 0)
/-- PREEMPT_RESUME: action 2 restores each strand and lets the rings move again; a core that is not pre-empted, that still waits for
CTXLOAD, or whose launch is being aborted, has nothing to act on (R323, R368). -/
def execPreemptResume (r : Nat) (s : State) : Result :=
  match s.packet? r with
  | none => .next s
  | some p =>
    let c := coreOfIdent p.target
    let k := s.core c
    whenever (forCore p 2) s (fun s =>
      if !k.preempted ∨ k.saved ∨ k.launch = 0 ∨ launchEnding s c then ackPacket s p 1
      else ackPacket (resumeCore s c) p 0)

end Sys2Proof.Machine
end

