-- ==== Sys2Proof/Machine/Scalar.lean ====
section
/-! DEFINITION. The scalar, pointer and mask instructions, majors 0x01–0x0D (chapter 13), and their 16-bit forms (R208, Table 5). -/

namespace Sys2Proof.Machine

/-! ### Register–register operations (R241, Table 1) -/

/-- ADD: the wrapping sum (R241). -/
def execAdd (g : Fin 8) (d a b : Fin 32) (s : State) : Result := aluRR g 4 d a b (· + ·) s

/-- SUB: the wrapping difference (R241). -/
def execSub (g : Fin 8) (d a b : Fin 32) (s : State) : Result := aluRR g 4 d a b (· - ·) s

/-- MUL: the low word of the product (R241). -/
def execMul (g : Fin 8) (d a b : Fin 32) (s : State) : Result := aluRR g 4 d a b (· * ·) s

/-- MULH (R241). -/
def execMulh (g : Fin 8) (d a b : Fin 32) (s : State) : Result := aluRR g 4 d a b mulHigh s

/-- MULHN (R241). -/
def execMulhn (g : Fin 8) (d a b : Fin 32) (s : State) : Result := aluRR g 4 d a b mulHighN s

/-- DIV (R242; on a footing core R240). -/
def execDiv (g : Fin 8) (d a b : Fin 32) (s : State) : Result := divRR g d a b divS (fun _ => BitVec.allOnes 64) s

/-- DIVN (R242; on a footing core R240). -/
def execDivn (g : Fin 8) (d a b : Fin 32) (s : State) : Result := divRR g d a b divU (fun _ => BitVec.allOnes 64) s

/-- REM (R242; on a footing core R240). -/
def execRem (g : Fin 8) (d a b : Fin 32) (s : State) : Result := divRR g d a b remS (fun x => x) s

/-- REMN (R242; on a footing core R240). -/
def execRemn (g : Fin 8) (d a b : Fin 32) (s : State) : Result := divRR g d a b remU (fun x => x) s

/-- AND (R241). -/
def execAnd (g : Fin 8) (d a b : Fin 32) (s : State) : Result := aluRR g 4 d a b (· &&& ·) s

/-- OR (R241). -/
def execOr (g : Fin 8) (d a b : Fin 32) (s : State) : Result := aluRR g 4 d a b (· ||| ·) s

/-- XOR (R241). -/
def execXor (g : Fin 8) (d a b : Fin 32) (s : State) : Result := aluRR g 4 d a b (· ^^^ ·) s

/-- SHL (R241). -/
def execShl (g : Fin 8) (d a b : Fin 32) (s : State) : Result := aluRR g 4 d a b shiftL s

/-- SHR (R241). -/
def execShr (g : Fin 8) (d a b : Fin 32) (s : State) : Result := aluRR g 4 d a b shiftR s

/-- SAR (R241). -/
def execSar (g : Fin 8) (d a b : Fin 32) (s : State) : Result := aluRR g 4 d a b shiftA s

/-- ROT (R241). -/
def execRot (g : Fin 8) (d a b : Fin 32) (s : State) : Result := aluRR g 4 d a b rotateL s

/-- MIN, signed (R241). -/
def execMin (g : Fin 8) (d a b : Fin 32) (s : State) : Result := aluRR g 4 d a b minS s

/-- MAX, signed (R241). -/
def execMax (g : Fin 8) (d a b : Fin 32) (s : State) : Result := aluRR g 4 d a b maxS s

/-- MINN, unsigned (R241). -/
def execMinn (g : Fin 8) (d a b : Fin 32) (s : State) : Result := aluRR g 4 d a b minU s

/-- MAXN, unsigned (R241). -/
def execMaxn (g : Fin 8) (d a b : Fin 32) (s : State) : Result := aluRR g 4 d a b maxU s

/-- PADD (R22, R252). -/
def execPadd (g : Fin 8) (d a b : Fin 32) (s : State) : Result :=
  strandOp g 4 [a, b] [d] (fun _ _ s => (pointerAdd (s.w a) (s.w b)).map (s.setW d)) s

/-- PTAG (R253). -/
def execPtag (g : Fin 8) (d a b : Fin 32) (s : State) : Result :=
  strandOp g 4 [a, b] [d] (fun _ _ s => .ok (s.setW d (withTag (s.w a) (s.w b)))) s

/-- PFMT (R254). -/
def execPfmt (g : Fin 8) (d a : Fin 32) (s : State) : Result :=
  strandOp g 4 [a] [d] (fun _ _ s => (tagFields (s.w a)).map (s.setW d)) s

/-- SEL: w(b) is copied where the selector holds; otherwise w(d) is not written (R240, R245). -/
def execSel (g : Fin 8) (d a b : Fin 32) (s : State) : Result :=
  onProcessor s fun s => guarded g 4 s fun s =>
    needing (flagReg s a) s fun s =>
      if s.flag a then scalar 0 4 [b] [d] (fun s => s.setW d (s.w b)) s else .next (s.advance 4)

/-- CLZ (R243). -/
def execClz (g : Fin 8) (d a : Fin 32) (s : State) : Result := aluR g 4 d a leadingZeros s

/-- CTZ (R243). -/
def execCtz (g : Fin 8) (d a : Fin 32) (s : State) : Result := aluR g 4 d a trailingZeros s

/-- POPC (R243). -/
def execPopc (g : Fin 8) (d a : Fin 32) (s : State) : Result := aluR g 4 d a setBits s

/-- MOV (R241). -/
def execMov (g : Fin 8) (d a : Fin 32) (s : State) : Result := aluR g 4 d a (fun x => x) s

/-- SEXT (R244). -/
def execSext (g : Fin 8) (n : Fin 3) (d a : Fin 32) (s : State) : Result :=
  aluR g 4 d a (fun x => signExt (widthBits n) x.toNat) s

/-- ZEXT (R244). -/
def execZext (g : Fin 8) (n : Fin 3) (d a : Fin 32) (s : State) : Result :=
  aluR g 4 d a (fun x => zeroExt (widthBits n) x.toNat) s

/-- CMP (R246). -/
def execCmp (g : Fin 8) (c : Cond) (d a b : Fin 32) (s : State) : Result := cmpRR g d a b (condHolds c) s

/-! ### Immediate forms (R247–R250, R252) -/

/-- ADDI (R247). -/
def execAddi (g : Fin 8) (i : BitVec 12) (d a : Fin 32) (s : State) : Result := aluRI g 4 d a i (· + ·) s

/-- ANDI (R247). -/
def execAndi (g : Fin 8) (i : BitVec 12) (d a : Fin 32) (s : State) : Result := aluRI g 4 d a i (· &&& ·) s

/-- ORI (R247). -/
def execOri (g : Fin 8) (i : BitVec 12) (d a : Fin 32) (s : State) : Result := aluRI g 4 d a i (· ||| ·) s

/-- XORI (R247). -/
def execXori (g : Fin 8) (i : BitVec 12) (d a : Fin 32) (s : State) : Result := aluRI g 4 d a i (· ^^^ ·) s

/-- SHLI (R248). -/
def execShli (g : Fin 8) (m : Fin 64) (d a : Fin 32) (s : State) : Result := aluR g 4 d a (fun x => shiftL x (word m)) s

/-- SHRI (R248). -/
def execShri (g : Fin 8) (m : Fin 64) (d a : Fin 32) (s : State) : Result := aluR g 4 d a (fun x => shiftR x (word m)) s

/-- SARI (R248). -/
def execSari (g : Fin 8) (m : Fin 64) (d a : Fin 32) (s : State) : Result := aluR g 4 d a (fun x => shiftA x (word m)) s

/-- CMPI (R249). -/
def execCmpi (g : Fin 8) (i : BitVec 9) (c : Cond) (d a : Fin 32) (s : State) : Result := cmpRI g d a i (condHolds c) s

/-- PADDI (R22, R252). -/
def execPaddi (g : Fin 8) (i : BitVec 12) (d a : Fin 32) (s : State) : Result :=
  strandOp g 4 [a] [d] (fun _ _ s => (pointerAdd (s.w a) (s.imm i)).map (s.setW d)) s

/-- MOVI (R250). -/
def execMovi (g : Fin 8) (i : BitVec 17) (d : Fin 32) (s : State) : Result := aluI g 4 d i s

/-! ### Mask registers (R255, R256) -/

/-- KAND (R255). -/
def execKand (g d a b : Fin 8) (s : State) : Result := maskOp g d (fun s => s.k a &&& s.k b) s

/-- KOR (R255). -/
def execKor (g d a b : Fin 8) (s : State) : Result := maskOp g d (fun s => s.k a ||| s.k b) s

/-- KXOR (R255). -/
def execKxor (g d a b : Fin 8) (s : State) : Result := maskOp g d (fun s => s.k a ^^^ s.k b) s

/-- KNOT (R255). -/
def execKnot (g d a : Fin 8) (s : State) : Result := maskOp g d (fun s => ~~~(s.k a)) s

/-- KMOV (R255). -/
def execKmov (g d a : Fin 8) (s : State) : Result := maskOp g d (fun s => s.k a) s

/-- KSET (R255). -/
def execKset (g d : Fin 8) (a : Fin 32) (s : State) : Result := strandOp g 4 [a] [] (fun _ _ s => .ok (s.setK d (s.w a))) s

/-- KGET (R255). -/
def execKget (g : Fin 8) (d : Fin 32) (a : Fin 8) (s : State) : Result :=
  strandOp g 4 [] [d] (fun _ _ s => .ok (s.setW d (s.k a))) s

/-- KPOP (R255). -/
def execKpop (g : Fin 8) (d : Fin 32) (a : Fin 8) (s : State) : Result :=
  strandOp g 4 [] [d] (fun _ _ s => .ok (s.setW d (setBits (s.k a)))) s

/-! ### Control registers (R143, R257–R259) -/

/-- COORD (R143, Table 4). -/
def coordWord (c : Nat) : Word := word (corePkg c * 2 ^ 16 + (coordOf c).2 * 2 ^ 5 + (coordOf c).1)

/-- The value that CSRR reads (R143, Table 3). -/
def csrRead (s : State) (c n num : Nat) : Word :=
  let t := s.strand c n
  let k := s.core c
  match num with
  | 0x000 => word (0x16000 + t.frame * 0x100)
  | 0x001 => t.pc
  | 0x002 => coordWord (s.seenCore c)
  | 0x003 => word n
  | 0x004 => word t.cls
  | 0x005 => k.actseq
  | 0x010 => t.fctl
  | 0x011 => t.fflags
  | 0x012 => t.scb
  | 0x013 => k.tblstat
  | 0x020 => t.trapc
  | 0x021 => t.trapa
  | 0x022 => t.trappc
  | 0x023 => k.trapmask
  | 0x024 => t.rowprog
  | 0x025 => t.vresume
  | 0x030 => k.audseed
  | 0x031 => word t.allow
  | 0x040 => k.dqbase
  | 0x041 => k.dqlim
  | 0x042 => k.dqhead
  | 0x043 => k.dqtail
  | 0x044 => k.stealmask
  | 0x050 => k.hodarea
  | 0x051 => k.spillq
  | 0x052 => k.prioage
  | _ => 0

/-- What CSRW writes: RO registers and reserved fields ignore it, and DQBASE and DQLIM empty the deque (R7, R143). -/
def csrWrite (s : State) (c n num : Nat) (x : Word) : State :=
  let strand (f : Strand → Strand) : State := s.modStrand c n f
  match num with
  | 0x010 => strand (fun t => { t with fctl := x &&& ctlBits num })
  | 0x011 => strand (fun t => { t with fflags := x &&& ctlBits num })
  | 0x012 => strand (fun t => { t with scb := x &&& ctlBits num })
  | 0x023 => s.modCore c (fun k => { k with trapmask := x &&& ctlBits num })
  | 0x040 => s.modCore c (fun k => { k with dqbase := x, dqhead := x, dqtail := x })
  | 0x041 => s.modCore c (fun k => { k with dqlim := x, dqhead := k.dqbase, dqtail := k.dqbase })
  | 0x044 => s.modCore c (fun k => { k with stealmask := x &&& ctlBits num })
  | _ => s

/-- A scaled load of the strand is in flight; it rounds in the mode of its issue. -/
def scaledLoads (s : State) (c n : Nat) : Bool :=
  s.accs.any (fun a => decide (a.core = c ∧ a.strand = n ∧ a.act = (s.strand c n).act) &&
    (match a.dest with | .v _ _ _ scaled _ => scaled | _ => false))
/-- Earlier instructions of the strand may still set FFLAGS: read-outs in the matrix queue that it has issued, or whose activation it runs,
and scaled loads in flight (R258). -/
def flagsOutstanding (s : State) (c n : Nat) : Bool :=
  (s.core c).mq.any (fun m => decide (m.op = .ast ∧ (m.strand = n ∨ flagStrand s c m = n))) || scaledLoads s c n
/-- A deque operation that another core asked for is on its way to the deque unit (R257). -/
def dequeBusy (s : State) (c : Nat) : Bool := s.steals.any (fun x => decide (x.target = c))

/-- CSRR (R257, R258). -/
def execCsrr (g : Fin 8) (c : BitVec 12) (d : Fin 32) (s : State) : Result :=
  onStrand s fun k n s => guarded g 4 s fun s =>
    if s.waitsFor [d] || (decide (c.toNat = 0x011) && flagsOutstanding s k n) then .next s
    else .next ((s.setW d (csrRead s k n c.toNat)).advance 4)

/-- CSRW (R257–R259). -/
def execCsrw (g : Fin 8) (c : BitVec 12) (a : Fin 32) (s : State) : Result :=
  onStrand s fun k n s => guarded g 4 s fun s => needing [a] s fun s =>
    if (decide (c.toNat = 0x011) && flagsOutstanding s k n) || (decide (c.toNat = 0x010) && scaledLoads s k n) ||
        (decide (c.toNat = 0x040 ∨ c.toNat = 0x041) && dequeBusy s k) then .next s
    else .next ((csrWrite s k n c.toNat (s.w a)).advance 4)

/-! ### Message registers and tensor maps (R260, R261) -/

/-- MOVS reading a message or build register; a message word that was delivered poisoned is consumed here (R78, R142, R260). -/
def execMovsRead (g : Fin 8) (m : Fin 16) (d : Fin 32) (s : State) : Result :=
  strandOp g 4 [] [d] (fun _ _ s =>
    if m.val < 8 then
      if s.me.mbad.getLsbD m.val then .error (0x1B, 0, 0) else .ok (s.setW d (s.me.m.get m.val))
    else .ok (s.setW d (s.me.b.get (m.val - 8)))) s

/-- MOVS writing a build register; numbers 0 to 7 are illegal before the guard is read (R142, R211, R260). -/
def execMovsWrite (g : Fin 8) (m : Fin 16) (a : Fin 32) (s : State) : Result :=
  onStrand s fun _ _ s =>
    if m.val < 8 then .next (s.trap 0x01 0x06 s.firstPc)
    else strandOp g 4 [a] [] (fun _ _ s => .ok (s.modMe (fun t => { t with b := t.b.set (m.val - 8) (s.w a) }))) s

/-- TMSET: bytes 0 to 63 of v(a) become a tensor-map entry, once the strand's earlier accesses to it are performed (R141, R261, R335). -/
def execTmset (g : Fin 8) (d a : Fin 16) (s : State) : Result :=
  onStrand s fun c n s => guarded g 4 s fun s =>
    if s.me.busyV.getLsbD a || bytesInFlight s c n (padBase c + 0x15000 + 64 * d.val) 64 then .next s
    else .next ((s.write (padBase c + 0x15000 + 64 * d.val) 64 ((s.v a).toNat % 2 ^ 512)).advance 4)

/-! ### 16-bit forms (R208, Table 5) -/

/-- The 16-bit MOV. -/
def execMovC (p q : Fin 8) (s : State) : Result := aluR 0 2 (shortReg p) (shortReg q) (fun x => x) s

/-- The 16-bit ADD, whose destination is its first source. -/
def execAddC (p q : Fin 8) (s : State) : Result := aluRR 0 2 (shortReg p) (shortReg p) (shortReg q) (· + ·) s

/-- The 16-bit SUB, whose destination is its first source. -/
def execSubC (p q : Fin 8) (s : State) : Result := aluRR 0 2 (shortReg p) (shortReg p) (shortReg q) (· - ·) s

/-- The 16-bit AND, whose destination is its first source. -/
def execAndC (p q : Fin 8) (s : State) : Result := aluRR 0 2 (shortReg p) (shortReg p) (shortReg q) (· &&& ·) s

/-- The 16-bit OR, whose destination is its first source. -/
def execOrC (p q : Fin 8) (s : State) : Result := aluRR 0 2 (shortReg p) (shortReg p) (shortReg q) (· ||| ·) s

/-- The 16-bit XOR, whose destination is its first source. -/
def execXorC (p q : Fin 8) (s : State) : Result := aluRR 0 2 (shortReg p) (shortReg p) (shortReg q) (· ^^^ ·) s

/-- The 16-bit SHL, whose destination is its first source. -/
def execShlC (p q : Fin 8) (s : State) : Result := aluRR 0 2 (shortReg p) (shortReg p) (shortReg q) shiftL s

/-- The 16-bit SHR, whose destination is its first source. -/
def execShrC (p q : Fin 8) (s : State) : Result := aluRR 0 2 (shortReg p) (shortReg p) (shortReg q) shiftR s

/-- The 16-bit SAR, whose destination is its first source. -/
def execSarC (p q : Fin 8) (s : State) : Result := aluRR 0 2 (shortReg p) (shortReg p) (shortReg q) shiftA s

/-- The 16-bit MUL, whose destination is its first source. -/
def execMulC (p q : Fin 8) (s : State) : Result := aluRR 0 2 (shortReg p) (shortReg p) (shortReg q) (· * ·) s

/-- The 16-bit ADDI. -/
def execAddiC (i : BitVec 5) (p q : Fin 8) (s : State) : Result := aluRI 0 2 (shortReg p) (shortReg q) i (· + ·) s

/-- The 16-bit MOVI. -/
def execMoviC (i : BitVec 8) (p : Fin 8) (s : State) : Result := aluI 0 2 (shortReg p) i s

/-- The 16-bit SHLI. -/
def execShliC (i : Fin 32) (p q : Fin 8) (s : State) : Result :=
  aluR 0 2 (shortReg p) (shortReg q) (fun x => shiftL x (word i)) s

end Sys2Proof.Machine
end

