-- ==== Sys2Proof/Machine/Context.lean ====
section
/-! DEFINITION. CTXSAVE and CTXLOAD: the image of a core (R327, R370, Table 6; R133). The manual says what the header and a queue entry
hold and not where; their layout is the model's (log 10). -/

namespace Sys2Proof.Machine

/-! ### The image -/

/-- The core registers of the header, in the order of Table 6. -/
def headerRegs (k : Core) : List Word :=
  [k.trapmask, k.dqbase, k.dqlim, k.dqhead, k.dqtail, k.stealmask, k.hodarea, k.spillq, k.prioage, k.actseq, k.audseed, k.tblstat]
/-- Code of a bank state. -/
def bankCode (b : BankState) : Nat := match b with | .ordinary => 0 | .filling => 1 | .fired => 2 | .draining => 3
/-- The slot of the inbox that a position 0–63 of the image holds: partition and number. -/
def inboxPlace (i : Nat) : Nat × Nat := if i < 32 then (0, i) else if i < 48 then (1, i - 32) else if i < 56 then (2, i - 48) else (3, i - 56)
/-- The message at a position. -/
def inboxAt (k : Core) (i : Nat) : Option Slot := k.inbox.find? (fun x => decide ((x.part, x.slot) = inboxPlace i))
/-- Bits of a list of conditions, first in bit 0. -/
def maskOf (l : List Bool) : Nat := l.foldr (fun b acc => (if b then 1 else 0) + 2 * acc) 0
/-- The words of the header after its magic word. -/
def headerWords (c : Nat) (k : Core) (num : Nat) : List Nat :=
  [k.domain, (coordWord c).toNat] ++ (headerRegs k).map (·.toNat) ++ [k.active] ++
    (List.range 2).map (fun b => let x := k.bank b; bankCode x.state + x.fmt.code * 2 ^ 8 + x.n * 2 ^ 16) ++
    (List.range 4).map (fun d => let t := Table.get .init k.tiles d
      t.mode.code + (if t.nv then 2 ^ 8 else 0) + (if t.ovf then 2 ^ 9 else 0) + (if t.sat then 2 ^ 10 else 0)) ++
    [match k.rot with | some r => 1 + r.fmt.code * 2 ^ 8 | none => 0, match k.bond with | some r => r + 2 ^ 16 | none => 0,
     maskOf ((List.range 64).map (fun i => (inboxAt k i).isSome)), k.mq.length + (if k.mstop then 2 ^ 8 else 0), k.copy.aborts.toNat % 2 ^ 64,
     k.copy.aborts.toNat / 2 ^ 64 % 2 ^ 64, k.copy.aborts.toNat / 2 ^ 128 % 2 ^ 64, k.copy.aborts.toNat / 2 ^ 192, num]
/-- A list of 64-bit words as one number. -/
def packWords (l : List Nat) : Nat := l.foldr (fun w acc => w % 2 ^ 64 + 2 ^ 64 * acc) 0
/-- The header of 4,096 bytes: magic and version, then the words. -/
def imageHeader (c : Nat) (k : Core) (num : Nat) : List Byte := bytesLE (0x43580001 + 2 ^ 64 * packWords (headerWords c k num)) 4096
/-- The scratchpad with banks that are not ORDINARY as zero. -/
def imagePad (s : State) (c : Nat) : List Byte :=
  let k := s.core c
  let bankBytes (b : Nat) : List Byte :=
    if (k.bank b).state = .ordinary then s.readBytes (padBase c + 0x40000 + b * 0x20000) 0x20000 else List.replicate 0x20000 0
  s.readBytes (padBase c) 0x40000 ++ bankBytes 0 ++ bankBytes 1
/-- Rows and columns of a slot of a format, and the bytes of an element in the image (R125, R133). -/
def slotShape (t : Fmt) : Nat × Nat := if heldK19 t then (64, 4) else if t = .int8 then (64, 1) else if t = .fp32 then (32, 4) else (16, 8)
/-- A held element as the image holds it: K19 as FP32 (R133). -/
def heldOut (t : Fmt) (x : Nat) : Nat := if heldK19 t then (fpF32.rnd .rne (fpK19.decode x)).1 else x
/-- An element of the image converted to the hold format with rne (R133). -/
def heldIn (t : Fmt) (x : Nat) : Nat := if heldK19 t then (fpK19.rnd .rne (fpF32.decode x)).1 else x
/-- Bytes of a slot in the image. -/
def slotBytes (t : Fmt) : Nat := (slotShape t).1 * (slotShape t).1 * (slotShape t).2
/-- Bytes of a bank in the image (R370). -/
def bankBytes (b : Bank) : Nat := 64 + (if b.state = .fired then b.n * slotBytes b.fmt else 0)
/-- A bank of the image: a header of 64 bytes with state, format, n and the poisoned slots, then the slots in row-major order. -/
def imageBank (b : Bank) : List Byte :=
  let (d, e) := slotShape b.fmt
  bytesLE (bankCode b.state + b.fmt.code * 2 ^ 8 + b.n * 2 ^ 16 + b.poison.toNat * 2 ^ 24) 64 ++
    (if b.state = .fired then
      (List.range b.n).flatMap (fun slot => (List.range (d * d)).flatMap (fun i => bytesLE (heldOut b.fmt (Table.get 0 b.held (slot * 4096 + i))) e))
    else [])
/-- The rotation buffer, 8,192 bytes: the elements' codes. Their scales, and which of them are padding, have no place in it (log 10). -/
def imageRot (k : Core) : List Byte :=
  match k.rot with
  | none => List.replicate 8192 0
  | some r => ((List.range (8192 / r.fmt.size)).flatMap (fun i => bytesLE ((Table.get 0 r.elems i - 1) / 256) r.fmt.size)).take 8192
/-- A queue entry of 256 bytes: its copied map, FCTL and the rows it has completed. -/
def imageCmd (m : MCmd) : List Byte := bytesLE (m.map.toNat + 2 ^ 512 * (m.fctl.toNat + 2 ^ 64 * m.row)) 256
/-- The image of a core (R370, Table 6). -/
def coreImage (s : State) (c num : Nat) : List Byte :=
  let k := s.core c
  imageHeader c k num ++ imagePad s c ++
    (List.range 4).flatMap (fun d => Memory.bytes (Table.get .init k.tiles d).data 0 16384) ++ imageRot k ++
    (List.range 64).flatMap (fun i => match inboxAt k i with | some x => x.msg.bytes | none => List.replicate 64 0) ++
    ((k.mq.flatMap imageCmd) ++ List.replicate 2048 0).take 2048 ++ List.replicate 2048 0 ++ imageBank (k.bank 0) ++ imageBank (k.bank 1)

/-! ### Reading an image -/

/-- Word i of a header after the magic word, of a header as a number. -/
def headWord (h i : Nat) : Nat := h / 2 ^ (64 * (i + 1)) % 2 ^ 64
/-- The bank that a part of an image gives. -/
def loadBank (l : List Byte) : Bank :=
  let h := ofBytesLE (l.take 64)
  let t := Fmt.ofCode (bits h 15 8)
  let n := bits h 20 16
  if bits h 7 0 ≠ 2 then .init
  else
    let (d, e) := slotShape t
    let body := l.drop 64
    let elem (slot i : Nat) : Nat := heldIn t (ofBytesLE ((body.drop ((slot * d * d + i) * e)).take e))
    let held := (List.range n).flatMap (fun slot => (List.range (d * d)).map (fun i => (slot * 4096 + i, elem slot i)))
    { Bank.init with state := .fired, fmt := t, n := n, held := held, poison := BitVec.ofNat 16 (bits h 39 24) }
/-- A tile from its mode word and 16 KiB. -/
def loadTile (w : Nat) (l : List Byte) : Tile :=
  { mode := AccMode.ofCode (bits w 7 0), nv := bit w 8, ovf := bit w 9, sat := bit w 10, data := Memory.writeBytes [] 0 l }
/-- The rotation buffer from its header word and 8 KiB; the scales, and what is padding, are those of the saved buffer. -/
def loadRot (w : Nat) (l : List Byte) (old : Option RotTile) : Option RotTile :=
  if bit w 0 then
    let t := Fmt.ofCode (bits w 15 8)
    let elem (i : Nat) : Nat :=
      let x := ofBytesLE ((l.drop (i * t.size)).take t.size)
      match (old.map (fun r => Table.get 0 r.elems i)).getD 0 with
      | 0 => if x = 0 then 0 else 1 + x * 256 + 127
      | e + 1 => 1 + x * 256 + e % 256
    some ⟨t, ((List.range (8192 / t.size)).map (fun i => (i, elem i))).filter (fun p => decide (p.2 ≠ 0))⟩
  else none
/-- An access that was saved with its core returns: a piece that has not been performed is translated again, since its page may have been shot
down meanwhile (R39). -/
def returnAcc (s : State) (a : Acc) : State :=
  let u : Use := match a.op with | .load => .load | .store => .store | .atomic _ => .atomic
  let (s, a) := a.pieces.zipIdx.foldl (fun acc x =>
    if x.1.done ∨ acc.2.refused.isSome then acc
    else
      match translateFor acc.1 a.core a.dom x.1.va u with
      | (s, .error r) => (s, { acc.2 with refused := some (r.cause, r.kind, x.1.va) })
      | (s, .ok p) =>
        let q : Piece := { x.1 with pa := p.pa, place := placeOf s a.core p a.sync, fo := attrFO p.attr && isHbm p.pa }
        (s, { acc.2 with pieces := acc.2.pieces.set x.2 q })) (s, a)
  if s.accs.any (fun x => decide (x.id = a.id)) then s else { s with accs := s.accs ++ [a] }
/-- The scratchpad part of an image as the context engine writes it: 0x15C00 to 0x15FFF stay zero (R121). -/
def padPart (l : List Byte) : List Byte := l.take 0x15C00 ++ List.replicate 0x400 0 ++ l.drop 0x16000
/-- A core restored from an image, after it is zeroed (R370, R378); what Table 6 gives no place comes from the shelf, and messages that have
gone to the rings of a core which its launch has kept stay there (R368). The core stays pre-empted. -/
def loadCore (s : State) (c : Nat) (l : List Byte) : State :=
  let h := ofBytesLE (l.take 4096)
  let w (i : Nat) : Word := word (headWord h i)
  let part (off n : Nat) : List Byte := (l.drop off).take n
  let (_, old) := Table.get (0, .init) s.shelf (headWord h 29)
  let dom := headWord h 0
  let owner := s.launches.find? (fun x => decide (x.state = .running ∨ x.state = .ending) && x.holds c && decide (x.dom = dom))
  let bank0 := part 0x95000 (l.length - 0x95000)
  let b0 := loadBank bank0
  let b1 := loadBank (bank0.drop (bankBytes b0))
  let inbox := old.inbox.filterMap (fun x =>
    let i := (List.range 64).find? (fun i => decide (inboxPlace i = (x.part, x.slot)))
    match i with
    | some i => if bit (headWord h 23) i then some { x with msg := Msg.ofNat (ofBytesLE (part (0x93000 + 64 * i) 64)) } else none
    | none => none)
  let mq := old.mq.zipIdx.map (fun x =>
    let e := ofBytesLE (part (0x94000 + 256 * x.2) 256)
    { x.1 with map := BitVec.ofNat 512 e, fctl := word (e / 2 ^ 512) })
  let bond := headWord h 22
  let now := s.core c
  let mine := (owner.map (·.id)).getD 0
  let k : Core :=
    { old with
      launch := mine, rings := if now.launch = mine ∧ mine ≠ 0 then now.rings else old.rings,
      domain := dom, trapmask := w 2 &&& ctlBits 0x023, dqbase := w 3, dqlim := w 4, dqhead := w 5, dqtail := w 6,
      stealmask := w 7 &&& ctlBits 0x044, hodarea := w 8 &&& ctlBits 0x050,
      spillq := w 9 &&& ctlBits 0x051, prioage := w 10 &&& ctlBits 0x052, actseq := w 11, audseed := w 12, tblstat := w 13 &&& ctlBits 0x013,
      active := headWord h 14, banks := [(0, b0), (1, b1)],
      tiles := (List.range 4).map (fun d => (d, loadTile (headWord h (17 + d)) (part (0x81000 + 16384 * d) 16384))),
      rot := loadRot (headWord h 21) (part 0x91000 8192) old.rot, bond := if bit bond 16 then some (bond % 2 ^ 16) else none, inbox := inbox,
      mq := mq, mstop := bit (headWord h 24) 8, copy := { old.copy with aborts := BitVec.ofNat 256 (h / 2 ^ (64 * 26)) },
      preempted := true, saved := false, tlb := [], replay := none, held := [] }
  old.held.foldl returnAcc (((s.wipe (padBase c) 0x80000).writeBytes (padBase c) (padPart (part 0x1000 0x80000))).setCore c k)

/-! ### The instructions (R327) -/

/-- The first page of a range that an agent of a foreman may not use so: cause, kind and address (R31). -/
def firstRefused (s : State) (c va n : Nat) (u : Use) : State × Option (Nat × Nat × Nat) :=
  (List.range (ceilDiv n 4096)).foldl (fun acc i =>
    match acc.2 with
    | some _ => acc
    | none =>
      let a := (va + 4096 * i) % 2 ^ 56
      match translateFor acc.1 c 0 a u with
      | (s, .error r) => (s, some (r.cause, r.kind, a))
      | (s, .ok _) => (s, none)) (s, none)
/-- The core that an identity names, of the own package. -/
def imageCore (c : Nat) (ident : Word) : Option Nat :=
  if fieldOf ident 63 50 = corePkg c ∧ fieldOf ident 39 36 = 0 ∧ fieldOf ident 49 40 < 1024 then some (coreOfIdent ident) else none
/-- A core is pre-empted for CTXSAVE and CTXLOAD: by a PREEMPT, and not by the end of its launch alone (R327, R361). -/
def contextOpen (s : State) (t : Nat) : Bool := (s.core t).preempted && !launchEnding s t
/-- The first poisoned word that an image of a core would read: behind a bank that is not ORDINARY it reads zero (R78, R133). -/
def imagePoison (s : State) (t : Nat) : Option Nat :=
  (s.poisonedAt (padBase t) 0x40000).orElse (fun _ => (List.range 2).findSome? (fun b =>
    if ((s.core t).bank b).state = .ordinary then s.poisonedAt (padBase t + 0x40000 + b * 0x20000) 0x20000 else none))
/-- CTXSAVE (R327): it waits while a bank is FILLING or DRAINING (R133); an address that is not aligned traps 0x06, a page that the foreman
may not write traps as a store does, and a poisoned word of the core traps 0x1B (R78). -/
def execCtxsave (g : Fin 8) (d a b : Fin 32) (s : State) : Result :=
  onForeman g [a.val, b.val] [d.val] s fun c _ s =>
    let va := fieldOf (s.w b) 55 0
    if va % 4096 ≠ 0 then .next (s.trap 0x06 0 (word va))
    else
      match imageCore c (s.w a) with
      | none => .next ((s.setW d 0).advance 4)
      | some t =>
        if !contextOpen s t then .next ((s.setW d 0).advance 4)
        else if !(List.range 2).all (bankStands s t) then .next s
        else
          match imagePoison s t with
          | some pa => .next (s.trap 0x1B 0 (word (scratchVa t (pa - padBase t))))
          | none =>
            let num := s.fresh
            let l := coreImage s t num
            match firstRefused s c va l.length .store with
            | (s, some (cause, kind, at_)) => .next (s.trapWith cause 0 kind (word at_))
            | (s, none) =>
              match writeVa s (s.agent c) (l.length / 64 + 2) va l with
              | (s, some (cause, kind, at_)) => .next (s.trapWith cause 0 kind (word at_))
              | (s, none) =>
                let s := { s with shelf := Table.set s.shelf num (t, s.core t) }
                .next ((s.tickFresh.setW d (word l.length)).advance 4)
/-- Bytes of an image whose header and first bank are known: those up to the banks, and the two banks. -/
def imageLength (bank0 bank1 : Bank) : Nat := 0x95000 + bankBytes bank0 + bankBytes bank1
/-- The length that the header of an image gives. -/
def headedLength (h : Nat) : Nat :=
  let bank (w : Nat) : Bank := { Bank.init with state := if bits w 7 0 = 2 then .fired else .ordinary, fmt := Fmt.ofCode (bits w 15 8), n := bits w 20 16 }
  imageLength (bank (headWord h 15)) (bank (headWord h 16))
/-- CTXLOAD (R327, R370): into a pre-empted core; an image without its magic word moves nothing. -/
def execCtxload (g : Fin 8) (d a b : Fin 32) (s : State) : Result :=
  onForeman g [a.val, b.val] [d.val] s fun c _ s =>
    let va := fieldOf (s.w b) 55 0
    let nothing (s : State) : Result := .next ((s.setW d 0).advance 4)
    if va % 4096 ≠ 0 then .next (s.trap 0x06 0 (word va))
    else
      match imageCore c (s.w a) with
      | none => nothing s
      | some t =>
        if !contextOpen s t then nothing s
        else
          match readVa s (s.agent c) .load 70 va 4096 with
          | (s, .error (cause, kind, at_)) => .next (s.trapWith cause 0 kind (word at_))
          | (s, .ok head) =>
            let h := ofBytesLE head
            if h % 2 ^ 32 ≠ 0x43580001 then nothing s
            else
              let n := headedLength h
              match readVa s (s.agent c) .load (n / 64 + 2) va n with
              | (s, .error (cause, kind, at_)) => .next (s.trapWith cause 0 kind (word at_))
              | (s, .ok l) => .next (((loadCore s t l).setW d (word n)).advance 4)

end Sys2Proof.Machine
end

