-- ==== Sys2Proof/Machine/HodEngine.lean ====
section
/-! DEFINITION. The pull of a hod by its target's hod engine, and the acknowledgement to the holder (R196, steps 4 to 6), and the BULK
frames that bring copies and hods from another package (R386). -/

namespace Sys2Proof.Machine

/-- A forward by number. -/
def State.fwd? (s : State) (id : Nat) : Option HodFwd := s.fwds.find? (fun f => decide (f.id = id))
/-- Changes a forward. -/
def State.modFwd (s : State) (id : Nat) (f : HodFwd → HodFwd) : State :=
  { s with fwds := s.fwds.map (fun x => if x.id = id then f x else x) }
/-- The oldest HOD message of a core whose hod has not landed: messages take free slots in arrival order (R196, step 4). -/
def waitingHod (k : Core) : Option (Slot × Nat) :=
  let l := k.inbox.filterMap (fun x => match x.kind with | .hod f none => some (x, f) | _ => none)
  match l with
  | [] => none
  | x :: rest => some (rest.foldl (fun a b => if b.1.arr < a.1.arr then b else a) x)

/-- n bytes at an offset of the place where a hod lies, as the hod engine of a core reads them with the checks of R26 and R31 at the
source; or the cause of a failure. -/
def pullBytes (s : State) (c : Nat) (f : HodFwd) (off n : Nat) : State × Except Nat (List Byte) :=
  match f.place with
  | .slot t i =>
    let pa := slotPa s t i + off
    match padRefuses s ⟨c, f.dom, isForeman c, false, none⟩ pa n false with
    | some cause => (s, .error cause)
    | none =>
      match s.poisonedAt pa n with
      | some a => (reportPoison s c (slotVa s t i + (a - slotPa s t i)) a, .error 0x1B)
      | none => (s.correct pa n, .ok (s.readBytes pa n))
  | .park _ _ =>
    match readVa s ⟨c, f.dom, isForeman c, false, none⟩ .load (n / 64 + 2) (f.addr + off) n with
    | (s, .ok l) => (s, .ok l)
    | (s, .error (cause, _, _)) => (s, .error cause)
/-- The header, the stops and LEN bytes of tile of a hod that is on its way. -/
def pullHod (s : State) (c : Nat) (f : HodFwd) : State × Except Nat (List Byte) :=
  match pullBytes s c f 0 192 with
  | (s, .error e) => (s, .error e)
  | (s, .ok h) =>
    match pullBytes s c f 0x100 (Nat.min 16384 (hodLen (ofBytesLE h))) with
    | (s, .error e) => (s, .error e)
    | (s, .ok tile) => (s, .ok (h ++ tile))

/-- A pulled hod lands in slot i: TADDR is the slot's tile, the status LANDED and BUSY set; one that is not well-formed is parked with
status FAULT and cause 0x14 (R194). The acknowledgement starts its way. -/
def landHod (s : State) (c i : Nat) (x : Slot) (f : HodFwd) (l : List Byte) : State :=
  let h := ofBytesLE (l.take 192)
  let pa := slotPa s c i
  let image := setHodField (setHodField h 40 8 (slotVa s c i + 0x100)) 5 1 HodStatus.landed.code
  let good := hodWellFormed h
  let s := s.zeroRange pa 0x4100
  let s := s.writeBytes (pa + 0x100) (l.drop 192)
  let s := setSlotImage s c i (if good then image else h)
  let s := s.modCore c (fun k => setBusy k i)
  let s := s.modFwd f.id (fun f => { f with ack := some 0 })
  if good then
    s.modCore c (fun k => { k with inbox := k.inbox.map (fun y => if y.part = 3 ∧ y.slot = x.slot then { y with kind := .hod f.id (some i) } else y) })
  else (parkSlot (s.modCore c (fun k => k.dropSlot 3 x.slot)) c i .fault 0x14).1
/-- A pull failed: nothing is written into the slot, and the negative acknowledgement carries the cause (R196). -/
def pullFails (s : State) (c : Nat) (x : Slot) (f : HodFwd) (cause : Nat) : State :=
  (s.modCore c (fun k => k.dropSlot 3 x.slot)).modFwd f.id (fun f => { f with ack := some cause })

/-- HOD_PULL: the oldest HOD message of the core takes a free landing slot, and the hod is pulled into it; a hod of another package
comes in BULK frames (R196, R386). A message with a poisoned word tells the hod engine nothing that it can use: cause 0x1B (R181). -/
def execHodPull (c : Nat) (s : State) : Result :=
  match waitingHod (s.core c), freeLanding (s.core c) with
  | some (x, id), some i =>
    match s.fwd? id with
    | none => .next (s.modCore c (fun k => k.dropSlot 3 x.slot))
    | some f =>
      if x.bad ≠ 0 then .next (pullFails (reportPoison s c 0 (padBase c)) c x f 0x1B)
      else if corePkg f.core = corePkg c then
        match pullHod s c f with
        | (s, .ok l) => .next (landHod s c i x f l)
        | (s, .error cause) => .next (pullFails s c x f cause)
      else
        match f.fetched, f.ack with
        | some l, _ => .next (landHod s c i x f l)
        | none, some cause => .next (pullFails s c x f cause)
        | none, none =>
          if s.bulks.any (fun b => decide (b.kind = .hodPull id)) then .next s
          else .next { s with bulks := s.bulks ++ [⟨s.fresh, c, id, corePkg f.core, f.core, f.dom, .hodPull id⟩], fresh := s.fresh + 1 }
  | _, _ => .next s

/-- The hod of a forward has left its target's HOD partition: it has landed there or been turned away. -/
def hodAnswered (s : State) (f : HodFwd) : Bool :=
  !(s.core f.target).inbox.any (fun x => decide (x.kind = .hod f.id none)) && s.flits.all (fun x => decide (x.fwd ≠ f.id))
/-- HOD_ACK: the holder zeroes its slot and clears BUSY; after a negative acknowledgement it parks the hod with status FAULT and the
cause (R196). It waits in grout while the RSP ring of the engine that sent the hod is full (R182, R189). -/
def execHodAck (r : Nat) (s : State) : Result :=
  match s.fwd? r with
  | none => .next s
  | some f =>
    match f.ack with
    | none => .next s
    | some cause =>
      if !hodAnswered s f || rspStopped s f.sender then .next s
      else
        let s := { s with fwds := s.fwds.filter (fun x => decide (x.id ≠ r)) }
        if cause = 0 then .next (freeHod s f.sender f.place) else .next (parkHod s f.sender f.place .fault cause)

/-- BULK_TRANSFER: a BULK frame reaches its target (R386). A hod pull is admitted by the port of the holder's package and reads the hod
there. A frame that no way takes waits for one (R387). -/
def execBulkTransfer (r : Nat) (s : State) : Result :=
  match s.bulks.find? (fun b => decide (b.id = r)) with
  | none => .next s
  | some b =>
    if b.pkg ≠ corePkg b.core ∧ s.bulkDown (corePkg b.core) b.pkg then .next s
    else
      match b.kind with
      | .hodPull id =>
        let s := { s with bulks := s.bulks.filter (fun x => decide (x.id ≠ r)) }
        match s.fwd? id with
        | none => .next s
        | some f =>
          let root := rootAdmits s (2 * b.pkg) b.dom (corePkg b.core) || rootAdmits s (2 * b.pkg + 1) b.dom (corePkg b.core)
          if !root then .next (s.modFwd id (fun f => { f with ack := some 0x08 }))
          else
            -- the checks of the source are those of an agent of the holder's package
            match pullHod s f.core f with
            | (s, .ok l) => .next (s.modFwd id (fun f => { f with fetched := some l }))
            | (s, .error cause) => .next (s.modFwd id (fun f => { f with ack := some cause }))
      | _ => .next (bulkCopy s b)

end Sys2Proof.Machine
end

