-- ==== Sys2Proof/Machine/Remote.lean ====
section
/-! DEFINITION. Accesses that another package performs: the built-in handlers 0 to 13 and 15 at its port (R380, R381), the fills and
write-backs of the remote partition (R71, R73), the capability words of peers (R382), and links that degrade (R385–R387). -/

namespace Sys2Proof.Machine

/-! ### Loads, stores and atomics at the target's port -/

/-- The numbers of the pieces of an access that the target may perform now: those that go there, and a store to a page with RC for whose
line the remote partition has no way (R70). -/
def remoteReady (s : State) (a : Acc) : List Nat :=
  (List.range a.pieces.length).filter (fun i =>
    match a.pieces[i]? with
    | some p =>
      (decide (p.place = .remote) || (decide (p.place = .rpart ∧ a.op = .store) && (a.intoPartition s p).isNone)) && pieceReady s a i p &&
        channelReady s a.dom a.seq p
    | none => false)
/-- One piece at the target: an access that the port or the scope checker refuses, that the package does not
support, or that meets a fenced link, is lost; a poisoned
word traps the strand (R78, R224, R381, R382). A SYSTEM release has written the remote partitions back (R73), and a synchronisation access
has written its line back and dropped it (R74, R333). -/
def performRemote (s : State) (a : Acc) (i : Nat) (p : Piece) : State :=
  let g := corePkg a.core
  let s := releaseFor s a
  let s := if a.sync then s.dropCopy g p.pa else s
  if s.cannotReach g (paPkg p.pa) (featureOf a.op p.n) || !portAdmits s a.core a.dom g p.pa p.n (decide (a.op ≠ .load)) then
    losePiece s a i p
  else
    match performAt s a p with
    | (s, .ok x) => setPiece s a.id i p (.ok x)
    | (s, .error e) => if e.1 = 0x1B then setPiece s a.id i p (.error e) else losePiece s a i p
/-- A handler performs one piece of access r, where the access is one of its kind; which of several comes first is free (R335). -/
def remoteHandler (op : AccOp) (r : Nat) (s : State) : Result :=
  match s.acc? r with
  | none => .next s
  | some a =>
    let l := remoteReady s a
    match l[Config.pick s.fresh % l.length]? with
    | none => .next s
    | some i =>
      match a.pieces[i]? with
      | none => .next s
      | some p => whenever (decide (a.op = op)) s (fun s => performRemote s.tickFresh a i p)

/-- REMOTE_LOAD: handler 0 (R380). -/
def execRemoteLoad (r : Nat) (s : State) : Result := remoteHandler .load r s
/-- REMOTE_STORE: handler 1. -/
def execRemoteStore (r : Nat) (s : State) : Result := remoteHandler .store r s
/-- REMOTE_ATADD: handler 2. -/
def execRemoteAtadd (r : Nat) (s : State) : Result := remoteHandler (.atomic 2) r s
/-- REMOTE_ATAND: handler 3. -/
def execRemoteAtand (r : Nat) (s : State) : Result := remoteHandler (.atomic 3) r s
/-- REMOTE_ATOR: handler 4. -/
def execRemoteAtor (r : Nat) (s : State) : Result := remoteHandler (.atomic 4) r s
/-- REMOTE_ATXOR: handler 5. -/
def execRemoteAtxor (r : Nat) (s : State) : Result := remoteHandler (.atomic 5) r s
/-- REMOTE_ATMIN: handler 6. -/
def execRemoteAtmin (r : Nat) (s : State) : Result := remoteHandler (.atomic 6) r s
/-- REMOTE_ATMAX: handler 7. -/
def execRemoteAtmax (r : Nat) (s : State) : Result := remoteHandler (.atomic 7) r s
/-- REMOTE_ATMINN: handler 8. -/
def execRemoteAtminn (r : Nat) (s : State) : Result := remoteHandler (.atomic 8) r s
/-- REMOTE_ATMAXN: handler 9. -/
def execRemoteAtmaxn (r : Nat) (s : State) : Result := remoteHandler (.atomic 9) r s
/-- REMOTE_ATSWP: handler 10. -/
def execRemoteAtswp (r : Nat) (s : State) : Result := remoteHandler (.atomic 10) r s
/-- REMOTE_ATCAS: handler 11. -/
def execRemoteAtcas (r : Nat) (s : State) : Result := remoteHandler (.atomic 11) r s
/-- REMOTE_ATFADD_FP64: handler 12. -/
def execRemoteAtfaddFp64 (r : Nat) (s : State) : Result := remoteHandler (.atomic 12) r s
/-- REMOTE_ATFADD_FP32: handler 13. -/
def execRemoteAtfaddFp32 (r : Nat) (s : State) : Result := remoteHandler (.atomic 13) r s

/-! ### The remote partition (R71) -/

/-- A load of the remote partition whose bytes are not all valid there: its number. -/
def fillWanted (s : State) (a : Acc) : Option Nat :=
  (List.range a.pieces.length).find? (fun i =>
    match a.pieces[i]? with
    | some p =>
      let valid := ((s.rline (corePkg a.core) (p.pa / 64)).map (·.valid)).getD 0
      let m := lineMask (p.pa % 64) p.n
      decide (p.place = .rpart ∧ a.op = .load ∧ m &&& valid ≠ m) && pieceReady s a i p
    | none => false)
/-- REMOTE_LINE_FILL: the line comes from its home, with valid bits set where a byte is not dirty; poisoned words stay invalid, so that
each later load meets them. Where the partition has no way for the line, the data goes to the load alone. The load meets the errors of the
words that the partition held (R71, R72, R77, R78). -/
def execRemoteLineFill (r : Nat) (s : State) : Result :=
  match s.acc? r with
  | none => .next s
  | some a =>
    match fillWanted s a with
    | none => .next s
    | some i =>
      match a.pieces[i]? with
      | none => .next s
      | some p =>
        let g := corePkg a.core
        let line := p.pa / 64
        if s.cannotReach g (paPkg p.pa) 2 || !portAdmits s a.core a.dom g p.pa p.n false then .next (losePiece s a i p)
        else
          let off := p.pa % 64
          let (s, x) := fillRemote (meetRemote s (s.rlineOr g line) off p.n) g a.dom line
          let lost (k : Nat) : Nat × Nat := (0x1B, p.va + k)
          match x.poisonIn off p.n, (List.range p.n).find? (fun i => !x.valid.getLsbD (off + i)) with
          | some k, _ => .next (setPiece (reportRemotePoison s a.core (p.va + k) p.pa) r i p (.error (lost k)))
          | none, some k => .next (setPiece (reportPoison s a.core (p.va + k) p.pa) r i p (.error (lost k)))
          | none, none => .next (setPiece s r i p (.ok (x.bytes off p.n)))

/-- REMOTE_RC_WRITEBACK: handler 15 writes the dirty bytes of a line of a remote partition back to its home (R71, R73, R380). -/
def execRemoteRcWriteback (g line : Nat) (s : State) : Result := .next (s.writeBackLine g line)

/-! ### Links (R382, R385–R387) -/

/-- The capability word of a package enters the peer table of another (R382). -/
def recordPeer (s : State) (g peer : Nat) : State :=
  s.modPkg g (fun p => { p with peers := Table.set p.peers peer (s.capability peer) })
/-- LINK_TRAINING: two packages that reach each other exchange their capability words (R382). What is exchanged is each package's own word,
so the word that the event names plays no part (log 76). -/
def execLinkTraining (g peer : Nat) (_ : Word) (s : State) : Result :=
  whenever (decide (g ≠ peer) && !s.linkDown g peer && !s.linkDown peer g) s (fun s => recordPeer (recordPeer s g peer) peer g)

/-- C of a port in KiB (R385). -/
def Port.capacity (p : Port) : Nat := 16 * ((List.range 4).filter (fun i => (p.lanes &&& p.banks).getLsbD i)).length
/-- The reserves of a policy in KiB: REQ, RSP, MOR and BULK (R385, Table 4). -/
def reserves (policy : Nat) : Nat × Nat × Nat × Nat := match policy with | 1 => (8, 12, 16, 8) | 2 => (4, 8, 4, 32) | _ => (8, 8, 8, 16)
/-- C is below the sum of all four reserves (R387, step 1). -/
def Port.lacksBulk (p : Port) : Bool := let (a, b, c, d) := reserves p.policy; decide (p.capacity < a + b + c + d)
/-- C is below REQ + RSP + MOR (R387, step 2). -/
def Port.lacksAll (p : Port) : Bool := let (a, b, c, _) := reserves p.policy; decide (p.capacity < a + b + c)
/-- Changes a port. -/
def State.modPort (s : State) (g p : Nat) (f : Port → Port) : State :=
  s.modPkg g (fun x => { x with ports := Table.modify .init x.ports p f })
/-- The step is reported to the host with function 0x43, LINK EVENT; the manual gives its payload no layout (R387). -/
def linkEvent (s : State) (g : Nat) : State :=
  (s.modPkg g (fun p => { p with hostLog := p.hostLog ++
    [⟨header0 3 g 0 0 true, header1 0x43 0, word (Config.pick s.fresh), 0, 0, 0, 0, 0⟩] })).tickFresh

/-- The route between two packages, in either direction, uses a port. -/
def crosses (s : State) (a b g p : Nat) : Bool :=
  decide (a ≠ b) && (((s.route 128 a b).map (fun l => l.contains (g, p))).getD false ||
    ((s.route 128 b a).map (fun l => l.contains (g, p))).getD false)
/-- Whether a piece of work that uses a link was caught on it: a free choice of its place at that moment. -/
def caughtAt (s : State) (id : Nat) : Bool := decide (Config.pick (s.fresh + id) % 2 = 1)
/-- The package that a mortar reply goes to. -/
def MRep.toPkg (r : MRep) : Nat :=
  match r.iss with
  | .strand c _ | .copy c _ | .condAcq _ c _ => corePkg c
  | .fred k _ _ => k / 8
  | .condRel l _ => paPkg l
/-- The accesses, mortar requests, replies, messages and allowance returns that are caught on a link fail (R102, R224, R300, R387). -/
def failCaught (s : State) (g p : Nat) : State :=
  let caught (id a b : Nat) : Bool := crosses s a b g p && caughtAt s id
  let accs := s.accs.filter (fun a => a.pieces.any (fun q => decide (q.place = .remote) && caught a.id (corePkg a.core) (paPkg q.pa)))
  let reqs := s.mreqs.filter (fun q => !q.admitted && caught q.id q.from_ (paPkg q.line))
  let flits := s.flits.filter (fun f => decide (f.dep = 4) && (s.frontFlit f.id).isSome && caught f.id f.pkg (fieldOf f.msg.h0 58 45))
  let mreps := s.mreps.map (fun r =>
    if caught r.id (paPkg r.line) r.toPkg then { r with status := 0x0A, r1 := 0, r2 := 0, bytes := 0, cause := 0, peer := paPkg r.line } else r)
  let rets := s.rets.map (fun x => if caught x.id x.peer (corePkg x.core) then { x with failedPkg := some x.peer } else x)
  let s := { s with mreps := mreps, rets := rets }
  let s := accs.foldl (fun s a =>
    (List.range a.pieces.length).foldl (fun s i =>
      match s.acc? a.id with
      | some x => (match x.pieces[i]? with | some q => if q.place = .remote then losePiece s x i q else s | none => s)
      | none => s) s) s
  let s := reqs.foldl (fun s q => reply (s.dropReq q) q q.shown 0x0A 0 0 0 0 false) s
  flits.foldl failMessage s.tickFresh
/-- The foreman's new port for a destination whose port is lost: the other port of the same direction, another dimension's, or none
(R387). -/
def rerouted (s : State) (g dst p : Nat) : Nat :=
  let dims := (differing g dst).map (portToward (s.pkg g).torus g dst)
  let ports := (p / 2 * 2 + (1 - p % 2)) :: dims.flatMap (fun q => [q, q + 1])
  (ports.find? (fun q => decide (q ≠ p) && !(s.port g q).fenced)).getD 12
/-- The packages of the torus. -/
def torusPackages (t : Nat × Nat × Nat) : List Nat :=
  (List.range t.2.2).flatMap (fun z => (List.range t.2.1).flatMap (fun y => (List.range t.1).map (fun x => z * 1024 + y * 32 + x)))
/-- The packages to which a port leads. -/
def ledTo (s : State) (g p : Nat) : List Nat := (torusPackages (s.pkg g).torus).filter (fun d => decide (d ≠ g ∧ s.routePort g d = p))
/-- The foreman takes a port out of the routing table of its package (R387). -/
def rewriteRoutes (s : State) (g p : Nat) : State :=
  let routes := (ledTo s g p).foldl (fun r d => Table.set r d (rerouted s g d p)) (s.pkg g).routes
  s.modPkg g (fun x => { x with routes := routes })
/-- A port has dropped BULK: its traffic takes the other port of the same direction, or else the routing table takes another dimension
first wherever one leads to the destination (R387, step 1). -/
def rerouteBulk (s : State) (g p : Nat) : State :=
  if s.carriesBulk g (p ^^^ 1) then s
  else
    let other (d : Nat) : Option Nat :=
      ((differing g d).flatMap (fun dim => let q := portToward (s.pkg g).torus g d dim; [q, q + 1])).find? (fun q => s.carriesBulk g q)
    let routes := (ledTo s g p).foldl (fun r d => match other d with | some q => Table.set r d q | none => r) (s.pkg g).routes
    s.modPkg g (fun x => { x with routes := routes })
/-- The bytes that a port holds in a channel, 0 REQ, 1 RSP, 2 MOR and 3 BULK (R386): each request, reply, message, return and fill counts
128 bytes and each bulk frame a burst of 4,096. A write-back of handler 15 and an engine's access are never held there, since they are
made in one step (log 87, DESIGN CHOICE). -/
def portHolds (s : State) (g p ch : Nat) : Nat :=
  let on (a b : Nat) : Bool := crosses s a b g p
  let bulk (a b : Nat) : Bool := decide (a ≠ b) && ((s.bulkRoute 128 a b).map (fun l => l.contains (g, p))).getD false
  let pieces (ok : Acc → Piece → Bool) : Nat :=
    (s.accs.flatMap (fun a => a.pieces.filter (fun q => ok a q && on (corePkg a.core) (paPkg q.pa)))).length
  match ch with
  | 0 => 128 * ((s.flits.filter (fun f => decide (f.dep = 4) && on f.pkg (fieldOf f.msg.h0 58 45))).length +
      pieces (fun _ q => decide (q.place = .remote) && !q.done))
  | 1 => 128 * ((s.mreps.filter (fun q => on (paPkg q.line) q.toPkg)).length + (s.rets.filter (fun x => on x.peer (corePkg x.core))).length +
      (s.fwds.filter (fun f => f.ack.isSome && on (corePkg f.target) (corePkg f.core))).length +
      pieces (fun _ q => decide (q.place = .remote) && q.done))
  | 2 => 128 * (s.mreqs.filter (fun q => !q.admitted && on q.from_ (paPkg q.line))).length
  | _ => 4096 * (s.bulks.filter (fun b => bulk (corePkg b.core) b.pkg)).length +
      128 * pieces (fun a q => decide (q.place = .rpart ∧ a.op = .load) && !q.done &&
        decide (lineMask (q.pa % 64) q.n &&& (s.rlineOr (corePkg a.core) (q.pa / 64)).valid ≠ lineMask (q.pa % 64) q.n))
/-- The traffic that a port holds fits the reserves of a policy: what a channel holds above its reserve fits the shared rest of C (R15,
R385). -/
def reservesFit (s : State) (g p policy : Nat) : Bool :=
  let (a, b, c, d) := reserves policy
  let above (ch r : Nat) : Nat := portHolds s g p ch - 1024 * r
  decide (above 0 a + above 1 b + above 2 c + above 3 d ≤ 1024 * ((s.port g p).capacity - (a + b + c + d)))
/-- What a port does when C or its policy has changed (R387). -/
def portChanged (s : State) (g p : Nat) : State :=
  let port := s.port g p
  let s := if port.lacksBulk ∧ !port.bulkDropped then linkEvent (rerouteBulk (s.modPort g p (fun q => { q with bulkDropped := true })) g p) g else s
  if port.lacksAll ∧ !port.fenced then
    linkEvent (rewriteRoutes (failCaught (s.modPort g p (fun q => { q with fenced := true })) g p) g p) g
  else s

/-- LANE_FAILURE: a lane or a buffer bank of a port fails (R385, R387). Ports are numbered package × 12 + port. -/
def execLaneFailure (port lane : Nat) (bank : Bool) (s : State) : Result :=
  let m := BitVec.ofNat 4 (2 ^ lane)
  let g := port / 12
  let p := port % 12
  .next (portChanged (s.modPort g p (fun q =>
    if bank then { q with banks := q.banks &&& ~~~m } else { q with lanes := q.lanes &&& ~~~m })) g p)

end Sys2Proof.Machine
end

