-- ==== Sys2Proof/Machine/Shootdown.lean ====
section
/-! DEFINITION. Page walks on their own (R29, R34), and shootdowns: their arrival at each package and their acknowledgement (R38–R40).
A walk is one step here, so that none is overtaken by a shootdown (R40). -/

namespace Sys2Proof.Machine

/-- PAGE_WALK: an agent of a core that belongs to somebody has an address translated, which fills the buffers or ends in a fault that
nothing remembers (R29, R34). -/
def execPageWalk (c va : Nat) (s : State) : Result :=
  whenever (decide ((s.core c).launch ≠ 0) || isForeman c) s (fun s => (translate s c (s.core c).domain (va % 2 ^ 56)).1)

/-- A shootdown names a page of 2^lg bytes (R38, R325): hi 0 is the whole domain. -/
def Shoot.hits (x : Shoot) (base lg : Nat) : Bool := decide (x.hi = 0 ∨ (base < x.hi ∧ x.lo < base + 2 ^ lg))
/-- A translation that a shootdown removes: global ones only for domain 0x0000 (R38). -/
def Shoot.removes (x : Shoot) (t : TlbEnt) : Bool :=
  (if attrG t.attr then decide (x.dom = 0) else decide (t.dom = x.dom)) && x.hits (t.va * 2 ^ t.lg) t.lg
/-- A table pointer that a shootdown removes. -/
def Shoot.cuts (x : Shoot) (w : WalkEnt) : Bool :=
  decide (w.dom = x.dom) && x.hits (w.va * 2 ^ (16 + 10 * w.level)) (16 + 10 * w.level)
/-- A core lies in the scope of a shootdown. -/
def Shoot.covers (x : Shoot) (c : Nat) : Bool :=
  match x.scope with
  | .strand | .core => decide (c = x.core)
  | .panel => decide (panelKey c = panelKey x.core)
  | .package => decide (corePkg c = corePkg x.core)
  | .system => true
/-- A shootdown of a scope that is at least a package's. -/
def Shoot.wide (x : Shoot) : Bool := decide (x.scope = .package ∨ x.scope = .system)

/-- Removes the named translations from the structures of a package in scope; a spill access that failed is tried again (R38,
R191). -/
def shootAt (s : State) (x : Shoot) (g : Nat) : State :=
  let cores := s.cores.map (fun p =>
    if corePkg p.1 = g ∧ x.covers p.1 then
      (p.1, { p.2 with tlb := p.2.tlb.filter (fun t => !x.removes t),
                       rings := p.2.rings.map (fun r => (r.1, { r.2 with tried := 0 })) })
    else p)
  let panels := s.panels.map (fun p =>
    if p.1 / 8 = g ∧ (x.wide ∨ (x.scope = .panel ∧ p.1 = panelKey x.core)) then
      (p.1, { p.2 with tlb := p.2.tlb.filter (fun t => !x.removes t) })
    else p)
  let dies := s.dies.map (fun p =>
    if p.1 / 2 = g ∧ x.wide then (p.1, { p.2 with walks := p.2.walks.filter (fun w => !x.cuts w) }) else p)
  let hbms := s.hbms.map (fun p =>
    if p.1 / 8 = g ∧ x.wide then (p.1, { p.2 with tlb := p.2.tlb.filter (fun t => !x.removes t) }) else p)
  { s with cores := cores, panels := panels, dies := dies, hbms := hbms }

/-- SHOOTDOWN_ARRIVAL: shootdown r reaches package g (R38). -/
def execShootdownArrival (r g : Nat) (s : State) : Result :=
  match s.shoots.find? (fun x => decide (x.id = r)) with
  | none => .next s
  | some x =>
    whenever (x.left.contains g && (decide (g = corePkg x.core) || !s.linkDown (corePkg x.core) g)) s (fun s =>
      let s := shootAt s x g
      { s with shoots := s.shoots.map (fun y =>
          if y.id = r then { y with left := y.left.filter (fun p => decide (p ≠ g)), mark := s.fresh } else y) })

/-- Work of a domain may use a translation that the shootdown removes: its own domain's, or a global one, which serves every domain
(R30, R38). -/
def Shoot.concerns (x : Shoot) (dom va : Nat) : Bool := decide (dom = x.dom) || (decide (x.dom = 0) && inGlobal va)
/-- An agent in scope still uses an old translation: an access, a copy burst or a mortar request that was translated before the shootdown
last arrived at a package and has not reached its frame (R39). -/
def Shoot.burstsLeft (x : Shoot) (s : State) : Bool :=
  s.accs.any (fun a => decide (a.id < x.mark) && x.covers a.core &&
      a.pieces.any (fun p => !p.done && x.concerns a.dom p.va && x.hits p.va 0)) ||
    s.bulks.any (fun b => decide (b.id < x.mark ∧ (b.dom = x.dom ∨ x.dom = 0)) && x.covers b.core) ||
    s.mreqs.any (fun q => decide (q.id < x.mark ∧ (q.dom = x.dom ∨ x.dom = 0)))
/-- A package that a shootdown reaches. -/
def Shoot.reaches (x : Shoot) (g : Nat) : Bool := decide (g = corePkg x.core) || decide (x.scope = .system)
/-- What every package that a shootdown reaches has done before it acknowledges: writes that lie in its remote partitions have gone to their
frames (R39), and its prefetchers have forgotten the frames that they trained on by an old translation (R61). -/
def settleShoot (s : State) (x : Shoot) : State :=
  let pkgs := (s.rlines.map (·.pkg)).eraseDups.filter (fun g => x.reaches g)
  let s := pkgs.foldl (fun s g => s.writeBackAll g) s
  { s with dies := s.dies.map (fun p => if x.reaches (p.1 / 2) then (p.1, { p.2 with trained := [] }) else p) }
/-- SHOOTDOWN_ACK: the acknowledgement, on which the TLBINV retires (R39, R325). -/
def execShootdownAck (r : Nat) (s : State) : Result :=
  match s.shoots.find? (fun x => decide (x.id = r)) with
  | none => .next s
  | some x =>
    whenever (x.left.isEmpty && !x.burstsLeft s) s (fun s =>
      let s := settleShoot { s with shoots := s.shoots.filter (fun y => decide (y.id ≠ r)) } x
      s.modStrand x.core x.strand (fun t => if t.wait = .shootdown r then { t with pc := t.pc + 4, wait := .none, imx := [] } else t))

end Sys2Proof.Machine
end

