-- ==== Sys2Proof/Machine/Launch.lean ====
section
/-! DEFINITION. Launches: the foreman's handling of a packet (R345–R349), the end and the abort of a launch (R360–R362), and the deadlock
watchdog (R359). -/

namespace Sys2Proof.Machine

/-! ### The packet (R345, R346) -/

/-- The address of the status block. -/
def Launch.status (l : Launch) : Nat := fieldOf l.packet.w4 55 0
/-- NSLOT of a launch control word. -/
def packetNslot (m : Msg) : Nat := fieldOf m.w0 30 27
/-- SPK of a launch control word. -/
def packetSpk (m : Msg) : Nat := fieldOf m.w0 26 22
/-- Reserved fields and limits of Tables 1 to 3 (R345, R346). -/
def packetGood (m : Msg) : Bool :=
  decide (fieldOf m.h1 39 0 = 0 ∧ fieldOf m.w0 63 32 = 0 ∧ packetNslot m ≤ 8 ∧ 14 ≤ packetSpk m ∧ packetSpk m ≤ 20 ∧ fieldOf m.w1 63 56 = 0 ∧
    fieldOf m.w1 11 0 = 0 ∧ fieldOf m.w4 63 56 = 0 ∧ fieldOf m.w4 5 0 = 0 ∧ fieldOf m.w5 11 0 = 0 ∧ fieldOf m.w2 33 0 = 0 ∧
    (fieldOf m.w2 39 36 = 0 ∨ fieldOf m.w2 39 36 = 4))
/-- SKIND of a message (R183): 0 a strand, 3 a foreman, 5 the host. -/
def msgSkind (m : Msg) : Nat := fieldOf m.h0 8 6
/-- A LAUNCH is entitled (R348). -/
def launchEntitled (s : State) (m : Msg) : Bool :=
  decide (msgSkind m = 5 ∨ msgSkind m = 3) ||
    decide (msgSkind m = 0 ∧ (s.core (msgSource m)).launch ≠ 0 ∧ (s.core (msgSource m)).domain = fieldOf m.h1 55 40)

/-! ### The status block (R349) -/

/-- An ordinary store of 8 bytes by the foreman of a panel in a domain: the cause and kind of a failure. One to another package that no
link carries or that its home refuses retires, with the foreman's sticky bit set, as any store does (R224, R349, R383; log 55). -/
def foremanPut (s : State) (pk dom va v : Nat) : State × Option (Nat × Nat) :=
  let c := foremanOf pk
  if va % 8 ≠ 0 then (s, some (0x06, 0))
  else
    match writeVa s (s.firmware c dom) 2 va (bytesLE v 8) with
    | (s, some (cause, kind, _)) => (s, some (cause, kind))
    | (s, none) => (s, none)
/-- The launch status word (R349, Table 8). -/
def statusWord (st reason cause kind : Nat) : Nat := kind * 2 ^ 24 + cause * 2 ^ 16 + reason * 2 ^ 8 + st
/-- A status block that cannot be written: its refusal or end is reported to SUPV; a foreman that is itself SUPV logs it (R349). -/
def statusFails (s : State) (pk : Nat) (supv : Word) (cause kind va st : Nat) : State :=
  if st % 256 < 2 then s
  else s.foremanSends (foremanOf pk) supv 0x10 (word (cause + kind * 2 ^ 16 + 4 * 2 ^ 24)) (word va) 0 (foremanIdent pk) (word st) 0
/-- The foreman writes the status block: word 1, then word 0, each an ordinary store of 8 bytes followed by a release at SYSTEM scope. The
address reported is that of the word that could not be written. -/
def writeStatus (s : State) (pk : Nat) (m : Msg) (st fva : Nat) : State :=
  let dom := fieldOf m.h1 55 40
  let va := fieldOf m.w4 55 0
  let second := (va + 8) % 2 ^ 56
  match foremanPut s pk dom second fva with
  | (s, some (cause, kind)) => statusFails s pk m.w2 cause kind second st
  | (s, none) =>
    match foremanPut (s.writeBackAll (pk / 8)) pk dom va st with
    | (s, some (cause, kind)) => statusFails s pk m.w2 cause kind va st
    | (s, none) => s.writeBackAll (pk / 8)

/-! ### Receiving a LAUNCH (R348, steps 1 and 2) -/

/-- The reason of Table 7 for which step 1 or 2 refuses a packet at a foreman. -/
def packetRefused (s : State) (pk : Nat) (m : Msg) : Option Nat :=
  let dom := fieldOf m.h1 55 40
  let r := fieldOf m.w0 15 0
  let g := pk / 8
  let rootless := (rectCores g r).any (fun c => !(s.die (dieKey c)).roots.any (fun q => decide (q.1 = dom)))
  let waiting := s.launches.filter (fun l => decide (l.panel = pk ∧ (l.state = .queued ∨ l.state = .starting)))
  if !packetGood m then some 0x01
  else if !launchEntitled s m then some 0x04
  else if dom = 0 ∨ rootless then some 0x02
  else if !rectAligned r ∨ panelKey (g * 2048 + bits r 9 5 * 32 + bits r 4 0) ≠ pk then some 0x03
  else if 8 ≤ waiting.length then some 0x05 else none
/-- A launch in the queue. -/
def Launch.queuedOf (id pk : Nat) (m : Msg) : Launch :=
  { id := id, panel := pk, packet := m, state := .queued, endAsked := false, header := [], regs := 0, parked := [], units := [],
    marked := [], image := none, shoots := [], closing := none, still := none, reported := false }
/-- LAUNCH: the foreman of panel p checks a packet and queues or refuses it. A package whose boot has failed accepts none (R394). -/
def execLaunch (p : Nat) (s : State) : Result :=
  match sysHead s p 0x01 with
  | none => .next s
  | some m =>
    match (s.pkg (p / 8)).boot with
    | .failed _ => .next s
    | _ =>
      let s := dropSys s p
      match packetRefused s p m with
      | some reason => .next (writeStatus s p m (statusWord 2 reason 0 0) 0)
      | none =>
        let s := { s with launches := s.launches ++ [Launch.queuedOf s.fresh p m], fresh := s.fresh + 1 }
        .next (writeStatus s p m (statusWord 0 0 0 0) 0)

/-! ### Reading the image (R347, R348 step 3) -/

/-- Bytes lo to lo + n − 1 of a header. -/
def headField (h lo n : Nat) : Nat := h / 2 ^ (8 * lo) % 2 ^ (8 * n)
/-- A refusal in step 3: reason, cause, kind and faulting address. -/
abbrev StartError := Nat × Nat × Nat × Nat
/-- What a page that the header names must allow: a use, the spill region's rights (R190), or the mark FO (R348 step 4). -/
inductive Named where
  | by_ (u : Use) | spill | mark
  deriving DecidableEq, Repr
/-- The check of one page, as step 3 makes it by R31. A spill page that carries FO is refused with cause 0x08, and a leaf that step 4
may not mark with FO (a mortar page, or one that maps the scratchpad aperture) with kind 9 (R29, R123). -/
def pageRefused (s : State) (fc dom va : Nat) : Named → State × Option (Nat × Nat)
  | .by_ u =>
    match translateFor s fc dom va u with
    | (s, .error r) => (s, some (r.cause, r.kind))
    | (s, .ok _) => (s, none)
  | .spill =>
    match translateFor s fc dom va .load with
    | (s, .error r) => (s, some (r.cause, r.kind))
    | (s, .ok p) =>
      match useCheck .store p.attr with
      | some cause => (s, some (cause, 0))
      | none => (s, if attrFO p.attr then some (0x08, 0) else none)
  | .mark =>
    match translate s fc dom va with
    | (s, .error r) => (s, some (r.cause, r.kind))
    | (s, .ok p) => (s, if attrM p.attr || decide (0x6000000000 ≤ paLocal p.pa) then some (0x07, 9) else none)
/-- The first address of a page of a range that is refused: 64 KiB is the smallest page (R27). -/
def rangeRefused (s : State) (fc dom va n : Nat) (u : Named) : State × Option StartError :=
  if n = 0 then (s, none)
  else
    let pages := ceilDiv (va % 65536 + n) 65536
    (List.range pages).foldl (fun acc i =>
      match acc.2 with
      | some _ => acc
      | none =>
        let a := (if i = 0 then va else va / 65536 * 65536 + i * 65536) % 2 ^ 56
        match pageRefused acc.1 fc dom a u with
        | (s, some (cause, kind)) => (s, some (0x06, cause, kind, a))
        | (s, none) => (s, none)) (s, none)
/-- The first refusal of a list of ranges. -/
def rangesRefused (s : State) (fc dom : Nat) : List (Nat × Nat × Named) → State × Option StartError
  | [] => (s, none)
  | (va, n, u) :: rest =>
    match rangeRefused s fc dom va n u with
    | (s, some e) => (s, some e)
    | (s, none) => rangesRefused s fc dom rest

/-- Limits of the header (R347): MAGIC, VER, sizes, counts and reserved fields. HODBASE is a check of its own (R348). -/
def headGood (h : Nat) : Bool :=
  decide (headField h 0 2 = 0x4C49 ∧ headField h 2 1 = 1 ∧ headField h 3 1 < 4 ∧ 2 ≤ headField h 4 4 ∧ headField h 4 4 ≤ 65536 ∧
      headField h 4 4 % 2 = 0 ∧ headField h 8 4 ≤ 163840 ∧ headField h 12 2 ≤ 64 ∧ headField h 14 2 ≤ 4096 ∧ headField h 116 12 = 0) &&
    [16, 24, 32, 40, 64, 72].all (fun o => decide (headField h (o + 7) 1 = 0)) &&
    (!bit h 25 || decide (headField h 55 1 = 0)) && (!bit h 24 || decide (headField h 63 1 = 0)) &&
    (decide (headField h 12 2 = 0) || decide (headField h 87 1 = 0)) && (decide (headField h 14 2 = 0) || decide (headField h 111 1 = 0)) &&
    (decide (headField h 96 8 = 0) || decide (headField h 95 1 = 0 ∧ headField h 96 8 < 2 ^ 56 ∧ headField h 96 8 % 65536 = 0))
/-- The alignments of R347: address and unit of each thing that is named. -/
def headAligned (h spk : Nat) : List (Nat × Nat) :=
  [(headField h 16 7, 256), (headField h 24 7, 256), (headField h 32 7, 64), (headField h 40 7, 64), (headField h 64 7, 256),
    (headField h 72 7, 2 ^ spk)] ++ (if bit h 25 then [(headField h 48 7, 64)] else []) ++ (if bit h 24 then [(headField h 56 7, 64)] else []) ++
    (if headField h 14 2 = 0 then [] else [(headField h 104 7, 64)]) ++ (if headField h 96 8 = 0 then [] else [(headField h 88 7, 65536)])
/-- The ranges that a header names, with what each must allow. -/
def headRanges (h spk cores : Nat) : List (Nat × Nat × Named) :=
  [(headField h 16 7, headField h 4 4, .by_ .code), (headField h 24 7, headField h 8 4, .by_ .load), (headField h 32 7, 1024, .by_ .load),
    (headField h 40 7, 1024, .by_ .load), (headField h 64 7, 4608, .by_ .load), (headField h 72 7, cores * 2 ^ spk, .spill)] ++
    (if bit h 25 then [(headField h 48 7, 2048, .by_ .load)] else []) ++ (if bit h 24 then [(headField h 56 7, 1024, .by_ .load)] else []) ++
    [(headField h 80 7, headField h 12 2 * 16, .by_ .load), (headField h 104 7, headField h 14 2 * 64, .by_ .store),
      (headField h 88 7, headField h 96 8, .mark)]
/-- Reads a range for the foreman: its bytes, or the refusal. -/
def imageBytes (s : State) (fc dom va n : Nat) : State × Except StartError (List Byte) :=
  match readVa s (s.firmware fc dom) .load (n / 64 + 2) va n with
  | (s, .ok l) => (s, .ok l)
  | (s, .error (cause, kind, at_)) => (s, .error (0x06, cause, kind, at_))
/-- The register image's reserved bytes, and the reserved bits of STEALMASK, are zero (R347, Table 5; R348). -/
def regsGood (r : Nat) : Bool := decide (headField r 0x1170 144 = 0 ∧ headField r 0x1168 8 < 2 ^ 17)
/-- Class 0, the counter entries, HODBASE and the register image (R348, step 3; R192, R195, R351). -/
def tablesGood (m : Msg) (i : Image) : Bool :=
  let e := ofBytesLE (i.rtab.take 16)
  let c := ofBytesLE i.ctr
  let base := headField i.head 112 4
  entryGood (e % 2 ^ 64, e / 2 ^ 64) && regsGood i.regs &&
    (!bit i.head 25 || (List.range 256).all (fun n => !bit (headField c (8 * n) 8) 39 || decide (bits (headField c (8 * n) 8) 31 16 ≠ 0))) &&
    (decide (packetNslot m = 0) || decide (base % 256 = 0 ∧ 0x18000 ≤ base ∧ base + packetNslot m * 0x4100 ≤ 0x40000))
/-- The footing requests of an image: unit, owner core number, first block and count; none where an entry breaks Table 6. -/
def footEntries (i : Image) : List (Option (Nat × Nat × Nat × Nat)) :=
  (List.range (headField i.head 12 2)).map (fun n =>
    let a := headField i.foot (16 * n) 8
    let b := headField i.foot (16 * n + 8) 8
    if bits a 63 19 ≠ 0 ∨ bits b 63 36 ≠ 0 ∨ bits b 35 18 = 0 ∨ 196608 < bits b 17 0 + bits b 35 18 then none
    else some (bits a 8 0, bits a 18 9, bits b 17 0, bits b 35 18))
/-- The footing requests hold (R348, step 3). -/
def footGood (s : State) (l : Launch) (i : Image) : Bool :=
  let es := (footEntries i).filterMap id
  (footEntries i).all (·.isSome) && es.all (fun e =>
    l.holds (l.pkg * 2048 + e.2.1) && (s.unit (l.pkg * 512 + e.1)).owner.isNone &&
      decide ((es.filter (fun x => decide (x.1 = e.1))).length ≤ 4) && es.all (fun x => decide (x.1 ≠ e.1 ∨ x.2.1 = e.2.1)))

/-- Reads and checks an image (R348, step 3). -/
def readImage (s : State) (l : Launch) : State × Except StartError Image :=
  let fc := foremanOf l.panel
  let m := l.packet
  match imageBytes s fc l.dom (fieldOf m.w1 55 0) 128 with
  | (s, .error e) => (s, .error e)
  | (s, .ok hb) =>
    let h := ofBytesLE hb
    if !headGood h then (s, .error (0x06, 0x02, 0, 0))
    else
      match (headAligned h (packetSpk m)).find? (fun x => decide (x.1 % x.2 ≠ 0)) with
      | some (va, _) => (s, .error (0x06, 0x06, 0, va))
      | none =>
        match rangesRefused s fc l.dom (headRanges h (packetSpk m) l.cores.length) with
        | (s, some e) => (s, .error e)
        | (s, none) =>
          let get (acc : State × Except StartError (List (List Byte))) (x : Nat × Nat) : State × Except StartError (List (List Byte)) :=
            match acc with
            | (s, .error e) => (s, .error e)
            | (s, .ok ls) =>
              match imageBytes s fc l.dom x.1 x.2 with
              | (s, .error e) => (s, .error e)
              | (s, .ok b) => (s, .ok (ls ++ [b]))
          let wanted := [(headField h 16 7, headField h 4 4), (headField h 24 7, headField h 8 4), (headField h 32 7, 1024),
            (headField h 40 7, 1024), (headField h 48 7, if bit h 25 then 2048 else 0), (headField h 56 7, if bit h 24 then 1024 else 0),
            (headField h 64 7, 4608), (headField h 80 7, headField h 12 2 * 16)]
          match wanted.foldl get (s, .ok []) with
          | (s, .error e) => (s, .error e)
          | (s, .ok ls) =>
            let part (n : Nat) : List Byte := ls[n]?.getD []
            let i : Image := ⟨h, part 0, part 1, part 2, part 3, part 4, part 5, ofBytesLE (part 6), ofBytesLE (part 7)⟩
            if !tablesGood m i then (s, .error (0x07, 0, 0, 0))
            else if !footGood s l i then (s, .error (0x08, 0, 0, 0)) else (s, .ok i)

/-! ### Starting (R348, steps 4 to 6) -/

/-- The address of the leaf entry that maps a virtual address of a domain, from a table at a level; the foreman of a panel reads the entries
through the L2 (R69, R403). -/
def leafEntry (panel dom va : Nat) : Nat → State → Nat → State × Option Nat
  | level, s, table =>
    let at_ := table + va / 2 ^ (16 + 10 * level) % 1024 * 8
    match readEntry s panel dom at_ with
    | (s, .error _) => (s, none)
    | (s, .ok e) =>
      if !bit e 0 then (s, none)
      else if bit e 1 then (match level with | 0 => (s, none) | lower + 1 => leafEntry panel dom va lower s (bits e 52 13 * 2 ^ 13))
      else (s, some at_)
/-- The leaf entries of a launch's package that map a list of addresses of its domain, on either die. -/
def leavesOf (s : State) (l : Launch) (vas : List Nat) : State × List Nat :=
  let walks := [2 * l.pkg, 2 * l.pkg + 1].flatMap (fun d => vas.filterMap (fun va =>
    (if inGlobal va then (s.die d).global else ((s.die d).roots.find? (fun r => decide (r.1 = l.dom))).map (·.2)).map (fun r => (r * 2 ^ 13, va))))
  walks.foldl (fun acc w =>
    match leafEntry l.panel l.dom w.2 3 acc.1 w.1 with
    | (s, some a) => (s, if acc.2.contains a then acc.2 else acc.2 ++ [a])
    | (s, none) => (s, acc.2)) (s, [])
/-- The range of FO marks that a header names: its start and length (R347). -/
def markRange (h : Nat) : Nat × Nat := (headField h 88 7, headField h 96 8)
/-- The leaf entries of the range that do not carry FO (R348, step 4). -/
def unmarkedLeaves (s : State) (l : Launch) (h : Nat) : State × List Nat :=
  let (va, n) := markRange h
  let (s, es) := leavesOf s l ((List.range (ceilDiv n 65536)).map (fun i => (va + 65536 * i) % 2 ^ 56))
  (s, es.filter (fun a => !bit (s.read a 8) 7))
/-- The foreman writes leaf entries for a launch, through the L2 (R69, R403). -/
def putEntries (s : State) (l : Launch) (entries : List Nat) (f : Nat → Nat) : State :=
  entries.foldl (fun s a => ((if isHbm a then touchLine s l.dom a 8 true else s).write a 8 (f (s.read a 8)))) s
/-- A leaf entry that is not valid. -/
def entryOff (e : Nat) : Nat := e / 2 * 2
/-- It is valid again, with FO or without (R28). -/
def entryOn (fo : Bool) (e : Nat) : Nat := e / 256 * 256 + (if fo then 128 else 0) + e % 128 / 2 * 2 + 1
/-- The first half of a change of the FO marks, by the order of R41: the entries are written as not valid, and shootdowns of the marked range
start that the package acknowledges: of the launch's domain, and of domain 0x0000 for pages of the global region (R38). The answer holds
their numbers. -/
def unmapMarks (s : State) (l : Launch) (h : Nat) : State × List Nat :=
  let (va, n) := markRange h
  let doms := (if inGlobal va then [] else [l.dom]) ++ (if inGlobal (va + n - 1) then [0] else [])
  let s := putEntries s l l.marked entryOff
  doms.foldl (fun acc d =>
    let s := acc.1
    let x : Shoot :=
      { id := s.fresh, core := foremanOf l.panel, strand := 0, dom := d, lo := va, hi := va + n, scope := .package, left := [l.pkg],
        mark := s.fresh }
    ({ s with shoots := s.shoots ++ [x] }.tickFresh, acc.2 ++ [x.id])) (s, [])
/-- Every shootdown that a launch awaits is acknowledged. -/
def marksSettled (s : State) (l : Launch) : Bool := l.shoots.all (fun i => s.shoots.all (fun x => decide (x.id ≠ i)))
/-- The grants of an image. -/
def grantUnits (s : State) (l : Launch) (i : Image) : State :=
  ((footEntries i).filterMap id).foldl (fun s e =>
    s.modUnit (l.pkg * 512 + e.1) (fun t =>
      { t with owner := some (l.id, l.pkg * 2048 + e.2.1), grants := t.grants ++ [(e.2.2.1, e.2.2.2)] })) s
/-- A core with nobody's state: all that hardware zeroes, its engine's state and deque registers among it (R132, R378). The counts of the
engine's exchanges towards each partner, and its exchanges that ended early, begin again with it (R112, R114; log 103, DESIGN CHOICE). -/
def freshCore (k : Core) : Core := { Core.init with tlb := k.tlb }
/-- Zeroes a range of a domain's memory page by page, where the foreman's stores reach it (R378). -/
def zeroVa (s : State) (fc dom : Nat) : Nat → Nat → Nat → State
  | 0, _, _ => s
  | fuel + 1, va, n =>
    if n = 0 then s
    else
      let k := Nat.min n (65536 - va % 65536)
      zeroVa (writeVa s (s.firmware fc dom) (k / 64 + 2) (va % 2 ^ 56) (List.replicate k 0)).1 fc dom fuel (va + k) (n - k)
/-- What a core image of a launch stands for keeps the messages that have gone to the core's spill rings since CTXSAVE, when the core passes
to another launch (R368, R370). -/
def keepRings (s : State) (c : Nat) : State :=
  let k := s.core c
  { s with shelf := s.shelf.map (fun p =>
      if p.2.1 = c ∧ p.2.2.launch = k.launch ∧ k.launch ≠ 0 then (p.1, (c, { p.2.2 with rings := k.rings })) else p) }
/-- The context engine prepares a core: it is zeroed, then receives the image (R348, step 5). The decode table's bytes are written as the
image gives them: what R155 makes of a malformed entry is TBLLD's (log 102, DESIGN CHOICE). -/
def prepareCore (s : State) (l : Launch) (i : Image) (r c : Nat) : State :=
  let m := l.packet
  let pa := padBase c
  let s := (keepRings s c).wipe pa 0x80000
  let s := s.writeBytes pa i.code
  let s := s.writeBytes (pa + 0x18000) i.data
  let s := s.writeBytes (pa + 0x15800) i.rtab
  let s := s.writeBytes (pa + 0x15000) i.tmap
  let s := s.writeBytes (pa + 0x14800) i.ctr
  let s := s.writeBytes (pa + 0x15400) i.dtbl
  let x := ofBytesLE i.dtbl
  s.modCore c (fun k =>
    { freshCore k with
      launch := l.id, domain := l.dom, spillq := word ((headField i.head 72 7 + r * 2 ^ packetSpk m) / 2 ^ 14 * 2 ^ 14 + packetSpk m) &&& ctlBits 0x051,
      hodarea := word (packetNslot m * 2 ^ 20 + headField i.head 112 4 % 2 ^ 19), audseed := m.w3, prioage := word (s.panel (panelKey c)).aging,
      tblstat := if i.dtbl.isEmpty then 0 else tblstatOf ((List.range 256).map (fun n => headField x (4 * n) 4)), stealAt := coreIdx c,
      prio := fieldOf m.w0 17 16, audf := fieldOf m.w0 21 18 })
/-- The DIRECT message of class 0 from the foreman to a core, with the packet's payload (R348, step 6). -/
def firstMessage (s : State) (l : Launch) (c : Nat) : State :=
  let fc := foremanOf l.panel
  let p := l.packet
  let m : Msg := ⟨stamp (headerTo 0 (engineIdent c 0 0)) fc 0 3, 0, p.w0, p.w1, p.w2, p.w3, p.w4, p.w5⟩
  let (dep, dx, dy) := s.endpoint l.pkg m
  s.inject { flitOf l.pkg (coordOf fc).1 (coordOf fc).2 dx dy dep 0 m with dom := l.dom, launch := l.id }

/-- A core is taken for a launch that waits: a launch runs on it and has not left it saved for a change of domain (R348, R370). -/
def coreTaken (s : State) (c : Nat) : Bool := decide ((s.core c).launch ≠ 0) && !((s.core c).preempted && (s.core c).saved)
/-- Rectangles of two launches of one package share a core. -/
def Launch.meets (a b : Launch) : Bool := decide (a.pkg = b.pkg) && a.cores.any (fun c => b.holds c)
/-- The launch that a foreman may start next: none whose rectangle a running launch, one that is starting, or an earlier waiting one shares
(R348, step 2; R15). -/
def startable (s : State) (p : Nat) : Option Launch :=
  let waits := s.launches.filter (fun l => decide (l.state = .queued))
  waits.find? (fun l => decide (l.panel = p) && (s.pkg l.pkg).held.isEmpty && !l.cores.any (coreTaken s) &&
    (waits.takeWhile (fun x => decide (x.id ≠ l.id)) ++ s.launches.filter (fun x => decide (x.state = .starting))).all (fun x => !x.meets l))
/-- A launch whose FO marks are in order starts: the marked entries are valid again, the cores are prepared, and the first messages are on
their way (R41, R348 steps 4 to 6). -/
def startLaunch (s : State) (l : Launch) (i : Image) : State :=
  let l := { l with state := .running, image := none, shoots := [] }
  let s := (putEntries s l l.marked (entryOn true)).modLaunch l.id (fun _ => l)
  let s := l.cores.zipIdx.foldl (fun s x => prepareCore s l i x.2 x.1) s
  let s := writeStatus s l.panel l.packet (statusWord 1 0 0 0) 0
  l.cores.foldl (fun s c => firstMessage s l c) s
/-- A launch of a panel that is starting and whose shootdowns are acknowledged, with its image. -/
def settledStart (s : State) (p : Nat) : Option (Launch × Image) :=
  s.launches.findSome? (fun l =>
    if l.panel = p ∧ l.state = .starting ∧ marksSettled s l then l.image.map (fun i => (l, i)) else none)
/-- A waiting launch is checked against its image, then its FO marks are set and its units granted; it starts at once where no entry has to
change (R348, steps 3 and 4). -/
def beginLaunch (s : State) (l : Launch) (i : Image) : State :=
  let h := i.head
  let (s, marks) := unmarkedLeaves s l h
  let l := { l with state := .starting, header := (List.range 16).map (fun n => word (headField h (8 * n) 8)), regs := i.regs, marked := marks,
                    units := (((footEntries i).filterMap id).map (fun e => l.pkg * 512 + e.1)).eraseDups }
  let s := grantUnits s l i
  if marks.isEmpty then startLaunch s l i
  else
    let (s, ids) := unmapMarks s l h
    s.modLaunch l.id (fun _ => { l with image := some i, shoots := ids })
/-- LAUNCH_START: a waiting launch is checked against its image and begun, or refused; one whose marks are settled starts (R348, steps 3
to 6). -/
def execLaunchStart (p : Nat) (s : State) : Result :=
  match settledStart s p, startable s p with
  | some (l, i), _ => .next (startLaunch s l i)
  | none, none => .next s
  | none, some l =>
    let refuse (s : State) (e : StartError) : State :=
      let s := { s with launches := s.launches.filter (fun x => decide (x.id ≠ l.id)) }
      writeStatus s p l.packet (statusWord 2 e.1 e.2.1 e.2.2.1) e.2.2.2
    match readImage s l with
    | (s, .error e) => .next (refuse s e)
    | (s, .ok i) => .next (beginLaunch s l i)

/-! ### The end of a launch (R360–R362) -/

/-- The running launch of a foreman that a LAUNCH END or ABORT names. -/
def namedLaunch (s : State) (p : Nat) (m : Msg) : Option Launch :=
  s.launches.find? (fun l => decide (l.panel = p ∧ l.state = .running ∧ l.dom = fieldOf m.h1 55 40 ∧ bits l.rect 4 0 = fieldOf m.h1 39 35 ∧
    bits l.rect 9 5 = fieldOf m.h1 34 30))
/-- The host, a foreman, SUPV or a strand of the launch sent it (R360). -/
def mayEndLaunch (s : State) (l : Launch) (m : Msg) : Bool :=
  decide (msgSkind m = 5 ∨ msgSkind m = 3) || sentBy m l.supv ||
    (decide (msgSkind m = 0) && l.holds (msgSource m) && decide ((s.core (msgSource m)).launch = l.id))
/-- A LAUNCH END or ABORT at its foreman: what it does to the launch, or its refusal (R360, R408). -/
def endRequest (p sfn : Nat) (f : State → Launch → State) (s : State) : Result :=
  match sysHead s p sfn with
  | none => .next s
  | some m =>
    let s := dropSys s p
    match namedLaunch s p m with
    | none => .next (s.logAt p [m])
    | some l =>
      if mayEndLaunch s l m then .next (f s l) else .next (s.handOn (foremanOf p) l.supv m 0x03 sfn)
/-- LAUNCH_END: the launch ends at its next quiescence. -/
def execLaunchEnd (p : Nat) (s : State) : Result := endRequest p 0x02 (fun s l => s.modLaunch l.id (fun x => { x with endAsked := true })) s

/-- The core whose agent issued a request. -/
def Issuer.coreOf : Issuer → Option Nat
  | .strand c _ | .copy c _ | .condAcq _ c _ | .fred _ c _ => some c
  | .condRel _ _ => none
/-- A core runs a launch. -/
def runsOn (s : State) (l : Launch) (c : Nat) : Bool := decide ((s.core c).launch = l.id)
/-- The foreman cancels every request parked on behalf of a launch's agents, on every package, and the replies and wake-ups of its strands
are discarded (R101). -/
def cancelParked (s : State) (l : Launch) : State :=
  let mine (q : MReq) : Bool := decide (q.launch = l.id)
  let s := { s with mreps := s.mreps.filter (fun p => !(decide (p.launch = l.id) && p.iss.strandOf.isSome)) }
  let lines := ((s.slices.flatMap (fun k => k.2.waits)).filter (fun e => mine e.req)).map (fun e => (e.req.line, e.req.dom))
  lines.eraseDups.foldl (fun s x =>
    let s := s.modSlice (homeSlice x.1) (fun k => { k with waits := k.waits.filter (fun e => !(decide (e.req.line = x.1) && mine e.req)) })
    let (s, o) := renumber s x.1 (objAt s x.1)
    putObj s x.2 x.1 o) s
/-- The strands of a core stop, and its activations, messages and queued commands are discarded; its hods are parked, and its copies that
are not complete are aborted (R118, R361). -/
def abortCore (s : State) (c : Nat) : State :=
  let s := (List.range 4).foldl (fun s n => if (s.strand c n).mode = .free then s else endActivation (dropSample s c n) c n) s
  let s := { s with fwds := s.fwds.filter (fun f => decide (f.core ≠ c)) }
  let s := (List.range 8).foldl (fun s i => if slotBusy (s.core c) i then (parkSlot (dropHeld s c i) c i .parked 0).1 else s) s
  let s := s.modCore c (fun k => { k with preempted := true, inbox := [], rings := [], mq := [], mstop := false, held := [] })
  let s := { s with accs := s.accs.filter (fun a => !(decide (a.core = c) && a.refused.isSome)) }
  (s.core c).copy.q.foldl (fun s q =>
    if !q.aborted ∧ (q.phase = .queued ∨ q.phase = .running) then abortCopy s c { q with phase := .running } else s) s
/-- Parked footing commands and FREDs of a launch are aborted (R37, R361). -/
def abortParked (s : State) (l : Launch) : State :=
  let s := s.units.foldl (fun s u =>
    match (s.unit u.1).parked, (s.unit u.1).q.head? with
    | some _, some cmd => if cmd.launch = l.id then abortUnit s u.1 else s
    | _, _ => s) s
  s.hbms.foldl (fun s k =>
    match fredHead s k.1 with
    | some f => if f.launch = l.id ∧ f.parked.isSome then endFred s k.1 f (failReply 0x01 0) else s
    | none => s) s
/-- LAUNCH_ABORT: the launch stops at once, and is wound up when its replies have come (R361). -/
def execLaunchAbort (p : Nat) (s : State) : Result :=
  endRequest p 0x03 (fun s l =>
    let mine := l.cores.filter (runsOn s l)
    let s := mine.foldl abortCore s
    abortParked (cancelParked (s.modLaunch l.id (fun x => { x with state := .ending })) l) l) s

/-- A core is quiescent (R360). -/
def coreQuiescent (s : State) (c : Nat) : Bool :=
  let k := s.core c
  (List.range 4).all (strandFree s c) && k.inbox.isEmpty && k.rings.all (fun r => r.2.ents.isEmpty) && dequeEmpty k && k.copy.q.isEmpty &&
    k.mq.isEmpty && decide (k.copy.allow = 2 ∧ k.hodAllow = 4 ∧ fieldOf k.hodarea 31 24 = 0)
/-- No access, request or reply of a launch's cores is on its way, and no word of theirs is pending (R52, R101). -/
def launchDrained (s : State) (l : Launch) : Bool :=
  let mine (c : Nat) : Bool := runsOn s l c
  s.accs.all (fun a => !mine a.core) && s.mreqs.all (fun q => decide (q.launch ≠ l.id)) && s.mreps.all (fun q => decide (q.launch ≠ l.id)) &&
    s.slices.all (fun k => k.2.waits.all (fun e => decide (e.req.launch ≠ l.id))) && s.steals.all (fun x => !mine x.core && !mine x.target) &&
    s.shoots.all (fun x => !mine x.core) && (l.cores.filter mine).all (fun c => (s.core c).pend.all (fun p => decide (p.2 = 0)))
/-- A message is on its way to a core of the launch; the foreman's first messages, which hold no allowance, are among them (R348,
R360). -/
def messageComing (s : State) (l : Launch) : Bool := s.flits.any (fun f => decide (f.dep = 0) && l.holds f.goal)
/-- The launch is quiescent (R360). -/
def quiescent (s : State) (l : Launch) : Bool :=
  l.cores.all (fun c => runsOn s l c && coreQuiescent s c) && launchDrained s l && !messageComing s l
/-- An aborted launch has nothing left to wait for (R361). -/
def woundUp (s : State) (l : Launch) : Bool :=
  (l.cores.filter (runsOn s l)).all (fun c => (s.core c).copy.q.isEmpty) && launchDrained s l
/-- A unit loses its owner: hardware zeroes it and leaves it HALTED (R49). -/
def releaseUnit (s : State) (u : Nat) : State :=
  s.modUnit u (fun t => { t with overlay := [], data := [], lanes := [], flags := [], pc := 0, imx := [], run := .halted, grants := [], owner := none,
                                 openBlk := [], save := none })
/-- What still travels for a core no longer belongs to it. -/
def disown (s : State) (c : Nat) : State :=
  let mine (f : Flit) : Bool :=
    (match f.owner with | some (.strand x _) | some (.copy x _) => decide (x = c) | _ => false) || decide (f.hodOwner = some c)
  { s with rets := s.rets.filter (fun r => decide (r.core ≠ c)),
           flits := s.flits.map (fun f => if mine f then { f with owner := none, hodOwner := none } else f),
           bulks := s.bulks.filter (fun b => decide (b.core ≠ c)) }
/-- A core of an ended launch, zeroed. Where another running launch was saved from it for a change of domain, it stays pre-empted, so that
CTXLOAD may bring that launch back (R327, R370; log 88). -/
def freedCore (s : State) (l : Launch) (c : Nat) (k : Core) : Core :=
  { freshCore k with preempted := s.launches.any (fun x => decide (x.id ≠ l.id ∧ x.state = .running) && x.holds c) }
/-- The last steps of R362, once the FO marks are gone: the entries are valid again without FO, and all spill regions of the launch are zeroed
before its cores are freed (R378). -/
def closeLaunch (s : State) (l : Launch) (st : Nat) : State :=
  let mine := l.cores.filter (runsOn s l)
  let s := putEntries s l l.marked (entryOn false)
  let spill := fieldOf (l.header[9]?.getD 0) 55 0
  let n := l.cores.length
  let s := zeroVa s (foremanOf l.panel) l.dom (n * 17 + 1) spill (n * 2 ^ packetSpk l.packet)
  let s := mine.foldl (fun s c => ((disown s c).wipe (padBase c) 0x80000).modCore c (freedCore s l c)) s
  let s := writeStatus s l.panel l.packet (statusWord st 0 0 0) 0
  { s with launches := s.launches.filter (fun x => decide (x.id ≠ l.id)) }
/-- The words of a header as a number. -/
def Launch.headNum (l : Launch) : Nat := l.header.zipIdx.foldl (fun x w => x + w.1.toNat * 2 ^ (64 * w.2)) 0
/-- An ending launch goes through R362: its units lose their owner, and the marked entries are unmapped until their shootdown is
acknowledged (R41). -/
def finishLaunch (s : State) (l : Launch) (st : Nat) : State :=
  let s := l.units.foldl releaseUnit s
  if l.marked.isEmpty then closeLaunch s l st
  else
    let (s, ids) := unmapMarks s l l.headNum
    s.modLaunch l.id (fun x => { x with state := .ending, shoots := ids, closing := some st })
/-- LAUNCH_QUIESCENCE: a running launch with AUTOEND or a LAUNCH END ends at its quiescence; an aborted one ends when its replies have
come, and one whose FO marks are unmapped when its shootdowns are acknowledged (R360–R362). Requests of an aborted launch that have parked
meanwhile are cancelled. -/
def execLaunchQuiescence (l : Nat) (s : State) : Result :=
  match s.launch? l with
  | none => .next s
  | some x =>
    match x.state, x.closing with
    | .ending, some st => whenever (marksSettled s x) s (fun s => closeLaunch s x st)
    | .running, _ => whenever ((bit x.packet.w0.toNat 31 || x.endAsked) && quiescent s x) s (fun s => finishLaunch s x 3)
    | .ending, none =>
      let s := cancelParked s x
      whenever (woundUp s x) s (fun s => finishLaunch s x 4)
    | _, _ => .next s

/-! ### The deadlock watchdog (R359) -/

/-- The command at the head of a core's matrix queue is an activation's and waits at a joint (R288–R290). -/
def atMatrixJoint (s : State) (c act : Nat) : Bool :=
  match (s.core c).mq.head? with
  | some m => decide (m.act = act) && !m.formed && decide (m.op = .mmag ∨ m.op = .mrot ∨ m.op = .mrotBuf)
  | none => false
/-- A strand waits in the sense of the watchdog: on a parked request, at a joint, where its activation's MMAG or MROT waits at one (R288,
R290; log 107, DEDUCED), or in WAITX for its exchange while that is pairing (R114). -/
def strandWaits (s : State) (c n : Nat) : Bool :=
  let t := s.strand c n
  decide (t.mode = .running) &&
    (match t.wait with
      | .mortar id _ _ _ => s.slices.any (fun k => k.2.waits.any (fun e => decide (e.req.id = id)))
      | .joint _ => true
      | _ => atMatrixJoint s c t.act || t.deadline.isSome && bit (copyStatus (s.core c).copy).toNat 2 &&
          (((s.core c).copy.q.head?).map (fun q => decide (q.strand = n ∧ q.act = t.act))).getD false)
/-- A strand runs in the sense of the watchdog. -/
def strandRuns (s : State) (c n : Nat) : Bool := decide ((s.strand c n).mode = .running) && !strandWaits s c n
/-- The HOD message of a forward only waits in its target's partition for a landing slot (R196, step 4). -/
def hodWaits (s : State) (f : HodFwd) : Bool :=
  f.ack.isNone && s.flits.all (fun x => decide (x.fwd ≠ f.id)) && s.bulks.all (fun b => decide (b.kind ≠ .hodPull f.id)) &&
    (freeLanding (s.core f.target)).isNone
/-- Nothing of a core is in progress but what waits at a joint, for the foreman or for a landing slot. -/
def coreIdle (s : State) (c : Nat) : Bool :=
  let k := s.core c
  let copies := k.copy.q.head?.map (fun q => q.paused || (q.isExchange && !q.paired && decide (q.phase = .running)))
  copies.getD true && queueStands s c && s.accs.all (fun a => decide (a.core ≠ c)) &&
    s.steals.all (fun x => decide (x.core ≠ c ∧ x.target ≠ c)) &&
    s.rets.all (fun r => decide (r.core ≠ c)) && s.bulks.all (fun b => decide (b.core ≠ c)) &&
    s.fwds.all (fun f => decide (f.core ≠ c) || hodWaits s f) &&
    s.flits.all (fun f => decide ((f.owner.bind Issuer.coreOf) ≠ some c ∧ f.hodOwner ≠ some c ∧ ¬(msgSkind f.msg ≤ 1 ∧ msgSource f.msg = c) ∧
      ¬(f.dep = 0 ∧ f.goal = c))) &&
    s.mreps.all (fun q => decide (q.iss.coreOf ≠ some c)) && s.mreqs.all (fun q => decide (q.iss.coreOf ≠ some c)) && dequeEmpty k
/-- No command or reduction of a launch is in progress on a unit or engine; a parked one is not. -/
def footingIdle (s : State) (l : Launch) : Bool :=
  s.units.all (fun u => ((u.2.cmd.map (fun c => decide (c.launch ≠ l.id))).getD true) &&
      (u.2.parked.isSome || u.2.q.all (fun c => decide (c.launch ≠ l.id)))) &&
    s.hbms.all (fun k => ((k.2.q.head?.map (fun f => f.parked.isSome)).getD true) || k.2.q.all (fun f => decide (f.launch ≠ l.id)))
/-- A launch is still (R359). -/
def isStill (s : State) (l : Launch) : Bool :=
  l.cores.all (fun c => (List.range 4).all (fun n => !strandRuns s c n) && (choose s c).isNone && coreIdle s c) && footingIdle s l &&
    l.cores.any (fun c => (List.range 4).any (strandWaits s c))
/-- The wait entries of a launch's agents on its package, in slice number and list order, with the next entry of the same object. -/
def launchWaits (s : State) (l : Launch) : List (WaitEnt × Nat) :=
  s.slices.flatMap (fun k =>
    if k.1 / 128 = l.pkg then
      k.2.waits.zipIdx.filterMap (fun x =>
        let next := ((k.2.waits.drop (x.2 + 1)).find? (fun e => decide (e.req.line = x.1.req.line))).map (·.idx)
        if x.1.req.launch = l.id then some (x.1, next.getD 0xFFFF) else none)
    else [])
/-- The strands of a launch that wait, and those whose request is homed on another package. -/
def waitCounts (s : State) (l : Launch) : Nat × Nat :=
  let ws := l.cores.flatMap (fun c => ((List.range 4).filter (strandWaits s c)).map (fun n => (c, n)))
  let away (x : Nat × Nat) : Bool :=
    match (s.strand x.1 x.2).wait with
    | .mortar id _ _ _ => s.slices.any (fun k => decide (k.1 / 128 ≠ l.pkg) && k.2.waits.any (fun e => decide (e.req.id = id)))
    | _ => false
  (ws.length, (ws.filter away).length)
/-- WATCHDOG_STALL: the watchdog of a launch begins to count while the launch is still, and after 2^22 cycles the wait entries are written
to REPVA and a stall is reported to SUPV once (R359). A turn in which the launch is not still ends the count. -/
def execWatchdogStall (l : Nat) (s : State) : Result :=
  match s.launch? l with
  | none => .next s
  | some x =>
    if x.state ≠ .running ∨ !isStill s x then .next (s.modLaunch l (fun y => { y with still := none, reported := false }))
    else
      match x.still with
      | none => .next (s.modLaunch l (fun y => { y with still := some s.cycle }))
      | some t =>
        whenever (decide (t + 4194304 ≤ s.cycle) && !x.reported) s (fun s =>
          let repn := fieldOf (x.header[1]?.getD 0) 63 48
          let repva := fieldOf (x.header[13]?.getD 0) 55 0
          let ents := (launchWaits s x).take repn
          let fc := foremanOf x.panel
          let s := ents.zipIdx.foldl (fun s e => (writeVa s (s.firmware fc x.dom) 2 (repva + 64 * e.2) (waitBytes e.1.1 e.1.2)).1) s
          let (waiting, away) := waitCounts s x
          let s := s.modLaunch l (fun y => { y with reported := true })
          s.foremanSends fc x.supv 0x12 (word ents.length) (word waiting) (word away) (word repva) 0 0)
/-- After a turn, a launch that the watchdog counts and that is not still any more is counted afresh (R359). -/
def watchLaunches (s : State) : State :=
  if s.launches.any (fun l => l.still.isSome) then
    { s with launches := s.launches.map (fun l => if l.still.isSome && !isStill s l then { l with still := none, reported := false } else l) }
  else s

end Sys2Proof.Machine
end

