-- ==== Sys2Proof/Machine/Pointing.lean ====
section
/-! DEFINITION. Pointing: replays and their votes (R376), suspicion scores and error windows (R79, R377), the move of a quarantined core's
row (R377), and the scrubber of the banks (R130). -/

namespace Sys2Proof.Machine

/-! ### Scores (R377) -/

/-- A physical core gains points. -/
def gain (s : State) (pk h n : Nat) : State := setScore s pk h (· + n)
/-- One health entry at the end of a window (R377). -/
def windowScore (s : State) (pk h : Nat) : State :=
  let e := Table.get .init (s.panel pk).health h
  let s := if e.corr = 0 ∧ e.score = 0 then s else setScore (gain s pk h (e.corr - 8)) pk h (· - 1)
  s.modPanel pk (fun p => { p with health := Table.modify .init p.health h (fun e => { e with corr := 0 }) })
/-- ERROR_WINDOW_END: the windows of package g end at the multiples of 2^24 cycles; each slice's CORR moves to LAST, a slice above 8 is
reported, and the scores of the panels' cores move (R79, R377). The rule names no panel for the report: it goes to the foreman of the
package's panel 0 (log 72, DESIGN CHOICE). Time does not pass a window's end without this event (`passTime`). -/
def execErrorWindowEnd (g : Nat) (s : State) : Result :=
  whenever (decide (s.cycle % 2 ^ 24 = 0 ∧ (s.pkg g).windowAt < s.cycle)) s fun s =>
    let s := s.modPkg g (fun p => { p with windowAt := s.cycle })
    let s := s.slices.foldl (fun s k =>
      if k.1 / 128 ≠ g then s
      else
        let s := s.modSlice k.1 (fun x => { x with last := x.corr, corr := 0, unc := 0 })
        if 8 < k.2.corr then s.modPanel (g * 8) (fun p => { p with log := p.log ++ [{ Msg.zero with w0 := word (k.1 % 128), w1 := word k.2.corr }] })
        else s) s
    s.panels.foldl (fun s p => if p.1 / 8 = g then p.2.health.foldl (fun s h => windowScore s p.1 h.1) s else s) s

/-! ### The scrubber (R130) -/

/-- SCRUB: single-bit errors in the fired banks of a core are corrected and counted, and poisoned slots reported. -/
def execScrub (c : Nat) (s : State) : Result :=
  let fixed := (List.range 2).map (fun b =>
    let x := (s.core c).bank b
    if x.state = .fired then x.single.length else 0)
  let bad := (List.range 2).flatMap (fun b =>
    let x := (s.core c).bank b
    if x.state = .fired then ((List.range 16).filter (fun i => x.poison.getLsbD i)).map (fun i => (b, i)) else [])
  let s := if fixed.sum = 0 then s
    else (s.modCore c (fun k => { k with banks := k.banks.map (fun b => (b.1, { b.2 with single := [] })) })).countCore c fixed.sum
  .next (bad.foldl (fun s x =>
    s.modPanel (panelKey c) (fun p => { p with log := p.log ++ [{ Msg.zero with w0 := word (coreIdx c), w1 := word (x.1 * 16 + x.2) }] })) s)

/-! ### Replays (R376) -/

/-- The health entry of a spare core. -/
def spareHealth (h : Nat) : Nat := 128 + (coreIdx h - 1032) % 8
/-- A host is zeroed and no longer marked H. -/
def freeHost (s : State) (h : Nat) : State :=
  let s := (s.setCore h .init).wipe (padBase h) 0x80000
  s.modPanel (panelKey h) (fun p => { p with health := Table.modify .init p.health (spareHealth h) (fun e => { e with h := false }) })
/-- The spare cores of a package. -/
def spareCores (g : Nat) : List Nat := (List.range 64).map (fun i => g * 2048 + 1032 + i)
/-- A spare core may host a replay of an entry: its row does not use it, it is idle and in service, and its panel is neither the entry's nor
one whose vote is in. -/
def mayHost (s : State) (e : AuditEnt) (h : Nat) : Bool :=
  !spareUsed s (panelKey h) ((coreIdx h - 1032) % 8) && (s.core h).replay.isNone &&
    !(Table.get .init (s.panel (panelKey h)).health (spareHealth h)).q && decide (panelKey h ≠ panelKey e.core) &&
    e.votes.all (fun v => decide (panelKey v.1 ≠ panelKey h))
/-- Takes an entry out of its ring. -/
def dropEntry (s : State) (e : AuditEnt) : State :=
  s.modPanel (panelKey e.core) (fun p => { p with ring := p.ring.filter (fun x => decide (x.id ≠ e.id)) })
/-- An entry that cannot be replayed is a skip. -/
def skipEntry (s : State) (e : AuditEnt) : State := (dropEntry s e).modPanel (panelKey e.core) (fun p => { p with skips := p.skips + 1 })
/-- Starts the replay of an entry on a host (R376). -/
def startReplay (s : State) (e : AuditEnt) (h : Nat) : State :=
  let k := s.core e.core
  let ent := routineEntry s e.core e.cls
  let r : Replay := { entry := e.id, orig := e.core, panel := panelKey e.core, shadow := [], inputs := e.inputs, digest := none, trapped := false, overflow := false }
  let code := s.readBytes (padBase e.core) 0x10000
  let rtab := s.readBytes (padBase e.core + 0x15800) 1024
  let s := (s.wipe (padBase h) 0x80000).writeBytes (padBase h) code
  let s := (s.writeBytes (padBase h + 0x15800) rtab).writeBytes (padBase h + 0x15000) e.tables
  let s := s.setCore h
    { Core.init with
      launch := e.launch, domain := k.domain, actseq := e.q + 1, audseed := k.audseed, tblstat := e.tblstat, hodarea := k.hodarea,
      spillq := k.spillq, prioage := k.prioage, trapmask := k.trapmask, frames := BitVec.ofNat 32 (2 ^ e.frame), replay := some r }
  let s := s.modStrand h e.strand (fun t =>
    { startStrand t ent e.cls e.frame s.fresh e.q e.msg 0 true with samp := some ⟨e.id, []⟩ })
  let s := copyWords s.tickFresh h e.frame (entryCopy ent) e.msg 0
  s.modPanel (panelKey h) (fun p => { p with health := Table.modify .init p.health (spareHealth h) (fun x => { x with h := true }) })
/-- AUDIT to the supervisor of an entry's core (R366). -/
def reportAudit (s : State) (e : AuditEnt) (outcome : Nat) : State :=
  let pk := panelKey e.core
  s.foremanSends (foremanOf pk) e.supv 0x20 (word e.cls) e.q (word (coreIdx e.core)) (word outcome) 0 0
/-- Two digests are equal; that of a replay that trapped equals no other. -/
def sameDigest (a b : Option Word) : Bool := a.isSome && decide (a = b)
/-- A replay on a host has ended: its vote, and the decision where it can be made (R376). -/
def collectReplay (s : State) (h : Nat) (r : Replay) : State :=
  match (s.panel r.panel).ring.find? (fun e => decide (e.id = r.entry)) with
  | none => freeHost s h
  | some e =>
    let s := freeHost s h
    if r.overflow then skipEntry s e
    else
      let mine := if r.trapped then none else r.digest
      let orig := (panelKey e.core, e.phys)
      match e.votes with
      | [] =>
        if sameDigest mine e.digest then dropEntry s e
        else s.modPanel r.panel (fun p => { p with ring := p.ring.map (fun x => if x.id = e.id then { x with votes := [(h, mine)] } else x) })
      | (h1, d1) :: _ =>
        let s := dropEntry s e
        if sameDigest mine e.digest then gain s (panelKey h1) (spareHealth h1) 16
        else if sameDigest mine d1 then reportAudit (gain s orig.1 orig.2 16) e 1
        else reportAudit (gain (gain (gain s orig.1 orig.2 4) (panelKey h1) (spareHealth h1) 4) (panelKey h) (spareHealth h) 4) e 2
/-- The replays of a package that have ended. -/
def endedReplays (s : State) (g : Nat) : List (Nat × Replay) :=
  (spareCores g).filterMap (fun h =>
    (s.core h).replay.bind (fun r => if r.digest.isSome || r.trapped || r.overflow then some (h, r) else none))
/-- The oldest entry of a panel, once its original has ended and while no host replays it. -/
def nextEntry (s : State) (g pk : Nat) : Option AuditEnt :=
  ((s.panel pk).ring.head?).filter (fun e =>
    e.digest.isSome && (spareCores g).all (fun h => ((s.core h).replay.map (fun r => decide (r.entry ≠ e.id))).getD true))
/-- REPLAY: a foreman of package g takes the vote of a replay that has ended, or starts the replay of the oldest entry of a panel. An entry
whose launch no longer runs on its core cannot be loaded and is a skip. -/
def execReplay (g : Nat) (s : State) : Result :=
  match endedReplays s g with
  | (h, r) :: _ => .next (collectReplay s h r)
  | [] =>
    let waiting := (List.range 8).filterMap (fun p => nextEntry s g (g * 8 + p))
    match waiting[Config.pick s.fresh % waiting.length]? with
    | none => .next s
    | some e =>
      if (s.core e.core).launch ≠ e.launch then .next (skipEntry s.tickFresh e)
      else
        let hosts := (spareCores g).filter (mayHost s e)
        match hosts[Config.pick (s.fresh + 1) % hosts.length]? with
        | none => .next s
        | some h => .next (startReplay s.tickFresh e h)

/-! ### The move of a row (R377) -/

/-- The cores of a panel row from a column to column 15. -/
def rowCores (pk row col : Nat) : List Nat :=
  ((List.range 16).filter (fun x => decide (col ≤ x))).map (fun x => pk / 8 * 2048 + panelOrigin (pk % 8) + row * 32 + x)
/-- QUARANTINE_MOVE: the cores from the quarantined column on are pre-empted, take the next physical column, and are resumed; the spare's
replay is abandoned first, its entry staying in the ring. Cores keep their logical numbers, so that their state stays with them. -/
def execQuarantineMove (p h : Nat) (s : State) : Result :=
  let col := h / 8
  let row := h % 8
  let cores := rowCores p row col
  let stops := cores.all (fun c => (s.core c).preempted || (List.range 4).all (fun n => atBoundary s c n))
  let due := (Table.get .init (s.panel p).health h).q && decide (col < 16) && !spareUsed s p row
  whenever (due && stops) s fun s =>
    let spare := p / 8 * 2048 + 1032 + p % 8 * 8 + row
    let s := if (s.core spare).replay.isSome then freeHost s spare else s
    let s := cores.foldl (fun s c => if (s.core c).preempted then s else resumeCore (stopCore s c) c) s
    s.modPanel p (fun x => { x with remap := Table.set x.remap row (word (128 + col)) })

end Sys2Proof.Machine
end

