-- ==== Sys2Proof/Machine/Platform.lean ====
section
/-! DEFINITION. The platform: host accesses over CXL.mem and the inbox apertures (R388, R390), the modes (R14, R15, R393), the clock
(R391), reset and the boot chain (R394), SPDM (R395), and the control-space registers (R6, R7, R76, R382). -/

namespace Sys2Proof.Machine

/-! ### The host link (R388, R390) -/

/-- INBOX_APERTURE_WRITE: a full-line write at offset 0 enqueues a message, with SKIND 5 and the source fields written by hardware; any
other write, or one to a full queue, is discarded and counted (R390). p is the panel's key. A package whose boot has failed answers only
CXL.io (R394). -/
def execInboxApertureWrite (p off bytes data : Nat) (s : State) : Result :=
  match (s.pkg (p / 8)).boot with
  | .failed _ => .next s
  | _ => .next (apertureWrite s p off bytes data)
/-- The host reads a value over CXL.mem, or poison. -/
def hostGets (s : State) (g : Nat) (v : Option Nat) : State := s.modPkg g (fun p => { p with hostReads := p.hostReads ++ [v] })
/-- A table at a level of die d's tables maps the frame of a physical address with FO. -/
def tableFo (s : State) (d dom : Nat) (glob : Bool) (pa : Nat) : Nat → Nat → Bool
  | level, table => (List.range 1024).any (fun i =>
    let e := s.read (table + 8 * i) 8
    match entryKind s d dom glob level e, level with
    | .ok none, _ => bit e 7 && decide (bits e 52 13 * 2 ^ 13 / 2 ^ (16 + 10 * level) = pa / 2 ^ (16 + 10 * level))
    | .ok (some next), lower + 1 => tableFo s d dom glob pa lower next
    | _, _ => false)
/-- The frame of an address of package g is an FO frame: a table of a domain or the global table of one of its dies maps it with FO (R388,
R406; log 67, DEDUCED). -/
def frameFo (s : State) (g pa : Nat) : Bool :=
  [2 * g, 2 * g + 1].any (fun d =>
    (s.die d).roots.any (fun r => tableFo s d r.1 false pa 3 (r.2 * 2 ^ 13)) ||
    ((s.die d).global.map (fun r => tableFo s d 0 true pa 3 (r * 2 ^ 13))).getD false)
/-- A host access to HBM may be performed now: where the pseudo-channel controller serves it, earlier commands on the bank have completed
(R54, R76). -/
def hostOpen (s : State) (g pa : Nat) : Bool := inPad pa || bankOpen s (frameFo s g pa) 0 pa s.fresh
/-- A host access reaches n bytes of HBM at their home slice, or at the pseudo-channel controller for an FO frame (R388). -/
def hostReach (s : State) (g pa n : Nat) (write : Bool) : State := if inPad pa then s else reachHbm s (frameFo s g pa) 0 pa n write
/-- A host read of n bytes of HBM or of a scratchpad; bytes of a bank that is not ORDINARY read as zero (R78, R127, R388). -/
def hostRead (s : State) (g pa n : Nat) : State :=
  let s := hostReach s g pa n false
  match s.poisonMet false pa n with
  | some _ => hostGets (reportPoison s (foremanOf (g * 8)) 0 pa) g none
  | none =>
    let s := s.correct pa n
    (hostGets s g (some (if inPad pa then padRead s false pa n else s.read pa n))).tickFresh
/-- CXL_MEM_ACCESS: a host read, or a host write of a value, of package g at a local address, of at most one line. HBM is reached plainly,
in an FO frame at the pseudo-channel controller and after the earlier commands on its bank, and the scratchpads with the foreman's rights;
the host's accesses count as domain 0's where the L2 chooses a way (R76; log 67, DESIGN CHOICE); a reserved address reads zero and drops
writes; a package whose boot has failed answers none (R388, R394). -/
def execCxlMemAccess (g addr bytes : Nat) (data : Option Nat) (s : State) : Result :=
  let pa := paOf g addr
  if !s.answers g ∨ bytes = 0 ∨ 64 < addr % 64 + bytes then .next s
  else if addr < 0x6020000000 then
    match data with
    | none => whenever (hostOpen s g pa) s (fun s => hostRead s g pa bytes)
    | some v => whenever (hostOpen s g pa) s (fun s =>
        if inPad pa then padWrite s false pa bytes v else (hostReach s g pa bytes true).write pa bytes v)
  else if addr < 0x6020008000 then
    let p := g * 8 + (addr - 0x6020000000) / 0x1000
    match data with
    | none => .next (hostGets s g (some (apertureRead s p (addr % 0x1000))))
    | some v => execInboxApertureWrite p (addr % 0x1000) bytes v s
  else
    match data with
    | none => .next (hostGets s g (some 0))
    | some _ => .next s

/-! ### Modes (R14, R15, R393) -/

/-- The request names a mode, target, class and value of Table 3 (R14, R393). -/
def modeGood (m : Msg) : Bool :=
  let t := fieldOf m.w0 15 8
  let n := fieldOf m.w0 19 16
  let v := m.w1.toNat
  decide (fieldOf m.w0 63 20 = 0) &&
    (match fieldOf m.w0 7 0 with
      | 1 => decide (t ≤ 1 ∧ n = 0 ∧ v ≤ 8)
      | 2 => decide (t ≤ 1 ∧ n = 0 ∧ v ≤ 1)
      | 3 => decide (t ≤ 1)
      | 4 => decide (t = 0 ∧ n = 0 ∧ v ≤ 1)
      | 5 => decide (t = 0 ∧ n = 0 ∧ 1 ≤ v ∧ v ≤ 512)
      | 6 => decide ((t ≤ 7 ∨ t = 0xFF) ∧ n = 0 ∧ 12 ≤ v ∧ v ≤ 20)
      | 7 => decide (t = 0 ∧ n = 0 ∧ v ≤ 2)
      | _ => false)
/-- A panel's aging interval, for the next dispatch decision of each of its cores and of its foreman (R15, R355). -/
def setAging (s : State) (pk k : Nat) : State :=
  let s := (s.modPanel pk (fun p => { p with aging := k })).modCore (foremanOf pk) (fun c => { c with prioage := word k })
  { s with cores := s.cores.map (fun c => if panelKey c.1 = pk then (c.1, { c.2 with prioage := word k }) else c) }
/-- A MODE request for some of the modes, at the foreman of panel 0: a change of the aging interval takes effect at once, and any other
good one is held (R15). After a failed boot no foreman answers (R394). -/
def modeRequest (g : Nat) (mine : Nat → Bool) (s : State) : Result :=
  match (if s.answers g then sysHead s (g * 8) 0x41 else none) with
  | none => .next s
  | some m =>
    let mode := fieldOf m.w0 7 0
    let va := fieldOf m.w2 55 0
    let t := fieldOf m.w0 15 8
    if !mine mode then .next s
    else
      let s := dropSys s (g * 8)
      if msgSkind m ≠ 5 ∧ msgSkind m ≠ 3 then .next (foremanStore s (g * 8) va 4)
      else if !modeGood m then .next (foremanStore s (g * 8) va 3)
      else if mode = 6 then
        let panels := if t = 0xFF then List.range 8 else [t]
        .next (foremanStore (panels.foldl (fun s p => setAging s (g * 8 + p) m.w1.toNat) s) (g * 8) va 0)
      else .next (s.modPkg g (fun p => { p with held := p.held ++ [⟨mode, t, fieldOf m.w0 19 16, m.w1, va⟩] }))
/-- MODE_REMOTE_CACHE; a reserved mode is answered here (R75, R393). -/
def execModeRemoteCache (g : Nat) (s : State) : Result := modeRequest g (fun n => decide (n ≤ 1 ∨ 8 ≤ n)) s
/-- MODE_L2_PARTITIONING (R76). -/
def execModeL2Partitioning (g : Nat) (s : State) : Result := modeRequest g (fun n => decide (n = 2)) s
/-- MODE_L2_PARTITION_CLASS (R76). -/
def execModeL2PartitionClass (g : Nat) (s : State) : Result := modeRequest g (fun n => decide (n = 3)) s
/-- MODE_CIM_POWER (R131). -/
def execModeCimPower (g : Nat) (s : State) : Result := modeRequest g (fun n => decide (n = 4)) s
/-- MODE_WAIT_LIST_CAP (R97). -/
def execModeWaitListCap (g : Nat) (s : State) : Result := modeRequest g (fun n => decide (n = 5)) s
/-- MODE_AGING_INTERVAL (R355). -/
def execModeAgingInterval (g : Nat) (s : State) : Result := modeRequest g (fun n => decide (n = 6)) s
/-- MODE_VC_RESERVE_POLICY (R385). -/
def execModeVcReservePolicy (g : Nat) (s : State) : Result := modeRequest g (fun n => decide (n = 7)) s

/-- Every bank of a package becomes ORDINARY, zeroed (R124, R131). -/
def clearBanks (s : State) (g : Nat) : State :=
  let s := (List.range 1096).foldl (fun s i => s.zeroRange (padBase (g * 2048 + i) + 0x40000) 0x40000) s
  { s with cores := s.cores.map (fun c => if corePkg c.1 = g then (c.1, { c.2 with banks := [] }) else c) }
/-- A change takes effect. -/
def applyMode (s : State) (g : Nat) (r : ModeReq) : State :=
  let d := g * 2 + r.target
  match r.mode with
  | 1 => setRemsz s d r.value.toNat
  | 2 => setDpart s d r.value.toNat
  | 3 => setL2pcls s d r.cls r.value
  | 4 =>
    let s := s.modPkg g (fun p => { p with narrow := decide (r.value = 1) })
    if r.value = 1 then clearBanks s g else s
  | 5 => s.modPkg g (fun p => { p with cap := r.value.toNat })
  | _ => s.modPkg g (fun p => { p with policy := r.value.toNat })
/-- No launch runs on what a mode governs: a die for modes 1 to 3, and the package for the others (R15). -/
def modeQuiet (s : State) (g : Nat) (r : ModeReq) : Bool :=
  if r.mode ≤ 3 then dieQuiet s (g * 2 + r.target)
  else s.launches.all (fun l => decide (l.state = .queued ∨ l.pkg ≠ g))
/-- MODE_CHANGE_APPLY: the oldest held change takes effect once its scope is quiescent, and its reply is written (R15, R393). -/
def execModeChangeApply (g : Nat) (s : State) : Result :=
  match (s.pkg g).held with
  | [] => .next s
  | r :: rest =>
    whenever (modeQuiet s g r) s fun s =>
      foremanStore (applyMode (s.modPkg g (fun p => { p with held := rest })) g r) (g * 8) r.reply 0
/-- PORT_RESERVE_APPLY: a port takes up the package's reserve policy once the traffic that it holds fits, and R387 is evaluated against it
(R15). The credits that it withholds until then only delay traffic (log 87). -/
def execPortReserveApply (port : Nat) (s : State) : Result :=
  let g := port / 12
  let p := port % 12
  whenever (decide ((s.port g p).policy ≠ (s.pkg g).policy) && reservesFit s g p (s.pkg g).policy) s fun s =>
    portChanged (s.modPort g p (fun q => { q with policy := (s.pkg g).policy })) g p

/-! ### Power (R391) -/

/-- CLOCK_THROTTLE: above 2,600 W the core clock falls by 100 MHz, down to 1.2 GHz, and it rises again when the draw allows (R391). -/
def execClockThrottle (g watts : Nat) (s : State) : Result :=
  .next (s.modPkg g (fun p => { p with clock := if 2600 < watts then Nat.max 1200 (p.clock - 100) else Nat.min 2500 (p.clock + 100) }))

/-! ### Reset and the boot chain (R394) -/

/-- The 48 bytes of a digest. -/
def shaBytes (m : BitVec 384) : List Byte := (bytesLE m.toNat 48).reverse
/-- Extends a measurement register with a digest. -/
def extend (t : Table (BitVec 384)) (n : Nat) (digest : BitVec 384) : Table (BitVec 384) :=
  Table.set t n (Config.sha384 (shaBytes (Table.get 0 t n) ++ shaBytes digest))
/-- A stage of the boot chain passes its checks: signature against the fused key, and version. -/
def stageGood (g flash n : Nat) : Bool :=
  let (image, sig, version) := Config.bootImage flash n
  Config.ecdsaHolds (Config.fusedKey g) (Config.sha384 image) sig && decide (Config.fusedVersion g ≤ version)
/-- The boot chain from stage n on: each good stage is measured; the first bad one stops it, and after the last the mode settings are
measured. -/
def bootFrom (g flash : Nat) : Nat → Nat → Table (BitVec 384) → Table (BitVec 384) × Boot
  | 0, _, t => (extend t 5 (Config.sha384 Config.modeSettings), .booted)
  | left + 1, n, t =>
    if stageGood g flash n then bootFrom g flash left (n + 1) (extend t n (Config.sha384 (Config.bootImage flash n).1)) else (t, .failed n)
/-- A package with nothing of what ran on it: every register and queue as after reset; memory is kept (log 40). -/
def clearPackage (s : State) (g : Nat) : State :=
  let elsewhere (c : Nat) : Bool := decide (corePkg c ≠ g)
  let other (i : Issuer) : Bool := match i.coreOf with | some c => elsewhere c | none => true
  { s with
    records := s.records.filter (fun r => decide (paPkg (r.1 * 64) ≠ g)), cores := s.cores.filter (fun c => elsewhere c.1),
    units := s.units.filter (fun u => decide (u.1 / 512 ≠ g)), hbms := s.hbms.filter (fun h => decide (h.1 / 8 ≠ g)),
    slices := s.slices.filter (fun k => decide (k.1 / 128 ≠ g)), dies := s.dies.filter (fun d => decide (d.1 / 2 ≠ g)),
    panels := s.panels.filter (fun p => decide (p.1 / 8 ≠ g)), rlines := s.rlines.filter (fun r => decide (r.pkg ≠ g)),
    launches := s.launches.filter (fun l => decide (l.pkg ≠ g)), accs := s.accs.filter (fun a => elsewhere a.core),
    mreqs := s.mreqs.filter (fun q => other q.iss), mreps := s.mreps.filter (fun q => other q.iss),
    flits := s.flits.filter (fun f => decide (f.pkg ≠ g)), seqOut := s.seqOut.filter (fun q => decide (q.1 / 2 ^ 27 ≠ g)),
    seqIn := s.seqIn.filter (fun q => decide (q.1 / 2 ^ 27 ≠ g)), starving := s.starving.filter (fun r => decide (r.1 / 1024 ≠ g)),
    ports := s.ports.filter (fun r => decide (r.1 / 1024 ≠ g)), settled := s.settled.filter (fun c => elsewhere c.1),
    rets := s.rets.filter (fun r => elsewhere r.core), steals := s.steals.filter (fun x => elsewhere x.core),
    packets := s.packets.filter (fun p => elsewhere (coreOfIdent p.target)), bulks := s.bulks.filter (fun b => elsewhere b.core),
    shoots := s.shoots.filter (fun x => elsewhere x.core), fwds := s.fwds.filter (fun f => elsewhere f.core),
    freplies := s.freplies.filter (fun f => elsewhere f.core),
    pkgs := Table.set s.pkgs g
      { Pkg.init with windowAt := s.cycle / 2 ^ 24 * 2 ^ 24, hostLog := (s.pkg g).hostLog, hostReads := (s.pkg g).hostReads, spdm := (s.pkg g).spdm } }
/-- The entries of a package's wait-list overflow area return to their reset values (R6, R98). -/
def clearOverflow (s : State) (g : Nat) : State :=
  let mine (pa : Nat) : Bool := inOverflow pa && decide (paPkg pa = g)
  { s with mem := s.mem.filter (fun c => !mine c.1), poison := s.poison.filter (fun w => !mine (8 * w)),
           single := s.single.filter (fun w => !mine (8 * w)) }
/-- PACKAGE_RESET: the package is reset and boots from the flash contents of a number (R394). -/
def execPackageReset (g good : Nat) (s : State) : Result :=
  let (t, b) := bootFrom g good 4 1 []
  .next ((clearOverflow (clearPackage s g) g).modPkg g (fun p => { p with meas := t, boot := b }))

/-! ### SPDM (R395) -/

/-- An answer over DOE; the response codes are SPDM 1.2's (log 5). -/
def spdmAnswer (g code req : Nat) (payload : List Nat) (s : State) : Result :=
  .next (s.modPkg g (fun p => { p with spdm := p.spdm ++ [⟨code, req, payload⟩] }))
/-- SPDM_GET_VERSION: version 1.2. -/
def execSpdmGetVersion (g req : Nat) (s : State) : Result := spdmAnswer g 0x04 req [0x12] s
/-- SPDM_GET_CAPABILITIES. -/
def execSpdmGetCapabilities (g req : Nat) (s : State) : Result := spdmAnswer g 0x61 req (Config.spdmBytes req g) s
/-- SPDM_NEGOTIATE_ALGORITHMS: only ECDSA P-384 and SHA-384 are offered. -/
def execSpdmNegotiateAlgorithms (g req : Nat) (s : State) : Result := spdmAnswer g 0x63 req [0x80, 0x02] s
/-- SPDM_GET_DIGESTS. -/
def execSpdmGetDigests (g req : Nat) (s : State) : Result := spdmAnswer g 0x01 req (Config.spdmBytes req g) s
/-- SPDM_GET_CERTIFICATE. -/
def execSpdmGetCertificate (g req : Nat) (s : State) : Result := spdmAnswer g 0x02 req (Config.spdmBytes req g) s
/-- SPDM_CHALLENGE. -/
def execSpdmChallenge (g req : Nat) (s : State) : Result := spdmAnswer g 0x03 req (Config.spdmBytes req g) s
/-- SPDM_GET_MEASUREMENTS: blocks 1 to 5 are the measurement registers. -/
def execSpdmGetMeasurements (g req : Nat) (s : State) : Result :=
  spdmAnswer g 0x60 req ([1, 2, 3, 4, 5].map (fun n => (Table.get 0 (s.pkg g).meas n).toNat)) s
/-- SPDM_UNSUPPORTED_REQUEST: a request of any other code is answered with UnsupportedRequest. -/
def execSpdmUnsupportedRequest (g req : Nat) (s : State) : Result :=
  if [0x84, 0xE1, 0xE3, 0x81, 0x82, 0x83, 0xE0].contains req then .next s else spdmAnswer g 0x7F req [0x07, req] s

/-! ### Control space (R6, R7, R76, R382) -/

/-- CONTROL_REGISTER_WRITE: the foreman writes a register of control space that has no row of its own. A change of an L2 register is held
while a launch runs on the die (R6, R7, R15, R75). After a failed boot no foreman runs (R394). -/
def execControlRegisterWrite (g addr : Nat) (v : Word) (s : State) : Result :=
  whenever (s.answers g) s (fun s => (controlWrite s g addr v).getD s)

end Sys2Proof.Machine
end

