-- ==== Sys2Proof/Machine/Dispatch.lean ====
section
/-! DEFINITION. The dispatch of every row of the opcode table to its meaning. -/

namespace Sys2Proof.Machine

/-- The meaning of an instruction, or of a step of the machine that the opcode table names, at a state. -/
def exec (i : Instr) (s : State) : Host.Outcome State Fault Refusal :=
  match i with
  | .add g d a b => Sys2Proof.Machine.execAdd g d a b s
  | .sub g d a b => Sys2Proof.Machine.execSub g d a b s
  | .mul g d a b => Sys2Proof.Machine.execMul g d a b s
  | .mulh g d a b => Sys2Proof.Machine.execMulh g d a b s
  | .mulhn g d a b => Sys2Proof.Machine.execMulhn g d a b s
  | .div g d a b => Sys2Proof.Machine.execDiv g d a b s
  | .divn g d a b => Sys2Proof.Machine.execDivn g d a b s
  | .rem g d a b => Sys2Proof.Machine.execRem g d a b s
  | .remn g d a b => Sys2Proof.Machine.execRemn g d a b s
  | .and g d a b => Sys2Proof.Machine.execAnd g d a b s
  | .or g d a b => Sys2Proof.Machine.execOr g d a b s
  | .xor g d a b => Sys2Proof.Machine.execXor g d a b s
  | .shl g d a b => Sys2Proof.Machine.execShl g d a b s
  | .shr g d a b => Sys2Proof.Machine.execShr g d a b s
  | .sar g d a b => Sys2Proof.Machine.execSar g d a b s
  | .rot g d a b => Sys2Proof.Machine.execRot g d a b s
  | .min g d a b => Sys2Proof.Machine.execMin g d a b s
  | .max g d a b => Sys2Proof.Machine.execMax g d a b s
  | .minn g d a b => Sys2Proof.Machine.execMinn g d a b s
  | .maxn g d a b => Sys2Proof.Machine.execMaxn g d a b s
  | .padd g d a b => Sys2Proof.Machine.execPadd g d a b s
  | .ptag g d a b => Sys2Proof.Machine.execPtag g d a b s
  | .pfmt g d a => Sys2Proof.Machine.execPfmt g d a s
  | .sel g d a b => Sys2Proof.Machine.execSel g d a b s
  | .clz g d a => Sys2Proof.Machine.execClz g d a s
  | .ctz g d a => Sys2Proof.Machine.execCtz g d a s
  | .popc g d a => Sys2Proof.Machine.execPopc g d a s
  | .mov g d a => Sys2Proof.Machine.execMov g d a s
  | .sext g n d a => Sys2Proof.Machine.execSext g n d a s
  | .zext g n d a => Sys2Proof.Machine.execZext g n d a s
  | .cmp g c d a b => Sys2Proof.Machine.execCmp g c d a b s
  | .addi g imm d a => Sys2Proof.Machine.execAddi g imm d a s
  | .andi g imm d a => Sys2Proof.Machine.execAndi g imm d a s
  | .ori g imm d a => Sys2Proof.Machine.execOri g imm d a s
  | .xori g imm d a => Sys2Proof.Machine.execXori g imm d a s
  | .shli g m d a => Sys2Proof.Machine.execShli g m d a s
  | .shri g m d a => Sys2Proof.Machine.execShri g m d a s
  | .sari g m d a => Sys2Proof.Machine.execSari g m d a s
  | .cmpi g imm c d a => Sys2Proof.Machine.execCmpi g imm c d a s
  | .paddi g imm d a => Sys2Proof.Machine.execPaddi g imm d a s
  | .movi g imm d => Sys2Proof.Machine.execMovi g imm d s
  | .kand g d a b => Sys2Proof.Machine.execKand g d a b s
  | .kor g d a b => Sys2Proof.Machine.execKor g d a b s
  | .kxor g d a b => Sys2Proof.Machine.execKxor g d a b s
  | .knot g d a => Sys2Proof.Machine.execKnot g d a s
  | .kmov g d a => Sys2Proof.Machine.execKmov g d a s
  | .kset g d a => Sys2Proof.Machine.execKset g d a s
  | .kget g d a => Sys2Proof.Machine.execKget g d a s
  | .kpop g d a => Sys2Proof.Machine.execKpop g d a s
  | .csrr g c d => Sys2Proof.Machine.execCsrr g c d s
  | .csrw g c a => Sys2Proof.Machine.execCsrw g c a s
  | .movsRead g m d => Sys2Proof.Machine.execMovsRead g m d s
  | .movsWrite g m a => Sys2Proof.Machine.execMovsWrite g m a s
  | .tmset g d a => Sys2Proof.Machine.execTmset g d a s
  | .ld g o z d a => Sys2Proof.Machine.execLd g o z d a s
  | .ldn g o z d a => Sys2Proof.Machine.execLdn g o z d a s
  | .st g o z d a => Sys2Proof.Machine.execSt g o z d a s
  | .ldp g o d a => Sys2Proof.Machine.execLdp g o d a s
  | .stp g o d a => Sys2Proof.Machine.execStp g o d a s
  | .lda g c z d a => Sys2Proof.Machine.execLda g c z d a s
  | .stl g c z a b => Sys2Proof.Machine.execStl g c z a b s
  | .pfm g a => Sys2Proof.Machine.execPfm g a s
  | .zero g a => Sys2Proof.Machine.execZero g a s
  | .fence g o c => Sys2Proof.Machine.execFence g o c s
  | .fencep g d a => Sys2Proof.Machine.execFencep g d a s
  | .atadd g o c d a b => Sys2Proof.Machine.execAtadd g o c d a b s
  | .atand g o c d a b => Sys2Proof.Machine.execAtand g o c d a b s
  | .ator g o c d a b => Sys2Proof.Machine.execAtor g o c d a b s
  | .atxor g o c d a b => Sys2Proof.Machine.execAtxor g o c d a b s
  | .atmin g o c d a b => Sys2Proof.Machine.execAtmin g o c d a b s
  | .atmax g o c d a b => Sys2Proof.Machine.execAtmax g o c d a b s
  | .atminn g o c d a b => Sys2Proof.Machine.execAtminn g o c d a b s
  | .atmaxn g o c d a b => Sys2Proof.Machine.execAtmaxn g o c d a b s
  | .atswp g o c d a b => Sys2Proof.Machine.execAtswp g o c d a b s
  | .atcas g o c d a b => Sys2Proof.Machine.execAtcas g o c d a b s
  | .atfaddFp64 g o c d a b => Sys2Proof.Machine.execAtfaddFp64 g o c d a b s
  | .atfaddFp32 g o c d a b => Sys2Proof.Machine.execAtfaddFp32 g o c d a b s
  | .minit g o c d a b => Sys2Proof.Machine.execMinit g o c d a b s
  | .mread g o c d a => Sys2Proof.Machine.execMread g o c d a s
  | .mcancel g o c d a b => Sys2Proof.Machine.execMcancel g o c d a b s
  | .mctrAdd g o c d a b => Sys2Proof.Machine.execMctrAdd g o c d a b s
  | .mctrFadd g o c d a b => Sys2Proof.Machine.execMctrFadd g o c d a b s
  | .mctrWait g o c d a b => Sys2Proof.Machine.execMctrWait g o c d a b s
  | .mctrChunk g o c d a => Sys2Proof.Machine.execMctrChunk g o c d a s
  | .mbarArrive g o c d a b => Sys2Proof.Machine.execMbarArrive g o c d a b s
  | .mbarAwait g o c d a b => Sys2Proof.Machine.execMbarAwait g o c d a b s
  | .mbarWaitp g o c d a b => Sys2Proof.Machine.execMbarWaitp g o c d a b s
  | .mlockAcq g o c d a => Sys2Proof.Machine.execMlockAcq g o c d a s
  | .mlockTry g o c d a => Sys2Proof.Machine.execMlockTry g o c d a s
  | .mlockRel g o c d a => Sys2Proof.Machine.execMlockRel g o c d a s
  | .mqueEnq g o c d a b => Sys2Proof.Machine.execMqueEnq g o c d a b s
  | .mqueTenq g o c d a b => Sys2Proof.Machine.execMqueTenq g o c d a b s
  | .mqueEnqr g o c d a => Sys2Proof.Machine.execMqueEnqr g o c d a s
  | .mqueTenqr g o c d a => Sys2Proof.Machine.execMqueTenqr g o c d a s
  | .mqueCommit g o c d a b => Sys2Proof.Machine.execMqueCommit g o c d a b s
  | .mqueDeq g o c d a b => Sys2Proof.Machine.execMqueDeq g o c d a b s
  | .mqueTdeq g o c d a b => Sys2Proof.Machine.execMqueTdeq g o c d a b s
  | .mqueDeqr g o c d a => Sys2Proof.Machine.execMqueDeqr g o c d a s
  | .mqueTdeqr g o c d a => Sys2Proof.Machine.execMqueTdeqr g o c d a s
  | .mqueFree g o c d a b => Sys2Proof.Machine.execMqueFree g o c d a b s
  | .mcondWait g o c d a => Sys2Proof.Machine.execMcondWait g o c d a s
  | .mcondSig g o c d a => Sys2Proof.Machine.execMcondSig g o c d a s
  | .mcondBcast g o c d a => Sys2Proof.Machine.execMcondBcast g o c d a s
  | .cpy g a => Sys2Proof.Machine.execCpy g a s
  | .cpynb g d a => Sys2Proof.Machine.execCpynb g d a s
  | .cpx g a => Sys2Proof.Machine.execCpx g a s
  | .cpq g d => Sys2Proof.Machine.execCpq g d s
  | .cpqTag g d a => Sys2Proof.Machine.execCpqTag g d a s
  | .vadd g t d a b => Sys2Proof.Machine.execVadd g t d a b s
  | .vsub g t d a b => Sys2Proof.Machine.execVsub g t d a b s
  | .vmul g t d a b => Sys2Proof.Machine.execVmul g t d a b s
  | .vfma g t d a b => Sys2Proof.Machine.execVfma g t d a b s
  | .vfms g t d a b => Sys2Proof.Machine.execVfms g t d a b s
  | .vmin g t d a b => Sys2Proof.Machine.execVmin g t d a b s
  | .vmax g t d a b => Sys2Proof.Machine.execVmax g t d a b s
  | .vdiv g t d a b => Sys2Proof.Machine.execVdiv g t d a b s
  | .vabs g t d a => Sys2Proof.Machine.execVabs g t d a s
  | .vneg g t d a => Sys2Proof.Machine.execVneg g t d a s
  | .vsqrt g t d a => Sys2Proof.Machine.execVsqrt g t d a s
  | .vrcp g t d a => Sys2Proof.Machine.execVrcp g t d a s
  | .vrsq g t d a => Sys2Proof.Machine.execVrsq g t d a s
  | .vexp2 g t d a => Sys2Proof.Machine.execVexp2 g t d a s
  | .vlog2 g t d a => Sys2Proof.Machine.execVlog2 g t d a s
  | .vmov g t d a => Sys2Proof.Machine.execVmov g t d a s
  | .vand g d a b => Sys2Proof.Machine.execVand g d a b s
  | .vor g d a b => Sys2Proof.Machine.execVor g d a b s
  | .vxor g d a b => Sys2Proof.Machine.execVxor g d a b s
  | .vshl g t d a b => Sys2Proof.Machine.execVshl g t d a b s
  | .vshr g t d a b => Sys2Proof.Machine.execVshr g t d a b s
  | .vsar g t d a b => Sys2Proof.Machine.execVsar g t d a b s
  | .vrotl g t d a b => Sys2Proof.Machine.execVrotl g t d a b s
  | .vcmp g c t d a b => Sys2Proof.Machine.execVcmp g c t d a b s
  | .vcvt g t z d a => Sys2Proof.Machine.execVcvt g t z d a s
  | .vdec8 g t k q d a => Sys2Proof.Machine.execVdec8 g t k q d a s
  | .venc8 g t k q d a => Sys2Proof.Machine.execVenc8 g t k q d a s
  | .tblld g a => Sys2Proof.Machine.execTblld g a s
  | .vperm g t d a b => Sys2Proof.Machine.execVperm g t d a b s
  | .vbcast g t d a b => Sys2Proof.Machine.execVbcast g t d a b s
  | .vsplat g t d a => Sys2Proof.Machine.execVsplat g t d a s
  | .vext g t d a b => Sys2Proof.Machine.execVext g t d a b s
  | .vins g t d a b => Sys2Proof.Machine.execVins g t d a b s
  | .vsel g c d a b => Sys2Proof.Machine.execVsel g c d a b s
  | .vclr g d => Sys2Proof.Machine.execVclr g d s
  | .vred g o t d a => Sys2Proof.Machine.execVred g o t d a s
  | .vscan g o t d a => Sys2Proof.Machine.execVscan g o t d a s
  | .vcmul g d a b => Sys2Proof.Machine.execVcmul g d a b s
  | .vcfma g d a b => Sys2Proof.Machine.execVcfma g d a b s
  | .vld g o t d a => Sys2Proof.Machine.execVld g o t d a s
  | .vst g o t d a => Sys2Proof.Machine.execVst g o t d a s
  | .vlds g t d a b => Sys2Proof.Machine.execVlds g t d a b s
  | .vsts g t d a b => Sys2Proof.Machine.execVsts g t d a b s
  | .vldx g t d a b => Sys2Proof.Machine.execVldx g t d a b s
  | .vstx g t d a b => Sys2Proof.Machine.execVstx g t d a b s
  | .vldt g t d a b => Sys2Proof.Machine.execVldt g t d a b s
  | .vstt g t d a b => Sys2Proof.Machine.execVstt g t d a b s
  | .vsave g n d a => Sys2Proof.Machine.execVsave g n d a s
  | .vload g n d a => Sys2Proof.Machine.execVload g n d a s
  | .setst g t x c k a => Sys2Proof.Machine.execSetst g t x c k a s
  | .relst g d => Sys2Proof.Machine.execRelst g d s
  | .aclr g d => Sys2Proof.Machine.execAclr g d s
  | .ast g t d a => Sys2Proof.Machine.execAst g t d a s
  | .ald g t m d a => Sys2Proof.Machine.execAld g t m d a s
  | .mma g t z d a => Sys2Proof.Machine.execMma g t z d a s
  | .mmag g t z d a => Sys2Proof.Machine.execMmag g t z d a s
  | .mrot g t z d a => Sys2Proof.Machine.execMrot g t z d a s
  | .mrotBuf g t z d => Sys2Proof.Machine.execMrotBuf g t z d s
  | .floado g d a b => Sys2Proof.Machine.execFloado g d a b s
  | .fstart g d a b => Sys2Proof.Machine.execFstart g d a b s
  | .fcmd g d a b => Sys2Proof.Machine.execFcmd g d a b s
  | .fred g d a => Sys2Proof.Machine.execFred g d a s
  | .fopen n a => Sys2Proof.Machine.execFopen n a s
  | .facc n a => Sys2Proof.Machine.execFacc n a s
  | .faccf n a => Sys2Proof.Machine.execFaccf n a s
  | .frdo n d a => Sys2Proof.Machine.execFrdo n d a s
  | .fclra n => Sys2Proof.Machine.execFclra n s
  | .freply a => Sys2Proof.Machine.execFreply a s
  | .fwaitc d => Sys2Proof.Machine.execFwaitc d s
  | .send g d => Sys2Proof.Machine.execSend g d s
  | .sendt g => Sys2Proof.Machine.execSendt g s
  | .sendr g d => Sys2Proof.Machine.execSendr g d s
  | .bclr g => Sys2Proof.Machine.execBclr g s
  | .dqpush g d => Sys2Proof.Machine.execDqpush g d s
  | .dqpop g d => Sys2Proof.Machine.execDqpop g d s
  | .dqsteal g d a => Sys2Proof.Machine.execDqsteal g d a s
  | .hodnew g d a => Sys2Proof.Machine.execHodnew g d a s
  | .hodnext g a => Sys2Proof.Machine.execHodnext g a s
  | .hodset g n a b => Sys2Proof.Machine.execHodset g n a b s
  | .hodins g n a b => Sys2Proof.Machine.execHodins g n a b s
  | .hoddel g n a => Sys2Proof.Machine.execHoddel g n a s
  | .hodget g z d a => Sys2Proof.Machine.execHodget g z d a s
  | .hodpark g a b => Sys2Proof.Machine.execHodpark g a b s
  | .hodresume g a => Sys2Proof.Machine.execHodresume g a s
  | .br g f o => Sys2Proof.Machine.execBr g f o s
  | .call g o d => Sys2Proof.Machine.execCall g o d s
  | .loop g o a => Sys2Proof.Machine.execLoop g o a s
  | .endAct g => Sys2Proof.Machine.execEndAct g s
  | .yield g => Sys2Proof.Machine.execYield g s
  | .brk g => Sys2Proof.Machine.execBrk g s
  | .calli g d a => Sys2Proof.Machine.execCalli g d a s
  | .jr g a => Sys2Proof.Machine.execJr g a s
  | .ret g a => Sys2Proof.Machine.execRet g a s
  | .gang g a => Sys2Proof.Machine.execGang g a s
  | .ungang g => Sys2Proof.Machine.execUngang g s
  | .follow g => Sys2Proof.Machine.execFollow g s
  | .detach g => Sys2Proof.Machine.execDetach g s
  | .rejoin g n => Sys2Proof.Machine.execRejoin g n s
  | .trap g a => Sys2Proof.Machine.execTrap g a s
  | .svc g a => Sys2Proof.Machine.execSvc g a s
  | .rte g a => Sys2Proof.Machine.execRte g a s
  | .resume g d a b => Sys2Proof.Machine.execResume g d a b s
  | .preempt g d a b => Sys2Proof.Machine.execPreempt g d a b s
  | .waitx g d a => Sys2Proof.Machine.execWaitx g d a s
  | .tlbinv g c d a b => Sys2Proof.Machine.execTlbinv g c d a b s
  | .rtset g a b => Sys2Proof.Machine.execRtset g a b s
  | .ctxsave g d a b => Sys2Proof.Machine.execCtxsave g d a b s
  | .ctxload g d a b => Sys2Proof.Machine.execCtxload g d a b s
  | .immx x => Sys2Proof.Machine.execImmx x s
  | .movC p q => Sys2Proof.Machine.execMovC p q s
  | .addC p q => Sys2Proof.Machine.execAddC p q s
  | .subC p q => Sys2Proof.Machine.execSubC p q s
  | .andC p q => Sys2Proof.Machine.execAndC p q s
  | .orC p q => Sys2Proof.Machine.execOrC p q s
  | .xorC p q => Sys2Proof.Machine.execXorC p q s
  | .shlC p q => Sys2Proof.Machine.execShlC p q s
  | .shrC p q => Sys2Proof.Machine.execShrC p q s
  | .sarC p q => Sys2Proof.Machine.execSarC p q s
  | .mulC p q => Sys2Proof.Machine.execMulC p q s
  | .addiC imm p q => Sys2Proof.Machine.execAddiC imm p q s
  | .moviC imm p => Sys2Proof.Machine.execMoviC imm p s
  | .ld64C imm p q => Sys2Proof.Machine.execLd64C imm p q s
  | .st64C imm p q => Sys2Proof.Machine.execSt64C imm p q s
  | .ld32C imm p q => Sys2Proof.Machine.execLd32C imm p q s
  | .st32C imm p q => Sys2Proof.Machine.execSt32C imm p q s
  | .brC o => Sys2Proof.Machine.execBrC o s
  | .shliC imm p q => Sys2Proof.Machine.execShliC imm p q s
  | .vaddC p q => Sys2Proof.Machine.execVaddC p q s
  | .vsubC p q => Sys2Proof.Machine.execVsubC p q s
  | .vmulC p q => Sys2Proof.Machine.execVmulC p q s
  | .vmovC p q => Sys2Proof.Machine.execVmovC p q s
  | .vclrC p => Sys2Proof.Machine.execVclrC p s
  | .vldC imm p q => Sys2Proof.Machine.execVldC imm p q s
  | .vstC imm p q => Sys2Proof.Machine.execVstC imm p q s
  | .jrC p => Sys2Proof.Machine.execJrC p s
  | .loopC u p => Sys2Proof.Machine.execLoopC u p s
  | .nop => Sys2Proof.Machine.execNop s
  | .nopC => Sys2Proof.Machine.execNopC s
  | .endC => Sys2Proof.Machine.execEndC s
  | .yieldC => Sys2Proof.Machine.execYieldC s
  | .brkC => Sys2Proof.Machine.execBrkC s
  | .launch p => Sys2Proof.Machine.execLaunch p s
  | .launchStart p => Sys2Proof.Machine.execLaunchStart p s
  | .launchEnd p => Sys2Proof.Machine.execLaunchEnd p s
  | .launchAbort p => Sys2Proof.Machine.execLaunchAbort p s
  | .launchQuiescence l => Sys2Proof.Machine.execLaunchQuiescence l s
  | .dispatch c => Sys2Proof.Machine.execDispatch c s
  | .idleStep c => Sys2Proof.Machine.execIdleStep c s
  | .dequeStealRequest r => Sys2Proof.Machine.execDequeStealRequest r s
  | .strandAction p => Sys2Proof.Machine.execStrandAction p s
  | .strandResume r => Sys2Proof.Machine.execStrandResume r s
  | .strandEnd r => Sys2Proof.Machine.execStrandEnd r s
  | .preemptCore r => Sys2Proof.Machine.execPreemptCore r s
  | .preemptSave r => Sys2Proof.Machine.execPreemptSave r s
  | .preemptResume r => Sys2Proof.Machine.execPreemptResume r s
  | .messageArrival f => Sys2Proof.Machine.execMessageArrival f s
  | .spillRedelivery c p => Sys2Proof.Machine.execSpillRedelivery c p s
  | .spillRetry c p => Sys2Proof.Machine.execSpillRetry c p s
  | .counterMessage f => Sys2Proof.Machine.execCounterMessage f s
  | .lateMessage f => Sys2Proof.Machine.execLateMessage f s
  | .allowanceReturn r => Sys2Proof.Machine.execAllowanceReturn r s
  | .wakeUp r => Sys2Proof.Machine.execWakeUp r s
  | .footingReply r => Sys2Proof.Machine.execFootingReply r s
  | .flitHop r => Sys2Proof.Machine.execFlitHop r s
  | .flitInjection f => Sys2Proof.Machine.execFlitInjection f s
  | .injectionStarvation r => Sys2Proof.Machine.execInjectionStarvation r s
  | .flitEjection f => Sys2Proof.Machine.execFlitEjection f s
  | .mortarInit r => Sys2Proof.Machine.execMortarInit r s
  | .mortarRead r => Sys2Proof.Machine.execMortarRead r s
  | .mortarCancel r => Sys2Proof.Machine.execMortarCancel r s
  | .ctrAdd r => Sys2Proof.Machine.execCtrAdd r s
  | .ctrFadd r => Sys2Proof.Machine.execCtrFadd r s
  | .ctrWait r => Sys2Proof.Machine.execCtrWait r s
  | .ctrChunk r => Sys2Proof.Machine.execCtrChunk r s
  | .barArrive r => Sys2Proof.Machine.execBarArrive r s
  | .barAwait r => Sys2Proof.Machine.execBarAwait r s
  | .barWaitp r => Sys2Proof.Machine.execBarWaitp r s
  | .lockAcq r => Sys2Proof.Machine.execLockAcq r s
  | .lockTry r => Sys2Proof.Machine.execLockTry r s
  | .lockRel r => Sys2Proof.Machine.execLockRel r s
  | .queEnq r => Sys2Proof.Machine.execQueEnq r s
  | .queTenq r => Sys2Proof.Machine.execQueTenq r s
  | .queEnqr r => Sys2Proof.Machine.execQueEnqr r s
  | .queTenqr r => Sys2Proof.Machine.execQueTenqr r s
  | .queCommit r => Sys2Proof.Machine.execQueCommit r s
  | .queDeq r => Sys2Proof.Machine.execQueDeq r s
  | .queTdeq r => Sys2Proof.Machine.execQueTdeq r s
  | .queDeqr r => Sys2Proof.Machine.execQueDeqr r s
  | .queTdeqr r => Sys2Proof.Machine.execQueTdeqr r s
  | .queFree r => Sys2Proof.Machine.execQueFree r s
  | .condWait r => Sys2Proof.Machine.execCondWait r s
  | .condSig r => Sys2Proof.Machine.execCondSig r s
  | .condBcast r => Sys2Proof.Machine.execCondBcast r s
  | .condReacquire r => Sys2Proof.Machine.execCondReacquire r s
  | .mortarUnsupported r => Sys2Proof.Machine.execMortarUnsupported r s
  | .copyActivate c => Sys2Proof.Machine.execCopyActivate c s
  | .copyBurst c => Sys2Proof.Machine.execCopyBurst c s
  | .copyComplete c => Sys2Proof.Machine.execCopyComplete c s
  | .copyCompletionMessage c => Sys2Proof.Machine.execCopyCompletionMessage c s
  | .cpxPairing c => Sys2Proof.Machine.execCpxPairing c s
  | .copyResume r => Sys2Proof.Machine.execCopyResume r s
  | .copyAbort r => Sys2Proof.Machine.execCopyAbort r s
  | .fredCheck k => Sys2Proof.Machine.execFredCheck k s
  | .fredChunk k => Sys2Proof.Machine.execFredChunk k s
  | .fredCompletion k => Sys2Proof.Machine.execFredCompletion k s
  | .fredResume r => Sys2Proof.Machine.execFredResume r s
  | .fredAbort r => Sys2Proof.Machine.execFredAbort r s
  | .footingCommandResume r => Sys2Proof.Machine.execFootingCommandResume r s
  | .footingCommandAbort r => Sys2Proof.Machine.execFootingCommandAbort r s
  | .floadoCommand u => Sys2Proof.Machine.execFloadoCommand u s
  | .fstartCommand u => Sys2Proof.Machine.execFstartCommand u s
  | .fcmdCommand u => Sys2Proof.Machine.execFcmdCommand u s
  | .baseDieTranslation k dom va => Sys2Proof.Machine.execBaseDieTranslation k dom va s
  | .setstFill c => Sys2Proof.Machine.execSetstFill c s
  | .relstDrain c => Sys2Proof.Machine.execRelstDrain c s
  | .bankDrainEnd c k => Sys2Proof.Machine.execBankDrainEnd c k s
  | .aclrExecute c => Sys2Proof.Machine.execAclrExecute c s
  | .mmaExecute c => Sys2Proof.Machine.execMmaExecute c s
  | .mmagJoint c => Sys2Proof.Machine.execMmagJoint c s
  | .mrotJoint c => Sys2Proof.Machine.execMrotJoint c s
  | .astExecute c => Sys2Proof.Machine.execAstExecute c s
  | .aldExecute c => Sys2Proof.Machine.execAldExecute c s
  | .gangJoint c => Sys2Proof.Machine.execGangJoint c s
  | .ungangJoint c => Sys2Proof.Machine.execUngangJoint c s
  | .followJoint c n => Sys2Proof.Machine.execFollowJoint c n s
  | .rejoinJoint c n => Sys2Proof.Machine.execRejoinJoint c n s
  | .hodPull c => Sys2Proof.Machine.execHodPull c s
  | .hodAck r => Sys2Proof.Machine.execHodAck r s
  | .pageWalk c va => Sys2Proof.Machine.execPageWalk c va s
  | .shootdownArrival r g => Sys2Proof.Machine.execShootdownArrival r g s
  | .shootdownAck r => Sys2Proof.Machine.execShootdownAck r s
  | .l2Access r lo n => Sys2Proof.Machine.execL2Access r lo n s
  | .remoteLineFill r => Sys2Proof.Machine.execRemoteLineFill r s
  | .foAccess r lo n => Sys2Proof.Machine.execFoAccess r lo n s
  | .prefetch g pa => Sys2Proof.Machine.execPrefetch g pa s
  | .scratchpadAccess r lo n => Sys2Proof.Machine.execScratchpadAccess r lo n s
  | .scrub c => Sys2Proof.Machine.execScrub c s
  | .errorWindowEnd g => Sys2Proof.Machine.execErrorWindowEnd g s
  | .watchdogStall l => Sys2Proof.Machine.execWatchdogStall l s
  | .replay g => Sys2Proof.Machine.execReplay g s
  | .quarantineMove p h => Sys2Proof.Machine.execQuarantineMove p h s
  | .remoteLoad r => Sys2Proof.Machine.execRemoteLoad r s
  | .remoteStore r => Sys2Proof.Machine.execRemoteStore r s
  | .remoteAtadd r => Sys2Proof.Machine.execRemoteAtadd r s
  | .remoteAtand r => Sys2Proof.Machine.execRemoteAtand r s
  | .remoteAtor r => Sys2Proof.Machine.execRemoteAtor r s
  | .remoteAtxor r => Sys2Proof.Machine.execRemoteAtxor r s
  | .remoteAtmin r => Sys2Proof.Machine.execRemoteAtmin r s
  | .remoteAtmax r => Sys2Proof.Machine.execRemoteAtmax r s
  | .remoteAtminn r => Sys2Proof.Machine.execRemoteAtminn r s
  | .remoteAtmaxn r => Sys2Proof.Machine.execRemoteAtmaxn r s
  | .remoteAtswp r => Sys2Proof.Machine.execRemoteAtswp r s
  | .remoteAtcas r => Sys2Proof.Machine.execRemoteAtcas r s
  | .remoteAtfaddFp64 r => Sys2Proof.Machine.execRemoteAtfaddFp64 r s
  | .remoteAtfaddFp32 r => Sys2Proof.Machine.execRemoteAtfaddFp32 r s
  | .remoteMortar r => Sys2Proof.Machine.execRemoteMortar r s
  | .remoteRcWriteback g line => Sys2Proof.Machine.execRemoteRcWriteback g line s
  | .remoteMessage f => Sys2Proof.Machine.execRemoteMessage f s
  | .remoteCounter f => Sys2Proof.Machine.execRemoteCounter f s
  | .linkTraining g peer cap => Sys2Proof.Machine.execLinkTraining g peer cap s
  | .laneFailure port lane bank => Sys2Proof.Machine.execLaneFailure port lane bank s
  | .cxlMemAccess g addr bytes data => Sys2Proof.Machine.execCxlMemAccess g addr bytes data s
  | .inboxApertureWrite p off bytes data => Sys2Proof.Machine.execInboxApertureWrite p off bytes data s
  | .powerDown g => Sys2Proof.Machine.execPowerDown g s
  | .selfRefresh g => Sys2Proof.Machine.execSelfRefresh g s
  | .powerExit g => Sys2Proof.Machine.execPowerExit g s
  | .footingStopTimeout u => Sys2Proof.Machine.execFootingStopTimeout u s
  | .channelWake u => Sys2Proof.Machine.execChannelWake u s
  | .modeRemoteCache g => Sys2Proof.Machine.execModeRemoteCache g s
  | .modeL2Partitioning g => Sys2Proof.Machine.execModeL2Partitioning g s
  | .modeL2PartitionClass g => Sys2Proof.Machine.execModeL2PartitionClass g s
  | .modeCimPower g => Sys2Proof.Machine.execModeCimPower g s
  | .modeWaitListCap g => Sys2Proof.Machine.execModeWaitListCap g s
  | .modeAgingInterval g => Sys2Proof.Machine.execModeAgingInterval g s
  | .modeVcReservePolicy g => Sys2Proof.Machine.execModeVcReservePolicy g s
  | .modeChangeApply g => Sys2Proof.Machine.execModeChangeApply g s
  | .portReserveApply port => Sys2Proof.Machine.execPortReserveApply port s
  | .clockThrottle g watts => Sys2Proof.Machine.execClockThrottle g watts s
  | .packageReset g good => Sys2Proof.Machine.execPackageReset g good s
  | .spdmGetVersion g req => Sys2Proof.Machine.execSpdmGetVersion g req s
  | .spdmGetCapabilities g req => Sys2Proof.Machine.execSpdmGetCapabilities g req s
  | .spdmNegotiateAlgorithms g req => Sys2Proof.Machine.execSpdmNegotiateAlgorithms g req s
  | .spdmGetDigests g req => Sys2Proof.Machine.execSpdmGetDigests g req s
  | .spdmGetCertificate g req => Sys2Proof.Machine.execSpdmGetCertificate g req s
  | .spdmChallenge g req => Sys2Proof.Machine.execSpdmChallenge g req s
  | .spdmGetMeasurements g req => Sys2Proof.Machine.execSpdmGetMeasurements g req s
  | .spdmUnsupportedRequest g req => Sys2Proof.Machine.execSpdmUnsupportedRequest g req s
  | .controlRegisterWrite g addr v => Sys2Proof.Machine.execControlRegisterWrite g addr v s
  | .illegalInstruction detail => Sys2Proof.Machine.execIllegalInstruction detail s
  | .fetchFault addr => Sys2Proof.Machine.execFetchFault addr s
  | .loadReply r => Sys2Proof.Machine.execLoadReply r s
  | .mortarReply r => Sys2Proof.Machine.execMortarReply r s
  | .condReleaseReply r => Sys2Proof.Machine.execCondReleaseReply r s
  | .bulkTransfer r => Sys2Proof.Machine.execBulkTransfer r s

end Sys2Proof.Machine
end

