-- ==== Sys2Proof/Machine/Follow.lean ====
section
/-! DEFINITION. Following (R318, R319): how the leader's stream reaches its followers. The machine keeps, for each following strand,
the instructions that its leader has begun and that it has not yet executed; after each turn these lists are brought up to date. -/

namespace Sys2Proof.Machine

/-- Where a strand stands: the first prefix of its instruction, or the instruction (R207). -/
def Strand.place (t : Strand) : Word := t.pc - word (4 * t.imx.length)
/-- A follower goes on with its own fetch. -/
def Strand.detach (t : Strand) : Strand := { t with fol := 2, folq := [] }

/-- What a leader did in a turn, as its followers see it. -/
inductive Led where
  /-- it retired an instruction, which ended its activation by END, or was a DETACH, or neither -/
  | retired (kind : FollowKind)
  /-- it began an instruction that is still unretired -/
  | began
  /-- it was pre-empted, yielded, or lost its activation -/
  | left
  | nothing
  deriving DecidableEq, Repr

/-- What a leader's strand did between two states, when it ran instruction `i` if any; `again` says that the instruction retired and
left PC as it was. -/
def ledBy (before after : State) (c n : Nat) (ran : Option Instr) (again : Bool) : Led :=
  let l := before.strand c n
  let t := after.strand c n
  let kind := match ran with
    | some (.detach g) => if (l.mask g).getLsbD 0 then FollowKind.detached else .step
    | _ => .step
  if l.mode = .free then .nothing
  else if t.mode = .free ∨ t.act ≠ l.act then
    match ran with
    | some (.endAct _) => .retired .ended
    | some .endC => .retired .ended
    | _ => .left
  else if (after.core c).preempted ∧ !(before.core c).preempted then .left
  else if t.place ≠ l.place ∨ again then .retired kind
  else if l.wait = .none ∧ t.wait ≠ .none ∧ t.mode = .running then .began
  else .nothing

/-- A follower takes the PC that its leader's stream gives it (R318). -/
def Strand.takePc (t : Strand) (pc : Word) : Strand := if t.place = pc then t else { t with pc := pc, imx := [] }
/-- A follower's own instruction has retired: the verdict on its first entry (R318). -/
def ownRetired (t : Strand) : Strand :=
  match t.folq with
  | [] => t
  | e :: rest =>
    match e.kind with
    | .begun => { t with folq := { e with kind := .executed } :: rest }
    | .step => if t.place = e.next then { t with folq := rest } else t.detach
    | .detached => t.detach
    | .ended | .executed => t
/-- The leader's turn reaches a follower's list: `pc` and `next` are the leader's places before and after it. -/
def leaderMoved (t : Strand) (pc next : Word) (moved : Bool) : Led → Strand
  | .nothing => t
  | .left => t.detach
  | .began =>
    match t.folq.getLast? with
    | some ⟨_, _, .begun⟩ => t
    | some ⟨_, _, .executed⟩ => t
    | _ => { t with folq := t.folq ++ [⟨pc, 0, .begun⟩] }
  | .retired kind =>
    match t.folq.getLast? with
    | some ⟨_, _, .begun⟩ => { t with folq := t.folq.dropLast ++ [⟨pc, next, kind⟩] }
    | some ⟨_, _, .executed⟩ => if t.place = next ∧ kind = .step then { t with folq := [] } else t.detach
    | _ => if moved && t.folq.isEmpty then t else { t with folq := t.folq ++ [⟨pc, next, kind⟩] }

/-- One following strand after a turn. -/
def followOne (before after : State) (m n : Nat) (who : Actor) (ran : Option Instr) (again : Bool) : State :=
  let f := before.strand m n
  let t := after.strand m n
  if f.fol ≠ 1 ∨ t.fol ≠ 1 then after
  else
    match leaderOf before m with
    | none => after
    | some l =>
      let mine := decide (who = .strand m n)
      let its := decide (who = .strand l n)
      let moved := decide (t.place ≠ f.place) || (mine && again)
      let t := if moved then ownRetired t else t
      let led := ledBy before after l n (if its then ran else none) (its && again)
      let t := if t.fol = 1 then leaderMoved t (before.strand l n).place (after.strand l n).place moved led else t
      after.modStrand m n (fun _ => t)
/-- All following strands after a turn in which `who` ran instruction `ran`, if any. -/
def followUp (before after : State) (who : Actor) (ran : Option Instr) (again : Bool) : State :=
  before.cores.foldl (fun s p => p.2.strands.foldl (fun s q =>
    if q.2.fol = 1 then followOne before s p.1 q.1 who ran again else s) s) after

/-- A jump or loop that left PC as it was: the instruction retired although nothing else may show it (R312, R313). -/
def selfJump (s : State) (i : Instr) : Bool :=
  match i with
  | .br _ _ _ | .brC _ => true
  | .jr g a | .ret g a => s.predicate g && !s.waitsFor [a.val]
  | .jrC p => !s.waitsFor [shortReg p]
  | .calli g d a => s.predicate g && !s.waitsFor [d.val, a.val]
  | .call g _ d => s.predicate g && !s.waitsFor [d.val]
  | .loop g _ a => s.predicate g && !s.waitsFor [a.val]
  | .loopC _ p => !s.waitsFor [shortReg p]
  | _ => false

end Sys2Proof.Machine
end

