-- ==== Sys2Proof/Machine/Fetch.lean ====
section
/-! DEFINITION. Fetching (R120, R200, R201, R207) and running one instruction of a strand or footing core. -/

namespace Sys2Proof.Machine

/-- What a fetch gives. -/
inductive Fetched where
  /-- an instruction, and whether its format is extendable -/
  | instr (i : Instr) (ext : Bool)
  /-- an illegal encoding and its detail (R213) -/
  | illegal (detail : Nat)
  /-- a halfword that lies outside the code (R120, R201) -/
  | outside (addr : Word)
  /-- a poisoned word of code (R78) -/
  | poisoned (addr : Word)
  deriving DecidableEq, Repr

/-- The formats of a 32-bit word's major that IMMX extends: I, C, W, M, P and V (R202, R207, Table 6). -/
def extendable (w : Nat) : Bool :=
  decide (w % 2 = 1) && [0x02, 0x03, 0x04, 0x05, 0x07, 0x08, 0x09, 0x10, 0x11, 0x12, 0x13, 0x2B, 0x2C].contains (w / 2 % 64)
/-- A decoded fetch. -/
def fetched (p : Proc) (l : List Byte) : Fetched :=
  match decode p l with
  | .ok (i, _) => .instr i (extendable (ofBytesLE (l.take 2)))
  | .error e => .illegal e.detail
/-- The fetch of a processor with code bytes from a base up to a limit at an offset, halfword by halfword. -/
def fetchFrom (s : State) (p : Proc) (mem : List Host.Cell) (base limit off : Nat) : Fetched :=
  if limit ≤ off then .outside (word off)
  else
    let b := Memory.bytes mem (base + off) 4
    let long := decide (lengthOf (b.headD 0) = 4)
    if long && decide (limit ≤ off + 2) then .outside (word (off + 2))
    else
      match (if p = .strand then s.poisonedAt (base + off) (if long then 4 else 2) else none) with
      | some a => .poisoned (word (a - base))
      | none => fetched p (if long then b else b.take 2)
/-- The next fetch of the processor that executes. -/
def fetch (s : State) : Fetched :=
  match s.cur with
  | .strand c _ => fetchFrom s .strand s.mem (padBase c) 0x10000 s.pc.toNat
  | .unit u => fetchFrom s .footing (s.unit u).overlay 0 0x1000 s.pc.toNat
  | .none => .outside 0

/-- Runs the instruction at PC: prefixes and the instruction they extend form one instruction (R207), and a break of the rules for
prefixes is IMMX misuse unless a lower detail applies (R213). The fuel allows for two prefixes and one more word. -/
def runInstr : Nat → State → Result
  | 0, s => .next s
  | fuel + 1, s =>
    let first := s.imx.isEmpty
    match fetch s with
    | .outside a => execFetchFault a s
    | .poisoned a => .next (s.trap 0x1B 0 a)
    | .illegal d => execIllegalInstruction (if first then d else Nat.min d 3) s
    | .instr (.immx x) _ =>
      if 2 ≤ s.imx.length then execIllegalInstruction 3 s
      else
        match execImmx x s with
        | .next s => runInstr fuel s
        | r => r
    | .instr i ext => if !first && !ext then execIllegalInstruction 3 s else exec i s

/-- A strand takes its turn: it executes unless it waits or is stopped; a matrix trap comes first, also where the instruction waits for the
stopped command (R282), and a follower executes at the PCs that its leader's stream holds (R318). -/
def runStrand (s : State) (c n : Nat) : Result :=
  let s := { s with cur := .strand c n }
  let t := s.strand c n
  if t.mode ≠ .running ∨ (s.core c).preempted then .next s
  else
    match pendingMatrixTrap s c n with
    | some s => .next s
    | none =>
      if t.wait ≠ .none then .next s
      else if t.fol = 1 then
        match t.folq.head? with
        | none => .next s
        | some ⟨_, _, .executed⟩ => .next s
        | some ⟨_, _, .ended⟩ => .next (if mayEnd s c n then endNow s c n else s)
        | some e => runInstr 3 (s.modStrand c n (fun t => t.takePc e.pc))
      else runInstr 3 s
/-- A footing core takes its turn: it executes while it runs and its channel is awake (R46, R63). -/
def runUnit (s : State) (u : Nat) : Result :=
  let s := { s with cur := .unit u }
  let t := s.unit u
  if t.run = .running ∧ t.power = .awake then runInstr 3 s else .next s
/-- A processor takes its turn. -/
def runActor (s : State) : Actor → Result
  | .strand c n => runStrand s c n
  | .unit u => runUnit s u
  | .none => .next { s with cur := .none }

/-- The state in which a processor fetches next: a follower goes to the PC that its leader's stream gives it (R318). -/
def atPlace (s : State) (a : Actor) : State :=
  let s := { s with cur := a }
  match a with
  | .strand c n =>
    match decide ((s.strand c n).fol = 1), (s.strand c n).folq.head? with
    | true, some e => s.modStrand c n (fun t => t.takePc e.pc)
    | _, _ => s
  | _ => s
/-- The instruction that a processor fetches. -/
def ranBy (s : State) (a : Actor) : Option Instr :=
  match fetch (atPlace s a) with
  | .instr i _ => some i
  | _ => none
/-- After a turn of a processor, its followers' streams are brought up to date (R318). -/
def afterRun (before : State) (a : Actor) (after : State) : State :=
  let ran := ranBy before a
  let again : Bool :=
    match a, ran with
    | .strand c n, some i =>
      decide ((after.strand c n).mode = .running ∧ (after.strand c n).place = (before.strand c n).place) &&
        selfJump { before with cur := a } i
    | _, _ => false
  followUp before after a ran again
/-- A turn of a processor. -/
def takeRun (s : State) (a : Actor) : Result :=
  match runActor s a with
  | .next t => .next (afterRun s a t)
  | r => r

end Sys2Proof.Machine
end

