-- ==== Sys2Proof/Machine/Turns.lean ====
section
/-! DEFINITION. The turns of the schedule: which processor executes next, which unit takes a step, how time passes, and what reaches
the machine from outside. -/

namespace Sys2Proof.Machine

/-- A step of a unit, after which followers' streams are brought up to date (R318). -/
def takeEvent (s : State) (f : State → Result) : Result :=
  match f { s with cur := .none } with
  | .next t => .next (followUp s t .none none false)
  | r => r
/-- The packages of which a part is listed. -/
def listedPkgs (s : State) : List Nat :=
  (s.pkgs.map Prod.fst ++ s.panels.map (fun (k : Nat × Panel) => k.1 / 8) ++ s.slices.map (fun (k : Nat × Slice) => k.1 / 128)).eraseDups
/-- The error windows that end in this cycle (R79). -/
def endWindows (s : State) : State :=
  (listedPkgs s).foldl (fun s g => match execErrorWindowEnd g s with | .next s => s | _ => s) s
/-- Time passes, at most n cycles and at least one: the routers do what they must in each cycle (R177–R179), and the error windows end in
their cycle (R79). -/
def passTime (s : State) (n : Nat) : State :=
  let s := gridCycle s
  let k := Nat.min (Nat.max 1 (quietCycles s n)) (2 ^ 24 - s.cycle % 2 ^ 24)
  endWindows { s with cycle := s.cycle + k, settled := [], cur := .none }
/-- A load that has retired is still to read one of n bytes: an error that it could not take as a precise trap any more comes after it has been
performed (R78, R225, R364; log 15, DEDUCED). -/
def loadAwaits (s : State) (pa n : Nat) : Bool :=
  s.accs.any (fun a => !a.blocking && decide (a.op ≠ .store) && a.pieces.any (fun p => !p.done && overlaps p.pa p.n pa n))
/-- A memory word gains an error: one bit, or more than can be corrected, as a second bit makes it (R78). -/
def memoryError (s : State) (w : Nat) (double : Bool) : State :=
  if double || s.single.contains w then
    if loadAwaits s (8 * w) 8 then s
    else { s with poison := w :: s.poison.filter (fun x => decide (x ≠ w)), single := s.single.filter (fun x => decide (x ≠ w)) }
  else { s with single := w :: s.single }
/-- A line of host memory becomes poisoned or good (R388). -/
def hostError (s : State) (line : Nat) (bad : Bool) : State :=
  let l := s.hostPoison.filter (fun x => decide (x ≠ line))
  { s with hostPoison := if bad then line :: l else l }
/-- A 64-bit word of a clean line of a slice gains a parity error (R77). -/
def parityError (s : State) (k line word : Nat) : State :=
  s.modSlice k (fun x =>
    { x with lines := x.lines.map (fun l =>
        if l.line = line ∧ !l.dirty then { l with badParity := l.badParity ||| BitVec.ofNat 8 (2 ^ (word % 8)) } else l) })
/-- A 64-bit word of a line of a remote partition gains an error: a parity error in a clean line, and in a dirty one a single-bit error, or
poison where it is more than one bit (R77, R78). -/
def remoteError (s : State) (g line word : Nat) (double : Bool) : State :=
  let m := BitVec.ofNat 8 (2 ^ (word % 8))
  { s with rlines := s.rlines.map (fun r =>
      if r.pkg ≠ g ∨ r.line ≠ line ∨ (r.dirty ≠ 0 ∧ loadAwaits s (64 * line + 8 * (word % 8)) 8) then r
      else if r.dirty = 0 then { r with parity := r.parity ||| m }
      else if double ∨ r.single &&& m ≠ 0 then { r with single := r.single &&& ~~~m, poison := r.poison ||| m }
      else { r with single := r.single ||| m }) }
/-- A 64-bit word of a fired bank gains an error: one bit, or more than can be corrected, which poisons its slot (R130). -/
def bankError (s : State) (c b word : Nat) (double : Bool) : State :=
  s.modCore c (fun k => { k with banks := Table.modify .init k.banks b (fun x =>
    if double ∨ x.single.contains word then
      { x with poison := x.poison ||| BitVec.ofNat 16 (2 ^ (word / 1024)), single := x.single.filter (fun w => decide (w ≠ word)) }
    else { x with single := (x.single.filter (fun w => decide (w < word))) ++ word :: x.single.filter (fun w => decide (word < w)) }) })
/-- A flit gains an error: 0 a single bit, 1 a body word, 2 the route header (R181). -/
def flitError (s : State) (id kind : Nat) : State :=
  { s with flits := s.flits.map (fun f =>
      if f.id ≠ id then f
      else if kind = 0 then { f with single := true }
      else if kind = 1 then { f with bad := f.bad ||| BitVec.ofNat 8 (2 ^ (id % 8)) }
      else { f with badHeader := true }) }
/-- After a turn the deadlock watchdogs see what it changed (R359). -/
def watched : Result → Result
  | .next s => .next (watchLaunches s)
  | r => r

/-! ### The order of a core's events in a cycle (R371) -/

/-- The instruction writes state of its core in the cycle in which it retires: a core register, a tensor map, the decode table or the routine
table (R259, R261, R272, R326). -/
def Instr.writesCore (i : Instr) : Bool :=
  match i with
  | .csrw _ c _ => [0x023, 0x040, 0x041, 0x044].contains c.toNat
  | .tmset _ _ _ | .tblld _ _ | .rtset _ _ _ => true
  | _ => false
/-- A wait that the reply of a unit ends. -/
def Wait.ofUnit (w : Wait) : Bool := match w with | .none | .joint _ => false | _ => true
/-- The place in R371's order of what a turn did to strand n: 0 a reply that completes its instruction, 8 + n a trap, 16 an END, YIELD or RTE, 24
another instruction that retires, or 25 + n where it writes state of the core, which the cycle's other instructions do not see yet and which
strands write in ascending order (R259, R261, R272, R326), 32 a dispatch. -/
def strandPlace (n : Nat) (writes : Bool) (x y : Strand) : List Nat :=
  match x.mode, y.mode with
  | .running, .parked => [8 + n]
  | .running, .free | .parked, .free => [16]
  | .free, .running => [32]
  | .running, .running => if x.wait.ofUnit && decide (y.wait = .none) then [0]
    else if x.place ≠ y.place then [if writes then 25 + n else 24] else []
  | _, _ => []
/-- The places of what a turn did to a core; an idle step takes place 36, a pre-emption 40, and a reply of an access that does not hold its
strand 0. -/
def corePlaces (s t : State) (c : Nat) : List Nat :=
  let x := s.core c
  let y := t.core c
  if x.preempted ≠ y.preempted ∨ x.saved ≠ y.saved then (if y.preempted then [40] else [])
  else
    (if s.accs.any (fun a => decide (a.core = c) && t.accs.all (fun b => decide (b.id ≠ a.id))) then [0] else []) ++
      (if x.idleAt ≠ y.idleAt ∧ y.idleAt ≠ 0 then [36] else []) ++
      (List.range 4).flatMap (fun n =>
        let writes := decide (t.cur = .strand c n) && ((ranBy s (.strand c n)).map Instr.writesCore).getD false
        strandPlace n writes (x.strand n) (y.strand n))
/-- What a turn did to each core, as core and place. -/
def turnPlaces (s t : State) : List (Nat × Nat) := t.cores.flatMap (fun k => (corePlaces s t k.1).map (fun p => (k.1, p)))
/-- An event comes too late in a cycle: its core has settled a later place of the order, or has dispatched already, after which there is
neither another dispatch nor an idle step (R353, R356, R371). -/
def tooLate (s : State) (e : Nat × Nat) : Bool :=
  let last := Table.get 0 s.settled e.1
  decide (e.2 < last) || decide (32 ≤ e.2 ∧ e.2 = last) || decide (32 ≤ e.2 ∧ e.2 < 40 ∧ 32 ≤ last)
/-- A turn takes effect where the order of R371 allows it in this cycle; otherwise nothing happens, and its events come in a later cycle. -/
def inOrder (s t : State) : State :=
  let es := turnPlaces s t
  if es.any (tooLate s) then s
  else { t with settled := es.foldl (fun l e => Table.modify 0 l e.1 (fun last => Nat.max last e.2)) t.settled }
/-- The next state of a turn, in the order of R371. -/
def ordered (s : State) : Result → Result
  | .next t => .next (inOrder s t)
  | r => r

/-! ### Turns -/

/-- One turn. -/
def turn (s : State) : Turn → Result
  | .run a => takeRun s a
  | .event i => takeEvent s (exec i)
  | .tick n => .next (passTime s n)
  | .hostStore addr b => .next { s with host := Memory.set s.host addr b, cur := .none }
  | .hostPoison line bad => .next { hostError s line bad with cur := .none }
  | .bitError w double => .next { memoryError s w double with cur := .none }
  | .parityError k line word => .next { parityError s k line word with cur := .none }
  | .remoteError g line word double => .next { remoteError s g line word double with cur := .none }
  | .bankError c b word double => .next { bankError s c b word double with cur := .none }
  | .flitError f kind => .next { flitError s f kind with cur := .none }
/-- One turn, in the order of R371 and seen by the watchdogs. -/
def takeTurn (s : State) (t : Turn) : Result := watched (ordered s (turn s t))

/-- A program of one word where the next step fetches it: the processor runs, and the next turn is its own (log 9). -/
def placeWord (s : State) (p : Proc) (w : Nat) : State :=
  match p with
  | .strand =>
    let pc := (s.strand 0 0).pc
    let pc := if pc.toNat < 0xFFFC then pc else 0
    let s := s.modStrand 0 0 (fun t => { t with mode := .running, wait := .none, pc := pc, imx := [], fol := 0 })
    let s := s.modCore 0 (fun k => { k with preempted := false, mstop := false })
    { s.write (padBase 0 + pc.toNat) 4 w with agenda := .run (.strand 0 0) :: s.agenda, settled := [] }
  | .footing =>
    let pc := if (s.unit 0).pc < 0xFFC then (s.unit 0).pc else 0
    let s := s.modUnit 0 (fun t =>
      { t with overlay := Memory.writeN t.overlay pc 4 w, pc := pc, imx := [], run := .running, power := .awake })
    { s with agenda := .run (.unit 0) :: s.agenda }

end Sys2Proof.Machine
end

