-- ==== Sys2Proof/Machine/Schedule.lean ====
section
/-! DEFINITION. What the machine does when no turns are laid down: one turn, by a free choice (R332, R371). The kind of the turn and its
arguments are free numbers, and a turn whose conditions do not hold changes nothing. -/

namespace Sys2Proof.Machine

/-- What a turn does. -/
abbrev Move := State → Result

/-- Launches and activations. -/
def launchTurns (a : Nat) : List Move :=
  [execLaunch a, execLaunchStart a, execLaunchEnd a, execLaunchAbort a, execLaunchQuiescence a, execDispatch a, execIdleStep a,
    execDequeStealRequest a, execStrandAction a, execStrandResume a, execStrandEnd a, execPreemptCore a, execPreemptSave a,
    execPreemptResume a]
/-- Messages and grout. -/
def messageTurns (a b : Nat) : List Move :=
  [execMessageArrival a, execSpillRedelivery a b, execSpillRetry a b, execCounterMessage a, execLateMessage a,
    execAllowanceReturn a, execWakeUp a, execFootingReply a, execFlitHop a, execFlitInjection a, execInjectionStarvation a,
    execFlitEjection a]
/-- Mortar requests and replies. -/
def mortarTurns (a : Nat) : List Move :=
  [execMortarInit a, execMortarRead a, execMortarCancel a, execCtrAdd a, execCtrFadd a, execCtrWait a, execCtrChunk a,
    execBarArrive a, execBarAwait a, execBarWaitp a, execLockAcq a, execLockTry a, execLockRel a, execQueEnq a, execQueTenq a,
    execQueEnqr a, execQueTenqr a, execQueCommit a, execQueDeq a, execQueTdeq a, execQueDeqr a, execQueTdeqr a, execQueFree a,
    execCondWait a, execCondSig a, execCondBcast a, execCondReacquire a, execMortarUnsupported a]
/-- Copy engines, reduction engines and footing units. -/
def engineTurns (a : Nat) : List Move :=
  [execCopyActivate a, execCopyBurst a, execCopyComplete a, execCopyCompletionMessage a, execCpxPairing a, execCopyResume a,
    execCopyAbort a, execFredCheck a, execFredChunk a, execFredCompletion a, execFredResume a, execFredAbort a,
    execFootingCommandResume a, execFootingCommandAbort a, execFloadoCommand a, execFstartCommand a, execFcmdCommand a]
/-- Matrix units, joints and hod engines. -/
def coreTurns (a b c : Nat) : List Move :=
  [execBaseDieTranslation a b c, execSetstFill a, execRelstDrain a, execBankDrainEnd a b, execAclrExecute a, execMmaExecute a,
    execMmagJoint a, execMrotJoint a, execAstExecute a, execAldExecute a, execGangJoint a, execUngangJoint a,
    execFollowJoint a b, execRejoinJoint a b, execHodPull a, execHodAck a]
/-- Translation, memory and pointing. -/
def memoryTurns (a b c : Nat) : List Move :=
  [execPageWalk a b, execShootdownArrival a b, execShootdownAck a, execL2Access a b c, execRemoteLineFill a, execFoAccess a b c,
    execPrefetch a b, execScratchpadAccess a b c, execScrub a, execErrorWindowEnd a, execWatchdogStall a, execReplay a,
    execQuarantineMove a b]
/-- Nelyen. -/
def nelyenTurns (a b c : Nat) : List Move :=
  [execRemoteLoad a, execRemoteStore a, execRemoteAtadd a, execRemoteAtand a, execRemoteAtor a, execRemoteAtxor a,
    execRemoteAtmin a, execRemoteAtmax a, execRemoteAtminn a, execRemoteAtmaxn a, execRemoteAtswp a, execRemoteAtcas a,
    execRemoteAtfaddFp64 a, execRemoteAtfaddFp32 a, execRemoteMortar a, execRemoteRcWriteback a b, execRemoteMessage a,
    execRemoteCounter a, execLinkTraining a b (word c), execLaneFailure a b (bit c 0)]
/-- The platform. -/
def platformTurns (a b c d : Nat) : List Move :=
  [execCxlMemAccess a b c (if bit d 0 then some (d / 2) else none), execInboxApertureWrite a b c d, execPowerDown a,
    execSelfRefresh a, execPowerExit a, execFootingStopTimeout a, execChannelWake a, execModeRemoteCache a,
    execModeL2Partitioning a, execModeL2PartitionClass a, execModeCimPower a, execModeWaitListCap a, execModeAgingInterval a,
    execModeVcReservePolicy a, execModeChangeApply a, execPortReserveApply a, execClockThrottle a b, execPackageReset a b,
    execSpdmGetVersion a b, execSpdmGetCapabilities a b, execSpdmNegotiateAlgorithms a b, execSpdmGetDigests a b,
    execSpdmGetCertificate a b, execSpdmChallenge a b, execSpdmGetMeasurements a b, execSpdmUnsupportedRequest a b,
    execControlRegisterWrite a b (word c)]
/-- Replies. -/
def replyTurns (a : Nat) : List Move :=
  [execLoadReply a, execMortarReply a, execCondReleaseReply a, execBulkTransfer a]
/-- What reaches the machine from outside, and the errors that memory and flits meet (R77, R78, R130, R181, R389). -/
def outsideTurns (a b c d : Nat) : List Move :=
  [fun s => .next { s with host := Memory.set s.host a (BitVec.ofNat 8 b) }, fun s => .next (hostError s a (bit b 0)),
    fun s => .next (memoryError s a (bit b 0)), fun s => .next (parityError s a b c), fun s => .next (remoteError s a b c (bit d 0)),
    fun s => .next (bankError s a (b % 2) (c % 16384) (bit d 0)), fun s => .next (flitError s a (b % 3))]
/-- The turns of units that a kind can stand for. -/
def unitTurns (a b c d : Nat) : List Move :=
  launchTurns a ++ messageTurns a b ++ mortarTurns a ++ engineTurns a ++ coreTurns a b c ++ memoryTurns a b c ++ nelyenTurns a b c ++
    platformTurns a b c d ++ replyTurns a ++ outsideTurns a b c d
/-- A turn of kind k with four numbers: time passes, a strand or a footing core executes, or a unit takes a step. -/
def turnOf (k a b c d : Nat) (s : State) : Result :=
  match k with
  | 0 => .next (passTime s (a + 1))
  | 1 => takeRun s (.strand a (b % 4))
  | 2 => takeRun s (.unit a)
  | k + 3 =>
    match (unitTurns a b c d)[k]? with
    | some f => takeEvent s f
    | none => .next (passTime s 1)
/-- A turn of the machine's own choice. -/
def freeTurn (s : State) : Result :=
  let p (n : Nat) : Nat := Config.pick (s.fresh + n)
  let s := { s with fresh := s.fresh + 5 }
  watched (ordered s (turnOf (p 0) (p 1) (p 2) (p 3) (p 4) s))

end Sys2Proof.Machine
end

