-- ==== Sys2Proof/Machine/Step.lean ====
section
/-! DEFINITION. One step of the machine: the next turn of the agenda, or one of the machine's own choice when the agenda is empty. -/

namespace Sys2Proof.Machine

/-- One step. -/
def step (s : State) : Host.Outcome State Fault Refusal :=
  match s.agenda with
  | t :: rest => takeTurn { s with agenda := rest } t
  | [] => freeTurn s

/-- The state with an instruction placed where the next step fetches: in the code region of core 0 at the PC of its strand 0, which
executes next, or for an instruction of a footing core alone in the overlay of unit 0 (log 9). -/
def State.withFetchWord (s : State) (nbits w : Nat) : State := placeWord s (procOfWord w) (w % 2 ^ nbits)

end Sys2Proof.Machine
end

