-- ==== Sys2Proof/Safety.lean ====
section
/-! DEFINITION. What counts as a safe run, and the conditions on a state and on operands in which the statements about instructions are
put. -/

namespace Sys2Proof.Machine

/-- The machine takes k steps from a state without a fault and without a refusal. -/
def SafeFor : Nat → State → Prop
  | 0, _ => True
  | k + 1, s => ∃ t, step s = .next t ∧ SafeFor k t

/-- A processor executes, the guard holds, and the registers that the instruction reads and writes are neither waited for nor, where
they are read, poisoned (R52, R78, R205, R211, R334). -/
structure State.ready (s : State) (g : Nat) (reads writes : List Nat) : Prop where
  runs : s.cur ≠ .none
  guard : s.predicate g = true
  written : s.waitsFor writes = false
  read : s.waitsFor reads = false
  sound : s.badReg reads = none

/-- The same where strand n of core c is the processor. -/
structure State.strandReady (s : State) (c n g : Nat) (reads writes : List Nat) : Prop where
  runs : s.cur = .strand c n
  guard : s.predicate g = true
  written : s.waitsFor writes = false
  read : s.waitsFor reads = false
  sound : s.badReg reads = none

/-- The vector registers named are not waited for (R52, R334). -/
def State.vectorsReady (s : State) (c n : Nat) (vs : List Nat) : Prop := ∀ r ∈ vs, (s.strand c n).busyV.getLsbD r = false

/-- The footing core of unit u executes (R46). -/
def State.unitRuns (s : State) (u : Nat) : Prop := s.cur = .unit u

/-- The pieces that an instruction asks for pass the checks of R222, steps 1 to 3, with these places. -/
def State.passes (s : State) (c n : Nat) (u : Use) (op : AccOp) (sync : Bool) (ws : List Want) (t : State) (ps : List Piece) : Prop :=
  checkWants s c n u op sync ws = (t, .ok ps)

/-- The elements of a vector access pass the checks of R222 and R276 with these pieces, no rule of the instruction stops it, and where it is
scaled its scale bytes can be read now: in state u, with these values. -/
def State.vectorPasses (s : State) (c n : Nat) (t : Fmt) (u : Use) (op : AccOp) (p : VPlan) (v : State) (ps : List Piece)
    (scales : List Nat) : Prop :=
  p.ends = none ∧ (p.scaled = true → ∀ e ∈ p.elems, byteInFlight s c n e.scale = false) ∧
    ∃ x, s.passes c n u op false (p.elems.map (fun e => ⟨e.va, t.size, 0, 0, e.lane⟩)) x ps ∧
      (if p.scaled then readScales x (x.strandAgent c n) (p.elems.map (·.scale)) else (x, .ok [])) = (v, .ok scales)

/-- Request q of a code is ready at its home, where no check of its line stops it: the scope checker admits it, the line is not poisoned
and holds an object of the type (R78, R84, R88, R341). A type of 0 stands for any of the five. -/
def State.homeReady (s : State) (id op type : Nat) (q : MReq) : Prop :=
  s.req? id op false = some q ∧ q.ready s = true ∧ q.frees = false ∧ (homeState s q).admits q.line q.scope q.party = true ∧
    (homeState s q).poisonedAt q.line 64 = none ∧ 1 ≤ objType (objAt (homeState s q) q.line) ∧
    objType (objAt (homeState s q) q.line) ≤ 5 ∧ (type = 0 ∨ objType (objAt (homeState s q) q.line) = type)

/-- What a reader sees of one byte of physical memory. -/
def State.byteAt (s : State) (pa : Nat) : Byte := Memory.get s.mem pa

/-- Every launch that its watchdog counts is still (R359). -/
def State.stills (s : State) : Bool := s.launches.all (fun l => l.still.isNone || isStill s l)

end Sys2Proof.Machine
end

