-- ==== Sys2Proof/Certificates/Slice0/Obligations.lean ====
section
/-! DEFINITION. The statements for the provers. Each docstring names the rules of the spec that it formalises. -/

open Sys2Proof Sys2Proof.Machine

/-! ## Scalar instructions (chapter 13) -/

/-- R241: the register–register arithmetic, logic and shifts write w(d) and move PC past the instruction, on strands and on footing
cores; sums, differences and products wrap, and a shift count is w(b)[5:0]. -/
def Obligations.RegisterArithmetic : Prop :=
  ∀ (s : State) (g : Fin 8) (d a b : Fin 32), s.ready g [a, b] [d] →
    let t := s.correctRegs [a, b]
    let x := t.w a
    let y := t.w b
    let put (v : Word) : Result := .next ((t.setW d v).advance 4)
    exec (.add g d a b) s = put (x + y) ∧ exec (.sub g d a b) s = put (x - y) ∧ exec (.mul g d a b) s = put (x * y) ∧
    exec (.mulh g d a b) s = put (BitVec.ofInt 64 (x.toInt * y.toInt / 2 ^ 64)) ∧
    exec (.mulhn g d a b) s = put (BitVec.ofNat 64 (x.toNat * y.toNat / 2 ^ 64)) ∧
    exec (.and g d a b) s = put (x &&& y) ∧ exec (.or g d a b) s = put (x ||| y) ∧ exec (.xor g d a b) s = put (x ^^^ y) ∧
    exec (.shl g d a b) s = put (x <<< (y.toNat % 64)) ∧ exec (.shr g d a b) s = put (x >>> (y.toNat % 64)) ∧
    exec (.sar g d a b) s = put (x.sshiftRight (y.toNat % 64)) ∧ exec (.rot g d a b) s = put (x.rotateLeft (y.toNat % 64)) ∧
    exec (.min g d a b) s = put (if y.toInt < x.toInt then y else x) ∧
    exec (.max g d a b) s = put (if x.toInt < y.toInt then y else x) ∧
    exec (.minn g d a b) s = put (if y.toNat < x.toNat then y else x) ∧
    exec (.maxn g d a b) s = put (if x.toNat < y.toNat then y else x)

/-- R240, R242: division truncates toward zero, −2^63 ÷ −1 wraps, and a remainder has the dividend's sign. A zero divisor makes a strand take
trap 0x15 with TRAPA 0 and nothing written; a footing core takes no trap, and gets all ones from a division and the dividend from a
remainder. -/
def Obligations.Division : Prop :=
  ∀ (s : State) (g : Fin 8) (d a b : Fin 32), s.ready g [a, b] [d] →
    let t := s.correctRegs [a, b]
    let x := t.w a
    let y := t.w b
    let put (v : Word) : Result := .next ((t.setW d v).advance 4)
    (y ≠ 0 → exec (.div g d a b) s = put (BitVec.ofInt 64 (x.toInt.tdiv y.toInt)) ∧
      exec (.divn g d a b) s = put (BitVec.ofNat 64 (x.toNat / y.toNat)) ∧
      exec (.rem g d a b) s = put (BitVec.ofInt 64 (x.toInt.tmod y.toInt)) ∧
      exec (.remn g d a b) s = put (BitVec.ofNat 64 (x.toNat % y.toNat))) ∧
    (y = 0 → ∀ c n, s.cur = .strand c n →
      exec (.div g d a b) s = .next (t.trap 0x15 0 0) ∧ exec (.divn g d a b) s = .next (t.trap 0x15 0 0) ∧
      exec (.rem g d a b) s = .next (t.trap 0x15 0 0) ∧ exec (.remn g d a b) s = .next (t.trap 0x15 0 0)) ∧
    (y = 0 → ∀ u, s.cur = .unit u → exec (.div g d a b) s = put (BitVec.allOnes 64) ∧ exec (.divn g d a b) s = put (BitVec.allOnes 64) ∧
      exec (.rem g d a b) s = put x ∧ exec (.remn g d a b) s = put x)

/-- R241, R243, R244, R248: the one-operand forms. CLZ and CTZ give 64 for 0; SEXT and ZEXT take 8, 16 or 32 bits. -/
def Obligations.OneOperandForms : Prop :=
  ∀ (s : State) (g : Fin 8) (d a : Fin 32) (n : Fin 3) (m : Fin 64), s.ready g [a] [d] →
    let t := s.correctRegs [a]
    let x := t.w a
    let put (v : Word) : Result := .next ((t.setW d v).advance 4)
    let bits : Nat := 8 * 2 ^ n.val
    let low : Nat := x.toNat % 2 ^ bits
    exec (.clz g d a) s = put (if x = 0 then 64 else BitVec.ofNat 64 (63 - x.toNat.log2)) ∧
    exec (.ctz g d a) s = put (BitVec.ofNat 64 (((List.range 64).find? (fun i => x.getLsbD i)).getD 64)) ∧
    exec (.popc g d a) s = put (BitVec.ofNat 64 ((List.range 64).filter (fun i => x.getLsbD i)).length) ∧
    exec (.mov g d a) s = put x ∧
    exec (.sext g n d a) s = put (BitVec.ofInt 64 (if low < 2 ^ (bits - 1) then (low : Int) else (low : Int) - 2 ^ bits)) ∧
    exec (.zext g n d a) s = put (BitVec.ofNat 64 low) ∧
    exec (.shli g m d a) s = put (x <<< m.val) ∧ exec (.shri g m d a) s = put (x >>> m.val) ∧
    exec (.sari g m d a) s = put (x.sshiftRight m.val)

/-- R207, R247, R250: the immediate forms on the immediate that the field and the prefixes before it give; without a prefix it is the
field sign-extended, and one or two prefixes stand above the field. -/
def Obligations.ImmediateForms : Prop :=
  (∀ (s : State) (g : Fin 8) (i : BitVec 12) (d a : Fin 32), s.ready g [a] [d] →
    let t := s.correctRegs [a]
    let x := t.w a
    let v := immOf t.imx 12 i.toNat
    let put (v : Word) : Result := .next ((t.setW d v).advance 4)
    exec (.addi g i d a) s = put (x + v) ∧ exec (.andi g i d a) s = put (x &&& v) ∧ exec (.ori g i d a) s = put (x ||| v) ∧
    exec (.xori g i d a) s = put (x ^^^ v)) ∧
  (∀ (s : State) (g : Fin 8) (i : BitVec 17) (d : Fin 32), s.ready g [] [d] →
    exec (.movi g i d) s = .next ((s.setW d (immOf s.imx 17 i.toNat)).advance 4)) ∧
  (∀ (n : Nat) (i : BitVec n) (x y : BitVec 27), immOf [] n i.toNat = i.signExtend 64 ∧ immOf [x] n i.toNat = (x ++ i).signExtend 64 ∧
    immOf [x, y] n i.toNat = (x ++ (y ++ i)).signExtend 64)

/-- R246, R249: CMP and CMPI write all ones or zero to k(d) on a strand, and 1 or 0 to w(d) on a footing core. -/
def Obligations.Compares : Prop :=
  ∀ (s : State) (g : Fin 8) (c : Cond) (d a b : Fin 32) (i : BitVec 9), c.inCmp = true → s.ready g [a, b] (flagReg s d) →
    let holds (x y : Word) : Bool := match c with
      | .eq => decide (x = y) | .ne => decide (x ≠ y) | .lt => decide (x.toInt < y.toInt) | .le => decide (x.toInt ≤ y.toInt)
      | .ltn => decide (x.toNat < y.toNat) | .len => decide (x.toNat ≤ y.toNat) | .un => false
    let t := s.correctRegs [a, b]
    let u := s.correctRegs [a]
    let one : Bool := holds (t.w a) (t.w b)
    let two : Bool := holds (u.w a) (immOf u.imx 9 i.toNat)
    (∀ j n, s.cur = .strand j n →
      exec (.cmp g c d a b) s = .next ((t.setK d (if one then BitVec.allOnes 64 else 0)).advance 4) ∧
      exec (.cmpi g i c d a) s = .next ((u.setK d (if two then BitVec.allOnes 64 else 0)).advance 4)) ∧
    (∀ j, s.cur = .unit j →
      exec (.cmp g c d a b) s = .next ((t.setW d (if one then 1 else 0)).advance 4) ∧
      exec (.cmpi g i c d a) s = .next ((u.setW d (if two then 1 else 0)).advance 4))

/-- R252–R254: pointer additions that stay in 56 bits keep the tag, whatever it is, and others trap 0x0B; PTAG joins a tag to an address; PFMT
reads the fields of a tag that is not reserved, and of a reserved one it traps 0x03. They execute on strands. R138, R245, R255: operations on
mask registers; a write to k0 has no effect, and SEL copies w(b) where bit 0 of k(a) is 1 and otherwise writes nothing. -/
def Obligations.PointerAndMaskForms : Prop :=
  (∀ (s : State) (c n : Nat) (g : Fin 8) (d a b : Fin 32) (i : BitVec 12), s.strandReady c n g [a, b] [d] →
    let t := s.correctRegs [a, b]
    let u := s.correctRegs [a]
    let sum (p o : Word) : Int := ((p.toNat % 2 ^ 56 : Nat) : Int) + o.toInt
    let low (p : Word) : Word := BitVec.ofNat 64 (p.toNat % 2 ^ 56)
    let moved (p o : Word) : Word := BitVec.ofNat 64 (p.toNat / 2 ^ 56 * 2 ^ 56 + (sum p o).toNat)
    (0 ≤ sum (t.w a) (t.w b) → sum (t.w a) (t.w b) < 2 ^ 56 →
      exec (.padd g d a b) s = .next ((t.setW d (moved (t.w a) (t.w b))).advance 4)) ∧
    (0 ≤ sum (u.w a) (immOf u.imx 12 i.toNat) → sum (u.w a) (immOf u.imx 12 i.toNat) < 2 ^ 56 →
      exec (.paddi g i d a) s = .next ((u.setW d (moved (u.w a) (immOf u.imx 12 i.toNat))).advance 4)) ∧
    exec (.ptag g d a b) s = .next ((t.setW d (BitVec.ofNat 64 ((t.w b).toNat % 256 * 2 ^ 56 + (t.w a).toNat % 2 ^ 56))).advance 4) ∧
    (sum (t.w a) (t.w b) < 0 ∨ 2 ^ 56 ≤ sum (t.w a) (t.w b) → exec (.padd g d a b) s = .next (t.trap 0x0B 0 (low (t.w a)))) ∧
    (sum (u.w a) (immOf u.imx 12 i.toNat) < 0 ∨ 2 ^ 56 ≤ sum (u.w a) (immOf u.imx 12 i.toNat) →
      exec (.paddi g i d a) s = .next (u.trap 0x0B 0 (low (u.w a)))) ∧
    (let fmt : Nat := (u.w a).toNat / 2 ^ 59
     let blk : Nat := (u.w a).toNat / 2 ^ 56 % 8
     let blen : Nat := if blk = 0 then 0 else 2 ^ (blk + 2)
     (fmt < 16 → (blk = 0 ∨ fmt ∉ [0, 5, 15]) → exec (.pfmt g d a) s =
       .next ((u.setW d (BitVec.ofNat 64 (blen * 2 ^ 32 + (Fmt.ofCode fmt).size * 2 ^ 16 + blk * 2 ^ 8 + fmt))).advance 4)) ∧
     (16 ≤ fmt ∨ (blk ≠ 0 ∧ fmt ∈ [0, 5, 15]) → exec (.pfmt g d a) s = .next (u.trap 0x03 0 (low (u.w a)))))) ∧
  (∀ (s : State) (c n : Nat) (g : Fin 8) (d a b : Fin 32), s.cur = .strand c n → s.predicate g = false →
    exec (.sel g d a b) s = .next (s.advance 4)) ∧
  (∀ (s : State) (c n : Nat) (g d a b : Fin 8) (r q : Fin 32), s.strandReady c n g [r] [q] →
    let t := s.correctRegs [r]
    let put (v : Word) : Result := .next ((s.setK d v).advance 4)
    exec (.kand g d a b) s = put (s.k a &&& s.k b) ∧ exec (.kor g d a b) s = put (s.k a ||| s.k b) ∧
    exec (.kxor g d a b) s = put (s.k a ^^^ s.k b) ∧ exec (.knot g d a) s = put (~~~(s.k a)) ∧ exec (.kmov g d a) s = put (s.k a) ∧
    exec (.kset g d r) s = .next ((t.setK d (t.w r)).advance 4) ∧ exec (.kget g q a) s = .next ((s.setW q (s.k a)).advance 4) ∧
    exec (.kpop g q a) s = .next ((s.setW q (setBits (s.k a))).advance 4) ∧
    ((s.k a).getLsbD 0 = true → exec (.sel g q (a.castLE (by decide)) r) s = .next ((t.setW q (t.w r)).advance 4)) ∧
    ((s.k a).getLsbD 0 = false → exec (.sel g q (a.castLE (by decide)) r) s = .next (s.advance 4)) ∧
    (s.setK 0 (s.w r)).k 0 = BitVec.allOnes 64)

/-- R143, R257–R261: CSRR reads a register that nothing earlier may still set; CSRW writes the fields that are not read-only or reserved, and to
DQBASE or DQLIM empties the deque; MOVS moves message and build registers; TMSET writes a tensor-map entry; BCLR clears the build registers. -/
def Obligations.SpecialRegisters : Prop :=
  ∀ (s : State) (c n : Nat) (g : Fin 8) (r : Fin 32) (m : Fin 16) (d e : Fin 16), s.strandReady c n g [r] [r] →
    flagsOutstanding s c n = false → dequeBusy s c = false → scaledLoads s c n = false →
    let t := s.correctRegs [r]
    (∀ num : BitVec 12, exec (.csrr g num r) s = .next ((s.setW r (csrRead s c n num.toNat)).advance 4)) ∧
    (∀ num : BitVec 12, exec (.csrw g num r) s = .next ((csrWrite t c n num.toNat (t.w r)).advance 4)) ∧
    (m.val < 8 → s.me.mbad.getLsbD m.val = false → exec (.movsRead g m r) s = .next ((s.setW r (s.me.m.get m.val)).advance 4)) ∧
    (8 ≤ m.val → exec (.movsRead g m r) s = .next ((s.setW r (s.me.b.get (m.val - 8))).advance 4)) ∧
    (8 ≤ m.val → exec (.movsWrite g m r) s = .next ((t.modMe (fun x => { x with b := x.b.set (m.val - 8) (t.w r) })).advance 4)) ∧
    (s.me.busyV.getLsbD e = false → bytesInFlight s c n (padBase c + 0x15000 + 64 * d.val) 64 = false →
      exec (.tmset g d e) s = .next ((s.write (padBase c + 0x15000 + 64 * d.val) 64 ((s.v e).toNat % 2 ^ 512)).advance 4)) ∧
    exec (.bclr g) s = .next ((s.modMe (fun x => { x with b := Msg.zero })).advance 4) ∧
    (∀ v : Word, let reads (num : Nat) (x : Word) : Prop := csrRead (csrWrite t c n num v) c n num = x
      reads 0x010 (v &&& 3) ∧ reads 0x011 (v &&& 0x3F) ∧ reads 0x012 (v &&& BitVec.ofNat 64 (2 ^ 56 - 1)) ∧ reads 0x023 (v &&& 0x3FFFFFFE) ∧
      reads 0x040 v ∧ reads 0x041 v ∧ reads 0x044 (v &&& 0x1FFFF) ∧
      csrRead (csrWrite t c n 0x040 v) c n 0x042 = v ∧ csrRead (csrWrite t c n 0x040 v) c n 0x043 = v ∧
      csrRead (csrWrite t c n 0x041 v) c n 0x042 = csrRead t c n 0x040 ∧ csrRead (csrWrite t c n 0x041 v) c n 0x043 = csrRead t c n 0x040 ∧
      ∀ num, num ∉ [0x010, 0x011, 0x012, 0x023, 0x040, 0x041, 0x044] → csrWrite t c n num v = t)

/-- R208, Table 5: the 16-bit forms of scalar instructions on w8 to w15, two bytes long. -/
def Obligations.ShortScalarForms : Prop :=
  ∀ (s : State) (p q : Fin 8) (i : BitVec 5) (j : BitVec 8) (m : Fin 32), s.ready 0 [8 + p.val, 8 + q.val] [8 + p.val] →
    let t := s.correctRegs [8 + p.val, 8 + q.val]
    let u := s.correctRegs [8 + q.val]
    let x := t.w (8 + p.val)
    let y := t.w (8 + q.val)
    let put (v : Word) : Result := .next ((t.setW (8 + p.val) v).advance 2)
    let one (v : Word) : Result := .next ((u.setW (8 + p.val) v).advance 2)
    exec (.addC p q) s = put (x + y) ∧ exec (.subC p q) s = put (x - y) ∧ exec (.andC p q) s = put (x &&& y) ∧
    exec (.orC p q) s = put (x ||| y) ∧ exec (.xorC p q) s = put (x ^^^ y) ∧ exec (.shlC p q) s = put (x <<< (y.toNat % 64)) ∧
    exec (.shrC p q) s = put (x >>> (y.toNat % 64)) ∧ exec (.sarC p q) s = put (x.sshiftRight (y.toNat % 64)) ∧
    exec (.mulC p q) s = put (x * y) ∧ exec (.movC p q) s = one (u.w (8 + q.val)) ∧
    exec (.addiC i p q) s = one (u.w (8 + q.val) + immOf u.imx 5 i.toNat) ∧
    exec (.shliC m p q) s = one (u.w (8 + q.val) <<< m.val) ∧
    exec (.moviC j p) s = .next ((s.setW (8 + p.val) (immOf s.imx 8 j.toNat)).advance 2)


/-! ## The memory path (chapters 2, 4, 12 and 17) -/

/-- R52, R221, R222, R225–R227, Table 5: a load whose one piece passes its checks is put into flight: LD and LDN of 1 to 8 bytes at
w(a) + offset × size, LDA at w(a) as an acquire, LDP of 16 bytes at w(a) + offset × 8, and the 16-bit LD.64 and LD.32. -/
def Obligations.LoadsIssue : Prop :=
  ∀ (s : State) (c n : Nat) (g : Fin 8) (o : BitVec 10) (i : Fin 32) (z : Fin 4) (y : Fin 3) (sc : Scope) (d a : Fin 32) (p q : Fin 8)
    (u : State) (ps : List Piece),
    let t := s.correctRegs [a]
    let v := s.correctRegs [8 + q.val]
    let ea (scale : Nat) : Nat := effAddr (t.w a) ((immOf t.imx 10 o.toNat).toInt * scale)
    let ask (t : State) (sync : Bool) (va k : Nat) : Prop := t.passes c n .load .load sync [⟨va, k, 0, 0, 0⟩] u ps
    let run (len : Nat) (dest : AccDest) : Result := .next (launchAcc u c n len .load false .strand .none dest ps)
    (s.strandReady c n g [a] [d, d + 1] →
      (ask t false (ea (2 ^ z.val)) (2 ^ z.val) → exec (.ld g o z d a) s = run 4 (.w d (2 ^ z.val) true)) ∧
      (ask t false (ea (2 ^ y.val)) (2 ^ y.val) → exec (.ldn g o y d a) s = run 4 (.w d (2 ^ y.val) false)) ∧
      (ask t false (ea 8) 16 → exec (.ldp g o d a) s = run 4 (.pair d)) ∧
      (ask t true (effAddr (t.w a) 0) (2 ^ z.val) → exec (.lda g sc z d a) s =
        .next (launchAcc u c n 4 .load true sc .acquire (.w d (2 ^ z.val) false) ps))) ∧
    (s.strandReady c n 0 [8 + q.val] [8 + p.val] →
      (ask v false (effAddr (v.w (8 + q.val)) (8 * i.val : Nat)) 8 → exec (.ld64C i p q) s = run 2 (.w (8 + p.val) 8 true)) ∧
      (ask v false (effAddr (v.w (8 + q.val)) (4 * i.val : Nat)) 4 → exec (.ld32C i p q) s = run 2 (.w (8 + p.val) 4 true)))

/-- R221, R222, R225–R227, R343, Table 5: a store whose one piece passes its checks is put into flight with the bytes it stores: the
low bytes of w(d), the pair of STP, the bytes of STL as a release, the 64 zeros of ZERO, and the 16-bit forms. -/
def Obligations.StoresIssue : Prop :=
  ∀ (s : State) (c n : Nat) (g : Fin 8) (o : BitVec 10) (i : Fin 32) (z : Fin 4) (sc : Scope) (d a : Fin 32) (p q : Fin 8)
    (u : State) (ps : List Piece),
    let t := s.correctRegs [a, d]
    let x := s.correctRegs [a, d, d.val + 1]
    let y := s.correctRegs [a]
    let v := s.correctRegs [8 + q.val, 8 + p.val]
    let ea (t : State) (scale : Nat) : Nat := effAddr (t.w a) ((immOf t.imx 10 o.toNat).toInt * scale)
    let ask (t : State) (sync : Bool) (w : Want) : Prop := t.passes c n .store .store sync [w] u ps
    let run (len : Nat) : Result := .next (launchAcc u c n len .store false .strand .none .none ps)
    let low (w : Word) (k : Nat) : Nat := w.toNat % 2 ^ (8 * k)
    (s.strandReady c n g [a, d, d.val + 1] [] →
      (ask t false ⟨ea t (2 ^ z.val), 2 ^ z.val, low (t.w d) (2 ^ z.val), 0, 0⟩ → exec (.st g o z d a) s = run 4) ∧
      (ask x false ⟨ea x 8, 16, (x.w d).toNat + 2 ^ 64 * (x.w (d.val + 1)).toNat, 0, 0⟩ → exec (.stp g o d a) s = run 4) ∧
      (ask t true ⟨effAddr (t.w a) 0, 2 ^ z.val, low (t.w d) (2 ^ z.val), 0, 0⟩ →
        exec (.stl g sc z a d) s = .next (launchAcc u c n 4 .store true sc .release .none ps)) ∧
      (ask y false ⟨effAddr (y.w a) 0, 64, 0, 1, 0⟩ → exec (.zero g a) s = run 4)) ∧
    (s.strandReady c n 0 [8 + q.val, 8 + p.val] [] →
      (ask v false ⟨effAddr (v.w (8 + q.val)) (8 * i.val : Nat), 8, low (v.w (8 + p.val)) 8, 0, 0⟩ → exec (.st64C i p q) s = run 2) ∧
      (ask v false ⟨effAddr (v.w (8 + q.val)) (4 * i.val : Nat), 4, low (v.w (8 + p.val)) 4, 0, 0⟩ → exec (.st32C i p q) s = run 2))

/-- R230: an atomic whose piece passes the checks of R222 is put into flight as a synchronisation access at its scope and order,
with w(b) as its operand and, for ATCAS, w(d) as its comparand; the handler numbers are those of R380. -/
def Obligations.AtomicsIssue : Prop :=
  ∀ (s : State) (c n : Nat) (g : Fin 8) (o : Order) (sc : Scope) (d a b : Fin 32) (u : State) (ps : List Piece),
    s.strandReady c n g [a, b, d] [d] →
    let t := s.correctRegs [a, b]
    let x := s.correctRegs [a, b, d]
    let ask (h k : Nat) (t : State) (cmp : Nat) : Prop :=
      t.passes c n .atomic (.atomic h) true [⟨effAddr (t.w a) 0, k, (t.w b).toNat, cmp, 0⟩] u ps
    let run (h k : Nat) : Result := .next (launchAcc u c n 4 (.atomic h) true sc o (.w d k false) ps)
    (ask 2 8 t 0 → exec (.atadd g o sc d a b) s = run 2 8) ∧ (ask 3 8 t 0 → exec (.atand g o sc d a b) s = run 3 8) ∧
    (ask 4 8 t 0 → exec (.ator g o sc d a b) s = run 4 8) ∧ (ask 5 8 t 0 → exec (.atxor g o sc d a b) s = run 5 8) ∧
    (ask 6 8 t 0 → exec (.atmin g o sc d a b) s = run 6 8) ∧ (ask 7 8 t 0 → exec (.atmax g o sc d a b) s = run 7 8) ∧
    (ask 8 8 t 0 → exec (.atminn g o sc d a b) s = run 8 8) ∧ (ask 9 8 t 0 → exec (.atmaxn g o sc d a b) s = run 9 8) ∧
    (ask 10 8 t 0 → exec (.atswp g o sc d a b) s = run 10 8) ∧
    (ask 11 8 x (x.w d).toNat → exec (.atcas g o sc d a b) s = run 11 8) ∧
    (ask 12 8 t 0 → exec (.atfaddFp64 g o sc d a b) s = run 12 8) ∧
    (ask 13 4 t 0 → exec (.atfaddFp32 g o sc d a b) s = run 13 4)

/-- R52, R224: putting an access into flight writes no memory and no register. The access carries its pieces; PC moves on past the instruction if
the access does not hold its strand, and otherwise the strand waits at it. The model's own reading enters by log 15. -/
def Obligations.AccessInFlight : Prop :=
  ∀ (s : State) (c n len : Nat) (op : AccOp) (sync : Bool) (sc : Scope) (o : Order) (dest : AccDest) (ps : List Piece),
    s.cur = .strand c n → (s.core c).replay = none →
    let t := launchAcc s c n len op sync sc o dest ps
    ∃ a : Acc, t.accs = s.accs ++ [a] ∧ a.pieces = ps ∧ a.op = op ∧ a.dest = dest ∧ a.scope = sc ∧ a.ord = o ∧ a.core = c ∧
      a.strand = n ∧ a.frame = (s.strand c n).frame ∧ t.mem = s.mem ∧
      (a.blocking = true → (t.strand c n).wait = .access a.id ∧ (t.strand c n).pc = (s.strand c n).pc) ∧
      (a.blocking = false → (t.strand c n).pc = (s.strand c n).pc + BitVec.ofNat 64 len ∧
        ∀ r k signed, dest = .w r k signed → r < 32 → t.waitsAt c n r = true)

/-- R54, R61, R68, R122: an access's piece that may be performed now, with earlier commands on the bank done where its page carries FO,
is performed at its home by L2_ACCESS, FO_ACCESS or SCRATCHPAD_ACCESS. Where the port and the scope checker let it through and it meets no
poison, the piece is done, and a load of HBM has read the bytes that stand there. PREFETCH brings a line of a frame on which the prefetcher
has trained into its slice. -/
def Obligations.PiecesArePerformed : Prop :=
  (∀ (s : State) (r i : Nat) (a : Acc) (p : Piece), s.acc? r = some a → a.pieces[i]? = some p → pieceReady s a i p = true →
    channelReady s a.dom a.seq p = true →
    let v := releaseFor s a
    let u := performAt v a p
    let runs (e : Instr) : Prop := exec e s = .next (setPiece u.1 r i p u.2) ∧
      (portRefuses v a p = none → (a.sync = true → v.admits p.pa a.scope (partyOf a.core a.strand) = true) →
        (a.op ≠ .store → v.poisonMet false p.pa p.n = none) →
        ∃ t x b, exec e s = .next t ∧ t.acc? r = some b ∧ b.pieces[i]? = some { p with got := x, done := true } ∧ b.refused = none ∧
          (a.op = .load → inPad p.pa = false → x = v.read p.pa p.n))
    (p.place = .pad → runs (.scratchpadAccess r i 1)) ∧ (p.place = .fo → runs (.foAccess r i 1)) ∧ (p.place = .l2 → runs (.l2Access r i 1))) ∧
  (∀ (s : State) (g pa x dom : Nat), isHbm pa = true → paPkg pa = g →
    (s.die (dieOfSlice (homeSlice pa))).trained.find? (fun t => decide (t.1 = pa / 65536)) = some (x, dom) →
    exec (.prefetch g pa) s = .next (useLine s dom (pa / 64 * 64) 0 false))

/-- R223, R225, R230, R341: at its home in HBM an admitted access that meets no poison reads the bytes that stand there. A load
changes no byte; a store writes its bytes and no other; an atomic returns the old value and writes the operation's result where it
has one, and no other byte. -/
def Obligations.AccessEffect : Prop :=
  ∀ (s : State) (a : Acc) (p : Piece), inPad p.pa = false → p.place ≠ .pad → (a.sync = true → s.admits p.pa a.scope (partyOf a.core a.strand) = true) →
    (a.op ≠ .store → s.poisonedAt p.pa p.n = none) →
    let t := (performAt s a p).1
    (a.op = .load → (performAt s a p).2 = .ok (s.read p.pa p.n) ∧ t.mem = s.mem) ∧
    (a.op = .store → (performAt s a p).2 = .ok 0 ∧ t.read p.pa p.n = p.data % 2 ^ (8 * p.n) ∧
      ∀ x, (x < p.pa ∨ p.pa + p.n ≤ x) → t.byteAt x = s.byteAt x) ∧
    (∀ h, a.op = .atomic h → (performAt s a p).2 = .ok (s.read p.pa p.n) ∧
      (∀ v, atomicNew h (s.read p.pa p.n) p.data p.cmp = some v → t.read p.pa p.n = v % 2 ^ (8 * p.n)) ∧
      (atomicNew h (s.read p.pa p.n) p.data p.cmp = none → t.mem = s.mem) ∧
      ∀ x, (x < p.pa ∨ p.pa + p.n ≤ x) → t.byteAt x = s.byteAt x)

/-- R224, R225: the reply to a load of up to 8 bytes that was performed on the own package writes the zero-extended or sign-extended
bytes to the frame word of its register, and nothing else in memory; a load that held its strand retires then, and one that did not
makes its register ready. -/
def Obligations.LoadReplies : Prop :=
  ∀ (s : State) (a : Acc) (r d k : Nat) (signed : Bool) (p : Piece),
    s.acc? r = some a → a.pieces = [p] → p.done = true → p.place ≠ .remote → a.refused = none → a.dest = .w d k signed → d < 32 →
    rspStopped s a.core = false → (s.strand a.core a.strand).act = a.act → (s.strand a.core a.strand).mode ≠ .free →
    ∃ t, exec (.loadReply r) s = .next t ∧
      t.read (regAddr a.core a.frame d) 8 =
        (if signed then BitVec.ofInt 64 (signedOf (8 * k) p.got) else BitVec.ofNat 64 (p.got % 2 ^ (8 * k))).toNat ∧
      (∀ x, (x < regAddr a.core a.frame d ∨ regAddr a.core a.frame d + 8 ≤ x) → t.byteAt x = s.byteAt x) ∧
      (a.blocking = true → (t.strand a.core a.strand).pc = (s.strand a.core a.strand).pc + BitVec.ofNat 64 a.len ∧
        (t.strand a.core a.strand).wait = .none) ∧
      (a.blocking = false → (t.strand a.core a.strand).pc = (s.strand a.core a.strand).pc ∧
        (t.strand a.core a.strand).busyW = (s.strand a.core a.strand).busyW &&& ~~~(BitVec.ofNat 32 (2 ^ d)))

/-- R222, R226, R227: an access that is not aligned, or whose address is refused by the translation, traps at the address with the
cause and nothing is put into flight. The model's own reading enters by log 106 (the domain of a foreman strand's address). -/
def Obligations.AccessTraps : Prop :=
  ∀ (s : State) (c n len : Nat) (u : Use) (op : AccOp) (sync : Bool) (sc : Scope) (o : Order) (dest : AccDest) (w : Want)
    (t : State) (r : Refused),
    (w.va % w.n ≠ 0 → issue s c n len u op sync sc o dest [w] = s.trapWith 0x06 0 0 (BitVec.ofNat 64 w.va)) ∧
    (w.va % w.n = 0 → translateFor s c (s.strandDomain c w.va) w.va u = (t, .error r) → r.cause ≠ 0x0A →
      issue s c n len u op sync sc o dest [w] = t.trapWith r.cause 0 r.kind (BitVec.ofNat 64 w.va))

/-- R227–R229: PFM retires after its check. A fence of a strand with no load in flight and no matrix command before it retires, and
a release fence marks the accesses before it. FENCEP stores the 2,048 bytes of the sticky bits, writes their number to w(d) and
clears them. -/
def Obligations.Fences : Prop :=
  ∀ (s : State) (c n : Nat) (g : Fin 8) (d a : Fin 32) (o : Order) (sc : Scope) (u : State) (ps : List Piece),
    s.strandReady c n g [a] [d] → loadsOutstanding s c n = false →
    (commandsBefore s c (s.strand c n).act s.fresh).any (·.accesses) = false →
    let t := s.correctRegs [a]
    let x := stickyImage (t.strand c n).sticky
    let ea := effAddr (t.w a) 0
    (t.passes c n .load .load false [⟨ea, 1, 0, 0, 0⟩] u ps →
      ∃ v, exec (.pfm g a) s = .next v ∧ v.mem = s.mem ∧ (v.strand c n).pc = (s.strand c n).pc + 4) ∧
    (∃ v, exec (.fence g o sc) s = .next v ∧ (v.strand c n).pc = (s.strand c n).pc + 4 ∧ v.mem = s.mem ∧
      (o.rel = true → (v.strand c n).relMark = s.fresh)) ∧
    (remoteDone t c n = true →
      t.passes c n .store .store false
        ((List.range 32).map (fun i => ⟨(ea + 64 * i) % 2 ^ 56, 64, x / 2 ^ (512 * i) % 2 ^ 512, 0, i⟩)) u ps →
      let v := u.modStrand c n (fun t => { t with sticky := [] })
      let count : Nat := (t.strand c n).sticky.length
      ((∀ p ∈ ps, p.place ≠ .pad) →
        exec (.fencep g d a) s = .next (launchAcc (v.setW d (BitVec.ofNat 64 count)) c n 4 .store false .strand .none .none ps)) ∧
      ((∃ p ∈ ps, p.place = .pad) →
        exec (.fencep g d a) s = .next (launchAcc v c n 4 .store false .strand .none (.fencep d (t.strand c n).sticky) ps)))

/-! ## Mortar objects (chapters 5 and 12) -/

/-- R84, R231–R234: a mortar instruction at an aligned address of an M page sends one request to the object's home, with the
operation's code, the scope and order of the instruction and its operand, and holds its strand; PC and memory stay as they are. -/
def Obligations.MortarRequests : Prop :=
  (∀ (s : State) (c n : Nat) (g : Fin 8) (o : Order) (sc : Scope) (d a b : Fin 32) (x : Fin 16),
    s.strandReady c n g [a, b, d] [d, d.val + 1, d.val + 2] → (s.strand c n).busyV = 0 → (s.strand c n).audit = false →
    let ea := effAddr (s.w a) 0
    ea % 64 = 0 →
    let sends (i : Instr) (rs : List Nat) (op r v : Nat) (arg : State → MortarArg) : Prop := ∀ u p,
      translateFor (s.correctRegs rs) c (s.core c).domain ea .mortar = (u, .ok p) →
        exec i s = .next (sendMortar u c n op o sc p.pa ea r v (arg u))
    let none : State → MortarArg := fun _ => wordArg 0
    let whole : State → MortarArg := fun u => wordArg (u.w b)
    let half : State → MortarArg := fun u => wordArg (BitVec.ofNat 64 ((u.w b).toNat % 2 ^ 32))
    let slot : State → MortarArg := fun u => ⟨u.w d, (u.v x).toNat % 2 ^ 256, 0, 0, 0⟩
    (∀ u p w y, translateFor (s.correctRegs [a]) c (s.core c).domain ea .mortar = (u, .ok p) → initArg x c n u = (w, .ok y) →
      exec (.minit g o sc d a x) s = .next (sendMortar w c n 0x00 o sc p.pa ea d 0 y)) ∧
    sends (.mread g o sc x a) [a] 0x01 0 x none ∧ sends (.mcancel g o sc d a b) [a, b] 0x02 d 0 whole ∧
    sends (.mctrAdd g o sc d a b) [a, b] 0x10 d 0 whole ∧ sends (.mctrFadd g o sc d a b) [a, b] 0x11 d 0 whole ∧
    sends (.mctrWait g o sc d a b) [a, b] 0x12 d 0 whole ∧ sends (.mctrChunk g o sc d a) [a] 0x13 d 0 none ∧
    sends (.mbarArrive g o sc d a b) [a, b] 0x20 d 0 half ∧ sends (.mbarAwait g o sc d a b) [a, b] 0x21 d 0 half ∧
    sends (.mbarWaitp g o sc d a b) [a, b] 0x22 d 0 half ∧ sends (.mlockAcq g o sc d a) [a] 0x30 d 0 none ∧
    sends (.mlockTry g o sc d a) [a] 0x31 d 0 none ∧ sends (.mlockRel g o sc d a) [a] 0x32 d 0 none ∧
    sends (.mqueEnq g o sc d a x) [a, d] 0x40 d 0 slot ∧ sends (.mqueTenq g o sc d a x) [a, d] 0x41 d 0 slot ∧
    sends (.mqueEnqr g o sc d a) [a] 0x42 d 0 none ∧ sends (.mqueTenqr g o sc d a) [a] 0x43 d 0 none ∧
    sends (.mqueCommit g o sc d a b) [a, b] 0x44 d 0 half ∧ sends (.mqueDeq g o sc d a x) [a] 0x45 d x none ∧
    sends (.mqueTdeq g o sc d a x) [a] 0x46 d x none ∧ sends (.mqueDeqr g o sc d a) [a] 0x47 d 0 none ∧
    sends (.mqueTdeqr g o sc d a) [a] 0x48 d 0 none ∧ sends (.mqueFree g o sc d a b) [a, b] 0x49 d 0 half ∧
    sends (.mcondWait g o sc d a) [a] 0x50 d 0 none ∧ sends (.mcondSig g o sc d a) [a] 0x51 d 0 none ∧
    sends (.mcondBcast g o sc d a) [a] 0x52 d 0 none) ∧
  (∀ (s : State) (c n op : Nat) (o : Order) (sc : Scope) (pa ea d v : Nat) (x : MortarArg),
    let t := sendMortar s c n op o sc pa ea d v x
    ∃ r : MReq, t.mreqs = s.mreqs ++ [r] ∧ r.op = op ∧ r.line = pa ∧ r.arg = x.arg ∧ r.data = x.data ∧ r.scope = sc ∧ r.ord = o ∧
      (t.strand c n).wait = .mortar r.id d v ea ∧ (t.strand c n).pc = (s.strand c n).pc ∧ t.mem = s.mem)

/-- R82, R88, R90–R93, R95, R100: what an operation does to a counter, barrier or lock that its request finds at its home, and to any object for
INIT, READ and CANCEL: the object after it, the status and the results; or the request parks. R90: INIT with type 0 frees a line that nothing
waits on, whatever it holds; INIT of another type on a free object makes the object of its parameters, or answers BADARG where one is out of
range. LOCK.REL hands the lock to the request with the next ticket, and CANCEL by a selector takes the requests of one core. The model's own
reading enters by log 27 and 28. -/
def Obligations.MortarOperations : Prop :=
  (∀ (s : State) (r : Nat) (q : MReq),
    let u := lineState (homeState s q) q
    let o := objAt (homeState s q) q.line
    let done (o : MObj) (r1 : Word) : Result := .next (finishAt u q o 0 r1 0 0)
    let same (status : Nat) (r1 : Word) : Result := .next (sameAt u q status r1 0)
    let parks (i : Instr) (o : MObj) (ticket : Nat) : Prop := ∀ idx, freeWait u q.line = some idx → exec i s = .next (enlistAt u q o ticket idx)
    let value : Word := BitVec.ofNat 64 (hodField o 8 8)
    let phase := hodField o 8 4
    let pending := hodField o 16 4
    let count := q.arg.toNat
    let next := hodField o 8 4
    let serving := hodField o 12 4
    let num (x : Nat) : Word := BitVec.ofNat 64 x
    (s.homeReady r 0x00 0 q → exec (.mortarInit r) s = same 0x08 0) ∧
    (s.homeReady r 0x01 0 q → exec (.mortarRead r) s = .next (sameAt u q 0 0 o)) ∧
    (s.homeReady r 0x02 0 q → q.arg = 0 →
      let l := waitsOn u q.line
      let v := renumber (l.foldl (fun s e => wake s e 0x04 0 0 0) u) q.line o
      exec (.mortarCancel r) s = .next (finishAt v.1 q v.2 0 (num l.length) 0 0)) ∧
    (s.homeReady r 0x02 0 q → bit q.arg.toNat 0 = true → fieldOf q.arg 39 1 = 0 →
      let l := (waitsOn u q.line).filter (fun e => decide (fieldOf e.req.ident 63 50 = fieldOf q.arg 63 50 ∧
        fieldOf e.req.ident 49 40 = fieldOf q.arg 49 40 ∧ fieldOf e.req.ident 39 36 ≠ 4))
      let v := renumber (l.foldl (fun s e => wake s e 0x04 0 0 0) u) q.line o
      exec (.mortarCancel r) s = .next (finishAt v.1 q v.2 0 (num l.length) 0 0)) ∧
    (s.homeReady r 0x02 0 q → q.arg ≠ 0 → bit q.arg.toNat 0 = false ∨ fieldOf q.arg 39 1 ≠ 0 →
      exec (.mortarCancel r) s = same 0x07 0) ∧
    (s.homeReady r 0x10 1 q → exec (.ctrAdd r) s = done (setHodField o 8 8 (value + q.arg).toNat) 0) ∧
    (s.homeReady r 0x11 1 q → exec (.ctrFadd r) s = done (setHodField o 8 8 (value + q.arg).toNat) value) ∧
    (s.homeReady r 0x12 1 q → q.arg.toInt ≤ value.toInt → exec (.ctrWait r) s = done o value) ∧
    (s.homeReady r 0x12 1 q → value.toInt < q.arg.toInt → parks (.ctrWait r) o 0) ∧
    (s.homeReady r 0x13 1 q → nextChunk o = none → exec (.ctrChunk r) s = same 0x03 value) ∧
    (∀ at_ len, s.homeReady r 0x13 1 q → nextChunk o = some (at_, len) →
      exec (.ctrChunk r) s = .next (finishAt u q (setHodField o 8 8 (at_ + len)) 0 (num at_) (num len) 0)) ∧
    (s.homeReady r 0x20 2 q → 0 < count → count < pending →
      exec (.barArrive r) s = done (setHodField o 16 4 (pending - count)) (num phase)) ∧
    (s.homeReady r 0x20 2 q → 0 < count → count = pending →
      exec (.barArrive r) s = done (setHodField (setHodField o 16 4 (hodField o 12 4)) 8 4 (phase + 1)) (num phase)) ∧
    (s.homeReady r 0x20 2 q → count = 0 → exec (.barArrive r) s = same 0x07 0) ∧
    (s.homeReady r 0x20 2 q → 0 < count → pending < count → exec (.barArrive r) s = same 0x06 0) ∧
    (s.homeReady r 0x21 2 q → count = 0 → exec (.barAwait r) s = same 0x07 0) ∧
    (s.homeReady r 0x21 2 q → 0 < count → pending < count → exec (.barAwait r) s = same 0x06 0) ∧
    (s.homeReady r 0x21 2 q → 0 < count → count = pending →
      exec (.barAwait r) s = done (setHodField (setHodField o 16 4 (hodField o 12 4)) 8 4 (phase + 1)) (num phase)) ∧
    (s.homeReady r 0x21 2 q → 0 < count → count < pending → parks (.barAwait r) (setHodField o 16 4 (pending - count)) phase) ∧
    (s.homeReady r 0x22 2 q → passed o count = true → exec (.barWaitp r) s = done o (num phase)) ∧
    (s.homeReady r 0x22 2 q → passed o count = false → parks (.barWaitp r) o count) ∧
    (s.homeReady r 0x30 3 q → next = serving →
      exec (.lockAcq r) s = done (setHodField (setHodField o 8 4 (next + 1)) 16 8 q.ident.toNat) 0) ∧
    (s.homeReady r 0x30 3 q → next ≠ serving → parks (.lockAcq r) (setHodField o 8 4 (next + 1)) next) ∧
    (s.homeReady r 0x31 3 q → next = serving →
      exec (.lockTry r) s = done (setHodField (setHodField o 8 4 (next + 1)) 16 8 q.ident.toNat) 0) ∧
    (s.homeReady r 0x31 3 q → next ≠ serving → exec (.lockTry r) s = same 0x01 0) ∧
    (s.homeReady r 0x32 3 q → next = serving → exec (.lockRel r) s = same 0x05 0) ∧
    (s.homeReady r 0x32 3 q → next ≠ serving → waitsOn u q.line = [] →
      exec (.lockRel r) s = done (setHodField (setHodField o 12 4 (serving + 1)) 16 8 0) 0) ∧
    (∀ e, s.homeReady r 0x32 3 q → next ≠ serving →
      (waitsOn u q.line).find? (fun e => decide (e.ticket = (serving + 1) % 2 ^ 32)) = some e →
      exec (.lockRel r) s =
        .next (finishAt (wake u e 0 0 0 0) q (setHodField (setHodField o 12 4 (serving + 1)) 16 8 e.req.ident.toNat) 0 0 0 0)) ∧
    (s.homeReady r 0x50 5 q → parks (.condWait r) o 0) ∧
    (s.homeReady r 0x51 5 q → exec (.condSig r) s =
      .next (finishAt (moveWaiters u ((waitsOn u q.line).take 1) o) q o 0 (num ((waitsOn u q.line).take 1).length) 0 0)) ∧
    (s.homeReady r 0x52 5 q → exec (.condBcast r) s =
      .next (finishAt (moveWaiters u (waitsOn u q.line) o) q o 0 (num (waitsOn u q.line).length) 0 0))) ∧
  (∀ (s : State) (r : Nat) (q : MReq), s.req? r 0 false = some q → q.ready s = true → q.op = 0 →
    let u := lineState (homeState s q) q
    (q.data % 256 = 0 → waitsOn u q.line = [] → exec (.mortarInit r) s = .next (finishAt u q 0 0 0 0 0)) ∧
    (q.data % 256 = 0 → waitsOn u q.line ≠ [] → exec (.mortarInit r) s = .next (sameAt u q 0x08 0 0)) ∧
    (q.data % 256 ≠ 0 → (homeState s q).admits q.line q.scope q.party = true → (homeState s q).poisonedAt q.line 64 = none →
      objType (objAt (homeState s q) q.line) = 0 →
      (∀ o, initObj u q = some o → exec (.mortarInit r) s = .next (finishAt u q o 0 0 0 0)) ∧
      (initObj u q = none → exec (.mortarInit r) s = .next (sameAt u q 0x07 0 0))))

/-- R87, R94: what an operation does to a bounded queue at its home. With room an enqueue writes its slot and commits it, and a
reserve takes an index; with work a dequeue reads its slot and frees it, and a claim takes an index; without room or work the plain forms park
and the try forms answer FULL or EMPTY. A length or an index out of range answers BADARG. -/
def Obligations.QueueOperations : Prop :=
  ∀ (s : State) (r : Nat) (q : MReq),
    let u := lineState (homeState s q) q
    let o := objAt (homeState s q) q.line
    let len := q.arg.toNat
    let done (u : State) (o : MObj) (r1 bytes : Nat) : Result := .next (finishAt u q o 0 (BitVec.ofNat 64 r1) 0 bytes)
    let same (status : Nat) : Result := .next (sameAt u q status 0 0)
    let parks (i : Instr) : Prop := ∀ idx, freeWait u q.line = some idx → exec i s = .next (enlistAt u q o 0 idx)
    let e := enqueue u q.dom q.line o len q.data
    let in_ (i : Nat) : Nat := idxSub i (queTail o)
    let out (i : Nat) : Nat := idxSub i (queHead o)
    (0 < len → len ≤ moved o → hasRoom o = true →
      (s.homeReady r 0x40 4 q → exec (.queEnq r) s = done e.1 e.2 0 0) ∧
      (s.homeReady r 0x41 4 q → exec (.queTenq r) s = done e.1 e.2 0 0)) ∧
    (0 < len → len ≤ moved o → hasRoom o = false →
      (s.homeReady r 0x40 4 q → parks (.queEnq r)) ∧ (s.homeReady r 0x41 4 q → exec (.queTenq r) s = same 0x02)) ∧
    (len = 0 ∨ moved o < len →
      (s.homeReady r 0x40 4 q → exec (.queEnq r) s = same 0x07) ∧ (s.homeReady r 0x41 4 q → exec (.queTenq r) s = same 0x07)) ∧
    (hasRoom o = false →
      (s.homeReady r 0x42 4 q → parks (.queEnqr r)) ∧ (s.homeReady r 0x43 4 q → exec (.queTenqr r) s = same 0x02)) ∧
    (s.homeReady r 0x44 4 q → in_ (queResv o) ≤ in_ len ∨ bit (hodField o 32 8) (in_ len) = true →
      exec (.queCommit r) s = same 0x07) ∧
    (hasRoom o = true →
      (s.homeReady r 0x42 4 q → exec (.queEnqr r) s = done u (setHodField o 26 4 (queResv o + 1)) (queResv o) 0) ∧
      (s.homeReady r 0x43 4 q → exec (.queTenqr r) s = done u (setHodField o 26 4 (queResv o + 1)) (queResv o) 0)) ∧
    (s.homeReady r 0x44 4 q → in_ len < in_ (queResv o) → bit (hodField o 32 8) (in_ len) = false →
      exec (.queCommit r) s = done u (queCommitted o len) 0 0) ∧
    (∀ v o' bytes i, hasWork o = true → dequeue u q o = (v, some (o', bytes, i)) →
      (s.homeReady r 0x45 4 q → exec (.queDeq r) s = done v o' i bytes) ∧
      (s.homeReady r 0x46 4 q → exec (.queTdeq r) s = done v o' i bytes)) ∧
    (hasWork o = false →
      (s.homeReady r 0x45 4 q → parks (.queDeq r)) ∧ (s.homeReady r 0x46 4 q → exec (.queTdeq r) s = same 0x03) ∧
      (s.homeReady r 0x47 4 q → parks (.queDeqr r)) ∧ (s.homeReady r 0x48 4 q → exec (.queTdeqr r) s = same 0x03)) ∧
    (s.homeReady r 0x49 4 q → out (queClaim o) ≤ out len ∨ bit (hodField o 40 8) (out len) = true →
      exec (.queFree r) s = same 0x07) ∧
    (hasWork o = true →
      (s.homeReady r 0x47 4 q → exec (.queDeqr r) s = done u (setHodField o 18 4 (queClaim o + 1)) (queClaim o) 0) ∧
      (s.homeReady r 0x48 4 q → exec (.queTdeqr r) s = done u (setHodField o 18 4 (queClaim o + 1)) (queClaim o) 0)) ∧
    (s.homeReady r 0x49 4 q → out len < out (queClaim o) → bit (hodField o 40 8) (out len) = false →
      exec (.queFree r) s = done u (queFreed o len) 0 0)

/-- R84, R91, R96: an operation on a counter sends its reply and then wakes, with the counter's new value, exactly the parked requests
whose threshold that value has reached; the others stay parked. -/
def Obligations.CounterWakes : Prop :=
  ∀ (s : State) (q : MReq) (o : MObj) (status : Nat) (r1 : Word), objType o = 1 →
    let t := finishAt s q o status r1 0 0
    let value : Word := BitVec.ofNat 64 (hodField o 8 8)
    (∃ p ∈ t.mreps, p.id = q.id ∧ p.status = status ∧ p.r1 = r1 ∧ p.wake = false) ∧
    (∀ e ∈ waitsOn s q.line, e.req.arg.toInt ≤ value.toInt →
      e ∉ waitsOn t q.line ∧ ∃ p ∈ t.mreps, p.id = e.req.id ∧ p.status = 0 ∧ p.r1 = value ∧ p.wake = true) ∧
    (∀ e ∈ waitsOn s q.line, value.toInt < e.req.arg.toInt → e ∈ waitsOn t q.line)

/-- R95, R99, R232, R233: a reply, or the wake-up of a parked request, that its strand waits for writes status and result to w(d) and w(d + 1),
for MCTR.CHUNK also w(d + 2), and for MREAD the image to v(d), and retires the instruction; one that carries a cause traps. A wake-up needs a core
that is not pre-empted, and so does a reply. The OK of the LOCK.REL sent for a COND.WAIT leaves the waiter parked; another status takes it off
the list, and its MCOND.WAIT completes with that status. A moved waiter takes a free lock. R88, R102, R380,
R381: a request with a code outside the table completes with UNSUPPORTED. A request of another package that the home's port admits goes on to the
home slice, and one that it does not admit is answered REFUSED with no effect on the object; a home whose capability word lacks the operation
answers UNSUPPORTED. The model's own reading enters by log 30, 74 and 77. -/
def Obligations.MortarReplies : Prop :=
  ((∀ (s : State) (r c n d v ea : Nat) (p : MRep),
    s.rep? r = some p → p.id = r → p.iss.strandOf = some (c, n) → (s.strand c n).wait = .mortar r d v ea → (s.strand c n).mode ≠ .free →
    paPkg p.line = corePkg c → p.status < 256 →
    (s.core c).preempted = false → (s.core c).launch = p.launch → rspStopped s c = false → (p.wake = true → wakeDiverted s c r = false) →
    let at_ := regAddr c (s.strand c n).frame d
    let len : Nat := if p.op = 0x13 then 24 else 16
    ∃ t, exec (if p.wake then .wakeUp r else .mortarReply r) s = .next t ∧
      (p.cause = 0 → (t.strand c n).pc = (s.strand c n).pc + 4 ∧ (t.strand c n).wait = .none) ∧
      (p.cause = 0 → p.op = 0x01 → p.status = 0 → t.mem = s.mem ∧ (t.strand c n).vec v = BitVec.ofNat 2048 p.bytes) ∧
      (p.cause = 0 → p.op ≠ 0x01 → t.read at_ 8 = p.status ∧ t.read (at_ + 8) 8 = p.r1.toNat ∧
        (p.op = 0x13 → t.read (at_ + 16) 8 = p.r2.toNat) ∧ ∀ x, (x < at_ ∨ at_ + len ≤ x) → t.byteAt x = s.byteAt x) ∧
      (p.cause ≠ 0 → p.status = 0 → t = trapStrand (s.dropRep p) c n p.cause 0 0 (BitVec.ofNat 64 ea))) ∧
  (∀ (s : State) (r cond waiter : Nat) (p : MRep) (e : WaitEnt),
    s.mreps.find? (fun p => decide (p.id = r) && (match p.iss with | .condRel _ _ => true | _ => false)) = some p →
    p.iss = .condRel cond waiter → (waitsOn s cond).find? (fun e => decide (e.req.id = waiter)) = some e →
    paPkg p.line = paPkg cond → p.cause = 0 →
    (p.status = 0 → exec (.condReleaseReply r) s = .next (s.dropRep p)) ∧
    (p.status ≠ 0 → ∃ t, exec (.condReleaseReply r) s = .next t ∧ e ∉ waitsOn t cond ∧
      ∃ x ∈ t.mreps, x.id = waiter ∧ x.iss = e.req.iss ∧ x.op = 0x50 ∧ x.status = p.status ∧ x.cause = 0 ∧ x.wake = true)) ∧
  (∀ (s : State) (r : Nat) (q : MReq), s.req? r 0x30 true = some q → q.op = 0x30 → q.ready s = true →
    let u := homeState s q
    let v := lineState u q
    let o := objAt u q.line
    u.admits q.line q.scope q.party = true → u.poisonedAt q.line 64 = none → objType o = 3 → lockNext o = lockServing o →
    exec (.condReacquire r) s =
      .next (finishAt v q (setHodField (setHodField o 8 4 (lockNext o + 1)) 16 8 q.ident.toNat) 0 0 0 0))) ∧
  (∀ (s : State) (r : Nat) (q : MReq), q.id = r →
    (s.mreqs.find? (fun q => decide (q.id = r) && !mortarCodes.contains q.op) = some q → q.ready s = true →
      exec (.mortarUnsupported r) s = .next (if (homeState s q).admits q.line q.scope q.party then
        reply (homeState s q) q q.op 0x09 0 0 0 0 false else failAt (homeState s q) q 0x0C)) ∧
    (s.mreqs.find? (fun q => decide (q.id = r)) = some q → q.admitted = false → paPkg q.line ≠ q.from_ → q.ordered s = true →
      let u := releaseRemote s q.chargedTo.1 q.chargedTo.2 q.mark q.relSys
      u.linkDown q.from_ (paPkg q.line) = false →
      (portAdmits u q.chargedTo.1 q.dom q.from_ q.line 64 true = true → (q.frees = true ∨ u.admits q.line q.scope q.party = true) →
        u.lacks q.from_ (paPkg q.line) q.feature = true →
        exec (.remoteMortar r) s = .next (reply (u.dropReq q) q q.shown 0x09 0 0 0 0 false)) ∧
      (portAdmits u q.chargedTo.1 q.dom q.from_ q.line 64 true = true → (q.frees = true ∨ u.admits q.line q.scope q.party = true) →
        u.lacks q.from_ (paPkg q.line) q.feature = false →
        exec (.remoteMortar r) s = .next { u with mreqs := u.mreqs.map (fun x => if x = q then { x with admitted := true } else x) }) ∧
      (portAdmits u q.chargedTo.1 q.dom q.from_ q.line 64 true = false →
        exec (.remoteMortar r) s = .next (reply (u.dropReq q) q q.shown 0x0B 0 0 0 0 false))))

/-! ## Copy engines (chapters 6 and 12) -/

/-- R105, R228, R235–R237: CPY, CPYNB and CPX with a request that the checks accept and the strand's earlier accesses performed put it
into the engine's queue of two and retire; CPYNB answers 0 in k(d), or 1 without waiting when the queue is full, and CPY and CPX
wait then. CPQ reads the status word, and CPQ.TAG reads and clears one bit of the abort mask. -/
def Obligations.CopyInstructions : Prop :=
  ∀ (s : State) (c n : Nat) (g k : Fin 8) (d a : Fin 32),
    s.strandReady c n g [a, a.val + 1, a.val + 2, a.val + 3] [d] →
    let t := s.correctRegs [a, a.val + 1, a.val + 2, a.val + 3]
    let u := releaseRemote t c n (t.strand c n).relMark (t.strand c n).relSys
    let v := s.correctRegs [a]
    let tag : Nat := (v.w a).toNat % 256
    let accepts (op : Nat) : Prop := copyRefused t c op (t.strand c n).audit (t.w a) (t.w (a.val + 2)) (t.w (a.val + 3)) = none
    let queued := queueCopy u c n (u.w a) (u.w (a.val + 1)) (u.w (a.val + 2)) (u.w (a.val + 3))
    ((t.core c).copy.q.length < 2 → performedBelow t c n (t.strand c n).relMark = true →
      (accepts 1 → exec (.cpy g a) s = .next (queued.advance 4)) ∧
      (accepts 1 → exec (.cpynb g k a) s = .next ((queued.setK k 0).advance 4)) ∧
      (accepts 2 → exec (.cpx g a) s = .next (queued.advance 4))) ∧
    (2 ≤ (t.core c).copy.q.length →
      (accepts 1 → exec (.cpynb g k a) s = .next ((t.setK k 1).advance 4)) ∧
      (accepts 1 → exec (.cpy g a) s = .next t) ∧ (accepts 2 → exec (.cpx g a) s = .next t)) ∧
    exec (.cpq g d) s = .next ((s.setW d (copyStatus (s.core c).copy)).advance 4) ∧
    exec (.cpqTag g d a) s = .next (((v.setW d (if (v.core c).copy.aborts.getLsbD tag then 1 else 0)).modCore c (fun x =>
      { x with copy := { (v.core c).copy with aborts := (v.core c).copy.aborts &&& ~~~(BitVec.ofNat 256 (2 ^ tag)) } })).advance 4)

/-- R107–R114, R116: the engine's steps on the request at the head of its queue. It becomes active once the strand's earlier accesses and matrix
commands are out of its way, or is refused and ends with ABORTED; it moves a burst at a time; an exchange pairs with its partner's exchange of
the same ordinal; a finished request is recorded, and arrives at its barrier or goes on to its message. R117: a packet of the foreman resumes a
paused request, whose burst is tried again, or aborts it; with no paused request at the head of the engine it is refused. R109, R110, R112: the
writing half of a local burst of unchanged bytes puts them at the destination and changes no other byte of memory; recording a completion sets
LASTTAG, LASTST and the count, and the request's bit of the abort mask where it was aborted; R376: in a replay nothing is sent. A burst between
two places that its engine reaches itself, which pass their checks, moves its bytes, converted where the tags differ, and the cursor and the
count of bytes written go on. The model's own choices enter by log 34 and 79, by log 78 for the address that the report of a refused request
carries, and by log 36 for the strand whose party an arrive and a copy's accesses are charged to. -/
def Obligations.CopyEngineSteps : Prop :=
  ((∀ (s : State) (c : Nat) (q : CopyReq), s.activeCopy c = some q →
    (q.phase = .queued → performedBelow s c q.strand q.mark = true → q.clear s c = true →
      let r := { q with phase := .running }
      let u := s.setCopy c r
      (activationRefused u c r = none → exec (.copyActivate c) s = .next u) ∧
      (∀ cause, activationRefused u c r = some cause →
        exec (.copyActivate c) s = .next (abortCopy (reportCopy u c r cause 0 0 (fieldOf r.w1 55 0)) c r))) ∧
    (q.phase = .running → q.paused = false → q.aborted = false → q.inflight = 0 →
      (∀ p, q.isExchange = false → q.plan s c = .ok p → q.buf = none → q.cursor < q.len →
        exec (.copyBurst c) s = .next (burstIn s c q p)) ∧
      (q.isExchange = true → q.paired = true → exec (.copyBurst c) s = .next (exchangeOut s c q)) ∧
      (∀ p s1 s2 s3 s4 pl pd data out, q.isExchange = false → q.plan s c = .ok p → q.buf = none → q.cursor < q.len → q.fromHost = false →
        let src := (fieldOf q.w1 55 0 + q.cursor) % 2 ^ 56
        let dst := (fieldOf q.w2 55 0 + q.cursor / p.sizes.1 * p.sizes.2) % 2 ^ 56
        translateFor s c (s.core c).domain src .load = (s1, .ok pl) → ownPlace c pl.pa = true → foOpen s1 (s.core c).domain pl = true →
        burstRefused s1 (s.agent c) pl.pa (burstLen q p) false = none → burstRead s1 (s.agent c) 70 pl (burstLen q p) = (s2, .ok data) →
        p.apply s2 c data = some out → translateFor s2 c (s2.core c).domain dst .store = (s3, .ok pd) → ownPlace c pd.pa = true →
        foOpen s3 (s2.core c).domain pd = true → burstHeld s3 pd out = false → burstRefused s3 (s2.agent c) pd.pa out.length true = none →
          burstWrite s3 (s2.agent c) 70 pd out = (s4, none) →
        exec (.copyBurst c) s =
          .next (s4.setCopy c { q with buf := none, cursor := q.cursor + data.length, written := q.written + out.length })) ∧
      (∀ r, q.isExchange = true → q.paired = false → s.lacks (corePkg c) (corePkg (partnerOf c q.w2)) 7 = false →
        (exWithin q.w2 = true → sameArea s c (partnerOf c q.w2) = true) →
        (exWithin q.w2 = false → (Table.get [] (s.die (dieKey c)).pkgset (s.core c).domain).contains (corePkg (partnerOf c q.w2)) = true) →
        (s.core (partnerOf c q.w2)).copy.ended = [] → s.activeCopy (partnerOf c q.w2) = some r → r.isExchange = true →
        r.phase = .running → r.ordinal = q.ordinal → partnerOf (partnerOf c q.w2) r.w2 = c → r.paired = false → r.paused = false →
        r.aborted = false → q.w2 = r.w2 → q.len = r.len →
        (exWithin q.w2 = true →
          fieldOf q.w1 55 0 + coreIdx (partnerOf c q.w2) * 0x80000 = fieldOf r.w1 55 0 + coreIdx c * 0x80000) →
        (exWithin q.w2 = false → fieldOf q.w1 55 0 = fieldOf r.w1 55 0) →
        exec (.cpxPairing c) s =
          .next ((s.setCopy c { q with paired := true }).setCopy (partnerOf c q.w2) { r with paired := true }))) ∧
    (q.phase = .running → q.finished c = true → (s.core c).replay ≠ none → exec (.copyComplete c) s = .next (popCopy (recordCopy s c q) c)) ∧
    (q.phase = .running → q.finished c = true → (s.core c).replay = none →
      exec (.copyComplete c) s = .next (if bit (cmodeOf q.w0) 0 then copyArrive (recordCopy s c q) c q
        else afterArrive (recordCopy s c q) c q)) ∧
    (q.phase = .messaging → 0 < (s.core c).copy.allow →
      exec (.copyCompletionMessage c) s = .next (popCopy ((s.modCopy c (fun e => { e with allow := e.allow - 1 })).post c 0 (copyMessage c q)
        (some (.copy c q.strand)) false none 0 0) c))) ∧
  (∀ (s : State) (r : Nat) (p : Packet), s.packet? r = some p → p.sfn = 0x19 → fieldOf p.target 39 36 = 1 →
    (∀ c q, pausedCopy s p = some (c, q) →
      (p.action = 0 → exec (.copyResume r) s = .next (ackPacket (s.setCopy c { q with paused := false }) p 0)) ∧
      (p.action = 1 → exec (.copyAbort r) s = .next (ackPacket (abortCopy s c q) p 0))) ∧
    (pausedCopy s p = none →
      (p.action = 0 → exec (.copyResume r) s = .next (ackPacket s p 1)) ∧ (p.action = 1 → exec (.copyAbort r) s = .next (ackPacket s p 1))))) ∧
  ((∀ (s : State) (a : Agent) (p : Place53) (l : List Byte), isHbm p.pa = true → isHbm (p.pa + l.length) = true →
    (s.core a.core).replay = none → paPkg p.pa = corePkg a.core → paPkg (p.pa + l.length) = corePkg a.core → p.pa < 2 ^ 53 → l.length ≤ 4096 →
    (burstWrite s a 70 p l).2 = none ∧ (burstWrite s a 70 p l).1.readBytes p.pa l.length = l ∧
      ∀ x, (x < p.pa ∨ p.pa + l.length ≤ x) → (burstWrite s a 70 p l).1.byteAt x = s.byteAt x) ∧
  (∀ (s : State) (c : Nat) (q : CopyReq),
    let e := (s.core c).copy
    let f := ((recordCopy s c q).core c).copy
    f.lastTag = q.tag ∧ f.lastSt = (if q.aborted then 1 else 0) ∧ f.done = (e.done + 1) % 2 ^ 16 ∧
      ∀ i : Nat, i < 256 → f.aborts.getLsbD i = (e.aborts.getLsbD i || (q.aborted && decide (i = q.tag)))))

/-! ## Vector instructions (chapters 9 and 14) -/

/-- R149–R151, R173, R263–R267, R275, Table 5: the element-wise instructions and their 16-bit forms. On the lanes that the guard makes
active the result is computed from the operands' lanes and its flags join FFLAGS, and the other lanes of v(d) keep their values. The values of
VEXP2 and VLOG2 are the model's choice among those that R266 allows (log 8). -/
def Obligations.VectorArithmetic : Prop :=
  ∀ (s : State) (c n : Nat) (g : Fin 8) (t : Fmt) (d a b : Fin 16) (p q : Fin 8), s.cur = .strand c n →
    let m := s.mode
    let put (len : Nat) (t : Fmt) (d : Nat) (g : Nat) (f : Nat → Nat × Nat) : Result :=
      let r := lanewise (s.v d) t.size t.lanes (s.k g) f
      .next (((s.setV d r.1).orFlags r.2).advance len)
    let two (t : Fmt) (a b : Nat) (f : Nat → Nat → Nat × Nat) (j : Nat) : Nat × Nat := f (lane (s.v a) t.size j) (lane (s.v b) t.size j)
    let one (t : Fmt) (a : Nat) (f : Nat → Nat × Nat) (j : Nat) : Nat × Nat := f (lane (s.v a) t.size j)
    let val (x : Nat) : Val := (fpOf t).decode x
    let w : Nat := 8 * t.size
    let fma (neg : Bool) (j : Nat) : Nat × Nat :=
      let x := val (lane (s.v a) t.size j)
      let r := fmaVal m (if neg then x.flip else x) (val (lane (s.v b) t.size j)) (val (lane (s.v d) t.size j))
      let y := (fpOf t).rnd m r.1
      (y.1, r.2 ||| y.2)
    (s.vectorsReady c n [d, a, b] →
      exec (.vadd g t d a b) s = put 4 t d g (two t a b (addLike t m (addVal m) (· + ·))) ∧
      exec (.vsub g t d a b) s = put 4 t d g (two t a b (addLike t m (subVal m) (· - ·))) ∧
      exec (.vmul g t d a b) s = put 4 t d g (two t a b (addLike t m mulVals (· * ·))) ∧
      exec (.vfma g t d a b) s = put 4 t d g (fma false) ∧ exec (.vfms g t d a b) s = put 4 t d g (fma true) ∧
      exec (.vmin g t d a b) s = put 4 t d g (two t a b (pickLike true t m)) ∧
      exec (.vmax g t d a b) s = put 4 t d g (two t a b (pickLike false t m)) ∧
      exec (.vdiv g t d a b) s = put 4 t d g (two t a b (fpBin t m divVals)) ∧
      exec (.vabs g t d a) s = put 4 t d g (one t a (signLike t m Val.abs (fun i => (i.natAbs : Int)))) ∧
      exec (.vneg g t d a) s = put 4 t d g (one t a (signLike t m Val.flip (fun i => -i))) ∧
      exec (.vsqrt g t d a) s = put 4 t d g (one t a (fpUn t m sqrtVal)) ∧
      exec (.vrcp g t d a) s = put 4 t d g (one t a (fpUn t m (divVals (.fin false 1 0)))) ∧
      exec (.vrsq g t d a) s = put 4 t d g (one t a (fpUn t m rsqrtVal)) ∧
      exec (.vexp2 g t d a) s = put 4 t d g (one t a (fpUn t m exp2Val)) ∧
      exec (.vlog2 g t d a) s = put 4 t d g (one t a (fpUn t m log2Val)) ∧
      exec (.vmov g t d a) s = put 4 t d g (one t a (fun x => (x, 0))) ∧
      exec (.vand g d a b) s = put 4 .untyped d g (two .untyped a b (fun x y => (x &&& y, 0))) ∧
      exec (.vor g d a b) s = put 4 .untyped d g (two .untyped a b (fun x y => (x ||| y, 0))) ∧
      exec (.vxor g d a b) s = put 4 .untyped d g (two .untyped a b (fun x y => (x ^^^ y, 0))) ∧
      exec (.vshl g t d a b) s = put 4 t d g (two t a b (fun x y => (x * 2 ^ (y % w), 0))) ∧
      exec (.vshr g t d a b) s = put 4 t d g (two t a b (fun x y => (x / 2 ^ (y % w), 0))) ∧
      exec (.vsar g t d a b) s = put 4 t d g (two t a b (fun x y => ((signedOf w x / 2 ^ (y % w) % 2 ^ w).toNat, 0))) ∧
      exec (.vrotl g t d a b) s = put 4 t d g (two t a b (fun x y => (x * 2 ^ (y % w) % 2 ^ w + x / 2 ^ (w - y % w), 0))) ∧
      exec (.vcmul g d a b) s = put 4 .cf32 d g (two .cf32 a b (fun x y => complexMul m x y none)) ∧
      exec (.vcfma g d a b) s =
        put 4 .cf32 d g (fun j => complexMul m (lane (s.v a) 8 j) (lane (s.v b) 8 j) (some (lane (s.v d) 8 j)))) ∧
    (s.vectorsReady c n [p.val, q.val] →
      exec (.vaddC p q) s = put 2 .fp32 p 0 (two .fp32 p q (fpBin .fp32 m (addVal m))) ∧
      exec (.vsubC p q) s = put 2 .fp32 p 0 (two .fp32 p q (fpBin .fp32 m (subVal m))) ∧
      exec (.vmulC p q) s = put 2 .fp32 p 0 (two .fp32 p q (fpBin .fp32 m mulVals)) ∧
      exec (.vmovC p q) s = put 2 .untyped p 0 (one .untyped q (fun x => (x, 0))) ∧
      exec (.vclrC p) s = put 2 .untyped p 0 (fun _ => (0, 0)))

/-- R268–R274: compares, conversions, moves between lanes and to and from w registers, reductions and scans. VDEC8 runs where no active
code is reserved, and VENC8 where the table can encode. R263: an element-wise result in v(d), lane by lane: an active lane holds its result
modulo the element's width, the others keep their values, and no other vector register changes. The model's own reading enters by log 99 (a
reduction or a scan of one element). -/
def Obligations.VectorMoves : Prop :=
  (∀ (s : State) (c n : Nat) (g k : Fin 8) (cond : Cond) (t u : Fmt) (o : RedOp) (z : Fin 3) (h : Fin 8) (d a b : Fin 16)
    (r q : Fin 32) (x : Fin 13), s.strandReady c n 0 [r, q] [q] → s.vectorsReady c n [d, a, b] →
    let m := s.mode
    let sr := s.correctRegs [r]
    let sb := s.correctRegs [r, q]
    let put (s : State) (t : Fmt) (f : Nat → Nat × Nat) : Result :=
      let e := lanewise (s.v d) t.size t.lanes (s.k g) f
      .next (((s.setV d e.1).orFlags e.2).advance 4)
    let on (j : Nat) : Bool := laneOn (s.k g) t.size j
    let at_ (v : Nat) (j : Nat) : Nat := lane (s.v v) t.size j
    let chosen : List (Option Nat) := (List.range t.lanes).map (fun j => if on j then some (at_ a j) else none)
    let red := redTree o t m t.lanes.log2 chosen
    let sc := scanLanes o t m none chosen
    let tbl := s.tableOf c (k8Of z)
    let code (j : Nat) : Nat := lane (s.v a) 1 (t.lanes * h.val + j)
    (∃ v, exec (.vcmp g cond t k a b) s = .next v ∧ (v.strand c n).pc = (s.strand c n).pc + 4 ∧ v.mem = s.mem ∧
      (k ≠ 0 → 4 ≤ t.size → ∀ i : Nat, i < 64 → (s.k g).getLsbD (if t.size = 8 then i / 2 * 2 else i) = true →
        (v.k k).getLsbD i = (laneCond cond t (at_ a (i * 4 / t.size)) (at_ b (i * 4 / t.size))).1)) ∧
    exec (.vcvt g t u d a) s = put s t (fun j =>
      if j < Nat.min t.lanes u.lanes then (convertElem m tableA u t (lane (s.v a) u.size j)).getD (0, 0) else (0, 0)) ∧
    ((∀ j, j < t.lanes → on j = true → (tbl.get (code j)).isSome = true) → exec (.vdec8 g t z h d a) s =
      put s t (fun j => (convertElem m tbl (k8Of z) t (code j)).getD (0, 0))) ∧
    (tbl.enc = true → ∃ v, exec (.venc8 g t z h d a) s = .next v ∧ (v.strand c n).pc = (s.strand c n).pc + 4 ∧
      ∀ j, j < t.lanes → t.lanes * h.val + j < 256 → lane (v.v d) 1 (t.lanes * h.val + j) =
        (if on j then (tbl.encode ((fpOf t).decode (at_ a j))).1 % 256 else lane (s.v d) 1 (t.lanes * h.val + j))) ∧
    (s.predicate g = true → tableInUse s c = false → bytesInFlight s c n (padBase c + 0x15400) 1024 = false → (∀ i, i < 4 →
      (s.strand c n).busyV.getLsbD (x.val + i) = false) →
      exec (.tblld g (x.castLE (by decide))) s = .next ((writeTable s c ((List.range 256).map (fun i =>
        tableEntry (lane (s.v (x.val + i / 64)) 4 (i % 64))))).advance 4)) ∧
    exec (.vperm g t d a b) s = put s t (fun j => (at_ a (at_ b j % t.lanes), 0)) ∧
    exec (.vbcast g t d a r) s = put sr t (fun _ => (lane (sr.v a) t.size ((sr.w r).toNat % t.lanes), 0)) ∧
    exec (.vsplat g t d r) s = put sr t (fun _ => ((sr.w r).toNat % 2 ^ (8 * t.size), 0)) ∧
    (s.predicate g = true → exec (.vext g t q a r) s = .next ((sr.setW q (laneWord t (lane (sr.v a) t.size ((sr.w r).toNat % t.lanes)))).advance 4)) ∧
    exec (.vins g t d r q) s = put sb t (fun j =>
      (if j = (sb.w q).toNat % t.lanes then (sb.w r).toNat % 2 ^ (8 * t.size) else lane (sb.v d) t.size j, 0)) ∧
    exec (.vsel g k d a b) s = put s .fp32 (fun i => (lane (if (s.k k).getLsbD i then s.v a else s.v b) 4 i, 0)) ∧
    exec (.vclr g d) s = put s .untyped (fun _ => (0, 0)) ∧
    exec (.vred g o t q a) s = .next (((s.setW q (laneWord t (red.1.getD (redIdentity o t)))).orFlags red.2).advance 4) ∧
    exec (.vscan g o t d a) s = .next (((s.setV d (ofLanes t.size ((List.range t.lanes).map (fun j =>
      ((sc.1[j]?).getD none).getD (at_ d j))))).orFlags sc.2).advance 4)) ∧
  (∀ (s : State) (c n : Nat) (t : Fmt) (d : Nat) (k : Word) (f : Nat → Nat × Nat), s.cur = .strand c n → t.size * t.lanes = 256 →
    let r := lanewise (s.v d) t.size t.lanes k f
    let u := (s.setV d r.1).orFlags r.2
    (∀ j, j < t.lanes → laneOn k t.size j = true → lane (u.v d) t.size j = (f j).1 % 2 ^ (8 * t.size)) ∧
    (∀ j, j < t.lanes → laneOn k t.size j = false → lane (u.v d) t.size j = lane (s.v d) t.size j) ∧
    (∀ i, i ≠ d → u.v i = s.v i) ∧ u.mem = s.mem)

/-- R21, R276–R280, Table 5: a vector load or store whose base has a sound tag, whose active lanes' elements pass their checks and, where it is
scaled, whose scales can be read, is put into flight, or for a store with the elements of v(d), divided by their scales: at w(a) and on for VLD and
VST, at multiples of w(b) for VLDS and VSTS, at indices of v(b) for VLDX and VSTX, and in a tile for VLDT and VSTT. VSAVE and VLOAD put whole
registers from VRESUME on into flight. A store's flags are set as it retires, at once or with the acknowledgement of another core's port. The reply
to a vector load writes the elements to the lanes of v(d) and keeps the others, and the reply to VLOAD writes the registers. The model's own
choices enter by log 31, 96 and 97, and by log 89 for VSAVE and VLOAD, which are stated for a pointer with any tag, a reserved FMT included. -/
def Obligations.VectorMemory : Prop :=
  (∀ (s : State) (c n : Nat) (g : Fin 8) (o : BitVec 8) (i : Fin 32) (t : Fmt) (d b m : Fin 16) (a r : Fin 32) (p q : Fin 8),
    let one := s.correctRegs [a]
    let two := s.correctRegs [a, r]
    let row := s.correctRegs [r]
    let short := s.correctRegs [8 + q.val]
    let plan (s : State) (g : Nat) (t : Fmt) (base : Word) (scaled : Bool) (at_ : Nat → Nat) : VPlan :=
      ⟨((List.range t.lanes).filter (fun j => laneOn (s.k g) t.size j)).map (fun j =>
        ⟨j, at_ j % 2 ^ 56, ((s.strand c n).scb.toNat + j / 2 ^ (fieldOf base 63 56 % 8 + 2)) % 2 ^ 56⟩), none, [], scaled⟩
    let sound (s : State) (t : Fmt) (base : Word) (scaled : Bool) : Prop :=
      tagCheck (fieldOf base 63 56) t (s.strand c n).scb.toNat = .ok scaled
    let at0 (base : Word) (off : Int) : Nat := ((effAddr base 0 + off : Int) % 2 ^ 56).toNat
    let map := (row.tmap c m)
    let tile (scaled : Bool) : VPlan :=
      tilePlan map t.size (row.w r).toNat scaled ((List.range t.lanes).filter (fun j => laneOn (row.k g) t.size j))
    let loads (i : Instr) (x : State) (len : Nat) (t : Fmt) (d : Nat) (p : VPlan) : Prop := ∀ u ps scales,
      x.vectorPasses c n t .load .load p u ps scales →
        exec i s = .next (launchAcc u c n len .load false .strand .none (.v d t ((List.range t.lanes).map (fun j =>
          match p.elems.findIdx? (fun e => decide (e.lane = j)) with
            | some i => scales[i]?.getD 127
            | none => 127)) p.scaled p.zeros) ps)
    let stores (i : Instr) (x : State) (len : Nat) (t : Fmt) (d : Nat) (p : VPlan) : Prop := ∀ u ps scales,
      x.vectorPasses c n t .store .store p u ps scales →
        let out (q : Piece × Nat) : Nat × Nat :=
          let y := lane (u.v d) t.size q.1.lane
          let v := (fpOf t).decode y
          let z := (fpOf t).rnd u.mode (v.scale (127 - ((scales[q.2]?.getD 127 : Nat) : Int)))
          if p.scaled then (z.1, z.2 ||| snanFlag [v]) else (y, 0)
        let f := ps.zipIdx.foldl (fun f q => f ||| (out q).2) 0
        let l := ps.zipIdx.map (fun q => { q.1 with data := (out q).1 })
        (holdsStrand u c .store false .none ps = false →
          exec i s = .next (launchAcc (u.orFlags f) c n len .store false .strand .none .none l)) ∧
        (holdsStrand u c .store false .none ps = true → exec i s = .next (launchAcc u c n len .store false .strand .none (.flags f) l))
    (s.strandReady c n 0 [a, r] [] → s.vectorsReady c n [d, b] → ∀ scaled,
      (sound one t (one.w a) scaled →
        let p := plan one g t (one.w a) scaled
          (fun j => effAddr (one.w a) ((immOf one.imx 8 o.toNat).toInt * (256 : Nat)) + j * t.size)
        loads (.vld g o t d a) one 4 t d p ∧ stores (.vst g o t d a) one 4 t d p) ∧
      (sound two t (two.w a) scaled →
        let p := plan two g t (two.w a) scaled (fun j => at0 (two.w a) (j * (two.w r).toInt))
        loads (.vlds g t d a r) two 4 t d p ∧ stores (.vsts g t d a r) two 4 t d p) ∧
      (sound one t (one.w a) scaled →
        let p := plan one g t (one.w a) scaled
          (fun j => at0 (one.w a) (signedOf (8 * t.size) (lane (one.v b) t.size j) * t.size))
        loads (.vldx g t d a b) one 4 t d p ∧ stores (.vstx g t d a b) one 4 t d p) ∧
      (tmValid map = true → (row.w r).toNat < tmTrows map → tmTcols map ≤ t.lanes → tmStride map % t.size = 0 →
        tagCheck (tmTag map) t (tmScales map) = .ok scaled →
        loads (.vldt g t d m r) row 4 t d (tile scaled) ∧ stores (.vstt g t d m r) row 4 t d (tile scaled))) ∧
    (s.strandReady c n 0 [8 + q.val] [] → s.vectorsReady c n [p.val] → ∀ scaled, sound short .fp32 (short.w (8 + q.val)) scaled →
      let e := plan short 0 .fp32 (short.w (8 + q.val)) scaled (fun j => effAddr (short.w (8 + q.val)) (256 * i.val : Nat) + j * 4)
      loads (.vldC i p q) short 2 .fp32 p e ∧ stores (.vstC i p q) short 2 .fp32 p e)) ∧
  (∀ (s u v : State) (c n : Nat) (g : Fin 8) (cnt d : Fin 16) (a : Fin 32) (ps qs : List Piece) (j k : Nat),
    let t := s.correctRegs [a]
    let ea := effAddr (t.w a) 0
    let first := (s.strand c n).vresume.toNat
    let count : Nat := cnt.val + 1
    s.strandReady c n g [a] [] → s.vectorsReady c n ((List.range count).map (d.val + ·)) → ea % 256 = 0 →
    (count ≤ first → exec (.vsave g cnt d a) s = .next ((t.modMe (fun t => { t with vresume := 0 })).advance 4) ∧
      exec (.vload g cnt d a) s = .next ((t.modMe (fun t => { t with vresume := 0 })).advance 4)) ∧
    (first < count →
      (regPieces t c n ea d false ((List.range (count - first)).map (first + ·)) = (u, ps, j, none) →
        exec (.vsave g cnt d a) s = .next (launchAcc (u.modMe (fun t => { t with vresume := 0 })) c n 4 .store false .strand .none
          (.regs d first count false none) ps)) ∧
      (regPieces t c n ea d true ((List.range (count - first)).map (first + ·)) = (v, qs, k, none) →
        exec (.vload g cnt d a) s = .next (launchAcc (v.modMe (fun t => { t with vresume := 0 })) c n 4 .load false .strand .none
          (.regs d first count true none) qs)))) ∧
  (∀ (s : State) (a : Acc) (r d : Nat), s.acc? r = some a → a.performed = true → (∀ p ∈ a.pieces, p.place ≠ .remote) → a.refused = none →
    rspStopped s a.core = false → a.ord = .none → (s.strand a.core a.strand).act = a.act → (s.strand a.core a.strand).mode ≠ .free →
      (s.core a.core).preempted = false →
    let old := s.strand a.core a.strand
    (∀ t scales scaled zeros, a.dest = .v d t scales scaled zeros → ∃ u, exec (.loadReply r) s = .next u ∧ u.mem = s.mem ∧
      (u.strand a.core a.strand).vec d = (vectorResult (modeOf old.fctl) (old.vec d) t a.pieces scales scaled zeros).1 ∧
      (∀ i, i ≠ d → (u.strand a.core a.strand).vec i = old.vec i) ∧
      (a.blocking = true → (u.strand a.core a.strand).pc = old.pc + BitVec.ofNat 64 a.len ∧ (u.strand a.core a.strand).wait = .none) ∧
      (a.blocking = false → (u.strand a.core a.strand).busyV = old.busyV &&& ~~~(BitVec.ofNat 16 (2 ^ d)))) ∧
    (∀ first count, a.dest = .regs d first count true none → a.blocking = true → ∃ u, exec (.loadReply r) s = .next u ∧ u.mem = s.mem ∧
      (u.strand a.core a.strand).vresume = 0 ∧ (u.strand a.core a.strand).pc = old.pc + BitVec.ofNat 64 a.len ∧
      (u.strand a.core a.strand).wait = .none ∧
      ∀ i, i < count - first → ∀ j, j < 32 → lane ((u.strand a.core a.strand).vec (d + first + i)) 8 j =
        ((a.pieces[32 * i + j]?.map (·.got)).getD 0) % 2 ^ 64)) ∧
  (∀ (m : RMode) (old : VWord) (t : Fmt) (ps : List Piece) (scales zeros : List Nat) (j : Nat), j < t.lanes →
    lane (vectorResult m old t ps scales false zeros).1 t.size j =
      (match ps.find? (fun p => decide (p.lane = j)) with
        | some p => p.got % 2 ^ (8 * t.size)
        | none => if zeros.contains j then 0 else lane old t.size j))

/-! ## Matrix commands (chapters 7, 9 and 15) -/

/-- R131, R141, R281, Table 5: a matrix instruction that passes its checks is queued, with copies of its tensor map and of FCTL, while
fewer than eight commands are queued and no earlier activation's command uses a tile that this one claims, and retires. On a narrow
package a gated format is an illegal instruction. -/
def Obligations.MatrixIssue : Prop :=
  ∀ (s : State) (c n : Nat) (g : Fin 8) (t : Fmt) (x : Bool) (cnt slot a : Fin 16) (k : Fin 2) (d : Fin 4) (mode : AccMode),
    s.cur = .strand c n →
    let y := s.strand c n
    let filled (m : MCmd) (map : Option Nat) : MCmd :=
      { m with id := s.fresh, strand := n, act := y.act, actseq := y.actseq, pc := s.firstPc, audit := y.audit, claim := y.claim,
               map := (map.map (fun i => BitVec.ofNat 512 (s.tmap c i))).getD 0, fctl := y.fctl }
    let queues (i : Instr) (m : MCmd) (map : Option Nat) : Prop := matrixRefused s c n (filled m map) map = none →
      exec i s = .next (((s.modCore c (fun k => { k with mq := k.mq ++ [filled m map] })).tickFresh).advance 4)
    let mmagMap : Option Nat := if (s.core c).bond.isSome && !isCourseHead s c then none else some a.val
    (s.predicate g = true → (s.core c).mq.length < 8 → (∀ m ∈ (s.core c).mq, m.act = y.act) →
      (t.isGated = false ∨ (s.pkg (corePkg c)).narrow = false) →
      (bankAwaited s c k.val = false → queues (.setst g t x cnt k a) (matrixCmd .setst t k (cnt.val + 1) x (accModeOf t)) (some a)) ∧
      queues (.relst g k) (matrixCmd .relst .untyped k 0 false .none) none ∧
      queues (.aclr g d) (matrixCmd .aclr .untyped d 0 false .none) none ∧
      queues (.ast g t a d) (matrixCmd .ast t d 0 false .none) (some a) ∧
      queues (.ald g t mode d a) (matrixCmd .ald t d 0 false mode) (some a) ∧
      queues (.mma g t slot d a) (matrixCmd .mma t d slot false (accModeOf t)) (some a) ∧
      queues (.mmag g t slot d a) (matrixCmd .mmag t d slot false (accModeOf t)) mmagMap ∧
      queues (.mrot g t slot d a) (matrixCmd .mrot t d slot false (accModeOf t)) (some a) ∧
      queues (.mrotBuf g t slot d) (matrixCmd .mrotBuf t d slot false (accModeOf t)) none) ∧
    (t.isGated = true → (s.pkg (corePkg c)).narrow = true →
      exec (.setst g t x cnt k a) s = .next (s.trap 0x01 0x04 s.firstPc) ∧ exec (.mma g t slot d a) s = .next (s.trap 0x01 0x04 s.firstPc) ∧
      exec (.mmag g t slot d a) s = .next (s.trap 0x01 0x04 s.firstPc) ∧ exec (.mrot g t slot d a) s = .next (s.trap 0x01 0x04 s.firstPc) ∧
      exec (.mrotBuf g t slot d) s = .next (s.trap 0x01 0x04 s.firstPc))

/-- R124–R128, R282, R284–R287, R291, R292: the command at the head of a running queue, one slot or row in each step: SETST converts the elements
of a tile into a slot and fires its bank with the last; RELST makes a fired bank drain and leaves an ordinary one as it is; ACLR zeroes its tile;
MMA multiplies a row into its tile; AST stores a row that its mode admits; ALD loads a row. The model's own reading enters by log 37. -/
def Obligations.MatrixSteps : Prop :=
  ∀ (s : State) (c : Nat) (m : MCmd),
    let map := m.map.toNat
    let dim := accDim m.mode
    let origin := tileOrigin map m.across dim m.row
    (matrixHead s c (fun o => decide (o = .setst)) = some m → spansOpen s c (tileSpans map m.t.size origin.1 origin.2 dim dim) = true →
      ∀ u l st, mapElems s c m false ((List.range (dim * dim)).map (fun q => (origin.1 + q / dim, origin.2 + q % dim))) = (u, .ok l) →
        stageTile (cmdTable u c m.t) m.t (m.row * 4096) l ((u.core c).bank m.d).staged = some st →
        let fired : Bank :=
          { (u.core c).bank m.d with state := .fired, fmt := m.t, n := m.n, held := st, poison := 0, single := [], staged := [] }
        (m.row + 1 < m.n → exec (.setstFill c) s = .next (setHead (u.modCore c (fun k =>
          { k with banks := Table.modify .init k.banks m.d (fun b => { b with staged := st }) })) c { m with row := m.row + 1 })) ∧
        (m.n ≤ m.row + 1 → exec (.setstFill c) s =
          .next (commandDone (u.modCore c (fun k => { k with banks := Table.set k.banks m.d fired })) c m))) ∧
    (matrixHead s c (fun o => decide (o = .relst)) = some m →
      (((s.core c).bank m.d).state = .fired → ∃ t, exec (.relstDrain c) s = .next t ∧ ((t.core c).bank m.d).state = .draining ∧
        ((t.core c).bank m.d).drainEnd = s.cycle + 64 ∧ (t.core c).mq = (s.core c).mq ∧ t.mem = s.mem) ∧
      (((s.core c).bank m.d).state = .ordinary → exec (.relstDrain c) s = .next (commandDone s c m))) ∧
    (matrixHead s c (fun o => decide (o = .aclr)) = some m → exec (.aclrExecute c) s = .next (commandDone (s.setTile c m.d .init) c m)) ∧
    (matrixHead s c (fun o => decide (o = .mma)) = some m → rowOpen s c m m.row dim = true → multiplyRefused (s.core c) m = none →
      ∀ u l a, readRow (takeMode s c m) c m m.row = (u, .ok (l, a)) → exec (.mmaExecute c) s =
        .next (if m.row + 1 < tmTrows map then rowDone (multiplyRow u c m m.row a) c m (m.row + 1)
          else commandDone (multiplyRow u c m m.row a) c m)) ∧
    (matrixHead s c (fun o => decide (o = .ast)) = some m →
      let tile := (s.core c).tile m.d
      let d := accDim tile.mode
      let inside (j : Nat) : Bool := tmInside map (tmRow0 map + m.row) (tmCol0 map + j)
      let cols := (List.range (tmTcols map)).filter inside
      let outs := cols.map (fun j => readOut (modeOf m.fctl) tile.mode m.t
        (Memory.readN tile.data (accBytes tile.mode * (d * m.row + j)) (accBytes tile.mode)))
      astAccepts tile.mode m.t = true → tmTrows map ≤ d → tmTcols map ≤ d → rowOpen s c m m.row (tmTcols map) = true →
      ((∀ j, j < tmTcols map → inside j = true) ∨ tmZpad map = true) →
      ∀ u ps, rowPlaces s c m ((cols.map (fun j => tmAddr map m.t.size (tmRow0 map + m.row) (tmCol0 map + j))).zip (outs.map (·.1))) = (u, .ok ps) →
        let w := ps.foldl (fun s p => elemWrite s c m p.1 p.2) (behindFence u c m)
        let f := outs.foldl (fun f o => f ||| o.2) m.flags
        let all := f ||| (if tile.nv then flagNV else 0) ||| (if tile.ovf then flagOF else 0) ||| (if tile.sat then flagSAT else 0)
        let z := w.modStrand c (flagStrand w c m) (fun t => { t with fflags := t.fflags ||| BitVec.ofNat 64 all })
        (m.row + 1 < tmTrows map → exec (.astExecute c) s = .next (rowDone w c { m with flags := f } (m.row + 1))) ∧
        (tmTrows map ≤ m.row + 1 → exec (.astExecute c) s =
          .next (commandDone (saveAlso z c (flagStrand w c m) 3 (z.strand c (flagStrand w c m)).fflags) c m))) ∧
    (matrixHead s c (fun o => decide (o = .ald)) = some m →
      let v := if ((s.core c).tile m.d).mode = m.mode then s else s.setTile c m.d { Tile.init with mode := m.mode }
      tmTrows map ≤ dim → tmTcols map ≤ dim → rowOpen v c m m.row (tmTcols map) = true →
      ∀ u l, mapElems v c m false ((List.range (tmTcols map)).map (fun j => (tmRow0 map + m.row, tmCol0 map + j))) = (u, .ok l) →
        let x := (u.core c).tile m.d
        let w := u.setTile c m.d { x with data := (l.zipIdx).foldl (fun dt p => Memory.writeN dt (accBytes m.mode * (dim * m.row + p.2))
          (accBytes m.mode) (loadIn m.mode m.t ((p.1.map (·.1)).getD 0))) x.data }
        exec (.aldExecute c) s = .next (if m.row + 1 < tmTrows map then rowDone w c m (m.row + 1) else commandDone w c m))

/-- R124, R128, R288, R289: 64 cycles after RELST the bank is ordinary and every byte of it is zero, and no other byte has changed, but for
ROWPROG in the save areas of a core that is pre-empted (R282). With an MMAG
at the head of every queue of a course and no member pre-empted, each member multiplies the row that the head has read; with an MROT at the head of
every queue of a square bond the step forms, each member that no fault has stopped multiplies, and with all rows done A and the slots are exchanged.
The model's own reading enters by log 37, 85, 86 and 100. -/
def Obligations.MatrixJoints : Prop :=
  (∀ (s : State) (c b : Nat), ((s.core c).bank b).state = .draining → ((s.core c).bank b).drainEnd ≤ s.cycle →
    ∃ t, exec (.bankDrainEnd c b) s = .next t ∧ ((t.core c).bank b).state = .ordinary ∧
      (∀ x, padBase c + 0x40000 + b * 0x20000 ≤ x → x < padBase c + 0x60000 + b * 0x20000 → t.byteAt x = 0) ∧
      (∀ x, (x < padBase c + 0x40000 + b * 0x20000 ∨ padBase c + 0x60000 + b * 0x20000 ≤ x) →
        ((s.core c).preempted = true → x < padBase c + 0x10000 ∨ padBase c + 0x14800 ≤ x) → t.byteAt x = s.byteAt x)) ∧
  (∀ (s : State) (c h : Nat) (m : MCmd) (rest : List (Nat × MCmd)),
    let all := (h, m) :: rest
    let d := accDim m.mode
    (gangHeads s (fun o => decide (o = .mmag)) c (courseOf s c) = some all → jointOpen s all = true → (∀ p ∈ all, p.2.t = m.t) →
      (∀ p ∈ all, multiplyRefused (s.core p.1) p.2 = none) → rowOpen s h m m.row d = true →
      ∀ u l a, readRow (all.foldl (fun s p => takeMode s p.1 p.2) s) h m m.row = (u, .ok (l, a)) →
        exec (.mmagJoint c) s = .next (all.foldl (fun s p =>
          if m.row + 1 < tmTrows m.map.toNat then rowDone s p.1 { p.2 with formed := true } (m.row + 1) else commandDone s p.1 p.2)
          (all.foldl (fun s p => multiplyRow s p.1 p.2 m.row a) u))) ∧
    (gangHeads s MOp.isRot c (bondCores s c) = some all → rotating s (bondCores s c) = none → jointOpen s all = true →
      (∀ p ∈ all, p.2.t = m.t ∧ p.2.n = m.n ∧ (p.2.formed = false → bankAwaited s p.1 (s.core p.1).inactive = false ∧
        ((s.core p.1).shown (s.core p.1).inactive = .ordinary ∨ (s.core p.1).shown (s.core p.1).inactive = .fired))) →
      let joined := all.map (fun p => (p.1, { p.2 with formed := true }))
      exec (.mrotJoint c) s = .next (rotStep (joined.foldl (fun s p => setHead s p.1 p.2) s) joined)) ∧
    (rotating s (bondCores s c) = some all →
      ((∀ p ∈ all, accDim p.2.mode ≤ p.2.row) → exec (.mrotJoint c) s = .next (exchange s all)) ∧
      ((∃ p ∈ all, p.2.row < accDim p.2.mode) →
        exec (.mrotJoint c) s = .next (all.foldl (fun s p => if (s.core p.1).mstop then s else rotRow s p.1 p.2) s))))

/-! ## Footing (chapters 3 and 15) -/

/-- R51, R294, R295: FLOADO, FSTART and FCMD put a command into the queue of eight of the unit that w(b) names, and FRED puts one into
the queue of 16 of the stack that its destination names; w(d) becomes pending and the instruction retires. With a full queue it waits. A FRED
whose block lies on another package gets the reply REMOTE at once. -/
def Obligations.FootingIssue : Prop :=
  ∀ (s : State) (c n : Nat) (g : Fin 8) (d a b : Fin 32), s.strandReady c n g [a, b] [d] → (s.strand c n).audit = false →
    let t := s.correctRegs [a, b]
    let x := s.correctRegs [a]
    let u : Nat := corePkg c * 512 + (t.w b).toNat % 512
    let cmd (op : UOp) : UCmd :=
      { op := op, core := c, strand := n, frame := (t.strand c n).frame, reg := d, launch := (t.core c).launch,
        domain := (t.core c).domain, a := t.w a, b := t.w b, seq := t.fresh }
    let sent (op : UOp) : Result :=
      .next (((markPending (t.modUnit u (fun t => { t with q := t.q ++ [cmd op] })) c n d).tickFresh).advance 4)
    let ea := effAddr (x.w a) 0
    let dom := (s.core c).domain
    ((t.unit u).q.length < 8 → (effAddr (t.w a) 0 % 4096 = 0 → exec (.floado g d a b) s = sent .floado) ∧
      exec (.fstart g d a b) s = sent .fstart ∧ exec (.fcmd g d a b) s = sent .fcmd) ∧
    (8 ≤ (t.unit u).q.length → exec (.fstart g d a b) s = .next t ∧ exec (.fcmd g d a b) s = .next t) ∧
    (∀ v p w x y q, ea % 64 = 0 → translateFor (s.correctRegs [a]) c dom ea .load = (v, .ok p) → ownPlace c p.pa = true →
      loadReady v c n (p.pa + 16) 8 = true → foOpen v dom p = true → localRead v (v.agent c) { p with pa := p.pa + 16 } 8 = (w, .ok x) →
      translate w c dom (x % 2 ^ 56) = (y, .ok q) → ownPlace c q.pa = true → isHbm q.pa = true →
      (y.hbm (unitOfPa q.pa / 64)).q.length < 16 →
      let f : Fred :=
        { core := c, strand := n, act := (y.strand c n).act, frame := (y.strand c n).frame, reg := d, launch := (y.core c).launch,
          domain := dom, block := ea, words := [], phase := .check, next := 0, parked := none }
      exec (.fred g d a) s =
        .next ((markPending (y.modHbm (unitOfPa q.pa / 64) (fun h => { h with q := h.q ++ [f] })) c n d).advance 4)) ∧
    (∀ v p, ea % 64 = 0 → translateFor (s.correctRegs [a]) c dom ea .load = (v, .ok p) → ownPlace c p.pa = false →
      exec (.fred g d a) s = .next ((v.setW d (failReply 0x06 0)).advance 4))

/-- R46, R50, R297, R298: the instructions of a footing core. FOPEN opens a granted bank's block; FACC and FACCF accumulate 64 elements of
the open block into the lanes; FRDO writes the lanes' read-out and puts the bank's flags in w(d); FCLRA clears the lanes and flags of a
bank and no other's; FREPLY sets the reply of the current command; FWAITC ends that command and the core waits at it. R46, R47: on a
footing core LD and ST of 1 to 8 bytes access the data memory at a byte offset; an offset that is not aligned faults 0x06, and one that is
aligned and ends beyond 2 KiB faults 0x08. -/
def Obligations.FootingCore : Prop :=
  (∀ (s : State) (u : Nat) (n d a : Fin 16), s.unitRuns u →
    let t := s.unit u
    let w := (s.w a).toNat
    let halt : Result := .next (s.footFault u 0x08)
    let granted : Prop := ∃ r ∈ t.grants, r.1 ≤ w * 16 + n.val ∧ w * 16 + n.val < r.1 + r.2
    let asker : Nat := (t.owner.map (·.2)).getD (foremanOf (u / 512 * 8))
    let lanesOf (e : Nat) (f : FpFmt) (x : Nat) : Table (BitVec 40) × Nat := (List.range 64).foldl (fun acc l =>
      let y := accumulate (Table.get 0 acc.1 (n.val * 64 + l)) ((flushed f).decode (x / 2 ^ (8 * e * l) % 2 ^ (8 * e)))
      (Table.set acc.1 (n.val * 64 + l) y.1, acc.2 ||| y.2)) (t.lanes, Table.get 0 t.flags n)
    (∀ cmd, w ≤ 12287 → granted → t.cmd = some cmd → bit cmd.banks n = true →
      exec (.fopen n a) s = .next ((s.modUnit u (fun t => { t with openBlk := Table.set t.openBlk n (some w) })).advance 4)) ∧
    (12287 < w → exec (.fopen n a) s = halt) ∧ (¬ granted → exec (.fopen n a) s = halt) ∧
    (t.blockOf n = none → exec (.facc n a) s = halt ∧ exec (.faccf n a) s = halt ∧ exec (.frdo n d a) s = halt) ∧
    (∀ b v x, t.blockOf n = some b → w < 16 → dieRead s asker 0 (blockPa u b + 256 * w) 256 = (v, .ok x) →
      exec (.facc n a) s = .next ((v.modUnit u (fun t =>
        { t with lanes := (lanesOf 4 fpF32 x).1, flags := Table.set t.flags n (lanesOf 4 fpF32 x).2 })).advance 4)) ∧
    (∀ b v x, t.blockOf n = some b → w < 32 → dieRead s asker 0 (blockPa u b + 128 * w) 128 = (v, .ok x) →
      exec (.faccf n a) s = .next ((v.modUnit u (fun t =>
        { t with lanes := (lanesOf 2 fpB16 x).1, flags := Table.set t.flags n (lanesOf 2 fpB16 x).2 })).advance 4)) ∧
    (∀ b, t.blockOf n = some b → w < 16 →
      let outs := (List.range 64).map (fun l => laneOut (t.lane n l))
      let fl : Nat := outs.foldl (fun f o => f ||| o.2) (Table.get 0 t.flags n)
      exec (.frdo n d a) s = .next (((((wakeFor s (blockPa u b)).write (blockPa u b + 256 * w) 256 (outs.foldr (fun o x => o.1 + 2 ^ 32 * x) 0)).modUnit u
        (fun t => { t with flags := Table.set t.flags n fl })).setW d (BitVec.ofNat 64 fl)).advance 4)) ∧
    (∃ v, exec (.fclra n) s = .next v ∧ v.mem = s.mem ∧ (∀ i l : Nat, l < 64 → (v.unit u).lane i l = if i = n.val then 0 else t.lane i l) ∧
      ∀ i, Table.get 0 (v.unit u).flags i = if i = n.val then 0 else Table.get 0 t.flags i) ∧
    (t.cmd.isSome = true → exec (.freply a) s =
      .next ((s.modUnit u (fun t => { t with reply := BitVec.ofNat 64 (w % 2 ^ 63) })).advance 4)) ∧
    (∀ cmd, t.cmd = some cmd → t.stopping = none → ∃ v, exec (.fwaitc d) s = .next v ∧ (v.unit u).run = .waiting ∧
      (v.unit u).cmd = none ∧ (v.unit u).pc = t.pc ∧ (v.unit u).openBlk = [] ∧
      ∃ f ∈ v.freplies, f.core = cmd.core ∧ f.frame = cmd.frame ∧ f.reg = cmd.reg ∧ f.value = t.reply)) ∧
  (∀ (s : State) (u : Nat) (g : Fin 8) (o : BitVec 10) (z : Fin 4) (d a : Fin 32), s.unitRuns u →
    let ea := effAddr (s.w a) ((immOf s.imx 10 o.toNat).toInt * (2 ^ z.val : Nat))
    let k : Nat := 2 ^ z.val
    (ea % k = 0 → ea + k ≤ 0x800 →
      exec (.ld g o z d a) s = .next ((s.setW d (loadValue k true (Memory.readN (s.unit u).data ea k))).advance 4) ∧
      exec (.st g o z d a) s =
        .next ((s.modUnit u (fun t => { t with data := Memory.writeN t.data ea k (s.w d).toNat })).advance 4)) ∧
    (ea % k = 0 → 0x800 < ea + k →
      exec (.ld g o z d a) s = .next (s.footFault u 0x08) ∧ exec (.st g o z d a) s = .next (s.footFault u 0x08)) ∧
    (ea % k ≠ 0 → exec (.ld g o z d a) s = .next (s.footFault u 0x06) ∧ exec (.st g o z d a) s = .next (s.footFault u 0x06)))

/-- R36, R37, R48, R49, R51, R296, R298: a command at the head of an awake unit's queue: FLOADO loads the page into the code overlay, FSTART
starts the core at an even offset and faults at an odd one, FCMD completes the FWAITC at which it waits and answers HALTED on a halted core, and
an issuer that is not entitled gets DENIED. A reply writes its
frame word and clears the mark. A packet of the foreman lets a parked command translate again, or ends it with ABORTED. The model's own reading
enters by log 38. -/
def Obligations.FootingCommands : Prop :=
  (∀ (s : State) (u : Nat) (cmd : UCmd),
    let s' := dropCommand s u
    let denied : Result := .next (replyCommand s' cmd (failReply 0x02 0))
    (unitHead s u .floado = some cmd →
      (unitDenied s u cmd = true → exec (.floadoCommand u) s = denied) ∧
      (unitDenied s u cmd = false → ∀ v p w x, hbmTranslate s (u / 64) cmd.domain (effAddr cmd.a 0) .foLoad = (v, .ok p) →
        bankOpen v (attrFO p.attr) cmd.domain p.pa cmd.seq = true → dieRead v cmd.core (effAddr cmd.a 0) p.pa 4096 = (w, .ok x) →
          exec (.floadoCommand u) s = .next (replyCommand
          (dropCommand (w.modUnit u (fun t => { t with overlay := Memory.writeN [] 0 4096 x, run := .halted, imx := [] })) u) cmd 0))) ∧
    (unitHead s u .fstart = some cmd →
      (unitDenied s u cmd = true → exec (.fstartCommand u) s = denied) ∧
      (unitDenied s u cmd = false → cmd.a.toNat % 2 = 0 → exec (.fstartCommand u) s = .next (s'.modUnit u (fun t =>
        { t with openBlk := [], pc := cmd.a.toNat % 0x1000, run := .running, cmd := some cmd, reply := 0, imx := [] }))) ∧
      (unitDenied s u cmd = false → cmd.a.toNat % 2 = 1 → exec (.fstartCommand u) s = .next (replyCommand (s'.modUnit u (fun t =>
        { t with run := .halted, status := 0x06, openBlk := [], imx := [] })) cmd (failReply 0x03 0x06)))) ∧
    (unitHead s u .fcmd = some cmd →
      (unitDenied s u cmd = true → exec (.fcmdCommand u) s = denied) ∧
      (unitDenied s u cmd = false → (s.unit u).run = .waiting → exec (.fcmdCommand u) s = .next (completeWait s' u cmd)) ∧
      (unitDenied s u cmd = false → (s.unit u).run = .halted → exec (.fcmdCommand u) s = .next (replyCommand s' cmd (failReply 0x04 0))))) ∧
  (∀ (s : State) (r : Nat) (f : FReply), s.freplies.find? (fun f => decide (f.id = r)) = some f → (s.core f.core).launch = f.launch →
    rspStopped s f.core = false → f.reg < 32 → ∃ t, exec (.footingReply r) s = .next t ∧ t.read (regAddr f.core f.frame f.reg) 8 = f.value.toNat ∧
      (Table.get 0 (t.core f.core).pend f.frame).getLsbD f.reg = false ∧
      (∀ x, (x < regAddr f.core f.frame f.reg ∨ regAddr f.core f.frame f.reg + 8 ≤ x) → t.byteAt x = s.byteAt x)) ∧
  (∀ (s : State) (r : Nat) (p : Packet), s.packet? r = some p → p.sfn = 0x19 → fieldOf p.target 39 36 = 5 →
    let u := packetUnit p
    ((s.unit u).parked.isSome = true →
      (p.action = 0 → exec (.footingCommandResume r) s = .next (ackPacket (s.modUnit u (fun t => { t with parked := none })) p 0)) ∧
      (p.action = 1 → exec (.footingCommandAbort r) s = .next (ackPacket (abortUnit s u) p 0))) ∧
    ((s.unit u).parked = none →
      (p.action = 0 → exec (.footingCommandResume r) s = .next (ackPacket s p 1)) ∧
      (p.action = 1 → exec (.footingCommandAbort r) s = .next (ackPacket s p 1))))

/-- R35, R37, R56–R59: the steps of the FRED at the head of a stack's engine. Its block is checked; a chunk of 64 elements is read from all
sources, tree-summed and written; CMODE 0 ends it with OK, CMODE 1 stores its flag on the own package, and CMODE 2 sends an arrive whose OK ends
it. A miss of the base die's TLB is filled by the die's walker. The model's own choices enter by log 39, 83 and 84, by log 36 for the
write-back of a CMODE 1 flag at SYSTEM scope and its charge to the issuing strand, and by log 14 for the walk of the base die. -/
def Obligations.FredSteps : Prop :=
  (∀ (s : State) (k : Nat) (f : Fred), fredHead s k = some f → f.parked = none →
    (f.phase = .check → ∀ v p w x, hbmTranslate s k f.domain f.block .foLoad = (v, .ok p) → paPkg p.pa = k / 8 → foOpen v f.domain p = true →
      dieRead v f.core f.block p.pa 64 = (w, .ok x) →
      let r : Fred := { f with words := (List.range 8).map (fun i => BitVec.ofNat 64 (x / 2 ^ (64 * i))), phase := .chunks }
      (fredOffences r = [] → exec (.fredCheck k) s = .next (setFred w k r)) ∧
      (∀ i l, fredOffences r = i :: l → exec (.fredCheck k) s = .next (endFred w k r (failReply 0x05 i)))) ∧
    (f.phase = .chunks →
      let n := Nat.min 64 (f.len - f.next)
      let se := if f.sbf then 2 else 4
      let de := if f.dbf then 2 else 4
      let vas := (List.range (f.nm1 + 1)).map (fun i => f.source i f.next)
      ∀ v ps w xs q, chunkPlaces s k f.domain (vas.map (fun va => (va, Use.foLoad)) ++ [(f.dest f.next, .foStore)]) = (v, .ok ps) →
        (∀ p ∈ ps, foOpen v f.domain p = true) → readAll v f.core (n * se) ((ps.take (f.nm1 + 1)).zip vas) = (w, .ok xs) → ps.getLast? = some q →
        let outs := (List.range n).map (fun j => reduceElem f.sbf f.dbf (xs.map (fun x => x / 2 ^ (8 * se * j) % 2 ^ (8 * se))))
        let r : Fred := { f with next := f.next + n }
        exec (.fredChunk k) s = .next (setFred ((wakeFor w q.pa).write q.pa (n * de) (outs.foldr (fun o x => o + 2 ^ (8 * de) * x) 0)) k
          (if f.len ≤ f.next + n then { r with phase := .completing } else r))) ∧
    (f.phase = .completing →
      (f.cmode = 0 → exec (.fredCompletion k) s = .next (endFred s k f 0)) ∧
      (∀ v p, f.cmode = 1 → hbmTranslate s k f.domain (f.word 3 % 2 ^ 56) .foStore = (v, .ok p) → paPkg p.pa = k / 8 → inPad p.pa = false →
        let sc := Scope.ofCode (bits (f.word 0) 18 16)
        let x := (if sc = .system then v.writeBackAll (k / 8) else v).dropCopy (k / 8) p.pa
        v.admits p.pa sc (partyOf f.core f.strand) = true → foOpen v f.domain p = true → exec (.fredCompletion k) s =
          .next (endFred ((reachHbm (x.setRecord p.pa sc (partyOf f.core f.strand)) (attrFO p.attr) f.domain p.pa 8 true).write p.pa 8 (f.word 4))
            k f 0)) ∧
      (f.cmode = 2 → exec (.fredCompletion k) s = .next (fredArrive s k f))) ∧
    (∀ id p, f.phase = .arriving id → s.mreps.find? (fun p => decide (p.id = id ∧ p.iss = .fred k f.core f.strand)) = some p → p.status = 0 →
      p.cause = 0 → (paPkg p.line = k / 8 ∨ s.linkDown (paPkg p.line) (k / 8) = false) →
      exec (.fredCompletion k) s = .next (endFred { s with mreps := s.mreps.filter (fun x => decide (x ≠ p)) } k f 0))) ∧
  (∀ (s : State) (r : Nat) (p : Packet) (f : Fred), s.packet? r = some p → p.sfn = 0x19 → fieldOf p.target 39 36 = 3 →
    fredHead s (packetStack p) = some f → f.parked.isSome = true →
    (p.action = 0 → exec (.fredResume r) s = .next (ackPacket (setFred s (packetStack p) { f with parked := none }) p 0)) ∧
    (p.action = 1 → exec (.fredAbort r) s = .next (ackPacket (endFred s (packetStack p) f (failReply 0x01 0)) p 0))) ∧
  (∀ (s v : State) (k dom va : Nat) (p : Place53),
    ((∃ f ∈ (s.hbm k).q, f.domain = dom) ∨ ∃ i, i < 64 ∧ ∃ m ∈ (s.unit (k * 64 + i)).q, m.domain = dom) → inWindow va = false →
    (∀ e ∈ (s.hbm k).tlb, e.serves dom va = false) →
    dieWalk s (diePanel (k / 8 * 2 + k % 8 / 4)) (k / 8 * 2 + k % 8 / 4) dom va = (v, .ok p) →
    exec (.baseDieTranslation k dom va) s =
      .next (v.modHbm k (fun b => { b with tlb := evict 256 (Config.victim v.fresh) b.tlb (p.entry dom va) })).tickFresh)

/-- R63–R65, R392: a POWER request at the foreman of panel 0 of a package whose boot has not failed puts a channel that is not live into
power-down or self-refresh, or wakes it, and stores DONE, also for a channel that is in that state already; another live channel answers LIVE
unless the request is forced, which stops a halted unit at once and waits for a running one. A channel wakes with its unit's saved state. A
forced stop takes place 65,536 cycles after its request at the latest. -/
def Obligations.PowerStates : Prop :=
  (∀ (s : State) (g : Nat) (m : Msg), sysHead s (g * 8) 0x40 = some m → s.answers g = true → fieldOf m.w0 63 12 = 0 →
    let act := fieldOf m.w0 10 9
    let u : Nat := g * 512 + fieldOf m.w0 8 0
    let va := fieldOf m.w1 55 0
    let v := dropSys s (g * 8)
    let lowered (p : FPower) : Result := .next (foremanStore (v.modUnit u (fun t => { t with power := p })) (g * 8) va 0)
    let asked := (v.unit u).stopping.getD (v.cycle, [])
    let waits (p : FPower) : State := v.modUnit u (fun t => { t with stopping := some (asked.1, asked.2 ++ [(p, va)]) })
    (act = 0 → unitLive v u = false ∨ (v.unit u).power = .down → exec (.powerDown g) s = lowered .down) ∧
    (act = 1 → unitLive v u = false ∨ (v.unit u).power = .refresh → exec (.selfRefresh g) s = lowered .refresh) ∧
    (unitLive v u = true → bit m.w0.toNat 11 = false →
      (act = 0 → (v.unit u).power ≠ .down → exec (.powerDown g) s = .next (foremanStore v (g * 8) va 1)) ∧
      (act = 1 → (v.unit u).power ≠ .refresh → exec (.selfRefresh g) s = .next (foremanStore v (g * 8) va 1))) ∧
    (unitLive v u = true → bit m.w0.toNat 11 = true → (v.unit u).run = .running → (v.unit u).power = .awake →
      (act = 0 → exec (.powerDown g) s = .next (waits .down)) ∧ (act = 1 → exec (.selfRefresh g) s = .next (waits .refresh))) ∧
    (unitLive v u = true → bit m.w0.toNat 11 = true → (v.unit u).run = .halted →
      (act = 0 → (v.unit u).power ≠ .down → exec (.powerDown g) s = .next (finishStop (waits .down) u)) ∧
      (act = 1 → (v.unit u).power ≠ .refresh → exec (.selfRefresh g) s = .next (finishStop (waits .refresh) u))) ∧
    ((v.unit u).power ≠ .awake → act = 2 → exec (.powerExit g) s = .next (foremanStore (wakeUnit v u) (g * 8) va 0))) ∧
  (∀ (s : State) (u : Nat),
    ((s.unit u).power ≠ .awake → ∃ t, exec (.channelWake u) s = .next t ∧ (t.unit u).power = .awake ∧ t.mem = s.mem ∧
      ∀ x, (s.unit u).save = some x → (t.unit u).data = x.data ∧ (t.unit u).overlay = x.overlay ∧ (t.unit u).pc = x.pc ∧
        (t.unit u).lanes = x.lanes ∧ (t.unit u).flags = x.flags) ∧
    (∀ since l, (s.unit u).stopping = some (since, l) → since + 65536 ≤ s.cycle →
      exec (.footingStopTimeout u) s = .next (finishStop s u)))

/-! ## Control, ending, traps and supervision (chapters 16 and 18–19) -/

/-- R201, R207, R312, R313, Table 5: branches, calls, jumps and loops, on strands and on footing cores. BR moves PC by twice its offset when
the predicate asks for it; CALL and CALLI put the address after them in w(d); LOOP counts w(a) down and branches until it is 0; JR and RET
go to an even address, and an odd one is misaligned; NOP only advances PC; a prefix is kept for the instruction that follows. -/
def Obligations.Branches : Prop :=
  ∀ (s : State) (g : Fin 8) (f : Bool) (o : BitVec 16) (b : BitVec 11) (i : BitVec 12) (u : Fin 256) (d a : Fin 32) (p : Fin 8)
    (x : BitVec 27), s.cur ≠ .none →
    let t := s.correctRegs [a]
    let q := s.correctRegs [8 + p.val]
    let dest {n : Nat} (s : State) (o : BitVec n) : Word := s.pc + BitVec.ofInt 64 (2 * o.toInt)
    (s.predicate g = !f → exec (.br g f o) s = .next (s.jump (dest s o))) ∧
    (s.predicate g = f → exec (.br g f o) s = .next (s.advance 4)) ∧
    exec (.brC b) s = .next (s.jump (dest s b)) ∧ exec .nop s = .next (s.advance 4) ∧ exec .nopC s = .next (s.advance 2) ∧
    (s.ready g [] [d] → exec (.call g o d) s = .next ((s.setW d (s.pc + 4)).jump (dest s o))) ∧
    (s.ready g [a] [d] →
      (t.w a - 1 ≠ 0 → exec (.loop g i a) s = .next ((t.setW a (t.w a - 1)).jump (dest t i))) ∧
      (t.w a - 1 = 0 → exec (.loop g i a) s = .next ((t.setW a 0).advance 4)) ∧
      ((t.w a).toNat % 2 = 0 → exec (.calli g d a) s = .next ((t.setW d (t.pc + 4)).jump (t.w a)) ∧
        exec (.jr g a) s = .next (t.jump (t.w a)) ∧ exec (.ret g a) s = .next (t.jump (t.w a))) ∧
      (∀ c n, s.cur = .strand c n → (t.w a).toNat % 2 = 1 → exec (.calli g d a) s = .next (t.trap 0x06 0 (t.w a)) ∧
        exec (.jr g a) s = .next (t.trap 0x06 0 (t.w a)) ∧ exec (.ret g a) s = .next (t.trap 0x06 0 (t.w a)))) ∧
    (s.ready 0 [8 + p.val] [] →
      (q.w (8 + p.val) - 1 ≠ 0 →
        exec (.loopC u p) s = .next ((q.setW (8 + p.val) (q.w (8 + p.val) - 1)).jump (q.pc - BitVec.ofNat 64 (2 * u.val)))) ∧
      (q.w (8 + p.val) - 1 = 0 → exec (.loopC u p) s = .next ((q.setW (8 + p.val) 0).advance 2)) ∧
      ((q.w (8 + p.val)).toNat % 2 = 0 → exec (.jrC p) s = .next (q.jump (q.w (8 + p.val))))) ∧
    (∀ c n, s.cur = .strand c n → ∃ v, exec (.immx x) s = .next v ∧ v.imx = s.imx ++ [x] ∧ v.pc = s.pc + 4 ∧ v.firstPc = s.firstPc ∧
      v.mem = s.mem)

/-- R211–R213, R314, R315, R321, R322: END ends the activation once its loads have written their registers; YIELD leaves a continuation and frees
the strand once its allowances are home; BRK, TRAP and SVC trap after they have retired; RTE resumes the strand whose trap it handles, or ends its
activation, and then ends its own. An illegal instruction and a failed fetch trap at PC. The model's own reading enters by log 22. -/
def Obligations.EndingAndTraps : Prop :=
  ∀ (s : State) (c n : Nat) (g : Fin 8) (a : Fin 32), s.strandReady c n g [a] [] →
    let t := s.correctRegs [a]
    let strand := s.strand c n
    let gone (s : State) : State := s.modStrand c n (fun t =>
      { t with mode := .free, wait := .none, imx := [], deadline := none, claim := 0, serial := false, rres := false, fol := 0, folq := [],
               followed := false, hod := none, built := [] })
    (mayEnd s c n = true → exec (.endAct g) s = .next (endNow s c n) ∧ exec .endC s = .next (endNow s c n)) ∧
    (strand.audit = false → strand.allow = 8 → strand.arsp = 2 → loadsOutstanding s c n = false →
      (∀ u, accept s c 0 (contMsg s c n) 0 (.cont (contOf strand n 4)) 0 0 = (u, true) → exec (.yield g) s = .next (gone u)) ∧
      (∀ u, accept s c 0 (contMsg s c n) 0 (.cont (contOf strand n 2)) 0 0 = (u, true) → exec .yieldC s = .next (gone u))) ∧
    exec (.brk g) s = .next (s.trapAfter 0x1C 0 0 4) ∧ exec .brkC s = .next (s.trapAfter 0x1C 0 0 2) ∧
    exec (.trap g a) s = .next (t.trapAfter 0x16 ((t.w a).toNat % 256) (t.w a) 4) ∧
    exec (.svc g a) s = .next (t.trapAfter 0x17 ((t.w a).toNat % 256) (t.w a) 4) ∧
    (∀ detail, exec (.illegalInstruction detail) s = .next (s.trap 0x01 detail s.firstPc)) ∧
    (∀ addr, exec (.fetchFault addr) s = .next (s.trap 0x08 0 addr)) ∧
    (∀ j, (t.strand c n).cls = 63 → parkedStrand t c (t.strand c n).m.w3 = some j → mayEnd t c n = true →
      ((t.w a).getLsbD 0 = false → exec (.rte g a) s = .next (endNow (resumeStrand t c j) c n)) ∧
      ((t.w a).getLsbD 0 = true → exec (.rte g a) s = .next (endNow (endActivation t c j) c n))) ∧
    ((t.strand c n).cls ≠ 63 → exec (.rte g a) s = .next (t.trap 0x08 0 0))

/-- R364, R365, R367: a trap writes TRAPC, TRAPA and TRAPPC, parks the strand with its frame, claims, class and allowances, and leaves PC where a
resumption goes on; where no routine of the core takes it, one FAULT message goes out with cause, detail, kind, address, PC and identity. The
return lets the strand run again at that PC. The model's own reading enters by log 17 and 18. -/
def Obligations.TrapEntry : Prop :=
  ∀ (s : State) (c n cause detail kind : Nat) (addr pc next : Word), cause < 256 → detail < 256 → kind < 256 →
    let t := takeTrap s c n cause detail kind addr pc next none
    let what : Nat := if cause = 0x07 then kind else detail
    let old := s.strand c n
    let new := t.strand c n
    new.trapc = BitVec.ofNat 64 (cause + what * 256) ∧ new.trapa = addr ∧ new.trappc = pc ∧ new.mode = .parked ∧ new.pc = next ∧
      new.imx = [] ∧ new.wait = .none ∧ new.frame = old.frame ∧ new.claim = old.claim ∧ new.cls = old.cls ∧ new.allow = old.allow ∧
      new.arsp = old.arsp ∧ new.fctl = old.fctl ∧ new.fflags = old.fflags ∧ new.act = old.act ∧
      (∀ r, new.mask r = old.mask r) ∧ (∀ r, new.vec r = old.vec r) ∧
      (old.hod = none → trapIsLocal s c n cause = false → (s.core c).replay = none → (s.core c).domain < 65536 →
        ∃ f ∈ t.flits, f.cls = 4 ∧ msgSfn f.msg = 0x10 ∧ f.msg.w0.toNat % 2 ^ 24 = cause + what * 2 ^ 8 + kind * 2 ^ 16 ∧ f.msg.w1 = addr ∧
          f.msg.w2 = pc ∧ f.msg.w3 = s.identOf c n) ∧
      ((resumeStrand t c n).strand c n).mode = .running ∧ ((resumeStrand t c n).strand c n).pc = next

/-- R210, R323–R327, R370: the system instructions. WAITX ends when the selected conditions hold or at its deadline; TLBINV starts a shootdown of
its domain and waits; RTSET writes a routine-table entry. RESUME and PREEMPT of a foreman send a packet and wait for its answer; CTXSAVE writes
the image of a pre-empted core, and CTXLOAD restores one into a pre-empted core, and both answer 0 for any other and for a core whose launch is
ending; on a core that is no foreman these
four trap. The model's own reading enters by log 10 and 52. -/
def Obligations.Supervision : Prop :=
  ∀ (s : State) (c n : Nat) (g : Fin 8) (sc : Scope) (d a b : Fin 32), s.strandReady c n g [d, a, b, b.val + 1] [d] →
    let one := s.correctRegs [a]
    let two := s.correctRegs [a, b]
    let inv := s.correctRegs [d, a, b]
    let table := s.correctRegs [a, b, b.val + 1]
    let left : Nat := waitMask one c n &&& ((one.w a).toNat % 32)
    let answer (v : Nat) : Result := .next ((two.setW d (BitVec.ofNat 64 v)).advance 4)
    let va := fieldOf (two.w b) 55 0
    let limit := fieldOf (one.w a) 63 32
    (left = 0 ∨ (limit ≠ 0 ∧ ∃ t, (one.strand c n).deadline = some t ∧ t ≤ one.cycle) →
      exec (.waitx g d a) s = .next ((one.setW d (BitVec.ofNat 64 left)).advance 4)) ∧
    (left ≠ 0 → (one.strand c n).deadline = none →
      exec (.waitx g d a) s = .next (one.modStrand c n (fun t => { t with deadline := some (one.cycle + limit) }))) ∧
    (let dom := fieldOf (inv.w d) 15 0
     let lo := fieldOf (inv.w a) 55 16 * 65536
     let len := (inv.w b).toNat
     (isForeman c = true ∨ dom = (s.core c).domain) → (s.strand c n).audit = false →
      ∃ t x, exec (.tlbinv g sc d a b) s = .next t ∧ t.shoots = s.shoots ++ [x] ∧ x.dom = dom ∧ x.lo = lo ∧ x.scope = sc ∧
        x.hi = (if len = 0 then 0 else lo + (len + 65535) / 65536 * 65536) ∧ corePkg c ∈ x.left ∧
        (t.strand c n).wait = .shootdown x.id ∧ t.mem = s.mem) ∧
    ((s.strand c n).audit = false → bytesInFlight table c n (padBase c + 0x15800 + 16 * ((table.w a).toNat % 64)) 16 = false →
      exec (.rtset g a b) s = .next ((table.write (padBase c + 0x15800 + 16 * ((table.w a).toNat % 64)) 16
      ((table.w b).toNat + 2 ^ 64 * (table.w (b.val + 1)).toNat)).advance 4)) ∧
    (isForeman c = false → exec (.resume g d a b) s = .next (s.trap 0x08 0 0) ∧ exec (.preempt g d a b) s = .next (s.trap 0x08 0 0) ∧
      exec (.ctxsave g d a b) s = .next (s.trap 0x08 0 0) ∧ exec (.ctxload g d a b) s = .next (s.trap 0x08 0 0)) ∧
    (isForeman c = true →
      (fieldOf (two.w a) 39 36 ∈ [0, 1, 3, 5] →
        exec (.resume g d a b) s = .next (sendPacket two c n d 0x19 ((two.w b).toNat % 2) (two.w a))) ∧
      ((two.w b).toNat % 4 ≠ 3 → exec (.preempt g d a b) s = .next (sendPacket two c n d 0x18 ((two.w b).toNat % 4) (two.w a))) ∧
      ((two.w b).toNat % 4 = 3 → exec (.preempt g d a b) s = answer 2) ∧
      (∀ t, va % 4096 = 0 → imageCore c (two.w a) = some t →
        ((two.core t).preempted = false ∨ launchEnding two t = true →
          exec (.ctxsave g d a b) s = answer 0 ∧ exec (.ctxload g d a b) s = answer 0) ∧
        (∀ u v, (two.core t).preempted = true → launchEnding two t = false → (∀ b, b < 2 → bankStands two t b = true) →
          imagePoison two t = none →
          let l := coreImage two t two.fresh
          firstRefused two c va l.length .store = (u, none) → writeVa u (u.agent c) (l.length / 64 + 2) va l = (v, none) →
          exec (.ctxsave g d a b) s = .next ((({ v with shelf := Table.set v.shelf two.fresh (t, v.core t) }.tickFresh).setW d
            (BitVec.ofNat 64 l.length)).advance 4)) ∧
        (∀ u v head l, (two.core t).preempted = true → launchEnding two t = false →
          readVa two (two.agent c) .load 70 va 4096 = (u, .ok head) → ofBytesLE head % 2 ^ 32 = 0x43580001 →
          readVa u (u.agent c) .load (headedLength (ofBytesLE head) / 64 + 2) va (headedLength (ofBytesLE head)) = (v, .ok l) →
          exec (.ctxload g d a b) s =
            .next (((loadCore v t l).setW d (BitVec.ofNat 64 (headedLength (ofBytesLE head)))).advance 4))))

/-- R323, R366–R370, R383: what a foreman's packet does. A parked strand resumes or its activation ends, while its core is not pre-empted; a
request of the launch's supervisor becomes such a packet; a core stops once every strand is at a boundary, with every strand saved; action 1
completes when the core may pass to another domain; action 2 restores every strand. The model's own reading enters by log 52. -/
def Obligations.Preemption : Prop :=
  (∀ (s : State) (r : Nat) (p : Packet), s.packet? r = some p →
    let c := coreOfIdent p.target
    let k := s.core c
    (∀ n, p.sfn = 0x19 → fieldOf p.target 39 36 = 0 → parkedStrand s c p.target = some n →
      (k.preempted = false → p.action = 0 → exec (.strandResume r) s = .next (ackPacket (resumeStrand s c n) p 0)) ∧
      (k.preempted = false → p.action = 1 → mayEnd (dropRefused s c n) c n = true →
        exec (.strandEnd r) s = .next (ackPacket (endNow (dropRefused s c n) c n) p 0)) ∧
      (k.preempted = true → exec (.strandResume r) s = .next s ∧ exec (.strandEnd r) s = .next s)) ∧
    (p.sfn = 0x18 → k.launch ≠ 0 → isForeman c = false → launchEnding s c = false →
      (k.preempted = false → (∀ n, n < 4 → atBoundary s c n = true) →
        (p.action = 0 → exec (.preemptCore r) s = .next (ackPacket (stopCore s c) p 0)) ∧
        (p.action = 1 → exec (.preemptCore r) s = .next (stopCore s c))) ∧
      (p.action = 1 → k.preempted = true → k.saved = false → maySave s c = true → exec (.preemptSave r) s =
        .next (ackPacket ((holdAccs ((List.range 4).foldl (fun s n => peerLoss s c n) s) c).modCore c (fun k => { k with saved := true })) p 0)) ∧
      (p.action = 2 → k.preempted = true → k.saved = false → exec (.preemptResume r) s =
        .next (ackPacket (((List.range 4).foldl (fun s n => restoreStrand s c n) s).modCore c (fun k => { k with preempted := false })) p 0)))) ∧
  (∀ (s : State) (p : Nat) (m : Msg) (l : Launch), sysHead s p 0x14 = some m → (dropSys s p).launchOf (coreOfIdent m.w3) = some l →
    sentBy m l.supv = true → fieldOf m.w3 39 36 = 0 →
    ∃ t k, exec (.strandAction p) s = .next t ∧ t.packets = s.packets ++ [k] ∧ k.sfn = 0x19 ∧ k.target = m.w3 ∧
      k.action = m.w0.toNat % 2)

/-- R316–R319: GANG, UNGANG, FOLLOW and REJOIN wait for their joint, and without a bond, or with a rectangle that R316 excludes, trap; DETACH
only advances PC, and so does the leader's REJOIN where no follower has detached, once none is behind it. When every core of the rectangle waits,
the bond forms, and where one of them names another rectangle every GANG that waits for one of these traps; when every member waits at UNGANG it
dissolves, and every REJOIN of its members ends; at FOLLOW the members' strands begin to follow the leader's; at REJOIN the detached ones follow
again, and those that wait at another marker trap, as does a strand that has never followed. The model's own reading enters by log 49. -/
def Obligations.Bonds : Prop :=
  (∀ (s : State) (c n : Nat) (g : Fin 8) (a : Fin 32) (m : Fin 16), s.strandReady c n g [a] [] →
    let t := s.correctRegs [a]
    let r := (t.w a).toNat % 65536
    let waits (s : State) (j : Joint) : Result := .next (s.modStrand c n (fun t => { t with wait := .joint j }))
    (gangBad t c r = false → exec (.gang g a) s = waits t (.gang r)) ∧
    (gangBad t c r = true → exec (.gang g a) s = .next (t.trap 0x13 0 0)) ∧
    ((s.core c).bond.isSome = true → exec (.ungang g) s = waits s .ungang ∧ exec (.follow g) s = waits s .follow) ∧
    ((s.core c).bond = none → exec (.ungang g) s = .next (s.trap 0x13 0 0) ∧ exec (.follow g) s = .next (s.trap 0x13 0 0)) ∧
    exec (.detach g) s = .next (s.advance 4) ∧
    (leaderOf s c = some c → followersBehind s c n = true → exec (.rejoin g m) s = .next s) ∧
    (leaderOf s c = some c → followersBehind s c n = false → detachedMembers s c n ≠ [] → exec (.rejoin g m) s = waits s (.rejoin m)) ∧
    (leaderOf s c = some c → followersBehind s c n = false → detachedMembers s c n = [] → exec (.rejoin g m) s = .next (s.advance 4)) ∧
    (leaderOf s c ≠ some c → (s.strand c n).followed = true → (s.strand c n).fol ≠ 1 → exec (.rejoin g m) s = waits s (.rejoin m)) ∧
    (leaderOf s c ≠ some c → (s.strand c n).followed = true → (s.strand c n).fol = 1 → exec (.rejoin g m) s = .next (s.advance 4)) ∧
    (leaderOf s c ≠ some c → (s.strand c n).followed = false → exec (.rejoin g m) s = .next (s.trap 0x13 0 0))) ∧
  (∀ (s : State) (c n r : Nat) (strandOf : Nat → Nat), gangOf (s.core c) = some (n, r) →
    (∀ m ∈ rectCores (corePkg c) r, (s.core m).preempted = false ∧ gangOf (s.core m) = some (strandOf m, r)) →
    exec (.gangJoint c) s = .next ((rectCores (corePkg c) r).foldl (fun s m =>
      leaveJoint (s.modCore m (fun k => { k with bond := some r })) m (strandOf m)) s)) ∧
  (∀ (s : State) (c n r : Nat) (strandOf named : Nat → Nat), gangOf (s.core c) = some (n, r) →
    (∀ m ∈ rectCores (corePkg c) r, (s.core m).preempted = false ∧ gangOf (s.core m) = some (strandOf m, named m)) →
    (∃ m ∈ rectCores (corePkg c) r, named m ≠ r) →
    let rects := r :: (rectCores (corePkg c) r).map named
    let waiting := (List.range 1024).filterMap (fun i => (gangOf (s.core (corePkg c * 2048 + i))).bind (fun x =>
      if rects.contains x.2 then some (corePkg c * 2048 + i, x.1) else none))
    (∀ x ∈ waiting, (s.core x.1).preempted = false) →
      exec (.gangJoint c) s = .next (waiting.foldl (fun s x => jointTrap s x.1 x.2) s)) ∧
  (∀ (s : State) (c n : Nat), bondCores s c ≠ [] →
    ((∀ m ∈ bondCores s c, (ungangStrand s m).isSome = true ∧
        ∀ q ∈ (s.core m).mq, q.op ≠ .mmag ∧ q.op ≠ .mrot ∧ q.op ≠ .mrotBuf) →
      exec (.ungangJoint c) s = .next ((bondCores s c).foldl (fun s m =>
        let s := releaseRejoins s m
        let s := match ungangStrand s m with | some n => leaveJoint s m n | none => s
        s.modCore m (fun k =>
          (List.range 4).foldl (fun k n => k.setStrand n { k.strand n with fol := 0, folq := [] }) { k with bond := none })) s)) ∧
    ((∀ m ∈ bondCores s c, waitsAtJoint s m n .follow = true) →
      exec (.followJoint c n) s = .next ((bondCores s c).foldl (fun s m =>
        let s := leaveJoint s m n
        if leaderOf s m = some m then s else s.modStrand m n (fun t => { t with fol := 1, folq := [], followed := true })) s))) ∧
  (∀ (s : State) (c n k : Nat), rejoinMarker (s.strand c n) = some k → leaderOf s c = some c → (s.core c).preempted = false →
    let away := (detachedMembers s c n).filter (fun m => !(s.core m).preempted && (match rejoinMarker (s.strand m n) with
      | some j => decide (j ≠ k)
      | none => false))
    ((∀ m ∈ detachedMembers s c n, waitsAtJoint s m n (.rejoin k) = true) →
      exec (.rejoinJoint c n) s = .next (leaveJoint ((detachedMembers s c n).foldl (fun s m =>
        (leaveJoint s m n).modStrand m n (fun t => { t with fol := 1, folq := [] })) s) c n)) ∧
    (away ≠ [] → exec (.rejoinJoint c n) s =
      .next (away.foldl (fun s m => (jointTrap s m n).modStrand m n (fun t => { t with fol := 3 })) s)))

/-! ## Messages, deques and hods (chapters 10 and 16) -/

/-- R185, R186, R300, R303–R305: SEND, SENDT and SENDR with a sound message and an allowance inject it and answer 0; without an allowance
SEND and SENDR answer 1 and SENDT traps 0x0D. DQPUSH puts the stamped build registers at DQHEAD, DQPOP takes the newest entry, DQSTEAL asks
a core of the launch, whose deque unit answers with its oldest entry. -/
def Obligations.Sends : Prop :=
  (∀ (s : State) (c n : Nat) (g d : Fin 8) (a : Fin 32), s.strandReady c n g [a] [] →
    let t := s.strand c n
    let k := s.core c
    let sound (reply : Bool) : Prop := sendRefused s c t.b reply = none
    (releasedBelow s c n t.relMark = true →
      (sound false → 0 < t.allow → exec (.send g d) s = .next (((sendNow s c n false).setK d 0).advance 4) ∧
        exec (.sendt g) s = .next ((sendNow s c n false).advance 4)) ∧
      (sound true → (t.rres = true ∨ 0 < t.arsp) → exec (.sendr g d) s = .next (((sendNow s c n true).setK d 0).advance 4))) ∧
    (sound false → t.allow = 0 → exec (.send g d) s = .next ((s.setK d 1).advance 4) ∧ exec (.sendt g) s = .next (s.trap 0x0D 0 0)) ∧
    (sound true → t.rres = false → t.arsp = 0 → exec (.sendr g d) s = .next ((s.setK d 1).advance 4)) ∧
    (dequeValid k = true →
      (headerReserved t.b = false → msgKind t.b = 0 → dequeNext k k.dqhead ≠ k.dqtail → releasedBelow s c n s.fresh = true →
        ∃ v, exec (.dqpush g d) s = .next v ∧ v.read (dequePa c k.dqhead) 64 = (stampedB s c n).toNat ∧
          (v.core c).dqhead = dequeNext k k.dqhead ∧ (v.core c).dqtail = k.dqtail ∧ (d ≠ 0 → v.k d = 0) ∧
          ∀ x, (x < dequePa c k.dqhead ∨ dequePa c k.dqhead + 64 ≤ x) → v.byteAt x = s.byteAt x) ∧
      (∀ u m, dequeEmpty k = false → loadReady s c n (dequePa c (dequePrev k k.dqhead)) 64 = true →
        dequeEntry s c (dequePrev k k.dqhead) c = (u, .ok m) →
          exec (.dqpop g d) s = .next ((((dequePop u c).modStrand c n (fun t => { t with b := m })).setK d 0).advance 4)) ∧
      (dequeEmpty k = true → exec (.dqpop g d) s = .next ((s.setK d 1).advance 4))) ∧
    (let u := s.correctRegs [a]
     let target : Nat := corePkg c * 2048 + (u.w a).toNat % 1024
     sameArea u (u.seenCore c) target = true → (inFlight u c n).any (·.ord.acq) = false → ∃ v x, exec (.dqsteal g d a) s = .next v ∧
       v.steals = s.steals ++ [x] ∧ x.target = target ∧
      x.d = d.val ∧ (v.strand c n).wait = .steal x.id ∧ v.mem = s.mem)) ∧
  (∀ (s : State) (r : Nat) (x : Steal), s.steals.find? (fun x => decide (x.id = r)) = some x →
    (s.strand x.core x.strand).wait = .steal r → dequeValid (s.core x.target) = true →
    (dequeEmpty (s.core x.target) = true → ∃ t, exec (.dequeStealRequest r) s = .next t ∧
      (t.strand x.core x.strand).wait = .none ∧ (t.strand x.core x.strand).b = (s.strand x.core x.strand).b ∧
      (x.d ≠ 0 → (t.strand x.core x.strand).mask x.d = 1)) ∧
    (∀ u m, dequeEmpty (s.core x.target) = false →
      dequeEntry { s with steals := s.steals.filter (fun y => decide (y.id ≠ r)) } x.target (s.core x.target).dqtail x.core = (u, .ok m) →
      ∃ t, exec (.dequeStealRequest r) s = .next t ∧ (t.strand x.core x.strand).wait = .none ∧ (t.strand x.core x.strand).b = m ∧
        (t.core x.target).dqtail = dequeNext (s.core x.target) (s.core x.target).dqtail ∧
        (x.d ≠ 0 → (t.strand x.core x.strand).mask x.d = 0) ∧ t.mem = s.mem))

/-- R306–R311: the hod instructions on a hod that the operand's checks accept. HODSET, HODINS and HODDEL edit a stop that may be edited; HODGET
reads a field; HODPARK parks; HODNEXT moves CUR on and finishes or forwards the hod; HODRESUME sends it from where it lies; HODNEW builds one in
the lowest free landing slot, or answers 0 without one. The model's own reading enters by log 41 and 81. -/
def Obligations.HodInstructions : Prop :=
  ∀ (s : State) (c n : Nat) (g k : Fin 8) (sel : Fin 16) (d a b : Fin 32), s.strandReady c n g [a, b, b.val + 1] [d] →
    (s.core c).replay = none →
    let at_ := fieldOf (s.w a) 55 0
    let operand (rs : List Nat) (resume : Bool) (u : State) (w : HodAt) (h : HodImage) : Prop :=
      hodOperand (s.correctRegs rs) c at_ resume = (u, .ok (w, h))
    let found (rs : List Nat) (resume : Bool) (u : State) (w : HodAt) (h : HodImage) : Prop :=
      operand rs resume u w h ∧ hodBusy (s.correctRegs rs) c n at_ resume = false
    let launchOf (v : State) (w : HodAt) : Option Launch := match w with
      | .slot t _ => v.launchOf t
      | .park l _ => v.launch? l
    let edits (u : State) (w : HodAt) (h : HodImage) (l : List Nat) : Result := .next ((hodWrite u c w (withStops h l)).advance 4)
    (∀ u w h, found [a, b, b.val + 1] false u w h → lowStop h ≤ k.val → stopValid (u.w b).toNat = true →
      (k.val < hodNstop h → exec (.hodset g k a b) s = edits u w h ((stopsOf h).set k.val (stopFrom u b))) ∧
      (k.val ≤ hodNstop h → hodNstop h ≠ 8 →
        exec (.hodins g k a b) s = edits u w h ((stopsOf h).take k.val ++ stopFrom u b :: (stopsOf h).drop k.val))) ∧
    (∀ u w h, found [a] false u w h →
      (lowStop h ≤ k.val → k.val < hodNstop h → hodNstop h ≠ 1 → exec (.hoddel g k a) s = edits u w h ((stopsOf h).eraseIdx k.val)) ∧
      ((sel.val < 8 → sel.val < hodNstop h) →
        exec (.hodget g sel d a) s = .next ((u.setW d (BitVec.ofNat 64 (hodSelect h sel.val))).advance 4))) ∧
    (∀ u w h, operand [a] false u w h → releasedBelow u c n u.fresh = true → (u.core c).hodAllow ≠ 0 → (u.strand c n).samp = none →
      let h' := setHodField (setHodField h 4 1 (if hodStatus h = 0 then hodCur h else hodCur h + 1)) 56 1 0
      let x := releaseRemote u c n u.fresh (u.strand c n).relSys
      let v := (match w with
        | .slot t i => dropHeld (hodWrite x c w h') t i
        | .park _ _ => hodWrite x c w h')
      ((hodWrite x c w h').core c).replay = none → strandDigest x c n = none →
      exec (.hodnext g a) s = .next ((if hodCur h' = hodNstop h' then parkHod v c w .done 0
        else forwardHod v c w (launchOf v w) h' (engineIdent c 2 0)).advance 4)) ∧
    (∀ u w h, found [a, b] false u w h → (hodStatus h = 0 ∨ hodStatus h = 3) → (u.core c).replay = none →
      exec (.hodpark g a b) s = .next ((parkHod u c w .parked ((u.w b).toNat % 256)).advance 4)) ∧
    (∀ u w h, found [a] true u w h →
      (isForeman c = true ∨ (let (pkg, core, kind, _) := identFields (word (hodSupv h)); kind ≠ 4 ∧ pkg = corePkg c ∧ core = coreIdx (u.seenCore c))) →
      4 ≤ hodStatus h → hodCur h ≠ hodNstop h → (u.core c).hodAllow ≠ 0 → (u.core c).replay = none → exec (.hodresume g a) s =
        .next ((forwardHod (hodWrite u c w (setHodField h 6 1 0)) c w (launchOf u w) (setHodField h 6 1 0) (u.identOf c n)).advance 4)) ∧
    (let t := s.correctRegs [a]
     let va := fieldOf (t.w a) 55 0
     va % 8 = 0 → releasedBelow t c n t.fresh = true → ∀ u x, hodSource t c n va 64 = (u, .ok x) → hodImageValid (ofBytesLE x) = true →
      (u.core c).replay = none →
      (freeLanding (u.core c) = none → exec (.hodnew g d a) s = .next ((u.setW d 0).advance 4)) ∧
      (∀ i v y w tile, freeLanding (u.core c) = some i → hodSource u c n (va + 64) (16 * hodNstop (ofBytesLE x)) = (v, .ok y) →
        let h := ofBytesLE x + 2 ^ 512 * ofBytesLE y
        (∀ j, j < hodNstop h → stopValid (hodStop h j) = true) → hodNstop h = hodNstop (ofBytesLE x) →
        hodSource v c n (hodTaddr h % 2 ^ 56) (hodLen h) = (w, .ok tile) → (w.core c).replay = none →
        ∃ z, exec (.hodnew g d a) s = .next z ∧ slotBusy (z.core c) i = true ∧ i ∈ (z.strand c n).built))

/-- R194–R198, R386: the oldest HOD message of a core takes a free landing slot and the hod is pulled into it; the holder frees its slot when the
acknowledgement is good, and parks the hod with status FAULT when it is not; a BULK frame of a copy reads or writes its burst at its target, and
one of a hod brings the hod. The model's own reading enters by log 41. -/
def Obligations.HodTransport : Prop :=
  (∀ (s : State) (c i id : Nat) (x : Slot) (f : HodFwd), waitingHod (s.core c) = some (x, id) → freeLanding (s.core c) = some i →
    s.fwd? id = some f → x.bad = 0 →
    (corePkg f.core = corePkg c →
      (∀ u l, pullHod s c f = (u, .ok l) → exec (.hodPull c) s = .next (landHod u c i x f l) ∧
        (hodWellFormed (ofBytesLE (l.take 192)) = true → ∃ t, exec (.hodPull c) s = .next t ∧ slotBusy (t.core c) i = true ∧
          (∀ y ∈ t.fwds, y.id = id → y.ack = some 0) ∧ ∀ y ∈ (t.core c).inbox, y.part = 3 → y.slot = x.slot → y.kind = .hod id (some i))) ∧
      (∀ u cause, pullHod s c f = (u, .error cause) → exec (.hodPull c) s = .next (pullFails u c x f cause))) ∧
    (∀ l, corePkg f.core ≠ corePkg c → f.fetched = some l → exec (.hodPull c) s = .next (landHod s c i x f l))) ∧
  (∀ (s : State) (r : Nat) (f : HodFwd), s.fwd? r = some f → hodAnswered s f = true → rspStopped s f.sender = false →
    let u : State := { s with fwds := s.fwds.filter (fun x => decide (x.id ≠ r)) }
    (f.ack = some 0 → exec (.hodAck r) s = .next (freeHod u f.sender f.place)) ∧
    (∀ cause, f.ack = some cause → cause ≠ 0 → exec (.hodAck r) s = .next (parkHod u f.sender f.place .fault cause))) ∧
  (∀ (s : State) (r : Nat) (b : Bulk), s.bulks.find? (fun b => decide (b.id = r)) = some b →
    (b.pkg = corePkg b.core ∨ s.bulkDown (corePkg b.core) b.pkg = false) →
    let gone : State := { s with bulks := s.bulks.filter (fun x => decide (x.id ≠ r)) }
    let a : Agent := ⟨b.core, b.dom, isForeman b.core, false, none⟩
    ((∀ id, b.kind ≠ .hodPull id) → exec (.bulkTransfer r) s = .next (bulkCopy s b)) ∧
    (∀ q, (s.core b.core).copy.q.find? (fun q => decide (q.id = b.req)) = some q →
      (∀ pa k attr v l, b.kind = .copyRead pa k attr → foOpen s b.dom ⟨pa, attr, 16⟩ = true → burstRefused s a pa k false = none →
        burstRead gone a 70 ⟨pa, attr, 16⟩ k = (v, .ok l) →
        exec (.bulkTransfer r) s = .next (v.setCopy b.core { q with inflight := 0, buf := some l })) ∧
      (∀ pa attr data, b.kind = .copyWrite pa attr data → foOpen s b.dom ⟨pa, attr, 16⟩ = true → burstRefused s a pa data.length true = none →
        (burstWrite gone a 70 ⟨pa, attr, 16⟩ data).2 = none → exec (.bulkTransfer r) s = .next ((burstWrite gone a 70 ⟨pa, attr, 16⟩ data).1.setCopy b.core
          { q with inflight := 0, buf := none, cursor := q.cursor + (q.buf.map List.length).getD 0, written := q.written + data.length }))) ∧
    (∀ id f v l, b.kind = .hodPull id → gone.fwd? id = some f →
      (rootAdmits gone (2 * b.pkg) b.dom (corePkg b.core) = true ∨ rootAdmits gone (2 * b.pkg + 1) b.dom (corePkg b.core) = true) →
      pullHod gone f.core f = (v, .ok l) → exec (.bulkTransfer r) s = .next (v.modFwd id (fun f => { f with fetched := some l }))))

/-! ## Launches, dispatch and pointing (chapters 18 and 20) -/

/-- R346, R348, R349, R359–R362: a LAUNCH is queued, or refused with the reason of Table 7; a startable one whose image is good runs on every core
of its rectangle, at once or when the shootdown of its FO marks is acknowledged, and one whose image is bad is refused with the reason, cause, kind
and address; LAUNCH END and ABORT are obeyed from whom they may come; the end of a launch writes status 3, and of an aborted one status 4; the
watchdog begins to count when a launch is still, and after 2^22 cycles writes the wait entries to REPVA and reports the stall to SUPV once. The
model's own reading enters by log 54 (a package that is off takes a LAUNCH), 55, 56, 59 (when a launch is still, and what is reported), 60 and 107. -/
def Obligations.LaunchEvents : Prop :=
  (∀ (s : State) (p : Nat) (m : Msg), sysHead s p 0x01 = some m → (∀ n, (s.pkg (p / 8)).boot ≠ .failed n) →
    let t := dropSys s p
    let u : State := { t with launches := t.launches ++ [Launch.queuedOf t.fresh p m], fresh := t.fresh + 1 }
    (∀ reason, packetRefused t p m = some reason → exec (.launch p) s = .next (writeStatus t p m (2 + 256 * reason) 0)) ∧
    (packetRefused t p m = none → exec (.launch p) s = .next (writeStatus u p m 0 0))) ∧
  (∀ (s t : State) (p : Nat) (l : Launch),
    let runs (l : Launch) (regs : Nat) (out : Result) : Prop := ∃ (u : State) (x : Launch),
      x.id = l.id ∧ x.packet = l.packet ∧ x.state = .running ∧ x.regs = regs ∧
      (∀ c ∈ l.cores, (u.core c).launch = l.id ∧ (u.core c).domain = l.dom ∧ (u.core c).audseed = l.packet.w3) ∧
      out = .next (l.cores.foldl (fun s c => firstMessage s x c) (writeStatus u p l.packet 1 0))
    (∀ i, settledStart s p = some (l, i) → runs l l.regs (exec (.launchStart p) s)) ∧
    (settledStart s p = none → startable s p = some l →
    (∀ reason cause kind va, readImage s l = (t, .error (reason, cause, kind, va)) → exec (.launchStart p) s =
      .next (writeStatus { t with launches := t.launches.filter (fun x => decide (x.id ≠ l.id)) } p l.packet
        (2 + 256 * reason + 65536 * cause + 2 ^ 24 * kind) va)) ∧
    (∀ i u marks, readImage s l = (t, .ok i) → unmarkedLeaves t l i.head = (u, marks) →
      let x : Launch := { l with state := .starting, header := (List.range 16).map (fun n => word (headField i.head (8 * n) 8)), regs := i.regs,
                                 marked := marks, units := (((footEntries i).filterMap id).map (fun e => l.pkg * 512 + e.1)).eraseDups }
      let off := unmapMarks (grantUnits u x i) x i.head
      (marks = [] → runs l i.regs (exec (.launchStart p) s)) ∧
      (marks ≠ [] → exec (.launchStart p) s = .next (off.1.modLaunch l.id (fun _ => { x with image := some i, shoots := off.2 })))))) ∧
  (∀ (s : State) (p : Nat) (m : Msg) (l : Launch),
    let t := dropSys s p
    let mine := l.cores.filter (runsOn t l)
    namedLaunch t p m = some l →
    (sysHead s p 0x02 = some m →
      (mayEndLaunch t l m = true → exec (.launchEnd p) s = .next (t.modLaunch l.id (fun x => { x with endAsked := true }))) ∧
      (mayEndLaunch t l m = false → exec (.launchEnd p) s = .next (t.handOn (foremanOf p) l.supv m 0x03 0x02))) ∧
    (sysHead s p 0x03 = some m →
      (mayEndLaunch t l m = true → exec (.launchAbort p) s = .next (abortParked (cancelParked ((mine.foldl abortCore t).modLaunch l.id
        (fun x => { x with state := .ending })) l) l)) ∧
      (mayEndLaunch t l m = false → exec (.launchAbort p) s = .next (t.handOn (foremanOf p) l.supv m 0x03 0x03)))) ∧
  (∀ (s : State) (n : Nat) (l : Launch), s.launch? n = some l →
    (l.state = .running → (l.packet.w0.getLsbD 31 = true ∨ l.endAsked = true) → quiescent s l = true →
      exec (.launchQuiescence n) s = .next (finishLaunch s l 3)) ∧
    (l.state = .ending → l.closing = none → woundUp (cancelParked s l) l = true →
      exec (.launchQuiescence n) s = .next (finishLaunch (cancelParked s l) l 4)) ∧
    (∀ st, l.state = .ending → l.closing = some st → marksSettled s l = true → exec (.launchQuiescence n) s = .next (closeLaunch s l st)) ∧
    (l.state = .running → isStill s l = true → l.still = none →
      exec (.watchdogStall n) s = .next (s.modLaunch n (fun x => { x with still := some s.cycle }))) ∧
    (∀ t, l.state = .running → isStill s l = true → l.still = some t → t + 2 ^ 22 ≤ s.cycle → l.reported = false →
      let ents := (launchWaits s l).take (fieldOf (l.header[1]?.getD 0) 63 48)
      let repva : Nat := fieldOf (l.header[13]?.getD 0) 55 0
      let u := ents.zipIdx.foldl (fun s e =>
        (writeVa s (s.firmware (foremanOf l.panel) l.dom) 2 (repva + 64 * e.2) (waitBytes e.1.1 e.1.2)).1) s
      exec (.watchdogStall n) s = .next ((u.modLaunch n (fun x => { x with reported := true })).foremanSends (foremanOf l.panel) l.supv 0x12
        (word ents.length) (word (waitCounts u l).1) (word (waitCounts u l).2) (word repva) 0 0)) ∧
    (∀ t, l.state = .running → isStill s l = true → l.still = some t → (s.cycle < t + 2 ^ 22 ∨ l.reported = true) →
      exec (.watchdogStall n) s = .next s) ∧
    (l.state = .running → isStill s l = false →
      exec (.watchdogStall n) s = .next (s.modLaunch n (fun x => { x with still := none, reported := false }))))

/-- R351–R354, R356: where every candidate's entry is good, dispatch starts the best eligible candidate on the lowest free strand: a new
activation runs at the entry's PC in the lowest free frame, and a continuation goes on where it stopped; a candidate whose entry is bad leaves its
slot. An idle core takes the entry of its own deque that DQPOP would take, and otherwise one victim's oldest entry. The model's own reading enters
by log 50 and 51. -/
def Obligations.DispatchEvents : Prop :=
  (∀ (s : State) (c n cls : Nat) (x : Slot), (s.core c).preempted = false →
    (candidates (s.core c)).find? (fun x => !entryGood (routineEntry s c x.2)) = none → stuckTrap s c = none → choose s c = some (n, x, cls) →
    n < 4 ∧ strandFree s c n = true ∧ eligible s c n cls = true ∧
    ∃ t, exec (.dispatch c) s = .next t ∧ (t.strand c n).mode = .running ∧ (t.strand c n).cls = cls ∧
      ((∀ y, x.kind ≠ .cont y) → (t.strand c n).pc = BitVec.ofNat 64 (entryPc (routineEntry s c cls)) ∧
        some (t.strand c n).frame = freeFrame (s.core c) ∧ (t.strand c n).actseq = (s.core c).actseq ∧
        (t.strand c n).mbad = x.bad) ∧
      (∀ y, x.kind = .cont y → y.cls = cls → (t.strand c n).pc = y.pc ∧ (t.strand c n).frame = y.frame ∧ (t.strand c n).act = y.act ∧ t.mem = s.mem)) ∧
  (∀ (s : State) (c : Nat) (x : Slot × Nat), (s.core c).preempted = false →
    (candidates (s.core c)).find? (fun x => !entryGood (routineEntry s c x.2)) = some x →
    exec (.dispatch c) s = .next (turnAway s c x.1 x.2)) ∧
  (∀ (s : State) (c slot : Nat), candidates (s.core c) = [] → (∃ n, n < 4 ∧ strandFree s c n = true) → (freeFrame (s.core c)).isSome = true →
    (s.core c).preempted = false → (s.core c).launch ≠ 0 → ((s.core c).idleAt = 0 ∨ (s.core c).idleAt + 16 ≤ s.cycle) →
    (s.core c).freeSlot 0 = some slot →
    let t := s.modCore c (fun k => { k with idleAt := s.cycle })
    (dequeValid (s.core c) = true → dequeEmpty (s.core c) = false →
      exec (.idleStep c) s = .next (dequePop (stolenEntry t c slot c (dequePrev (s.core c) (s.core c).dqhead)) c)) ∧
    (∀ v, dequeEmpty (s.core c) = true → nextVictim (stealVictims s c) (s.core c).stealAt = some v → v ≠ c →
      dequeValid (s.core v) = true → dequeEmpty (s.core v) = false →
      exec (.idleStep c) s =
        .next (dequeSteal (stolenEntry (t.modCore c (fun k => { k with stealAt := coreIdx v })) c slot v (s.core v).dqtail) v)))

/-- R29, R34, R38–R40, R79, R130, R376, R377: a page walk translates for a core that belongs to somebody, and a walk that ends in a leaf fills
the buffers of the core and its panel; a shootdown takes the named translations out of a package's buffers and is acknowledged once none is in
use; the scrubber corrects the single-bit errors of fired banks; an error window ends at each multiple of 2^24 cycles; a replay is started on a
spare core or its vote collected; a quarantined core's row moves. The model's own reading enters by log 14, 61, 62 and 72. -/
def Obligations.PointingEvents : Prop :=
  (∀ (s : State) (c va : Nat), ((s.core c).launch ≠ 0 ∨ isForeman c = true) →
    exec (.pageWalk c va) s = .next (translate s c (s.core c).domain (va % 2 ^ 56)).1 ∧
    (∀ u p, inWindow (va % 2 ^ 56) = false → (∀ e ∈ (s.core c).tlb, e.serves (s.core c).domain (va % 2 ^ 56) = false) →
      (∀ e ∈ (s.panel (panelKey c)).tlb, e.serves (s.core c).domain (va % 2 ^ 56) = false) →
      dieWalk s (panelKey c) (dieKey c) (s.core c).domain (va % 2 ^ 56) = (u, .ok p) →
      let e := p.entry (s.core c).domain (va % 2 ^ 56)
      exec (.pageWalk c va) s = .next (fillPanel (fillCore u c e) (panelKey c) e))) ∧
  (∀ (s : State) (r : Nat) (x : Shoot), s.shoots.find? (fun x => decide (x.id = r)) = some x →
    (∀ g, g ∈ x.left → (g = corePkg x.core ∨ s.linkDown (corePkg x.core) g = false) →
      ∃ t, exec (.shootdownArrival r g) s = .next t ∧ t.mem = s.mem ∧
        (∀ c e, corePkg c = g → x.covers c = true → e ∈ (t.core c).tlb → x.removes e = false) ∧
        (∀ y ∈ t.shoots, y.id = r → g ∉ y.left)) ∧
    (x.left = [] → x.burstsLeft s = false → ∃ t, exec (.shootdownAck r) s = .next t ∧ (∀ y ∈ t.shoots, y.id ≠ r) ∧ (s.rlines = [] → t.mem = s.mem) ∧
      (∀ y ∈ t.rlines, x.reaches y.pkg = true → y.dirty = 0) ∧
      ((s.strand x.core x.strand).wait = .shootdown r →
        (t.strand x.core x.strand).pc = (s.strand x.core x.strand).pc + 4 ∧ (t.strand x.core x.strand).wait = .none))) ∧
  (∀ (s : State) (c b : Nat), b < 2 → ∃ t, exec (.scrub c) s = .next t ∧ t.mem = s.mem ∧
    (((s.core c).bank b).state = .fired → ((s.core c).bank b).single ≠ [] → ((t.core c).bank b).single = [])) ∧
  (∀ (s : State) (g k : Nat), s.cycle % 2 ^ 24 = 0 → (s.pkg g).windowAt < s.cycle → k / 128 = g → (∃ x, (k, x) ∈ s.slices) →
    (s.slices.map (·.1)).Nodup →
    ∃ t, exec (.errorWindowEnd g) s = .next t ∧ (t.pkg g).windowAt = s.cycle ∧
      (t.slice k).last = (s.slice k).corr ∧ (t.slice k).corr = 0) ∧
  (∀ (s : State) (g : Nat),
    (∀ h r l, endedReplays s g = (h, r) :: l → exec (.replay g) s = .next (collectReplay s h r)) ∧
    (∀ e h, endedReplays s g = [] → (List.range 8).filterMap (fun p => nextEntry s g (g * 8 + p)) = [e] →
      (s.core e.core).launch = e.launch → (spareCores g).filter (mayHost s e) = [h] →
      exec (.replay g) s = .next (startReplay s.tickFresh e h))) ∧
  (∀ (s : State) (p h : Nat), (Table.get .init (s.panel p).health h).q = true → h < 128 → spareUsed s p (h % 8) = false →
    (∀ c ∈ rowCores p (h % 8) (h / 8), (s.core c).preempted = true ∨ ∀ n, n < 4 → atBoundary s c n = true) →
    (s.core (p / 8 * 2048 + 1032 + p % 8 * 8 + h % 8)).replay = none →
    ∃ t, exec (.quarantineMove p h) s = .next t ∧ Table.get 0 (t.panel p).remap (h % 8) = BitVec.ofNat 64 (128 + h / 8))

/-! ## Messages, grout and Nelyen (chapters 9, 10, 19 and 20) -/

/-- R175–R179, R181: a router that has assigned every flit that arrived injects one waiting flit in a cycle while a link is free and no neighbour's
starvation holds it back, and signals starvation of its own after 128 cycles of waiting; a flit that is alone at a router is ejected at its
destination where the ejection port takes it, elsewhere takes a free link that shortens its way, and is deflected where none does; an ejected
flit out of its order waits in the resequencing buffer, and one in its order is checked and corrected, or handed to the supervisor where its
header is lost. The model's own reading enters by log 11 and 80. -/
def Obligations.GroutEvents : Prop :=
  (∀ (s : State) (i w : Nat) (f : Flit), s.flit? i = some f →
    let r := routerKey f.pkg f.sx f.sy
    (f.loc = .waiting w → arrivedAt s r = [] → (Table.get (0, 0) s.ports r).2 ≠ s.cycle + 1 → heldBack s f = false →
      freeLinks s f.pkg f.sx f.sy ≠ [] →
      ∃ t, exec (.flitInjection i) s = .next t ∧ (Table.get (0, 0) t.ports r).2 = s.cycle + 1 ∧
        t.starving = s.starving.filter (fun q => !decide (q.1 = r ∧ q.2 = i)) ∧ (∀ j, j ≠ i → t.flit? j = s.flit? j) ∧
        (∃ g, t.flit? i = some g ∧ ((ejects s f.sx f.sy f = true ∧ g.loc = .queued) ∨ (ejects s f.sx f.sy f = false ∧
          ∃ p ∈ freeLinks s f.pkg f.sx f.sy, g.loc = .at_ p.1 p.2 (linkArrival s f.sy p.2) r)))) ∧
    (f.loc = .waiting w → w + 128 ≤ s.cycle → (∀ q ∈ s.starving, q.1 ≠ r) →
      ∃ g ∈ s.flits, routerKey g.pkg g.sx g.sy = r ∧ g.starved s.cycle = true ∧
        exec (.injectionStarvation r) s = .next { s with starving := Table.set s.starving r g.id }) ∧
    (f.loc = .queued ∨ f.loc = .held →
      (f.seq ≠ s.nextSeq f → exec (.flitEjection i) s = .next (s.modFlit i (fun f => { f with loc := .held }))) ∧
      (f.seq = s.nextSeq f → f.badHeader = false → f.single = true →
        exec (.flitEjection i) s = .next ((s.countCore (f.pkg * 2048 + f.dy * 32 + f.dx) 1).modFlit i (fun f => { f with single := false }))) ∧
      (f.seq = s.nextSeq f → f.badHeader = true →
        exec (.flitEjection i) s = .next (handBroken ((leaveQueue s f).giveBack f none) f)))) ∧
  (∀ (s : State) (r : Nat) (f : Flit), arrivedAt s r = [f] →
    let x : Nat := r % 32
    let y : Nat := r / 32 % 32
    let q := routerKey f.pkg x y
    let takes (p : Nat × Nat) (age : Nat) : State :=
      s.tickFresh.modFlit f.id (fun z => { z with loc := .at_ p.1 p.2 (linkArrival s y p.2) q, age := age })
    (ejects s x y f = true →
      let t := s.modFlit f.id (fun f => { f with loc := .queued })
      exec (.flitHop r) s = .next { t with ports := Table.modify (0, 0) t.ports q (fun o => (s.cycle + 1, o.2)) }) ∧
    (f.dx < 32 → f.dy < 32 → (f.dx ≠ x ∨ f.dy ≠ y) → freeLinks s f.pkg x y = neighbours x y →
      ∃ p ∈ neighbours x y, f.distance p.1 p.2 < f.distance x y ∧ exec (.flitHop r) s = .next (takes p f.age)) ∧
    (ejects s x y f = false → freeLinks s f.pkg x y ≠ [] → (∀ p ∈ freeLinks s f.pkg x y, f.distance x y ≤ f.distance p.1 p.2) →
      ∃ p ∈ freeLinks s f.pkg x y, exec (.flitHop r) s = .next (takes p (Nat.min 1023 (f.age + 1)))))

/-- R186–R188, R191, R192, R380, R409: a message that its core takes enters a free slot of its partition, and its allowance goes back; a COUNTER
message counts its entry down, and at zero starts the entry's class and reloads; a message for a core that does not run its sender's domain is
handed on to the foreman of the core's panel; the head of a ring moves into a free slot; a failed ring is tried again; an allowance that comes
back may be spent; a message at the Nelyen port of its package fails there, or enters the grout of the package that it is for, a DIRECT or COUNTER
message in the form of a REMOTE-OP. The model's own reading enters by log 44 and 95. -/
def Obligations.MessageEvents : Prop :=
  (∀ (s : State) (c p slot src flit : Nat) (m : Msg) (bad : BitVec 8) (kind : SlotKind), (s.core c).preempted = false →
    ((s.core c).ring p).ents = [] → (s.core c).freeSlot p = some slot →
    accept s c p m bad kind src flit =
      (s.modCore c (fun k => { k with inbox := k.inbox ++ [⟨p, slot, m, bad, s.cycle, kind, src⟩] }), true)) ∧
  (∀ (s u : State) (i : Nat) (f : Flit), s.frontFlit i = some f → f.dep = 0 →
    let t := f.goal
    let idx : Nat := fieldOf f.msg.h1 57 50
    let dec : Nat := fieldOf f.msg.h1 49 34
    let e : Nat := s.read (counterPa t idx) 8
    let count : Nat := e % 65536
    (takesFrom s t f = true →
      (msgKind f.msg = 0 ∨ (msgKind f.msg = 4 ∧ isCounter f.msg = false) → f.bad &&& 3 = 0 →
        accept s t (if f.cls = 4 then 2 else if f.cls = 1 then 1 else 0) f.msg f.bad .message f.src f.id = (u, true) →
        exec (.messageArrival i) s = .next (takeFlit u f)) ∧
      (msgKind f.msg = 1 → ringFull (s.core t) 0 = false → f.bad &&& 3 = 0 → e.testBit 39 = true →
        (dec < count → exec (.counterMessage i) s = .next (takeFlit (s.write (counterPa t idx) 8 (e - dec)) f)) ∧
        (count ≤ dec → accept s t 0 f.msg f.bad (.fired (e / 2 ^ 32 % 64)) 1 f.id = (u, true) →
          exec (.counterMessage i) s = .next (takeFlit (u.write (counterPa t idx) 8 (e - count + e / 2 ^ 16 % 65536)) f)))) ∧
    (takesFrom s t f = false →
      (msgKind f.msg ≠ 2 → f.via = none → exec (.lateMessage i) s =
        .next ((takeFlit s f).handOn t (foremanIdent (panelKey t)) f.msg 0x05 (aboutOf f.msg))) ∧
      (msgKind f.msg ≠ 2 → f.via ≠ none → exec (.lateMessage i) s = .next ((leaveQueue s f).giveBack f (some f.peer))) ∧
      (msgKind f.msg = 2 → exec (.lateMessage i) s = .next (hodUnreachable (leaveQueue s f) f.fwd)))) ∧
  (∀ (s u : State) (t p slot : Nat) (e : RingEnt) (rest : List RingEnt) (m : Msg) (bad : BitVec 8), ((s.core t).ring p).ents = e :: rest →
    (s.core t).preempted = false → ((s.core t).ring p).rfail = false → (∀ id, e.kind ≠ .wake id) → (s.core t).freeSlot p = some slot →
    readSpilled s t p e.pos = (u, .ok (m, bad)) →
    exec (.spillRedelivery t p) s = .next (u.modCore t (fun k =>
      { (k.setRing p { k.ring p with ents := rest, reported := false }) with inbox := k.inbox ++ [⟨p, slot, m, bad, e.arr, e.kind, e.src⟩] }))) ∧
  (∀ (s : State) (t p : Nat), ((s.core t).ring p).tried = 0 →
    (∀ v e rest y, ((s.core t).ring p).rfail = true → ((s.core t).ring p).wfail = none → ((s.core t).ring p).ents = e :: rest →
      readSpilled s t p e.pos = (v, .ok y) →
      exec (.spillRetry t p) s = .next (v.modCore t (fun k => k.setRing p { k.ring p with rfail := false, reported := false }))) ∧
    (∀ i f, ((s.core t).ring p).rfail = false → ((s.core t).ring p).wfail = some i → s.frontFlit i = some f → isCounter f.msg = false →
      let u := s.modCore t (fun k => k.setRing p { k.ring p with wfail := none, tried := s.cycle })
      takesFrom u f.goal f = true → exec (.spillRetry t p) s = .next (taken f (arriveAt u f)))) ∧
  (∀ (s : State) (r : Nat) (x : Ret), s.rets.find? (fun x => decide (x.id = r)) = some x → rspStopped s x.core = false →
    let t : State := { s with rets := s.rets.filter (fun y => decide (y.id ≠ r)) }
    (x.kind = 2 → exec (.allowanceReturn r) s = .next (t.modCopy x.core (fun e => { e with allow := e.allow + 1 }))) ∧
    (x.kind = 3 → exec (.allowanceReturn r) s = .next (t.modCore x.core (fun k => { k with hodAllow := k.hodAllow + 1 }))) ∧
    (x.failedPkg = none →
      (x.kind = 0 → exec (.allowanceReturn r) s = .next (t.modStrand x.core x.strand (fun t => { t with allow := t.allow + 1 }))) ∧
      (x.kind = 1 → exec (.allowanceReturn r) s = .next (t.modStrand x.core x.strand (fun t => { t with arsp := t.arsp + 1 })))) ∧
    (∀ g, x.failedPkg = some g → x.kind = 4 → exec (.allowanceReturn r) s = .next (setSticky t x.core x.strand x.act g))) ∧
  (∀ (s : State) (i : Nat) (f : Flit), atPort s i = some f → f.bad.getLsbD 0 = false →
    let m := (entered s f).msg
    let crossed : Result := .next ((leaveQueue s f).inject (entered s f))
    (entered s f).pkg = f.peer ∧
    (f.cutOff s = false → portTakes s f.target f = true →
      (msgKind f.msg ≠ 1 → exec (.remoteMessage i) s = crossed) ∧ (msgKind f.msg = 1 → exec (.remoteCounter i) s = crossed)) ∧
    (f.dom < 65536 →
      (msgKind f.msg = 0 → msgKind m = 4 ∧ fieldOf m.h1 63 56 = 16 + msgClass f.msg ∧ fieldOf m.h1 55 40 = f.dom) ∧
      (msgKind f.msg = 1 → msgKind m = 4 ∧ fieldOf m.h1 63 56 = 80 ∧ fieldOf m.h1 23 16 = fieldOf f.msg.h1 57 50 ∧
        fieldOf m.h1 15 0 = fieldOf f.msg.h1 49 34)) ∧
    (f.cutOff s = true ∨ portTakes s f.target f = false →
      (msgKind f.msg ≠ 1 → exec (.remoteMessage i) s = .next (failMessage s f)) ∧
      (msgKind f.msg = 1 → exec (.remoteCounter i) s = .next (failMessage s f))))

/-- R71, R73, R74, R224, R380–R382, R385–R387: the handlers 0 to 13 each perform a piece of an access of their kind at its home, where the port
admits it, and otherwise the piece is lost; a line fill brings a line of another package and returns the loaded bytes; handler 15 writes the dirty
bytes of a line back, or sets the sticky bits of the strands that stored them; two packages that reach each other exchange their capability words; a
failed lane or bank lowers C of its port by 16 KiB. The model's own reading enters by log 23, 24, 76 and 92. -/
def Obligations.RemoteEvents : Prop :=
  (∀ (s u v : State) (r x : Nat) (a : Acc) (p : Piece), s.acc? r = some a → a.pieces = [p] → p.place = .remote → pieceReady s a 0 p = true →
    channelReady s a.dom a.seq p = true →
    let g := corePkg a.core
    let w := releaseFor s.tickFresh a
    let t := if a.sync then w.dropCopy g p.pa else w
    let admitted := !t.cannotReach g (paPkg p.pa) (featureOf a.op p.n) && portAdmits t a.core a.dom g p.pa p.n (decide (a.op ≠ .load))
    ((admitted = true ∧ performAt t a p = (v, .ok x) ∧ u = setPiece v a.id 0 p (.ok x)) ∨ (admitted = false ∧ u = losePiece t a 0 p) ∨
      (∃ e, admitted = true ∧ performAt t a p = (v, .error e) ∧ u = if e.1 = 0x1B then setPiece v a.id 0 p (.error e) else losePiece v a 0 p)) →
    let done : Result := .next u
    (a.op = .load → exec (.remoteLoad r) s = done) ∧ (a.op = .store → exec (.remoteStore r) s = done) ∧
    (a.op = .atomic 2 → exec (.remoteAtadd r) s = done) ∧ (a.op = .atomic 3 → exec (.remoteAtand r) s = done) ∧
    (a.op = .atomic 4 → exec (.remoteAtor r) s = done) ∧ (a.op = .atomic 5 → exec (.remoteAtxor r) s = done) ∧
    (a.op = .atomic 6 → exec (.remoteAtmin r) s = done) ∧ (a.op = .atomic 7 → exec (.remoteAtmax r) s = done) ∧
    (a.op = .atomic 8 → exec (.remoteAtminn r) s = done) ∧ (a.op = .atomic 9 → exec (.remoteAtmaxn r) s = done) ∧
    (a.op = .atomic 10 → exec (.remoteAtswp r) s = done) ∧ (a.op = .atomic 11 → exec (.remoteAtcas r) s = done) ∧
    (a.op = .atomic 12 → exec (.remoteAtfaddFp64 r) s = done) ∧ (a.op = .atomic 13 → exec (.remoteAtfaddFp32 r) s = done)) ∧
  (∀ (s : State) (r : Nat) (a : Acc) (p : Piece), s.acc? r = some a → a.pieces = [p] → p.place = .rpart → a.op = .load → 0 < p.n →
    p.pa % 64 + p.n ≤ 64 → pieceReady s a 0 p = true → s.rline (corePkg a.core) (p.pa / 64) = none →
    s.cannotReach (corePkg a.core) (paPkg p.pa) 2 = false → portAdmits s a.core a.dom (corePkg a.core) p.pa p.n false = true → s.poison = [] →
    ∃ t, exec (.remoteLineFill r) s = .next t ∧ t.mem = s.mem ∧
      (∀ x, t.acc? r = some x → ∃ q, x.pieces = [q] ∧ q.done = true ∧ q.got = s.read p.pa p.n)) ∧
  (∀ (s : State) (g line : Nat) (r : RLine), s.rline g line = some r →
    (r.dirty = 0 → exec (.remoteRcWriteback g line) s = .next s) ∧
    (r.dirty ≠ 0 → takesBack s r = true → exec (.remoteRcWriteback g line) s =
      .next ((writeBackBytes (if r.single = 0 then s else s.countRemote g line (countWords r.single)) r).setRline r.cleaned)) ∧
    (r.dirty ≠ 0 → takesBack s r = false → exec (.remoteRcWriteback g line) s =
      .next (r.writers.foldl (fun s w => setSticky s w.1 w.2.1 w.2.2 (paPkg (line * 64)))
        (s.setRline { r.cleaned with valid := r.valid &&& ~~~r.dirty })))) ∧
  (∀ (s : State) (g peer : Nat) (cap : Word), g ≠ peer → s.linkDown g peer = false → s.linkDown peer g = false →
    ∃ t, exec (.linkTraining g peer cap) s = .next t ∧ t = recordPeer (recordPeer s g peer) peer g ∧
      Table.get 0 (t.pkg g).peers peer = s.capability peer ∧ Table.get 0 (t.pkg peer).peers g = s.capability g) ∧
  (∀ (s : State) (port lane : Nat) (bank : Bool), lane < 4 →
    let p := s.port (port / 12) (port % 12)
    p.lanes.getLsbD lane = true → p.banks.getLsbD lane = true →
    ∃ t, exec (.laneFailure port lane bank) s = .next (portChanged t (port / 12) (port % 12)) ∧
      (t.port (port / 12) (port % 12)).capacity + 16 = p.capacity ∧ ∀ j, j ≠ port % 12 → t.port (port / 12) j = s.port (port / 12) j)

/-- R14, R15, R388, R390, R391, R393–R395: a host access of HBM reads or writes the bytes there, in an FO frame once the earlier commands on its
bank are done; a full line written to the inbox aperture of a panel that is not full enters its queue with SKIND 5, and any other write is
counted in DROP, which wraps; a MODE request of the host is held, or answered with 3 or 4, and takes effect when its scope is quiet, but the
aging interval takes effect at once; a port takes up the reserve policy once its traffic fits; the clock falls by 100 MHz above 2,600 W, down to
1.2 GHz; a reset boots the package; SPDM is answered; the foreman writes the registers of control space, those of the L2 while no launch runs on
their die. The model's own reading enters by log 5, 40, 54 (host access with the boot off), 63, 67, 87 (what fits a reserve policy) and 90. -/
def Obligations.PlatformEvents : Prop :=
  (∀ (s : State) (g addr k v : Nat), (∀ n, (s.pkg g).boot ≠ .failed n) → g < 16384 → 0 < k → addr % 64 + k ≤ 64 → addr < 0x6000000000 →
    hostOpen s g (paOf g addr) = true →
    (∃ t, exec (.cxlMemAccess g addr k (some v)) s = .next t ∧ t.read (paOf g addr) k = v % 2 ^ (8 * k) ∧
      ∀ x, (x < paOf g addr ∨ paOf g addr + k ≤ x) → t.byteAt x = s.byteAt x) ∧
    (s.poison = [] → ∃ t, exec (.cxlMemAccess g addr k none) s = .next t ∧ t.mem = s.mem ∧
      (t.pkg g).hostReads = (s.pkg g).hostReads ++ [some (s.read (paOf g addr) k)])) ∧
  (∀ (s : State) (p data : Nat), (∀ n, (s.pkg (p / 8)).boot ≠ .failed n) →
    ((s.panel p).aperture.length < 16 → ∃ t m, exec (.inboxApertureWrite p 0 64 data) s = .next t ∧ fieldOf m.h0 8 6 = 5 ∧
      m.h1 = BitVec.ofNat 64 (data / 2 ^ 64) ∧
      t = s.modPanel p (fun x => Panel.drain p 16 { x with aperture := x.aperture ++ [m] })) ∧
    (∀ off k, (off ≠ 0 ∨ k ≠ 64 ∨ 16 ≤ (s.panel p).aperture.length) → exec (.inboxApertureWrite p off k data) s =
      .next (s.modPanel p (fun x => { x with drop := (x.drop + 1) % 65536 })))) ∧
  (∀ (s : State) (g : Nat) (m : Msg), s.answers g = true → sysHead s (g * 8) 0x41 = some m →
    let mode : Nat := fieldOf m.w0 7 0
    let t := dropSys s (g * 8)
    let answer (v : Nat) : Result := .next (foremanStore t (g * 8) (fieldOf m.w2 55 0) v)
    let held : Result := .next (t.modPkg g (fun p =>
      { p with held := p.held ++ [⟨mode, fieldOf m.w0 15 8, fieldOf m.w0 19 16, m.w1, fieldOf m.w2 55 0⟩] }))
    (msgSkind m = 5 → modeGood m = true →
      (mode = 1 → exec (.modeRemoteCache g) s = held) ∧ (mode = 2 → exec (.modeL2Partitioning g) s = held) ∧
      (mode = 3 → exec (.modeL2PartitionClass g) s = held) ∧ (mode = 4 → exec (.modeCimPower g) s = held) ∧
      (mode = 5 → exec (.modeWaitListCap g) s = held) ∧ (mode = 7 → exec (.modeVcReservePolicy g) s = held) ∧
      (mode = 6 → fieldOf m.w0 15 8 < 8 → exec (.modeAgingInterval g) s =
        .next (foremanStore (setAging t (g * 8 + fieldOf m.w0 15 8) m.w1.toNat) (g * 8) (fieldOf m.w2 55 0) 0))) ∧
    (msgSkind m = 5 → modeGood m = false → mode = 5 → exec (.modeWaitListCap g) s = answer 3) ∧
    (msgSkind m = 0 → mode = 5 → exec (.modeWaitListCap g) s = answer 4)) ∧
  (∀ (s : State) (g : Nat) (r : ModeReq) (rest : List ModeReq), (s.pkg g).held = r :: rest → modeQuiet s g r = true →
    exec (.modeChangeApply g) s =
      .next (foremanStore (applyMode (s.modPkg g (fun p => { p with held := rest })) g r) (g * 8) r.reply 0)) ∧
  (∀ (s : State) (port : Nat), (s.port (port / 12) (port % 12)).policy ≠ (s.pkg (port / 12)).policy →
    reservesFit s (port / 12) (port % 12) (s.pkg (port / 12)).policy = true →
    exec (.portReserveApply port) s = .next (portChanged (s.modPort (port / 12) (port % 12)
      (fun q => { q with policy := (s.pkg (port / 12)).policy })) (port / 12) (port % 12))) ∧
  (∀ (s : State) (g watts : Nat), ∃ t, exec (.clockThrottle g watts) s = .next t ∧ (2600 < watts → 1300 ≤ (s.pkg g).clock →
    (t.pkg g).clock = (s.pkg g).clock - 100)) ∧
  (∀ (s : State) (g flash : Nat), ∃ t, exec (.packageReset g flash) s = .next t ∧
    (∀ x, inOverflow x = false ∨ paPkg x ≠ g → t.byteAt x = s.byteAt x) ∧ (∀ c, corePkg c = g → t.core c = .init) ∧
    (t.pkg g).boot = (match [1, 2, 3, 4].find? (fun n => !stageGood g flash n) with | none => .booted | some n => .failed n)) ∧
  (∀ (s : State) (g req : Nat),
    let answers (code : Nat) (i : Instr) : Prop :=
      ∃ payload, exec i s = .next (s.modPkg g (fun p => { p with spdm := p.spdm ++ [⟨code, req, payload⟩] }))
    answers 0x04 (.spdmGetVersion g req) ∧ answers 0x61 (.spdmGetCapabilities g req) ∧ answers 0x63 (.spdmNegotiateAlgorithms g req) ∧
    answers 0x01 (.spdmGetDigests g req) ∧ answers 0x02 (.spdmGetCertificate g req) ∧ answers 0x03 (.spdmChallenge g req) ∧
    answers 0x60 (.spdmGetMeasurements g req) ∧
    (req ∉ [0x84, 0xE1, 0xE3, 0x81, 0x82, 0x83, 0xE0] → answers 0x7F (.spdmUnsupportedRequest g req))) ∧
  (∀ (s : State) (g n : Nat) (v : Word), s.answers g = true →
    (dieQuiet s (2 * g) = true → ∃ t, exec (.controlRegisterWrite g 0x6100100000 v) s = .next t ∧
      fieldOf (t.die (2 * g)).l2cfg 8 8 = fieldOf v 8 8 ∧
        (fieldOf v 3 0 ≤ 8 → fieldOf (t.die (2 * g)).l2cfg 3 0 = fieldOf v 3 0)) ∧
    (dieQuiet s (2 * g) = false → exec (.controlRegisterWrite g 0x6100100000 v) s = .next s) ∧
    (n < 16 → dieQuiet s (2 * g + 1) = true → exec (.controlRegisterWrite g (0x6100110100 + 8 * n) v) s =
      .next (s.modDie (2 * g + 1) (fun x => { x with l2pcls := Table.set x.l2pcls n v }))))

/-! ## Frames, memory, encodings, the step and reset -/

/-- R205, R240: what an instruction on w registers leaves as it was when it does not trap. With its guard false it only moves PC. Otherwise
no byte of memory but those of the frame word of w(d) changes, and of the processor's core only the strand's PC, prefixes and wait. -/
def Obligations.RegisterFrame : Prop :=
  ∀ (s t : State) (c n : Nat) (g : Fin 8) (d a b : Fin 32) (o : BitVec 12) (e : BitVec 17) (m : Fin 64) (z : Fin 3) (i : Instr),
    s.cur = .strand c n → s.badReg [a, b] = none →
    i ∈ [.add g d a b, .sub g d a b, .mul g d a b, .mulh g d a b, .mulhn g d a b, .and g d a b, .or g d a b, .xor g d a b, .shl g d a b,
        .shr g d a b, .sar g d a b, .rot g d a b, .min g d a b, .max g d a b, .minn g d a b, .maxn g d a b, .clz g d a, .ctz g d a,
        .popc g d a, .mov g d a, .sext g z d a, .zext g z d a, .addi g o d a, .andi g o d a, .ori g o d a, .xori g o d a, .shli g m d a,
        .shri g m d a, .sari g m d a, .movi g e d] ++
      (if (s.correctRegs [a, b]).w b = 0 then [] else [.div g d a b, .divn g d a b, .rem g d a b, .remn g d a b]) →
    (s.predicate g = false → exec i s = .next (s.advance 4)) ∧
    (exec i s = .next t →
      (∀ x, (x < regAddr c (s.strand c n).frame d ∨ regAddr c (s.strand c n).frame d + 8 ≤ x) → t.byteAt x = s.byteAt x) ∧
      (∃ pc imx wait deadline, t.strand c n = { s.strand c n with pc := pc, imx := imx, wait := wait, deadline := deadline }) ∧
      (∀ j, j ≠ n → t.strand c j = s.strand c j) ∧ (∃ q, t.core c = { s.core c with strands := q }) ∧ (∀ j, j ≠ c → t.core j = s.core j) ∧
      t.units = s.units ∧ t.hbms = s.hbms ∧ t.dies = s.dies ∧ t.pkgs = s.pkgs ∧ t.rlines = s.rlines ∧ t.records = s.records ∧
      t.launches = s.launches ∧ t.accs = s.accs ∧ t.mreqs = s.mreqs ∧ t.mreps = s.mreps ∧ t.flits = s.flits ∧ t.host = s.host)

/-- R5, R222, R223: the one piece of an aligned store's access lies at the place to which its address translates, has the access's bytes, and
when it is performed at its home no byte of memory changes but those; a load changes none; and no register of a core, nor of a unit that is
awake, changes. -/
def Obligations.StoreFrame : Prop :=
  (∀ (s u v : State) (c n : Nat) (k : Use) (op : AccOp) (sync : Bool) (w : Want) (ps : List Piece) (q : Place53),
    s.passes c n k op sync [w] u ps → translateFor s c (s.core c).domain w.va k = (v, .ok q) →
    ∃ p, ps = [p] ∧ p.pa = q.pa ∧ p.va = w.va ∧ p.n = w.n ∧ p.data = w.data) ∧
  (∀ (s t : State) (r : Nat) (a : Acc) (p : Piece), s.acc? r = some a → a.pieces = [p] → a.releases = false →
    (exec (.scratchpadAccess r 0 1) s = .next t ∨ exec (.foAccess r 0 1) s = .next t ∨ exec (.l2Access r 0 1) s = .next t) →
    (a.op = .load → t.mem = s.mem) ∧ (∀ x, (x < p.pa ∨ p.pa + p.n ≤ x) → t.byteAt x = s.byteAt x) ∧
    t.cores = s.cores ∧ (∀ u, (s.unit u).power = .awake → t.unit u = s.unit u) ∧ t.launches = s.launches ∧ t.flits = s.flits)

/-- R5, R134, R138: what is written is read. A w register reads as it was written and no other does; a mask register but k0 reads as it was
written and k0 reads as all ones; a vector register reads as it was written; memory reads, little-endian, as it was stored, and other
bytes keep their values; every store keeps memory's canonical form. -/
def Obligations.ReadAfterWrite : Prop :=
  (∀ (s : State) (c n : Nat) (x : Word), s.cur = .strand c n →
    (∀ d, d < 32 → (s.setW d x).w d = x ∧ ∀ e, e < 32 → e ≠ d → (s.setW d x).w e = s.w e) ∧
    (∀ d, d < 8 → (s.setK d x).k d = (if d = 0 then BitVec.allOnes 64 else x) ∧ ∀ e, e < 8 → e ≠ d → (s.setK d x).k e = s.k e)) ∧
  (∀ (s : State) (c n d : Nat) (v : BitVec 2048), s.cur = .strand c n → d < 16 → (s.setV d v).v d = v ∧
    ∀ e, e < 16 → e ≠ d → (s.setV d v).v e = s.v e) ∧
  (∀ (s : State) (u d : Nat) (x : Word), s.cur = .unit u → d < 16 → (s.setW d x).w d = x ∧
    ∀ e, e < 16 → e ≠ d → (s.setW d x).w e = s.w e) ∧
  (∀ (s : State) (pa k v : Nat), (s.write pa k v).read pa k = v % 2 ^ (8 * k) ∧
    (∀ i, i < k → (s.write pa k v).byteAt (pa + i) = BitVec.ofNat 8 (v / 2 ^ (8 * i))) ∧
    (∀ x, (x < pa ∨ pa + k ≤ x) → (s.write pa k v).byteAt x = s.byteAt x) ∧
    (Memory.wf s.mem = true → Memory.wf (s.write pa k v).mem = true))

/-- R200–R210: decoding undoes encoding. For every instruction that is well-formed for a processor and has an encoding, its bytes, followed by
any others, decode to it on that processor, and leave those others; its length is 16 or 32 bits as bit 0 of the first halfword says. -/
def Obligations.DecodeEncode : Prop :=
  ∀ (p : Proc) (i : Instr) (n w : Nat) (rest : List Byte), WellFormed p i = true → encode i = some (n, w) →
    (n = 16 ∨ n = 32) ∧ w < 2 ^ n ∧ (n = 32 ↔ w % 2 = 1) ∧ decode p (bytesOf (n / 8) w ++ rest) = .ok (i, rest)

/-- R200–R214, R313: only encodings are decoded. What decodes is well-formed for the processor and has an encoding, and its bytes are those of that
encoding, so that every reserved field is zero; NOP alone has more than one word, since any guard may stand before it (R313), and that those words
are one instruction is the model's choice (log 13). -/
def Obligations.OnlyEncodings : Prop :=
  ∀ (p : Proc) (l rest : List Byte) (i : Instr), decode p l = .ok (i, rest) →
    WellFormed p i = true ∧ ∃ n w, encode i = some (n, w) ∧
      (i ≠ .nop → l = bytesOf (n / 8) w ++ rest) ∧ (i = .nop → ∃ g, g < 8 ∧ l = bytesOf 4 (w + g * 4194304) ++ rest)

/-- The worked encodings of chapters 12 to 16, one or more for each family, decode to the instructions that they stand for. -/
def Obligations.WorkedEncodings : Prop :=
  let reads (w : Nat) (i : Instr) : Prop := decodeTableWord 32 w = some i
  reads 0x000E6283 (.add 0 5 6 7) ∧ reads 0x48949203 (.cmp 2 .ltn 4 9 10) ∧ reads 0xC438808F (.cmpi 0 0x19C .lt 1 8) ∧
  reads 0x0020_9019 (.csrw 0 0x010 9) ∧ reads 0x001662A1 (.ld 0 2 3 5 6) ∧ reads 0x5E124029 (.stl 0 .package 3 4 9) ∧
  reads 0xE2067131 (.atcas 0 .acqRel .system 2 7 3) ∧ reads 0x520C4537 (.mbarAwait 0 .acquire .panel 10 4 6) ∧
  reads 0x00004043 (.cpy 0 4) ∧ reads 0x648620C5 (.vfma 2 .fp32 1 2 3) ∧ reads 0xAA0620D1 (.vsel 0 5 1 2 3) ∧
  reads 0x000E445D (.vsave 0 7 8 4) ∧ reads 0x081E20DF (.setst 0 .bf16 false 15 1 2) ∧ reads 0x08061061 (.mma 0 .bf16 3 0 1) ∧
  reads 0x26002065 (.facc 3 2) ∧ reads 0x00000167 (.send 0 2) ∧ reads 0x44105069 (.hodset 0 2 5 8) ∧ reads 0xFE30306F (.loop 0 0xFF8 3) ∧
  reads 0x02800071 (.endAct 2) ∧ reads 0x8A000073 (.rejoin 0 5) ∧ reads 0x660A4175 (.tlbinv 0 .package 2 4 5)

/-- R201, R207, R211, R318: a turn of a strand that runs, or of a footing core that runs, executes the instruction whose bytes stand at its PC,
with the prefixes before it, and then brings followers' streams and watchdogs up to date; a follower's PC is the one that its leader's stream
holds. A turn of a unit is that unit's event. A turn takes effect where the order of R371 admits it in its cycle. The model's own reading enters
by log 16 (the instruction that ends at 0x1000 of an overlay), 49 and 65. -/
def Obligations.StepRunsDecoded : Prop :=
  let prefixed (s : State) (x : BitVec 27) : State := match execImmx x s with | .next t => t | _ => s
  (∀ (s : State) (c n k : Nat) (i : Instr) (xs : List (BitVec 27)) (rest : List Turn), s.agenda = .run (.strand c n) :: rest →
    let u : State := { s with agenda := rest }
    let v : State := atPlace u (.strand c n)
    let pc : Nat := (v.strand c n).pc.toNat
    let code (off : Nat) : Nat → List Byte := Memory.bytes s.mem (padBase c + pc + off)
    (s.strand c n).mode = .running → (s.strand c n).wait = .none →
    ((s.strand c n).fol = 1 → ∃ e, (s.strand c n).folq.head? = some e ∧ e.kind ≠ .executed ∧ e.kind ≠ .ended) →
    (s.core c).preempted = false → pendingMatrixTrap { u with cur := .strand c n } c n = none →
    (k = 2 ∨ k = 4) → pc + 4 * xs.length + k ≤ 0x10000 → s.poisonedAt (padBase c + pc) (4 * xs.length + k) = none →
    (v.strand c n).imx.length + xs.length ≤ 2 → (∀ j x, xs[j]? = some x → decode .strand (code (4 * j) 4) = .ok (.immx x, [])) →
    decode .strand (code (4 * xs.length) k) = .ok (i, []) → (∀ x, i ≠ .immx x) →
    ((v.strand c n).imx = [] ∧ xs = [] ∨ extendable (ofBytesLE (code (4 * xs.length) 2)) = true) →
    step s = (match exec i (xs.foldl prefixed v) with
      | .next t => .next (watchLaunches (inOrder u (afterRun u (.strand c n) t)))
      | r => r)) ∧
  (∀ (s : State) (j k : Nat) (i : Instr) (xs : List (BitVec 27)) (rest : List Turn), s.agenda = .run (.unit j) :: rest →
    let u : State := { s with agenda := rest }
    let v : State := { u with cur := .unit j }
    let pc : Nat := BitVec.toNat (v.pc)
    let code (off : Nat) : Nat → List Byte := Memory.bytes (s.unit j).overlay (pc + off)
    (s.unit j).run = .running → (s.unit j).power = .awake → (k = 2 ∨ k = 4) → pc + 4 * xs.length + k ≤ 0x1000 →
    (s.unit j).imx.length + xs.length ≤ 2 → (∀ m x, xs[m]? = some x → decode .footing (code (4 * m) 4) = .ok (.immx x, [])) →
    decode .footing (code (4 * xs.length) k) = .ok (i, []) → (∀ x, i ≠ .immx x) →
    ((s.unit j).imx = [] ∧ xs = [] ∨ extendable (ofBytesLE (code (4 * xs.length) 2)) = true) →
    step s = (match exec i (xs.foldl prefixed v) with
      | .next t => .next (watchLaunches (inOrder u (afterRun u (.unit j) t)))
      | r => r)) ∧
  (∀ (s t : State) (i : Instr) (rest : List Turn), s.agenda = .event i :: rest →
    exec i { s with agenda := rest, cur := .none } = .next t →
    step s = .next (watchLaunches (inOrder { s with agenda := rest } (followUp { s with agenda := rest } t .none none false))))

/-- R12, R14, R29, R46, R49, R75, R124, R132, R143, R186, R284, R340, R355, R377: what the spec says of the machine after reset. Every strand is
free with 8 request and 2 reply allowances; banks are ORDINARY and accumulators empty; units are HALTED and own nothing; modes have their reset
values; no scope record stands. The model's own reading enters by log 1. -/
def Obligations.ResetState : Prop :=
  let s := State.reset
  (∀ c n, (s.strand c n).mode = .free ∧ (s.strand c n).allow = 8 ∧ (s.strand c n).arsp = 2 ∧ (s.strand c n).sticky = []) ∧
  (∀ c, (s.core c).launch = 0 ∧ (s.core c).frames = 0 ∧ (s.core c).actseq = 0 ∧ (s.core c).hodAllow = 4 ∧ (s.core c).prioage = 16 ∧
    (s.core c).copy.allow = 2 ∧ (s.core c).copy.q = [] ∧ (s.core c).mq = [] ∧ (s.core c).inbox = []) ∧
  (∀ c b, ((s.core c).bank b).state = .ordinary ∧ ((s.core c).bank b).poison = 0) ∧
  (∀ u, (s.unit u).run = .halted ∧ (s.unit u).owner = none ∧ (s.unit u).q = [] ∧ (s.unit u).grants = []) ∧
  (∀ g, (s.pkg g).cap = 512 ∧ (s.pkg g).policy = 0 ∧ (s.pkg g).narrow = false ∧ (s.pkg g).boot = .off) ∧
  (∀ d, (s.die d).remsz = 0) ∧ (∀ p, (s.panel p).aging = 16) ∧ (∀ pa, s.record pa = 0) ∧
  s.launches = [] ∧ s.accs = [] ∧ s.mreqs = [] ∧ s.flits = [] ∧ s.cycle = 0 ∧ Memory.wf s.mem = true ∧ s.stills = true

/-- R359: in every state that a step reaches, each launch that its watchdog counts is still, so that 2^22 cycles of a count are cycles without
progress. The model's own reading enters by log 60. -/
def Obligations.WatchdogCounts : Prop := ∀ s t : State, s.stills = true → step s = .next t → t.stills = true
end

