-- ==== Sys2Proof/Laws/Table.lean ====
section
/-! SUPPORT. Sparse tables: what a read gives after an update, and that an update keeps the keys rising. -/

namespace Sys2Proof.Machine

variable {α : Type}

@[simp] theorem Table.get_nil (d : α) (n : Nat) : Table.get d [] n = d := rfl

@[simp] theorem Table.get_set_same (d : α) (t : Table α) (n : Nat) (x : α) : Table.get d (Table.set t n x) n = x := by
  induction t with
  | nil => simp [Table.set, Table.get]
  | cons p rest ih =>
    obtain ⟨k, v⟩ := p
    by_cases hk : k = n
    · simp [Table.set, Table.get, hk]
    · by_cases hn : n < k <;> simp [Table.set, Table.get, hk, hn, ih]

theorem Table.get_set_other (d : α) (t : Table α) {n m : Nat} (x : α) (h : n ≠ m) :
    Table.get d (Table.set t n x) m = Table.get d t m := by
  induction t with
  | nil => simp [Table.set, Table.get, h]
  | cons p rest ih =>
    obtain ⟨k, v⟩ := p
    by_cases hk : k = n
    · subst hk; simp [Table.set, Table.get, h]
    · by_cases hn : n < k
      · simp [Table.set, Table.get, hk, hn, h]
      · simp [Table.set, Table.get, hk, hn, ih]

@[simp] theorem Table.get_erase_same (d : α) (t : Table α) (n : Nat) : Table.get d (Table.erase t n) n = d := by
  induction t with
  | nil => rfl
  | cons p rest ih =>
    obtain ⟨k, v⟩ := p
    by_cases hk : k = n
    · simpa [Table.erase, hk] using ih
    · simpa [Table.erase, Table.get, hk] using ih

@[simp] theorem Table.get_modify_same (d : α) (t : Table α) (n : Nat) (f : α → α) :
    Table.get d (Table.modify d t n f) n = f (Table.get d t n) := Table.get_set_same ..

theorem Table.get_modify_other (d : α) (t : Table α) {n m : Nat} (f : α → α) (h : n ≠ m) :
    Table.get d (Table.modify d t n f) m = Table.get d t m := Table.get_set_other _ _ _ h

/-- The keys rise strictly, from a bound. -/
def Table.wfFrom : Nat → Table α → Prop
  | _, [] => True
  | lo, (k, _) :: rest => lo ≤ k ∧ Table.wfFrom (k + 1) rest

theorem Table.wfFrom_mono {lo lo' : Nat} (h : lo' ≤ lo) : ∀ {t : Table α}, Table.wfFrom lo t → Table.wfFrom lo' t
  | [], _ => trivial
  | (_, _) :: _, ⟨a, b⟩ => ⟨Nat.le_trans h a, b⟩

theorem Table.wfFrom_set {n : Nat} (x : α) : ∀ {lo : Nat} {t : Table α}, lo ≤ n → Table.wfFrom lo t → Table.wfFrom lo (Table.set t n x)
  | lo, [], hl, _ => ⟨hl, trivial⟩
  | lo, (k, v) :: rest, hl, ⟨ha, hb⟩ => by
    by_cases hk : k = n
    · subst hk
      rw [Table.set, if_pos rfl]
      exact ⟨ha, hb⟩
    · by_cases hn : n < k
      · rw [Table.set, if_neg hk, if_pos hn]
        exact ⟨hl, hn, hb⟩
      · have := Table.wfFrom_set (n := n) x (lo := k + 1) (t := rest) (by omega) hb
        simpa [Table.set, Table.wfFrom, hk, hn] using ⟨ha, this⟩

end Sys2Proof.Machine
end

