-- ==== Sys2Proof/Laws/State.lean ====
section
/-! SUPPORT. What each update of the state leaves in each of its fields, so that no proof unfolds a record update, and what the accessors
read after them. -/

namespace Sys2Proof.Machine

/-! ### setCore -/

@[simp] theorem State.setCore_mem (s : State) (c : Nat) (k : Core) : (s.setCore c k).mem = s.mem := rfl
@[simp] theorem State.setCore_poison (s : State) (c : Nat) (k : Core) : (s.setCore c k).poison = s.poison := rfl
@[simp] theorem State.setCore_single (s : State) (c : Nat) (k : Core) : (s.setCore c k).single = s.single := rfl
@[simp] theorem State.setCore_records (s : State) (c : Nat) (k : Core) : (s.setCore c k).records = s.records := rfl
@[simp] theorem State.setCore_host (s : State) (c : Nat) (k : Core) : (s.setCore c k).host = s.host := rfl
@[simp] theorem State.setCore_hostPoison (s : State) (c : Nat) (k : Core) : (s.setCore c k).hostPoison = s.hostPoison := rfl
@[simp] theorem State.setCore_cores (s : State) (c : Nat) (k : Core) : (s.setCore c k).cores = Table.set s.cores c k := rfl
@[simp] theorem State.setCore_units (s : State) (c : Nat) (k : Core) : (s.setCore c k).units = s.units := rfl
@[simp] theorem State.setCore_hbms (s : State) (c : Nat) (k : Core) : (s.setCore c k).hbms = s.hbms := rfl
@[simp] theorem State.setCore_slices (s : State) (c : Nat) (k : Core) : (s.setCore c k).slices = s.slices := rfl
@[simp] theorem State.setCore_dies (s : State) (c : Nat) (k : Core) : (s.setCore c k).dies = s.dies := rfl
@[simp] theorem State.setCore_panels (s : State) (c : Nat) (k : Core) : (s.setCore c k).panels = s.panels := rfl
@[simp] theorem State.setCore_pkgs (s : State) (c : Nat) (k : Core) : (s.setCore c k).pkgs = s.pkgs := rfl
@[simp] theorem State.setCore_rlines (s : State) (c : Nat) (k : Core) : (s.setCore c k).rlines = s.rlines := rfl
@[simp] theorem State.setCore_launches (s : State) (c : Nat) (k : Core) : (s.setCore c k).launches = s.launches := rfl
@[simp] theorem State.setCore_accs (s : State) (c : Nat) (k : Core) : (s.setCore c k).accs = s.accs := rfl
@[simp] theorem State.setCore_mreqs (s : State) (c : Nat) (k : Core) : (s.setCore c k).mreqs = s.mreqs := rfl
@[simp] theorem State.setCore_mreps (s : State) (c : Nat) (k : Core) : (s.setCore c k).mreps = s.mreps := rfl
@[simp] theorem State.setCore_flits (s : State) (c : Nat) (k : Core) : (s.setCore c k).flits = s.flits := rfl
@[simp] theorem State.setCore_seqOut (s : State) (c : Nat) (k : Core) : (s.setCore c k).seqOut = s.seqOut := rfl
@[simp] theorem State.setCore_seqIn (s : State) (c : Nat) (k : Core) : (s.setCore c k).seqIn = s.seqIn := rfl
@[simp] theorem State.setCore_starving (s : State) (c : Nat) (k : Core) : (s.setCore c k).starving = s.starving := rfl
@[simp] theorem State.setCore_ports (s : State) (c : Nat) (k : Core) : (s.setCore c k).ports = s.ports := rfl
@[simp] theorem State.setCore_rets (s : State) (c : Nat) (k : Core) : (s.setCore c k).rets = s.rets := rfl
@[simp] theorem State.setCore_steals (s : State) (c : Nat) (k : Core) : (s.setCore c k).steals = s.steals := rfl
@[simp] theorem State.setCore_packets (s : State) (c : Nat) (k : Core) : (s.setCore c k).packets = s.packets := rfl
@[simp] theorem State.setCore_bulks (s : State) (c : Nat) (k : Core) : (s.setCore c k).bulks = s.bulks := rfl
@[simp] theorem State.setCore_shoots (s : State) (c : Nat) (k : Core) : (s.setCore c k).shoots = s.shoots := rfl
@[simp] theorem State.setCore_fwds (s : State) (c : Nat) (k : Core) : (s.setCore c k).fwds = s.fwds := rfl
@[simp] theorem State.setCore_freplies (s : State) (c : Nat) (k : Core) : (s.setCore c k).freplies = s.freplies := rfl
@[simp] theorem State.setCore_cycle (s : State) (c : Nat) (k : Core) : (s.setCore c k).cycle = s.cycle := rfl
@[simp] theorem State.setCore_settled (s : State) (c : Nat) (k : Core) : (s.setCore c k).settled = s.settled := rfl
@[simp] theorem State.setCore_shelf (s : State) (c : Nat) (k : Core) : (s.setCore c k).shelf = s.shelf := rfl
@[simp] theorem State.setCore_fresh (s : State) (c : Nat) (k : Core) : (s.setCore c k).fresh = s.fresh := rfl
@[simp] theorem State.setCore_cur (s : State) (c : Nat) (k : Core) : (s.setCore c k).cur = s.cur := rfl
@[simp] theorem State.setCore_agenda (s : State) (c : Nat) (k : Core) : (s.setCore c k).agenda = s.agenda := rfl

/-! ### modCore -/

@[simp] theorem State.modCore_mem (s : State) (c : Nat) (f : Core → Core) : (s.modCore c f).mem = s.mem := rfl
@[simp] theorem State.modCore_poison (s : State) (c : Nat) (f : Core → Core) : (s.modCore c f).poison = s.poison := rfl
@[simp] theorem State.modCore_single (s : State) (c : Nat) (f : Core → Core) : (s.modCore c f).single = s.single := rfl
@[simp] theorem State.modCore_records (s : State) (c : Nat) (f : Core → Core) : (s.modCore c f).records = s.records := rfl
@[simp] theorem State.modCore_host (s : State) (c : Nat) (f : Core → Core) : (s.modCore c f).host = s.host := rfl
@[simp] theorem State.modCore_hostPoison (s : State) (c : Nat) (f : Core → Core) : (s.modCore c f).hostPoison = s.hostPoison := rfl
@[simp] theorem State.modCore_cores (s : State) (c : Nat) (f : Core → Core) : (s.modCore c f).cores = Table.set s.cores c (f (s.core c)) := rfl
@[simp] theorem State.modCore_units (s : State) (c : Nat) (f : Core → Core) : (s.modCore c f).units = s.units := rfl
@[simp] theorem State.modCore_hbms (s : State) (c : Nat) (f : Core → Core) : (s.modCore c f).hbms = s.hbms := rfl
@[simp] theorem State.modCore_slices (s : State) (c : Nat) (f : Core → Core) : (s.modCore c f).slices = s.slices := rfl
@[simp] theorem State.modCore_dies (s : State) (c : Nat) (f : Core → Core) : (s.modCore c f).dies = s.dies := rfl
@[simp] theorem State.modCore_panels (s : State) (c : Nat) (f : Core → Core) : (s.modCore c f).panels = s.panels := rfl
@[simp] theorem State.modCore_pkgs (s : State) (c : Nat) (f : Core → Core) : (s.modCore c f).pkgs = s.pkgs := rfl
@[simp] theorem State.modCore_rlines (s : State) (c : Nat) (f : Core → Core) : (s.modCore c f).rlines = s.rlines := rfl
@[simp] theorem State.modCore_launches (s : State) (c : Nat) (f : Core → Core) : (s.modCore c f).launches = s.launches := rfl
@[simp] theorem State.modCore_accs (s : State) (c : Nat) (f : Core → Core) : (s.modCore c f).accs = s.accs := rfl
@[simp] theorem State.modCore_mreqs (s : State) (c : Nat) (f : Core → Core) : (s.modCore c f).mreqs = s.mreqs := rfl
@[simp] theorem State.modCore_mreps (s : State) (c : Nat) (f : Core → Core) : (s.modCore c f).mreps = s.mreps := rfl
@[simp] theorem State.modCore_flits (s : State) (c : Nat) (f : Core → Core) : (s.modCore c f).flits = s.flits := rfl
@[simp] theorem State.modCore_seqOut (s : State) (c : Nat) (f : Core → Core) : (s.modCore c f).seqOut = s.seqOut := rfl
@[simp] theorem State.modCore_seqIn (s : State) (c : Nat) (f : Core → Core) : (s.modCore c f).seqIn = s.seqIn := rfl
@[simp] theorem State.modCore_starving (s : State) (c : Nat) (f : Core → Core) : (s.modCore c f).starving = s.starving := rfl
@[simp] theorem State.modCore_ports (s : State) (c : Nat) (f : Core → Core) : (s.modCore c f).ports = s.ports := rfl
@[simp] theorem State.modCore_rets (s : State) (c : Nat) (f : Core → Core) : (s.modCore c f).rets = s.rets := rfl
@[simp] theorem State.modCore_steals (s : State) (c : Nat) (f : Core → Core) : (s.modCore c f).steals = s.steals := rfl
@[simp] theorem State.modCore_packets (s : State) (c : Nat) (f : Core → Core) : (s.modCore c f).packets = s.packets := rfl
@[simp] theorem State.modCore_bulks (s : State) (c : Nat) (f : Core → Core) : (s.modCore c f).bulks = s.bulks := rfl
@[simp] theorem State.modCore_shoots (s : State) (c : Nat) (f : Core → Core) : (s.modCore c f).shoots = s.shoots := rfl
@[simp] theorem State.modCore_fwds (s : State) (c : Nat) (f : Core → Core) : (s.modCore c f).fwds = s.fwds := rfl
@[simp] theorem State.modCore_freplies (s : State) (c : Nat) (f : Core → Core) : (s.modCore c f).freplies = s.freplies := rfl
@[simp] theorem State.modCore_cycle (s : State) (c : Nat) (f : Core → Core) : (s.modCore c f).cycle = s.cycle := rfl
@[simp] theorem State.modCore_settled (s : State) (c : Nat) (f : Core → Core) : (s.modCore c f).settled = s.settled := rfl
@[simp] theorem State.modCore_shelf (s : State) (c : Nat) (f : Core → Core) : (s.modCore c f).shelf = s.shelf := rfl
@[simp] theorem State.modCore_fresh (s : State) (c : Nat) (f : Core → Core) : (s.modCore c f).fresh = s.fresh := rfl
@[simp] theorem State.modCore_cur (s : State) (c : Nat) (f : Core → Core) : (s.modCore c f).cur = s.cur := rfl
@[simp] theorem State.modCore_agenda (s : State) (c : Nat) (f : Core → Core) : (s.modCore c f).agenda = s.agenda := rfl

/-! ### modStrand -/

@[simp] theorem State.modStrand_mem (s : State) (c n : Nat) (f : Strand → Strand) : (s.modStrand c n f).mem = s.mem := rfl
@[simp] theorem State.modStrand_poison (s : State) (c n : Nat) (f : Strand → Strand) : (s.modStrand c n f).poison = s.poison := rfl
@[simp] theorem State.modStrand_single (s : State) (c n : Nat) (f : Strand → Strand) : (s.modStrand c n f).single = s.single := rfl
@[simp] theorem State.modStrand_records (s : State) (c n : Nat) (f : Strand → Strand) : (s.modStrand c n f).records = s.records := rfl
@[simp] theorem State.modStrand_host (s : State) (c n : Nat) (f : Strand → Strand) : (s.modStrand c n f).host = s.host := rfl
@[simp] theorem State.modStrand_hostPoison (s : State) (c n : Nat) (f : Strand → Strand) : (s.modStrand c n f).hostPoison = s.hostPoison := rfl
@[simp] theorem State.modStrand_cores (s : State) (c n : Nat) (f : Strand → Strand) : (s.modStrand c n f).cores = Table.set s.cores c ((s.core c).setStrand n (f ((s.core c).strand n))) := rfl
@[simp] theorem State.modStrand_units (s : State) (c n : Nat) (f : Strand → Strand) : (s.modStrand c n f).units = s.units := rfl
@[simp] theorem State.modStrand_hbms (s : State) (c n : Nat) (f : Strand → Strand) : (s.modStrand c n f).hbms = s.hbms := rfl
@[simp] theorem State.modStrand_slices (s : State) (c n : Nat) (f : Strand → Strand) : (s.modStrand c n f).slices = s.slices := rfl
@[simp] theorem State.modStrand_dies (s : State) (c n : Nat) (f : Strand → Strand) : (s.modStrand c n f).dies = s.dies := rfl
@[simp] theorem State.modStrand_panels (s : State) (c n : Nat) (f : Strand → Strand) : (s.modStrand c n f).panels = s.panels := rfl
@[simp] theorem State.modStrand_pkgs (s : State) (c n : Nat) (f : Strand → Strand) : (s.modStrand c n f).pkgs = s.pkgs := rfl
@[simp] theorem State.modStrand_rlines (s : State) (c n : Nat) (f : Strand → Strand) : (s.modStrand c n f).rlines = s.rlines := rfl
@[simp] theorem State.modStrand_launches (s : State) (c n : Nat) (f : Strand → Strand) : (s.modStrand c n f).launches = s.launches := rfl
@[simp] theorem State.modStrand_accs (s : State) (c n : Nat) (f : Strand → Strand) : (s.modStrand c n f).accs = s.accs := rfl
@[simp] theorem State.modStrand_mreqs (s : State) (c n : Nat) (f : Strand → Strand) : (s.modStrand c n f).mreqs = s.mreqs := rfl
@[simp] theorem State.modStrand_mreps (s : State) (c n : Nat) (f : Strand → Strand) : (s.modStrand c n f).mreps = s.mreps := rfl
@[simp] theorem State.modStrand_flits (s : State) (c n : Nat) (f : Strand → Strand) : (s.modStrand c n f).flits = s.flits := rfl
@[simp] theorem State.modStrand_seqOut (s : State) (c n : Nat) (f : Strand → Strand) : (s.modStrand c n f).seqOut = s.seqOut := rfl
@[simp] theorem State.modStrand_seqIn (s : State) (c n : Nat) (f : Strand → Strand) : (s.modStrand c n f).seqIn = s.seqIn := rfl
@[simp] theorem State.modStrand_starving (s : State) (c n : Nat) (f : Strand → Strand) : (s.modStrand c n f).starving = s.starving := rfl
@[simp] theorem State.modStrand_ports (s : State) (c n : Nat) (f : Strand → Strand) : (s.modStrand c n f).ports = s.ports := rfl
@[simp] theorem State.modStrand_rets (s : State) (c n : Nat) (f : Strand → Strand) : (s.modStrand c n f).rets = s.rets := rfl
@[simp] theorem State.modStrand_steals (s : State) (c n : Nat) (f : Strand → Strand) : (s.modStrand c n f).steals = s.steals := rfl
@[simp] theorem State.modStrand_packets (s : State) (c n : Nat) (f : Strand → Strand) : (s.modStrand c n f).packets = s.packets := rfl
@[simp] theorem State.modStrand_bulks (s : State) (c n : Nat) (f : Strand → Strand) : (s.modStrand c n f).bulks = s.bulks := rfl
@[simp] theorem State.modStrand_shoots (s : State) (c n : Nat) (f : Strand → Strand) : (s.modStrand c n f).shoots = s.shoots := rfl
@[simp] theorem State.modStrand_fwds (s : State) (c n : Nat) (f : Strand → Strand) : (s.modStrand c n f).fwds = s.fwds := rfl
@[simp] theorem State.modStrand_freplies (s : State) (c n : Nat) (f : Strand → Strand) : (s.modStrand c n f).freplies = s.freplies := rfl
@[simp] theorem State.modStrand_cycle (s : State) (c n : Nat) (f : Strand → Strand) : (s.modStrand c n f).cycle = s.cycle := rfl
@[simp] theorem State.modStrand_settled (s : State) (c n : Nat) (f : Strand → Strand) : (s.modStrand c n f).settled = s.settled := rfl
@[simp] theorem State.modStrand_shelf (s : State) (c n : Nat) (f : Strand → Strand) : (s.modStrand c n f).shelf = s.shelf := rfl
@[simp] theorem State.modStrand_fresh (s : State) (c n : Nat) (f : Strand → Strand) : (s.modStrand c n f).fresh = s.fresh := rfl
@[simp] theorem State.modStrand_cur (s : State) (c n : Nat) (f : Strand → Strand) : (s.modStrand c n f).cur = s.cur := rfl
@[simp] theorem State.modStrand_agenda (s : State) (c n : Nat) (f : Strand → Strand) : (s.modStrand c n f).agenda = s.agenda := rfl

/-! ### modUnit -/

@[simp] theorem State.modUnit_mem (s : State) (u : Nat) (f : Unit → Unit) : (s.modUnit u f).mem = s.mem := rfl
@[simp] theorem State.modUnit_poison (s : State) (u : Nat) (f : Unit → Unit) : (s.modUnit u f).poison = s.poison := rfl
@[simp] theorem State.modUnit_single (s : State) (u : Nat) (f : Unit → Unit) : (s.modUnit u f).single = s.single := rfl
@[simp] theorem State.modUnit_records (s : State) (u : Nat) (f : Unit → Unit) : (s.modUnit u f).records = s.records := rfl
@[simp] theorem State.modUnit_host (s : State) (u : Nat) (f : Unit → Unit) : (s.modUnit u f).host = s.host := rfl
@[simp] theorem State.modUnit_hostPoison (s : State) (u : Nat) (f : Unit → Unit) : (s.modUnit u f).hostPoison = s.hostPoison := rfl
@[simp] theorem State.modUnit_cores (s : State) (u : Nat) (f : Unit → Unit) : (s.modUnit u f).cores = s.cores := rfl
@[simp] theorem State.modUnit_units (s : State) (u : Nat) (f : Unit → Unit) : (s.modUnit u f).units = Table.set s.units u (f (s.unit u)) := rfl
@[simp] theorem State.modUnit_hbms (s : State) (u : Nat) (f : Unit → Unit) : (s.modUnit u f).hbms = s.hbms := rfl
@[simp] theorem State.modUnit_slices (s : State) (u : Nat) (f : Unit → Unit) : (s.modUnit u f).slices = s.slices := rfl
@[simp] theorem State.modUnit_dies (s : State) (u : Nat) (f : Unit → Unit) : (s.modUnit u f).dies = s.dies := rfl
@[simp] theorem State.modUnit_panels (s : State) (u : Nat) (f : Unit → Unit) : (s.modUnit u f).panels = s.panels := rfl
@[simp] theorem State.modUnit_pkgs (s : State) (u : Nat) (f : Unit → Unit) : (s.modUnit u f).pkgs = s.pkgs := rfl
@[simp] theorem State.modUnit_rlines (s : State) (u : Nat) (f : Unit → Unit) : (s.modUnit u f).rlines = s.rlines := rfl
@[simp] theorem State.modUnit_launches (s : State) (u : Nat) (f : Unit → Unit) : (s.modUnit u f).launches = s.launches := rfl
@[simp] theorem State.modUnit_accs (s : State) (u : Nat) (f : Unit → Unit) : (s.modUnit u f).accs = s.accs := rfl
@[simp] theorem State.modUnit_mreqs (s : State) (u : Nat) (f : Unit → Unit) : (s.modUnit u f).mreqs = s.mreqs := rfl
@[simp] theorem State.modUnit_mreps (s : State) (u : Nat) (f : Unit → Unit) : (s.modUnit u f).mreps = s.mreps := rfl
@[simp] theorem State.modUnit_flits (s : State) (u : Nat) (f : Unit → Unit) : (s.modUnit u f).flits = s.flits := rfl
@[simp] theorem State.modUnit_seqOut (s : State) (u : Nat) (f : Unit → Unit) : (s.modUnit u f).seqOut = s.seqOut := rfl
@[simp] theorem State.modUnit_seqIn (s : State) (u : Nat) (f : Unit → Unit) : (s.modUnit u f).seqIn = s.seqIn := rfl
@[simp] theorem State.modUnit_starving (s : State) (u : Nat) (f : Unit → Unit) : (s.modUnit u f).starving = s.starving := rfl
@[simp] theorem State.modUnit_ports (s : State) (u : Nat) (f : Unit → Unit) : (s.modUnit u f).ports = s.ports := rfl
@[simp] theorem State.modUnit_rets (s : State) (u : Nat) (f : Unit → Unit) : (s.modUnit u f).rets = s.rets := rfl
@[simp] theorem State.modUnit_steals (s : State) (u : Nat) (f : Unit → Unit) : (s.modUnit u f).steals = s.steals := rfl
@[simp] theorem State.modUnit_packets (s : State) (u : Nat) (f : Unit → Unit) : (s.modUnit u f).packets = s.packets := rfl
@[simp] theorem State.modUnit_bulks (s : State) (u : Nat) (f : Unit → Unit) : (s.modUnit u f).bulks = s.bulks := rfl
@[simp] theorem State.modUnit_shoots (s : State) (u : Nat) (f : Unit → Unit) : (s.modUnit u f).shoots = s.shoots := rfl
@[simp] theorem State.modUnit_fwds (s : State) (u : Nat) (f : Unit → Unit) : (s.modUnit u f).fwds = s.fwds := rfl
@[simp] theorem State.modUnit_freplies (s : State) (u : Nat) (f : Unit → Unit) : (s.modUnit u f).freplies = s.freplies := rfl
@[simp] theorem State.modUnit_cycle (s : State) (u : Nat) (f : Unit → Unit) : (s.modUnit u f).cycle = s.cycle := rfl
@[simp] theorem State.modUnit_settled (s : State) (u : Nat) (f : Unit → Unit) : (s.modUnit u f).settled = s.settled := rfl
@[simp] theorem State.modUnit_shelf (s : State) (u : Nat) (f : Unit → Unit) : (s.modUnit u f).shelf = s.shelf := rfl
@[simp] theorem State.modUnit_fresh (s : State) (u : Nat) (f : Unit → Unit) : (s.modUnit u f).fresh = s.fresh := rfl
@[simp] theorem State.modUnit_cur (s : State) (u : Nat) (f : Unit → Unit) : (s.modUnit u f).cur = s.cur := rfl
@[simp] theorem State.modUnit_agenda (s : State) (u : Nat) (f : Unit → Unit) : (s.modUnit u f).agenda = s.agenda := rfl

/-! ### modHbm -/

@[simp] theorem State.modHbm_mem (s : State) (k : Nat) (f : Stack → Stack) : (s.modHbm k f).mem = s.mem := rfl
@[simp] theorem State.modHbm_poison (s : State) (k : Nat) (f : Stack → Stack) : (s.modHbm k f).poison = s.poison := rfl
@[simp] theorem State.modHbm_single (s : State) (k : Nat) (f : Stack → Stack) : (s.modHbm k f).single = s.single := rfl
@[simp] theorem State.modHbm_records (s : State) (k : Nat) (f : Stack → Stack) : (s.modHbm k f).records = s.records := rfl
@[simp] theorem State.modHbm_host (s : State) (k : Nat) (f : Stack → Stack) : (s.modHbm k f).host = s.host := rfl
@[simp] theorem State.modHbm_hostPoison (s : State) (k : Nat) (f : Stack → Stack) : (s.modHbm k f).hostPoison = s.hostPoison := rfl
@[simp] theorem State.modHbm_cores (s : State) (k : Nat) (f : Stack → Stack) : (s.modHbm k f).cores = s.cores := rfl
@[simp] theorem State.modHbm_units (s : State) (k : Nat) (f : Stack → Stack) : (s.modHbm k f).units = s.units := rfl
@[simp] theorem State.modHbm_hbms (s : State) (k : Nat) (f : Stack → Stack) : (s.modHbm k f).hbms = Table.set s.hbms k (f (s.hbm k)) := rfl
@[simp] theorem State.modHbm_slices (s : State) (k : Nat) (f : Stack → Stack) : (s.modHbm k f).slices = s.slices := rfl
@[simp] theorem State.modHbm_dies (s : State) (k : Nat) (f : Stack → Stack) : (s.modHbm k f).dies = s.dies := rfl
@[simp] theorem State.modHbm_panels (s : State) (k : Nat) (f : Stack → Stack) : (s.modHbm k f).panels = s.panels := rfl
@[simp] theorem State.modHbm_pkgs (s : State) (k : Nat) (f : Stack → Stack) : (s.modHbm k f).pkgs = s.pkgs := rfl
@[simp] theorem State.modHbm_rlines (s : State) (k : Nat) (f : Stack → Stack) : (s.modHbm k f).rlines = s.rlines := rfl
@[simp] theorem State.modHbm_launches (s : State) (k : Nat) (f : Stack → Stack) : (s.modHbm k f).launches = s.launches := rfl
@[simp] theorem State.modHbm_accs (s : State) (k : Nat) (f : Stack → Stack) : (s.modHbm k f).accs = s.accs := rfl
@[simp] theorem State.modHbm_mreqs (s : State) (k : Nat) (f : Stack → Stack) : (s.modHbm k f).mreqs = s.mreqs := rfl
@[simp] theorem State.modHbm_mreps (s : State) (k : Nat) (f : Stack → Stack) : (s.modHbm k f).mreps = s.mreps := rfl
@[simp] theorem State.modHbm_flits (s : State) (k : Nat) (f : Stack → Stack) : (s.modHbm k f).flits = s.flits := rfl
@[simp] theorem State.modHbm_seqOut (s : State) (k : Nat) (f : Stack → Stack) : (s.modHbm k f).seqOut = s.seqOut := rfl
@[simp] theorem State.modHbm_seqIn (s : State) (k : Nat) (f : Stack → Stack) : (s.modHbm k f).seqIn = s.seqIn := rfl
@[simp] theorem State.modHbm_starving (s : State) (k : Nat) (f : Stack → Stack) : (s.modHbm k f).starving = s.starving := rfl
@[simp] theorem State.modHbm_ports (s : State) (k : Nat) (f : Stack → Stack) : (s.modHbm k f).ports = s.ports := rfl
@[simp] theorem State.modHbm_rets (s : State) (k : Nat) (f : Stack → Stack) : (s.modHbm k f).rets = s.rets := rfl
@[simp] theorem State.modHbm_steals (s : State) (k : Nat) (f : Stack → Stack) : (s.modHbm k f).steals = s.steals := rfl
@[simp] theorem State.modHbm_packets (s : State) (k : Nat) (f : Stack → Stack) : (s.modHbm k f).packets = s.packets := rfl
@[simp] theorem State.modHbm_bulks (s : State) (k : Nat) (f : Stack → Stack) : (s.modHbm k f).bulks = s.bulks := rfl
@[simp] theorem State.modHbm_shoots (s : State) (k : Nat) (f : Stack → Stack) : (s.modHbm k f).shoots = s.shoots := rfl
@[simp] theorem State.modHbm_fwds (s : State) (k : Nat) (f : Stack → Stack) : (s.modHbm k f).fwds = s.fwds := rfl
@[simp] theorem State.modHbm_freplies (s : State) (k : Nat) (f : Stack → Stack) : (s.modHbm k f).freplies = s.freplies := rfl
@[simp] theorem State.modHbm_cycle (s : State) (k : Nat) (f : Stack → Stack) : (s.modHbm k f).cycle = s.cycle := rfl
@[simp] theorem State.modHbm_settled (s : State) (k : Nat) (f : Stack → Stack) : (s.modHbm k f).settled = s.settled := rfl
@[simp] theorem State.modHbm_shelf (s : State) (k : Nat) (f : Stack → Stack) : (s.modHbm k f).shelf = s.shelf := rfl
@[simp] theorem State.modHbm_fresh (s : State) (k : Nat) (f : Stack → Stack) : (s.modHbm k f).fresh = s.fresh := rfl
@[simp] theorem State.modHbm_cur (s : State) (k : Nat) (f : Stack → Stack) : (s.modHbm k f).cur = s.cur := rfl
@[simp] theorem State.modHbm_agenda (s : State) (k : Nat) (f : Stack → Stack) : (s.modHbm k f).agenda = s.agenda := rfl

/-! ### modSlice -/

@[simp] theorem State.modSlice_mem (s : State) (k : Nat) (f : Slice → Slice) : (s.modSlice k f).mem = s.mem := rfl
@[simp] theorem State.modSlice_poison (s : State) (k : Nat) (f : Slice → Slice) : (s.modSlice k f).poison = s.poison := rfl
@[simp] theorem State.modSlice_single (s : State) (k : Nat) (f : Slice → Slice) : (s.modSlice k f).single = s.single := rfl
@[simp] theorem State.modSlice_records (s : State) (k : Nat) (f : Slice → Slice) : (s.modSlice k f).records = s.records := rfl
@[simp] theorem State.modSlice_host (s : State) (k : Nat) (f : Slice → Slice) : (s.modSlice k f).host = s.host := rfl
@[simp] theorem State.modSlice_hostPoison (s : State) (k : Nat) (f : Slice → Slice) : (s.modSlice k f).hostPoison = s.hostPoison := rfl
@[simp] theorem State.modSlice_cores (s : State) (k : Nat) (f : Slice → Slice) : (s.modSlice k f).cores = s.cores := rfl
@[simp] theorem State.modSlice_units (s : State) (k : Nat) (f : Slice → Slice) : (s.modSlice k f).units = s.units := rfl
@[simp] theorem State.modSlice_hbms (s : State) (k : Nat) (f : Slice → Slice) : (s.modSlice k f).hbms = s.hbms := rfl
@[simp] theorem State.modSlice_slices (s : State) (k : Nat) (f : Slice → Slice) : (s.modSlice k f).slices = Table.set s.slices k (f (s.slice k)) := rfl
@[simp] theorem State.modSlice_dies (s : State) (k : Nat) (f : Slice → Slice) : (s.modSlice k f).dies = s.dies := rfl
@[simp] theorem State.modSlice_panels (s : State) (k : Nat) (f : Slice → Slice) : (s.modSlice k f).panels = s.panels := rfl
@[simp] theorem State.modSlice_pkgs (s : State) (k : Nat) (f : Slice → Slice) : (s.modSlice k f).pkgs = s.pkgs := rfl
@[simp] theorem State.modSlice_rlines (s : State) (k : Nat) (f : Slice → Slice) : (s.modSlice k f).rlines = s.rlines := rfl
@[simp] theorem State.modSlice_launches (s : State) (k : Nat) (f : Slice → Slice) : (s.modSlice k f).launches = s.launches := rfl
@[simp] theorem State.modSlice_accs (s : State) (k : Nat) (f : Slice → Slice) : (s.modSlice k f).accs = s.accs := rfl
@[simp] theorem State.modSlice_mreqs (s : State) (k : Nat) (f : Slice → Slice) : (s.modSlice k f).mreqs = s.mreqs := rfl
@[simp] theorem State.modSlice_mreps (s : State) (k : Nat) (f : Slice → Slice) : (s.modSlice k f).mreps = s.mreps := rfl
@[simp] theorem State.modSlice_flits (s : State) (k : Nat) (f : Slice → Slice) : (s.modSlice k f).flits = s.flits := rfl
@[simp] theorem State.modSlice_seqOut (s : State) (k : Nat) (f : Slice → Slice) : (s.modSlice k f).seqOut = s.seqOut := rfl
@[simp] theorem State.modSlice_seqIn (s : State) (k : Nat) (f : Slice → Slice) : (s.modSlice k f).seqIn = s.seqIn := rfl
@[simp] theorem State.modSlice_starving (s : State) (k : Nat) (f : Slice → Slice) : (s.modSlice k f).starving = s.starving := rfl
@[simp] theorem State.modSlice_ports (s : State) (k : Nat) (f : Slice → Slice) : (s.modSlice k f).ports = s.ports := rfl
@[simp] theorem State.modSlice_rets (s : State) (k : Nat) (f : Slice → Slice) : (s.modSlice k f).rets = s.rets := rfl
@[simp] theorem State.modSlice_steals (s : State) (k : Nat) (f : Slice → Slice) : (s.modSlice k f).steals = s.steals := rfl
@[simp] theorem State.modSlice_packets (s : State) (k : Nat) (f : Slice → Slice) : (s.modSlice k f).packets = s.packets := rfl
@[simp] theorem State.modSlice_bulks (s : State) (k : Nat) (f : Slice → Slice) : (s.modSlice k f).bulks = s.bulks := rfl
@[simp] theorem State.modSlice_shoots (s : State) (k : Nat) (f : Slice → Slice) : (s.modSlice k f).shoots = s.shoots := rfl
@[simp] theorem State.modSlice_fwds (s : State) (k : Nat) (f : Slice → Slice) : (s.modSlice k f).fwds = s.fwds := rfl
@[simp] theorem State.modSlice_freplies (s : State) (k : Nat) (f : Slice → Slice) : (s.modSlice k f).freplies = s.freplies := rfl
@[simp] theorem State.modSlice_cycle (s : State) (k : Nat) (f : Slice → Slice) : (s.modSlice k f).cycle = s.cycle := rfl
@[simp] theorem State.modSlice_settled (s : State) (k : Nat) (f : Slice → Slice) : (s.modSlice k f).settled = s.settled := rfl
@[simp] theorem State.modSlice_shelf (s : State) (k : Nat) (f : Slice → Slice) : (s.modSlice k f).shelf = s.shelf := rfl
@[simp] theorem State.modSlice_fresh (s : State) (k : Nat) (f : Slice → Slice) : (s.modSlice k f).fresh = s.fresh := rfl
@[simp] theorem State.modSlice_cur (s : State) (k : Nat) (f : Slice → Slice) : (s.modSlice k f).cur = s.cur := rfl
@[simp] theorem State.modSlice_agenda (s : State) (k : Nat) (f : Slice → Slice) : (s.modSlice k f).agenda = s.agenda := rfl

/-! ### modDie -/

@[simp] theorem State.modDie_mem (s : State) (d : Nat) (f : Die → Die) : (s.modDie d f).mem = s.mem := rfl
@[simp] theorem State.modDie_poison (s : State) (d : Nat) (f : Die → Die) : (s.modDie d f).poison = s.poison := rfl
@[simp] theorem State.modDie_single (s : State) (d : Nat) (f : Die → Die) : (s.modDie d f).single = s.single := rfl
@[simp] theorem State.modDie_records (s : State) (d : Nat) (f : Die → Die) : (s.modDie d f).records = s.records := rfl
@[simp] theorem State.modDie_host (s : State) (d : Nat) (f : Die → Die) : (s.modDie d f).host = s.host := rfl
@[simp] theorem State.modDie_hostPoison (s : State) (d : Nat) (f : Die → Die) : (s.modDie d f).hostPoison = s.hostPoison := rfl
@[simp] theorem State.modDie_cores (s : State) (d : Nat) (f : Die → Die) : (s.modDie d f).cores = s.cores := rfl
@[simp] theorem State.modDie_units (s : State) (d : Nat) (f : Die → Die) : (s.modDie d f).units = s.units := rfl
@[simp] theorem State.modDie_hbms (s : State) (d : Nat) (f : Die → Die) : (s.modDie d f).hbms = s.hbms := rfl
@[simp] theorem State.modDie_slices (s : State) (d : Nat) (f : Die → Die) : (s.modDie d f).slices = s.slices := rfl
@[simp] theorem State.modDie_dies (s : State) (d : Nat) (f : Die → Die) : (s.modDie d f).dies = Table.set s.dies d (f (s.die d)) := rfl
@[simp] theorem State.modDie_panels (s : State) (d : Nat) (f : Die → Die) : (s.modDie d f).panels = s.panels := rfl
@[simp] theorem State.modDie_pkgs (s : State) (d : Nat) (f : Die → Die) : (s.modDie d f).pkgs = s.pkgs := rfl
@[simp] theorem State.modDie_rlines (s : State) (d : Nat) (f : Die → Die) : (s.modDie d f).rlines = s.rlines := rfl
@[simp] theorem State.modDie_launches (s : State) (d : Nat) (f : Die → Die) : (s.modDie d f).launches = s.launches := rfl
@[simp] theorem State.modDie_accs (s : State) (d : Nat) (f : Die → Die) : (s.modDie d f).accs = s.accs := rfl
@[simp] theorem State.modDie_mreqs (s : State) (d : Nat) (f : Die → Die) : (s.modDie d f).mreqs = s.mreqs := rfl
@[simp] theorem State.modDie_mreps (s : State) (d : Nat) (f : Die → Die) : (s.modDie d f).mreps = s.mreps := rfl
@[simp] theorem State.modDie_flits (s : State) (d : Nat) (f : Die → Die) : (s.modDie d f).flits = s.flits := rfl
@[simp] theorem State.modDie_seqOut (s : State) (d : Nat) (f : Die → Die) : (s.modDie d f).seqOut = s.seqOut := rfl
@[simp] theorem State.modDie_seqIn (s : State) (d : Nat) (f : Die → Die) : (s.modDie d f).seqIn = s.seqIn := rfl
@[simp] theorem State.modDie_starving (s : State) (d : Nat) (f : Die → Die) : (s.modDie d f).starving = s.starving := rfl
@[simp] theorem State.modDie_ports (s : State) (d : Nat) (f : Die → Die) : (s.modDie d f).ports = s.ports := rfl
@[simp] theorem State.modDie_rets (s : State) (d : Nat) (f : Die → Die) : (s.modDie d f).rets = s.rets := rfl
@[simp] theorem State.modDie_steals (s : State) (d : Nat) (f : Die → Die) : (s.modDie d f).steals = s.steals := rfl
@[simp] theorem State.modDie_packets (s : State) (d : Nat) (f : Die → Die) : (s.modDie d f).packets = s.packets := rfl
@[simp] theorem State.modDie_bulks (s : State) (d : Nat) (f : Die → Die) : (s.modDie d f).bulks = s.bulks := rfl
@[simp] theorem State.modDie_shoots (s : State) (d : Nat) (f : Die → Die) : (s.modDie d f).shoots = s.shoots := rfl
@[simp] theorem State.modDie_fwds (s : State) (d : Nat) (f : Die → Die) : (s.modDie d f).fwds = s.fwds := rfl
@[simp] theorem State.modDie_freplies (s : State) (d : Nat) (f : Die → Die) : (s.modDie d f).freplies = s.freplies := rfl
@[simp] theorem State.modDie_cycle (s : State) (d : Nat) (f : Die → Die) : (s.modDie d f).cycle = s.cycle := rfl
@[simp] theorem State.modDie_settled (s : State) (d : Nat) (f : Die → Die) : (s.modDie d f).settled = s.settled := rfl
@[simp] theorem State.modDie_shelf (s : State) (d : Nat) (f : Die → Die) : (s.modDie d f).shelf = s.shelf := rfl
@[simp] theorem State.modDie_fresh (s : State) (d : Nat) (f : Die → Die) : (s.modDie d f).fresh = s.fresh := rfl
@[simp] theorem State.modDie_cur (s : State) (d : Nat) (f : Die → Die) : (s.modDie d f).cur = s.cur := rfl
@[simp] theorem State.modDie_agenda (s : State) (d : Nat) (f : Die → Die) : (s.modDie d f).agenda = s.agenda := rfl

/-! ### modPanel -/

@[simp] theorem State.modPanel_mem (s : State) (p : Nat) (f : Panel → Panel) : (s.modPanel p f).mem = s.mem := rfl
@[simp] theorem State.modPanel_poison (s : State) (p : Nat) (f : Panel → Panel) : (s.modPanel p f).poison = s.poison := rfl
@[simp] theorem State.modPanel_single (s : State) (p : Nat) (f : Panel → Panel) : (s.modPanel p f).single = s.single := rfl
@[simp] theorem State.modPanel_records (s : State) (p : Nat) (f : Panel → Panel) : (s.modPanel p f).records = s.records := rfl
@[simp] theorem State.modPanel_host (s : State) (p : Nat) (f : Panel → Panel) : (s.modPanel p f).host = s.host := rfl
@[simp] theorem State.modPanel_hostPoison (s : State) (p : Nat) (f : Panel → Panel) : (s.modPanel p f).hostPoison = s.hostPoison := rfl
@[simp] theorem State.modPanel_cores (s : State) (p : Nat) (f : Panel → Panel) : (s.modPanel p f).cores = s.cores := rfl
@[simp] theorem State.modPanel_units (s : State) (p : Nat) (f : Panel → Panel) : (s.modPanel p f).units = s.units := rfl
@[simp] theorem State.modPanel_hbms (s : State) (p : Nat) (f : Panel → Panel) : (s.modPanel p f).hbms = s.hbms := rfl
@[simp] theorem State.modPanel_slices (s : State) (p : Nat) (f : Panel → Panel) : (s.modPanel p f).slices = s.slices := rfl
@[simp] theorem State.modPanel_dies (s : State) (p : Nat) (f : Panel → Panel) : (s.modPanel p f).dies = s.dies := rfl
@[simp] theorem State.modPanel_panels (s : State) (p : Nat) (f : Panel → Panel) : (s.modPanel p f).panels = Table.set s.panels p (f (s.panel p)) := rfl
@[simp] theorem State.modPanel_pkgs (s : State) (p : Nat) (f : Panel → Panel) : (s.modPanel p f).pkgs = s.pkgs := rfl
@[simp] theorem State.modPanel_rlines (s : State) (p : Nat) (f : Panel → Panel) : (s.modPanel p f).rlines = s.rlines := rfl
@[simp] theorem State.modPanel_launches (s : State) (p : Nat) (f : Panel → Panel) : (s.modPanel p f).launches = s.launches := rfl
@[simp] theorem State.modPanel_accs (s : State) (p : Nat) (f : Panel → Panel) : (s.modPanel p f).accs = s.accs := rfl
@[simp] theorem State.modPanel_mreqs (s : State) (p : Nat) (f : Panel → Panel) : (s.modPanel p f).mreqs = s.mreqs := rfl
@[simp] theorem State.modPanel_mreps (s : State) (p : Nat) (f : Panel → Panel) : (s.modPanel p f).mreps = s.mreps := rfl
@[simp] theorem State.modPanel_flits (s : State) (p : Nat) (f : Panel → Panel) : (s.modPanel p f).flits = s.flits := rfl
@[simp] theorem State.modPanel_seqOut (s : State) (p : Nat) (f : Panel → Panel) : (s.modPanel p f).seqOut = s.seqOut := rfl
@[simp] theorem State.modPanel_seqIn (s : State) (p : Nat) (f : Panel → Panel) : (s.modPanel p f).seqIn = s.seqIn := rfl
@[simp] theorem State.modPanel_starving (s : State) (p : Nat) (f : Panel → Panel) : (s.modPanel p f).starving = s.starving := rfl
@[simp] theorem State.modPanel_ports (s : State) (p : Nat) (f : Panel → Panel) : (s.modPanel p f).ports = s.ports := rfl
@[simp] theorem State.modPanel_rets (s : State) (p : Nat) (f : Panel → Panel) : (s.modPanel p f).rets = s.rets := rfl
@[simp] theorem State.modPanel_steals (s : State) (p : Nat) (f : Panel → Panel) : (s.modPanel p f).steals = s.steals := rfl
@[simp] theorem State.modPanel_packets (s : State) (p : Nat) (f : Panel → Panel) : (s.modPanel p f).packets = s.packets := rfl
@[simp] theorem State.modPanel_bulks (s : State) (p : Nat) (f : Panel → Panel) : (s.modPanel p f).bulks = s.bulks := rfl
@[simp] theorem State.modPanel_shoots (s : State) (p : Nat) (f : Panel → Panel) : (s.modPanel p f).shoots = s.shoots := rfl
@[simp] theorem State.modPanel_fwds (s : State) (p : Nat) (f : Panel → Panel) : (s.modPanel p f).fwds = s.fwds := rfl
@[simp] theorem State.modPanel_freplies (s : State) (p : Nat) (f : Panel → Panel) : (s.modPanel p f).freplies = s.freplies := rfl
@[simp] theorem State.modPanel_cycle (s : State) (p : Nat) (f : Panel → Panel) : (s.modPanel p f).cycle = s.cycle := rfl
@[simp] theorem State.modPanel_settled (s : State) (p : Nat) (f : Panel → Panel) : (s.modPanel p f).settled = s.settled := rfl
@[simp] theorem State.modPanel_shelf (s : State) (p : Nat) (f : Panel → Panel) : (s.modPanel p f).shelf = s.shelf := rfl
@[simp] theorem State.modPanel_fresh (s : State) (p : Nat) (f : Panel → Panel) : (s.modPanel p f).fresh = s.fresh := rfl
@[simp] theorem State.modPanel_cur (s : State) (p : Nat) (f : Panel → Panel) : (s.modPanel p f).cur = s.cur := rfl
@[simp] theorem State.modPanel_agenda (s : State) (p : Nat) (f : Panel → Panel) : (s.modPanel p f).agenda = s.agenda := rfl

/-! ### modPkg -/

@[simp] theorem State.modPkg_mem (s : State) (g : Nat) (f : Pkg → Pkg) : (s.modPkg g f).mem = s.mem := rfl
@[simp] theorem State.modPkg_poison (s : State) (g : Nat) (f : Pkg → Pkg) : (s.modPkg g f).poison = s.poison := rfl
@[simp] theorem State.modPkg_single (s : State) (g : Nat) (f : Pkg → Pkg) : (s.modPkg g f).single = s.single := rfl
@[simp] theorem State.modPkg_records (s : State) (g : Nat) (f : Pkg → Pkg) : (s.modPkg g f).records = s.records := rfl
@[simp] theorem State.modPkg_host (s : State) (g : Nat) (f : Pkg → Pkg) : (s.modPkg g f).host = s.host := rfl
@[simp] theorem State.modPkg_hostPoison (s : State) (g : Nat) (f : Pkg → Pkg) : (s.modPkg g f).hostPoison = s.hostPoison := rfl
@[simp] theorem State.modPkg_cores (s : State) (g : Nat) (f : Pkg → Pkg) : (s.modPkg g f).cores = s.cores := rfl
@[simp] theorem State.modPkg_units (s : State) (g : Nat) (f : Pkg → Pkg) : (s.modPkg g f).units = s.units := rfl
@[simp] theorem State.modPkg_hbms (s : State) (g : Nat) (f : Pkg → Pkg) : (s.modPkg g f).hbms = s.hbms := rfl
@[simp] theorem State.modPkg_slices (s : State) (g : Nat) (f : Pkg → Pkg) : (s.modPkg g f).slices = s.slices := rfl
@[simp] theorem State.modPkg_dies (s : State) (g : Nat) (f : Pkg → Pkg) : (s.modPkg g f).dies = s.dies := rfl
@[simp] theorem State.modPkg_panels (s : State) (g : Nat) (f : Pkg → Pkg) : (s.modPkg g f).panels = s.panels := rfl
@[simp] theorem State.modPkg_pkgs (s : State) (g : Nat) (f : Pkg → Pkg) : (s.modPkg g f).pkgs = Table.set s.pkgs g (f (s.pkg g)) := rfl
@[simp] theorem State.modPkg_rlines (s : State) (g : Nat) (f : Pkg → Pkg) : (s.modPkg g f).rlines = s.rlines := rfl
@[simp] theorem State.modPkg_launches (s : State) (g : Nat) (f : Pkg → Pkg) : (s.modPkg g f).launches = s.launches := rfl
@[simp] theorem State.modPkg_accs (s : State) (g : Nat) (f : Pkg → Pkg) : (s.modPkg g f).accs = s.accs := rfl
@[simp] theorem State.modPkg_mreqs (s : State) (g : Nat) (f : Pkg → Pkg) : (s.modPkg g f).mreqs = s.mreqs := rfl
@[simp] theorem State.modPkg_mreps (s : State) (g : Nat) (f : Pkg → Pkg) : (s.modPkg g f).mreps = s.mreps := rfl
@[simp] theorem State.modPkg_flits (s : State) (g : Nat) (f : Pkg → Pkg) : (s.modPkg g f).flits = s.flits := rfl
@[simp] theorem State.modPkg_seqOut (s : State) (g : Nat) (f : Pkg → Pkg) : (s.modPkg g f).seqOut = s.seqOut := rfl
@[simp] theorem State.modPkg_seqIn (s : State) (g : Nat) (f : Pkg → Pkg) : (s.modPkg g f).seqIn = s.seqIn := rfl
@[simp] theorem State.modPkg_starving (s : State) (g : Nat) (f : Pkg → Pkg) : (s.modPkg g f).starving = s.starving := rfl
@[simp] theorem State.modPkg_ports (s : State) (g : Nat) (f : Pkg → Pkg) : (s.modPkg g f).ports = s.ports := rfl
@[simp] theorem State.modPkg_rets (s : State) (g : Nat) (f : Pkg → Pkg) : (s.modPkg g f).rets = s.rets := rfl
@[simp] theorem State.modPkg_steals (s : State) (g : Nat) (f : Pkg → Pkg) : (s.modPkg g f).steals = s.steals := rfl
@[simp] theorem State.modPkg_packets (s : State) (g : Nat) (f : Pkg → Pkg) : (s.modPkg g f).packets = s.packets := rfl
@[simp] theorem State.modPkg_bulks (s : State) (g : Nat) (f : Pkg → Pkg) : (s.modPkg g f).bulks = s.bulks := rfl
@[simp] theorem State.modPkg_shoots (s : State) (g : Nat) (f : Pkg → Pkg) : (s.modPkg g f).shoots = s.shoots := rfl
@[simp] theorem State.modPkg_fwds (s : State) (g : Nat) (f : Pkg → Pkg) : (s.modPkg g f).fwds = s.fwds := rfl
@[simp] theorem State.modPkg_freplies (s : State) (g : Nat) (f : Pkg → Pkg) : (s.modPkg g f).freplies = s.freplies := rfl
@[simp] theorem State.modPkg_cycle (s : State) (g : Nat) (f : Pkg → Pkg) : (s.modPkg g f).cycle = s.cycle := rfl
@[simp] theorem State.modPkg_settled (s : State) (g : Nat) (f : Pkg → Pkg) : (s.modPkg g f).settled = s.settled := rfl
@[simp] theorem State.modPkg_shelf (s : State) (g : Nat) (f : Pkg → Pkg) : (s.modPkg g f).shelf = s.shelf := rfl
@[simp] theorem State.modPkg_fresh (s : State) (g : Nat) (f : Pkg → Pkg) : (s.modPkg g f).fresh = s.fresh := rfl
@[simp] theorem State.modPkg_cur (s : State) (g : Nat) (f : Pkg → Pkg) : (s.modPkg g f).cur = s.cur := rfl
@[simp] theorem State.modPkg_agenda (s : State) (g : Nat) (f : Pkg → Pkg) : (s.modPkg g f).agenda = s.agenda := rfl

/-! ### modLaunch -/

@[simp] theorem State.modLaunch_mem (s : State) (l : Nat) (f : Launch → Launch) : (s.modLaunch l f).mem = s.mem := rfl
@[simp] theorem State.modLaunch_poison (s : State) (l : Nat) (f : Launch → Launch) : (s.modLaunch l f).poison = s.poison := rfl
@[simp] theorem State.modLaunch_single (s : State) (l : Nat) (f : Launch → Launch) : (s.modLaunch l f).single = s.single := rfl
@[simp] theorem State.modLaunch_records (s : State) (l : Nat) (f : Launch → Launch) : (s.modLaunch l f).records = s.records := rfl
@[simp] theorem State.modLaunch_host (s : State) (l : Nat) (f : Launch → Launch) : (s.modLaunch l f).host = s.host := rfl
@[simp] theorem State.modLaunch_hostPoison (s : State) (l : Nat) (f : Launch → Launch) : (s.modLaunch l f).hostPoison = s.hostPoison := rfl
@[simp] theorem State.modLaunch_cores (s : State) (l : Nat) (f : Launch → Launch) : (s.modLaunch l f).cores = s.cores := rfl
@[simp] theorem State.modLaunch_units (s : State) (l : Nat) (f : Launch → Launch) : (s.modLaunch l f).units = s.units := rfl
@[simp] theorem State.modLaunch_hbms (s : State) (l : Nat) (f : Launch → Launch) : (s.modLaunch l f).hbms = s.hbms := rfl
@[simp] theorem State.modLaunch_slices (s : State) (l : Nat) (f : Launch → Launch) : (s.modLaunch l f).slices = s.slices := rfl
@[simp] theorem State.modLaunch_dies (s : State) (l : Nat) (f : Launch → Launch) : (s.modLaunch l f).dies = s.dies := rfl
@[simp] theorem State.modLaunch_panels (s : State) (l : Nat) (f : Launch → Launch) : (s.modLaunch l f).panels = s.panels := rfl
@[simp] theorem State.modLaunch_pkgs (s : State) (l : Nat) (f : Launch → Launch) : (s.modLaunch l f).pkgs = s.pkgs := rfl
@[simp] theorem State.modLaunch_rlines (s : State) (l : Nat) (f : Launch → Launch) : (s.modLaunch l f).rlines = s.rlines := rfl
@[simp] theorem State.modLaunch_launches (s : State) (l : Nat) (f : Launch → Launch) : (s.modLaunch l f).launches = s.launches.map (fun x => if x.id = l then f x else x) := rfl
@[simp] theorem State.modLaunch_accs (s : State) (l : Nat) (f : Launch → Launch) : (s.modLaunch l f).accs = s.accs := rfl
@[simp] theorem State.modLaunch_mreqs (s : State) (l : Nat) (f : Launch → Launch) : (s.modLaunch l f).mreqs = s.mreqs := rfl
@[simp] theorem State.modLaunch_mreps (s : State) (l : Nat) (f : Launch → Launch) : (s.modLaunch l f).mreps = s.mreps := rfl
@[simp] theorem State.modLaunch_flits (s : State) (l : Nat) (f : Launch → Launch) : (s.modLaunch l f).flits = s.flits := rfl
@[simp] theorem State.modLaunch_seqOut (s : State) (l : Nat) (f : Launch → Launch) : (s.modLaunch l f).seqOut = s.seqOut := rfl
@[simp] theorem State.modLaunch_seqIn (s : State) (l : Nat) (f : Launch → Launch) : (s.modLaunch l f).seqIn = s.seqIn := rfl
@[simp] theorem State.modLaunch_starving (s : State) (l : Nat) (f : Launch → Launch) : (s.modLaunch l f).starving = s.starving := rfl
@[simp] theorem State.modLaunch_ports (s : State) (l : Nat) (f : Launch → Launch) : (s.modLaunch l f).ports = s.ports := rfl
@[simp] theorem State.modLaunch_rets (s : State) (l : Nat) (f : Launch → Launch) : (s.modLaunch l f).rets = s.rets := rfl
@[simp] theorem State.modLaunch_steals (s : State) (l : Nat) (f : Launch → Launch) : (s.modLaunch l f).steals = s.steals := rfl
@[simp] theorem State.modLaunch_packets (s : State) (l : Nat) (f : Launch → Launch) : (s.modLaunch l f).packets = s.packets := rfl
@[simp] theorem State.modLaunch_bulks (s : State) (l : Nat) (f : Launch → Launch) : (s.modLaunch l f).bulks = s.bulks := rfl
@[simp] theorem State.modLaunch_shoots (s : State) (l : Nat) (f : Launch → Launch) : (s.modLaunch l f).shoots = s.shoots := rfl
@[simp] theorem State.modLaunch_fwds (s : State) (l : Nat) (f : Launch → Launch) : (s.modLaunch l f).fwds = s.fwds := rfl
@[simp] theorem State.modLaunch_freplies (s : State) (l : Nat) (f : Launch → Launch) : (s.modLaunch l f).freplies = s.freplies := rfl
@[simp] theorem State.modLaunch_cycle (s : State) (l : Nat) (f : Launch → Launch) : (s.modLaunch l f).cycle = s.cycle := rfl
@[simp] theorem State.modLaunch_settled (s : State) (l : Nat) (f : Launch → Launch) : (s.modLaunch l f).settled = s.settled := rfl
@[simp] theorem State.modLaunch_shelf (s : State) (l : Nat) (f : Launch → Launch) : (s.modLaunch l f).shelf = s.shelf := rfl
@[simp] theorem State.modLaunch_fresh (s : State) (l : Nat) (f : Launch → Launch) : (s.modLaunch l f).fresh = s.fresh := rfl
@[simp] theorem State.modLaunch_cur (s : State) (l : Nat) (f : Launch → Launch) : (s.modLaunch l f).cur = s.cur := rfl
@[simp] theorem State.modLaunch_agenda (s : State) (l : Nat) (f : Launch → Launch) : (s.modLaunch l f).agenda = s.agenda := rfl

/-! ### tickFresh -/

@[simp] theorem State.tickFresh_mem (s : State) : (s.tickFresh).mem = s.mem := rfl
@[simp] theorem State.tickFresh_poison (s : State) : (s.tickFresh).poison = s.poison := rfl
@[simp] theorem State.tickFresh_single (s : State) : (s.tickFresh).single = s.single := rfl
@[simp] theorem State.tickFresh_records (s : State) : (s.tickFresh).records = s.records := rfl
@[simp] theorem State.tickFresh_host (s : State) : (s.tickFresh).host = s.host := rfl
@[simp] theorem State.tickFresh_hostPoison (s : State) : (s.tickFresh).hostPoison = s.hostPoison := rfl
@[simp] theorem State.tickFresh_cores (s : State) : (s.tickFresh).cores = s.cores := rfl
@[simp] theorem State.tickFresh_units (s : State) : (s.tickFresh).units = s.units := rfl
@[simp] theorem State.tickFresh_hbms (s : State) : (s.tickFresh).hbms = s.hbms := rfl
@[simp] theorem State.tickFresh_slices (s : State) : (s.tickFresh).slices = s.slices := rfl
@[simp] theorem State.tickFresh_dies (s : State) : (s.tickFresh).dies = s.dies := rfl
@[simp] theorem State.tickFresh_panels (s : State) : (s.tickFresh).panels = s.panels := rfl
@[simp] theorem State.tickFresh_pkgs (s : State) : (s.tickFresh).pkgs = s.pkgs := rfl
@[simp] theorem State.tickFresh_rlines (s : State) : (s.tickFresh).rlines = s.rlines := rfl
@[simp] theorem State.tickFresh_launches (s : State) : (s.tickFresh).launches = s.launches := rfl
@[simp] theorem State.tickFresh_accs (s : State) : (s.tickFresh).accs = s.accs := rfl
@[simp] theorem State.tickFresh_mreqs (s : State) : (s.tickFresh).mreqs = s.mreqs := rfl
@[simp] theorem State.tickFresh_mreps (s : State) : (s.tickFresh).mreps = s.mreps := rfl
@[simp] theorem State.tickFresh_flits (s : State) : (s.tickFresh).flits = s.flits := rfl
@[simp] theorem State.tickFresh_seqOut (s : State) : (s.tickFresh).seqOut = s.seqOut := rfl
@[simp] theorem State.tickFresh_seqIn (s : State) : (s.tickFresh).seqIn = s.seqIn := rfl
@[simp] theorem State.tickFresh_starving (s : State) : (s.tickFresh).starving = s.starving := rfl
@[simp] theorem State.tickFresh_ports (s : State) : (s.tickFresh).ports = s.ports := rfl
@[simp] theorem State.tickFresh_rets (s : State) : (s.tickFresh).rets = s.rets := rfl
@[simp] theorem State.tickFresh_steals (s : State) : (s.tickFresh).steals = s.steals := rfl
@[simp] theorem State.tickFresh_packets (s : State) : (s.tickFresh).packets = s.packets := rfl
@[simp] theorem State.tickFresh_bulks (s : State) : (s.tickFresh).bulks = s.bulks := rfl
@[simp] theorem State.tickFresh_shoots (s : State) : (s.tickFresh).shoots = s.shoots := rfl
@[simp] theorem State.tickFresh_fwds (s : State) : (s.tickFresh).fwds = s.fwds := rfl
@[simp] theorem State.tickFresh_freplies (s : State) : (s.tickFresh).freplies = s.freplies := rfl
@[simp] theorem State.tickFresh_cycle (s : State) : (s.tickFresh).cycle = s.cycle := rfl
@[simp] theorem State.tickFresh_settled (s : State) : (s.tickFresh).settled = s.settled := rfl
@[simp] theorem State.tickFresh_shelf (s : State) : (s.tickFresh).shelf = s.shelf := rfl
@[simp] theorem State.tickFresh_fresh (s : State) : (s.tickFresh).fresh = s.fresh + 1 := rfl
@[simp] theorem State.tickFresh_cur (s : State) : (s.tickFresh).cur = s.cur := rfl
@[simp] theorem State.tickFresh_agenda (s : State) : (s.tickFresh).agenda = s.agenda := rfl

/-! ### write -/

@[simp] theorem State.write_mem (s : State) (pa n v : Nat) : (s.write pa n v).mem = Memory.writeN s.mem pa n v := rfl
@[simp] theorem State.write_poison (s : State) (pa n v : Nat) : (s.write pa n v).poison = s.poison.filter (fun w => !coversWord pa n w) := rfl
@[simp] theorem State.write_single (s : State) (pa n v : Nat) : (s.write pa n v).single = s.single.filter (fun w => !coversWord pa n w) := rfl
@[simp] theorem State.write_records (s : State) (pa n v : Nat) : (s.write pa n v).records = s.records := rfl
@[simp] theorem State.write_host (s : State) (pa n v : Nat) : (s.write pa n v).host = s.host := rfl
@[simp] theorem State.write_hostPoison (s : State) (pa n v : Nat) : (s.write pa n v).hostPoison = s.hostPoison := rfl
@[simp] theorem State.write_cores (s : State) (pa n v : Nat) : (s.write pa n v).cores = s.cores := rfl
@[simp] theorem State.write_units (s : State) (pa n v : Nat) : (s.write pa n v).units = s.units := rfl
@[simp] theorem State.write_hbms (s : State) (pa n v : Nat) : (s.write pa n v).hbms = s.hbms := rfl
@[simp] theorem State.write_slices (s : State) (pa n v : Nat) : (s.write pa n v).slices = s.slices := rfl
@[simp] theorem State.write_dies (s : State) (pa n v : Nat) : (s.write pa n v).dies = s.dies := rfl
@[simp] theorem State.write_panels (s : State) (pa n v : Nat) : (s.write pa n v).panels = s.panels := rfl
@[simp] theorem State.write_pkgs (s : State) (pa n v : Nat) : (s.write pa n v).pkgs = s.pkgs := rfl
@[simp] theorem State.write_rlines (s : State) (pa n v : Nat) : (s.write pa n v).rlines = s.rlines := rfl
@[simp] theorem State.write_launches (s : State) (pa n v : Nat) : (s.write pa n v).launches = s.launches := rfl
@[simp] theorem State.write_accs (s : State) (pa n v : Nat) : (s.write pa n v).accs = s.accs := rfl
@[simp] theorem State.write_mreqs (s : State) (pa n v : Nat) : (s.write pa n v).mreqs = s.mreqs := rfl
@[simp] theorem State.write_mreps (s : State) (pa n v : Nat) : (s.write pa n v).mreps = s.mreps := rfl
@[simp] theorem State.write_flits (s : State) (pa n v : Nat) : (s.write pa n v).flits = s.flits := rfl
@[simp] theorem State.write_seqOut (s : State) (pa n v : Nat) : (s.write pa n v).seqOut = s.seqOut := rfl
@[simp] theorem State.write_seqIn (s : State) (pa n v : Nat) : (s.write pa n v).seqIn = s.seqIn := rfl
@[simp] theorem State.write_starving (s : State) (pa n v : Nat) : (s.write pa n v).starving = s.starving := rfl
@[simp] theorem State.write_ports (s : State) (pa n v : Nat) : (s.write pa n v).ports = s.ports := rfl
@[simp] theorem State.write_rets (s : State) (pa n v : Nat) : (s.write pa n v).rets = s.rets := rfl
@[simp] theorem State.write_steals (s : State) (pa n v : Nat) : (s.write pa n v).steals = s.steals := rfl
@[simp] theorem State.write_packets (s : State) (pa n v : Nat) : (s.write pa n v).packets = s.packets := rfl
@[simp] theorem State.write_bulks (s : State) (pa n v : Nat) : (s.write pa n v).bulks = s.bulks := rfl
@[simp] theorem State.write_shoots (s : State) (pa n v : Nat) : (s.write pa n v).shoots = s.shoots := rfl
@[simp] theorem State.write_fwds (s : State) (pa n v : Nat) : (s.write pa n v).fwds = s.fwds := rfl
@[simp] theorem State.write_freplies (s : State) (pa n v : Nat) : (s.write pa n v).freplies = s.freplies := rfl
@[simp] theorem State.write_cycle (s : State) (pa n v : Nat) : (s.write pa n v).cycle = s.cycle := rfl
@[simp] theorem State.write_settled (s : State) (pa n v : Nat) : (s.write pa n v).settled = s.settled := rfl
@[simp] theorem State.write_shelf (s : State) (pa n v : Nat) : (s.write pa n v).shelf = s.shelf := rfl
@[simp] theorem State.write_fresh (s : State) (pa n v : Nat) : (s.write pa n v).fresh = s.fresh := rfl
@[simp] theorem State.write_cur (s : State) (pa n v : Nat) : (s.write pa n v).cur = s.cur := rfl
@[simp] theorem State.write_agenda (s : State) (pa n v : Nat) : (s.write pa n v).agenda = s.agenda := rfl

/-! ### writeBytes -/

@[simp] theorem State.writeBytes_mem (s : State) (pa : Nat) (l : List Byte) : (s.writeBytes pa l).mem = Memory.writeBytes s.mem pa l := rfl
@[simp] theorem State.writeBytes_poison (s : State) (pa : Nat) (l : List Byte) : (s.writeBytes pa l).poison = s.poison.filter (fun w => !coversWord pa l.length w) := rfl
@[simp] theorem State.writeBytes_single (s : State) (pa : Nat) (l : List Byte) : (s.writeBytes pa l).single = s.single.filter (fun w => !coversWord pa l.length w) := rfl
@[simp] theorem State.writeBytes_records (s : State) (pa : Nat) (l : List Byte) : (s.writeBytes pa l).records = s.records := rfl
@[simp] theorem State.writeBytes_host (s : State) (pa : Nat) (l : List Byte) : (s.writeBytes pa l).host = s.host := rfl
@[simp] theorem State.writeBytes_hostPoison (s : State) (pa : Nat) (l : List Byte) : (s.writeBytes pa l).hostPoison = s.hostPoison := rfl
@[simp] theorem State.writeBytes_cores (s : State) (pa : Nat) (l : List Byte) : (s.writeBytes pa l).cores = s.cores := rfl
@[simp] theorem State.writeBytes_units (s : State) (pa : Nat) (l : List Byte) : (s.writeBytes pa l).units = s.units := rfl
@[simp] theorem State.writeBytes_hbms (s : State) (pa : Nat) (l : List Byte) : (s.writeBytes pa l).hbms = s.hbms := rfl
@[simp] theorem State.writeBytes_slices (s : State) (pa : Nat) (l : List Byte) : (s.writeBytes pa l).slices = s.slices := rfl
@[simp] theorem State.writeBytes_dies (s : State) (pa : Nat) (l : List Byte) : (s.writeBytes pa l).dies = s.dies := rfl
@[simp] theorem State.writeBytes_panels (s : State) (pa : Nat) (l : List Byte) : (s.writeBytes pa l).panels = s.panels := rfl
@[simp] theorem State.writeBytes_pkgs (s : State) (pa : Nat) (l : List Byte) : (s.writeBytes pa l).pkgs = s.pkgs := rfl
@[simp] theorem State.writeBytes_rlines (s : State) (pa : Nat) (l : List Byte) : (s.writeBytes pa l).rlines = s.rlines := rfl
@[simp] theorem State.writeBytes_launches (s : State) (pa : Nat) (l : List Byte) : (s.writeBytes pa l).launches = s.launches := rfl
@[simp] theorem State.writeBytes_accs (s : State) (pa : Nat) (l : List Byte) : (s.writeBytes pa l).accs = s.accs := rfl
@[simp] theorem State.writeBytes_mreqs (s : State) (pa : Nat) (l : List Byte) : (s.writeBytes pa l).mreqs = s.mreqs := rfl
@[simp] theorem State.writeBytes_mreps (s : State) (pa : Nat) (l : List Byte) : (s.writeBytes pa l).mreps = s.mreps := rfl
@[simp] theorem State.writeBytes_flits (s : State) (pa : Nat) (l : List Byte) : (s.writeBytes pa l).flits = s.flits := rfl
@[simp] theorem State.writeBytes_seqOut (s : State) (pa : Nat) (l : List Byte) : (s.writeBytes pa l).seqOut = s.seqOut := rfl
@[simp] theorem State.writeBytes_seqIn (s : State) (pa : Nat) (l : List Byte) : (s.writeBytes pa l).seqIn = s.seqIn := rfl
@[simp] theorem State.writeBytes_starving (s : State) (pa : Nat) (l : List Byte) : (s.writeBytes pa l).starving = s.starving := rfl
@[simp] theorem State.writeBytes_ports (s : State) (pa : Nat) (l : List Byte) : (s.writeBytes pa l).ports = s.ports := rfl
@[simp] theorem State.writeBytes_rets (s : State) (pa : Nat) (l : List Byte) : (s.writeBytes pa l).rets = s.rets := rfl
@[simp] theorem State.writeBytes_steals (s : State) (pa : Nat) (l : List Byte) : (s.writeBytes pa l).steals = s.steals := rfl
@[simp] theorem State.writeBytes_packets (s : State) (pa : Nat) (l : List Byte) : (s.writeBytes pa l).packets = s.packets := rfl
@[simp] theorem State.writeBytes_bulks (s : State) (pa : Nat) (l : List Byte) : (s.writeBytes pa l).bulks = s.bulks := rfl
@[simp] theorem State.writeBytes_shoots (s : State) (pa : Nat) (l : List Byte) : (s.writeBytes pa l).shoots = s.shoots := rfl
@[simp] theorem State.writeBytes_fwds (s : State) (pa : Nat) (l : List Byte) : (s.writeBytes pa l).fwds = s.fwds := rfl
@[simp] theorem State.writeBytes_freplies (s : State) (pa : Nat) (l : List Byte) : (s.writeBytes pa l).freplies = s.freplies := rfl
@[simp] theorem State.writeBytes_cycle (s : State) (pa : Nat) (l : List Byte) : (s.writeBytes pa l).cycle = s.cycle := rfl
@[simp] theorem State.writeBytes_settled (s : State) (pa : Nat) (l : List Byte) : (s.writeBytes pa l).settled = s.settled := rfl
@[simp] theorem State.writeBytes_shelf (s : State) (pa : Nat) (l : List Byte) : (s.writeBytes pa l).shelf = s.shelf := rfl
@[simp] theorem State.writeBytes_fresh (s : State) (pa : Nat) (l : List Byte) : (s.writeBytes pa l).fresh = s.fresh := rfl
@[simp] theorem State.writeBytes_cur (s : State) (pa : Nat) (l : List Byte) : (s.writeBytes pa l).cur = s.cur := rfl
@[simp] theorem State.writeBytes_agenda (s : State) (pa : Nat) (l : List Byte) : (s.writeBytes pa l).agenda = s.agenda := rfl

/-! ### zeroRange -/

@[simp] theorem State.zeroRange_mem (s : State) (pa n : Nat) : (s.zeroRange pa n).mem = Memory.clear s.mem pa n := rfl
@[simp] theorem State.zeroRange_poison (s : State) (pa n : Nat) : (s.zeroRange pa n).poison = s.poison.filter (fun w => !touchesWord pa n w) := rfl
@[simp] theorem State.zeroRange_single (s : State) (pa n : Nat) : (s.zeroRange pa n).single = s.single.filter (fun w => !touchesWord pa n w) := rfl
@[simp] theorem State.zeroRange_records (s : State) (pa n : Nat) : (s.zeroRange pa n).records = s.records := rfl
@[simp] theorem State.wipe_mem (s : State) (pa n : Nat) : (s.wipe pa n).mem = Memory.clear s.mem pa n := rfl
@[simp] theorem State.wipe_records (s : State) (pa n : Nat) : (s.wipe pa n).records = s.records.filter (fun r => decide (r.1 * 64 < pa ∨ pa + n ≤ r.1 * 64)) := rfl
@[simp] theorem State.wipe_cores (s : State) (pa n : Nat) : (s.wipe pa n).cores = s.cores := rfl
@[simp] theorem State.zeroRange_host (s : State) (pa n : Nat) : (s.zeroRange pa n).host = s.host := rfl
@[simp] theorem State.zeroRange_hostPoison (s : State) (pa n : Nat) : (s.zeroRange pa n).hostPoison = s.hostPoison := rfl
@[simp] theorem State.zeroRange_cores (s : State) (pa n : Nat) : (s.zeroRange pa n).cores = s.cores := rfl
@[simp] theorem State.zeroRange_units (s : State) (pa n : Nat) : (s.zeroRange pa n).units = s.units := rfl
@[simp] theorem State.zeroRange_hbms (s : State) (pa n : Nat) : (s.zeroRange pa n).hbms = s.hbms := rfl
@[simp] theorem State.zeroRange_slices (s : State) (pa n : Nat) : (s.zeroRange pa n).slices = s.slices := rfl
@[simp] theorem State.zeroRange_dies (s : State) (pa n : Nat) : (s.zeroRange pa n).dies = s.dies := rfl
@[simp] theorem State.zeroRange_panels (s : State) (pa n : Nat) : (s.zeroRange pa n).panels = s.panels := rfl
@[simp] theorem State.zeroRange_pkgs (s : State) (pa n : Nat) : (s.zeroRange pa n).pkgs = s.pkgs := rfl
@[simp] theorem State.zeroRange_rlines (s : State) (pa n : Nat) : (s.zeroRange pa n).rlines = s.rlines := rfl
@[simp] theorem State.zeroRange_launches (s : State) (pa n : Nat) : (s.zeroRange pa n).launches = s.launches := rfl
@[simp] theorem State.zeroRange_accs (s : State) (pa n : Nat) : (s.zeroRange pa n).accs = s.accs := rfl
@[simp] theorem State.zeroRange_mreqs (s : State) (pa n : Nat) : (s.zeroRange pa n).mreqs = s.mreqs := rfl
@[simp] theorem State.zeroRange_mreps (s : State) (pa n : Nat) : (s.zeroRange pa n).mreps = s.mreps := rfl
@[simp] theorem State.zeroRange_flits (s : State) (pa n : Nat) : (s.zeroRange pa n).flits = s.flits := rfl
@[simp] theorem State.zeroRange_seqOut (s : State) (pa n : Nat) : (s.zeroRange pa n).seqOut = s.seqOut := rfl
@[simp] theorem State.zeroRange_seqIn (s : State) (pa n : Nat) : (s.zeroRange pa n).seqIn = s.seqIn := rfl
@[simp] theorem State.zeroRange_starving (s : State) (pa n : Nat) : (s.zeroRange pa n).starving = s.starving := rfl
@[simp] theorem State.zeroRange_ports (s : State) (pa n : Nat) : (s.zeroRange pa n).ports = s.ports := rfl
@[simp] theorem State.zeroRange_rets (s : State) (pa n : Nat) : (s.zeroRange pa n).rets = s.rets := rfl
@[simp] theorem State.zeroRange_steals (s : State) (pa n : Nat) : (s.zeroRange pa n).steals = s.steals := rfl
@[simp] theorem State.zeroRange_packets (s : State) (pa n : Nat) : (s.zeroRange pa n).packets = s.packets := rfl
@[simp] theorem State.zeroRange_bulks (s : State) (pa n : Nat) : (s.zeroRange pa n).bulks = s.bulks := rfl
@[simp] theorem State.zeroRange_shoots (s : State) (pa n : Nat) : (s.zeroRange pa n).shoots = s.shoots := rfl
@[simp] theorem State.zeroRange_fwds (s : State) (pa n : Nat) : (s.zeroRange pa n).fwds = s.fwds := rfl
@[simp] theorem State.zeroRange_freplies (s : State) (pa n : Nat) : (s.zeroRange pa n).freplies = s.freplies := rfl
@[simp] theorem State.zeroRange_cycle (s : State) (pa n : Nat) : (s.zeroRange pa n).cycle = s.cycle := rfl
@[simp] theorem State.zeroRange_settled (s : State) (pa n : Nat) : (s.zeroRange pa n).settled = s.settled := rfl
@[simp] theorem State.zeroRange_shelf (s : State) (pa n : Nat) : (s.zeroRange pa n).shelf = s.shelf := rfl
@[simp] theorem State.zeroRange_fresh (s : State) (pa n : Nat) : (s.zeroRange pa n).fresh = s.fresh := rfl
@[simp] theorem State.zeroRange_cur (s : State) (pa n : Nat) : (s.zeroRange pa n).cur = s.cur := rfl
@[simp] theorem State.zeroRange_agenda (s : State) (pa n : Nat) : (s.zeroRange pa n).agenda = s.agenda := rfl

/-! ### Accessors after updates -/

@[simp] theorem State.core_setCore_same (s : State) (c : Nat) (k : Core) : (s.setCore c k).core c = k := Table.get_set_same ..
theorem State.core_setCore_other (s : State) {c c' : Nat} (k : Core) (h : c ≠ c') : (s.setCore c k).core c' = s.core c' :=
  Table.get_set_other _ _ _ h
@[simp] theorem State.core_modCore_same (s : State) (c : Nat) (f : Core → Core) : (s.modCore c f).core c = f (s.core c) :=
  Table.get_set_same ..
theorem State.core_modCore_other (s : State) {c c' : Nat} (f : Core → Core) (h : c ≠ c') : (s.modCore c f).core c' = s.core c' :=
  Table.get_set_other _ _ _ h
@[simp] theorem Core.strand_setStrand_same (k : Core) (n : Nat) (t : Strand) : (k.setStrand n t).strand n = t := Table.get_set_same ..
theorem Core.strand_setStrand_other (k : Core) {n n' : Nat} (t : Strand) (h : n ≠ n') : (k.setStrand n t).strand n' = k.strand n' :=
  Table.get_set_other _ _ _ h
@[simp] theorem State.strand_modStrand_same (s : State) (c n : Nat) (f : Strand → Strand) :
    (s.modStrand c n f).strand c n = f (s.strand c n) := by
  simp [State.strand, State.modStrand]
theorem State.strand_modStrand_other (s : State) {c n c' n' : Nat} (f : Strand → Strand) (h : c ≠ c' ∨ n ≠ n') :
    (s.modStrand c n f).strand c' n' = s.strand c' n' := by
  by_cases hc : c = c'
  · subst hc
    have hn : n ≠ n' := h.resolve_left (fun g => g rfl)
    simp [State.strand, State.modStrand, Core.strand_setStrand_other _ _ hn]
  · simp [State.strand, State.modStrand, State.core_modCore_other _ _ hc]
@[simp] theorem State.unit_modUnit_same (s : State) (u : Nat) (f : Unit → Unit) : (s.modUnit u f).unit u = f (s.unit u) :=
  Table.get_set_same ..
theorem State.unit_modUnit_other (s : State) {u u' : Nat} (f : Unit → Unit) (h : u ≠ u') : (s.modUnit u f).unit u' = s.unit u' :=
  Table.get_set_other _ _ _ h
@[simp] theorem State.hbm_modHbm_same (s : State) (k : Nat) (f : Stack → Stack) : (s.modHbm k f).hbm k = f (s.hbm k) :=
  Table.get_set_same ..
@[simp] theorem State.slice_modSlice_same (s : State) (k : Nat) (f : Slice → Slice) : (s.modSlice k f).slice k = f (s.slice k) :=
  Table.get_set_same ..
theorem State.slice_modSlice_other (s : State) {k k' : Nat} (f : Slice → Slice) (h : k ≠ k') :
    (s.modSlice k f).slice k' = s.slice k' :=
  Table.get_set_other _ _ _ h
@[simp] theorem State.die_modDie_same (s : State) (d : Nat) (f : Die → Die) : (s.modDie d f).die d = f (s.die d) := Table.get_set_same ..
@[simp] theorem State.panel_modPanel_same (s : State) (p : Nat) (f : Panel → Panel) : (s.modPanel p f).panel p = f (s.panel p) :=
  Table.get_set_same ..
theorem State.panel_modPanel_other (s : State) {p p' : Nat} (f : Panel → Panel) (h : p ≠ p') :
    (s.modPanel p f).panel p' = s.panel p' :=
  Table.get_set_other _ _ _ h
@[simp] theorem State.pkg_modPkg_same (s : State) (g : Nat) (f : Pkg → Pkg) : (s.modPkg g f).pkg g = f (s.pkg g) := Table.get_set_same ..
theorem State.pkg_modPkg_other (s : State) {g g' : Nat} (f : Pkg → Pkg) (h : g ≠ g') : (s.modPkg g f).pkg g' = s.pkg g' :=
  Table.get_set_other _ _ _ h

end Sys2Proof.Machine
end

