-- ==== Sys2Proof/Laws/Memory.lean ====
section
/-! SUPPORT. Bytes of memory: what a read gives after a write, that a write leaves every other byte alone, and that every operation on
memory keeps its canonical form. -/

namespace Sys2Proof.Machine

/-! ### The canonical form -/

theorem Memory.wfFrom_cons {lo k : Nat} {v : Byte} {rest : List Host.Cell} :
    Memory.wfFrom lo ((k, v) :: rest) = true ↔ lo ≤ k ∧ v ≠ Memory.blank k ∧ Memory.wfFrom (k + 1) rest = true := by
  rw [Memory.wfFrom, Bool.and_eq_true, Bool.and_eq_true, decide_eq_true_eq, decide_eq_true_eq, and_assoc]

theorem Memory.wfFrom_mono {lo lo' : Nat} (h : lo' ≤ lo) : ∀ {m : List Host.Cell}, Memory.wfFrom lo m = true → Memory.wfFrom lo' m = true
  | [], _ => rfl
  | (_, _) :: _, hm =>
    have ⟨hk, hv, hr⟩ := Memory.wfFrom_cons.mp hm
    Memory.wfFrom_cons.mpr ⟨Nat.le_trans h hk, hv, hr⟩

theorem Memory.set_blank_above {a : Nat} :
    ∀ {lo : Nat} {m : List Host.Cell}, a < lo → Memory.wfFrom lo m = true → Memory.set m a (Memory.blank a) = m
  | _, [], _, _ => by rw [Memory.set, if_pos rfl]
  | lo, (k, v) :: rest, hl, hm => by
    obtain ⟨hlo, -, hrest⟩ := Memory.wfFrom_cons.mp hm
    have hk : k ≠ a := by omega
    rw [Memory.set, if_pos rfl, if_neg hk, Memory.set_blank_above (by omega) hrest]

theorem Memory.wfFrom_set {a : Nat} (b : Byte) :
    ∀ {lo : Nat} {m : List Host.Cell}, lo ≤ a → Memory.wfFrom lo m = true → Memory.wfFrom lo (Memory.set m a b) = true
  | lo, [], hl, _ => by
    by_cases hb : b = Memory.blank a
    · rw [Memory.set, if_pos hb]; rfl
    · rw [Memory.set, if_neg hb]; exact Memory.wfFrom_cons.mpr ⟨hl, hb, rfl⟩
  | lo, (k, v) :: rest, hl, hm => by
    obtain ⟨hlo, hv, hrest⟩ := Memory.wfFrom_cons.mp hm
    by_cases hb : b = Memory.blank a
    · subst hb
      by_cases hk : k = a
      · subst hk
        rw [Memory.set, if_pos rfl, if_pos rfl, Memory.set_blank_above (Nat.lt_succ_self k) hrest]
        exact Memory.wfFrom_mono (Nat.le_succ_of_le hlo) hrest
      · rw [Memory.set, if_pos rfl, if_neg hk]
        by_cases ha : a < k
        · rw [Memory.set_blank_above (by omega) hrest]; exact hm
        · exact Memory.wfFrom_cons.mpr ⟨hlo, hv, Memory.wfFrom_set _ (by omega) hrest⟩
    · rw [Memory.set, if_neg hb]
      by_cases hk : k = a
      · subst hk
        rw [if_pos rfl]
        exact Memory.wfFrom_cons.mpr ⟨hlo, hb, hrest⟩
      · rw [if_neg hk]
        by_cases ha : a < k
        · rw [if_pos ha]
          exact Memory.wfFrom_cons.mpr ⟨hl, hb, Memory.wfFrom_cons.mpr ⟨ha, hv, hrest⟩⟩
        · rw [if_neg ha]
          exact Memory.wfFrom_cons.mpr ⟨hlo, hv, Memory.wfFrom_set b (by omega) hrest⟩

/-- A byte written keeps the canonical form. -/
theorem Memory.wf_set {m : List Host.Cell} (a : Nat) (b : Byte) (h : Memory.wf m = true) : Memory.wf (Memory.set m a b) = true :=
  Memory.wfFrom_set b (Nat.zero_le a) h

/-- A number written keeps the canonical form. -/
theorem Memory.wf_writeN (n : Nat) : ∀ {m : List Host.Cell} (a v : Nat), Memory.wf m = true → Memory.wf (Memory.writeN m a n v) = true := by
  induction n with
  | zero => intro m a v h; exact h
  | succ n ih => intro m a v h; exact ih _ _ (Memory.wf_set _ _ h)

/-- A list of bytes written keeps the canonical form. -/
theorem Memory.wf_writeBytes (l : List Byte) :
    ∀ {m : List Host.Cell} (a : Nat), Memory.wf m = true → Memory.wf (Memory.writeBytes m a l) = true := by
  induction l with
  | nil => intro m a h; exact h
  | cons b rest ih => intro m a h; exact ih _ (Memory.wf_set _ _ h)

theorem Memory.wfFrom_filter (p : Host.Cell → Bool) :
    ∀ {lo : Nat} {m : List Host.Cell}, Memory.wfFrom lo m = true → Memory.wfFrom lo (m.filter p) = true
  | _, [], _ => rfl
  | lo, (k, v) :: rest, hm => by
    obtain ⟨hlo, hv, hrest⟩ := Memory.wfFrom_cons.mp hm
    have ih := Memory.wfFrom_filter p hrest
    by_cases hp : p (k, v) = true
    · rw [List.filter_cons_of_pos hp]
      exact Memory.wfFrom_cons.mpr ⟨hlo, hv, ih⟩
    · rw [List.filter_cons_of_neg hp]
      exact Memory.wfFrom_mono (by omega) ih

/-- Zeroed bytes keep the canonical form. -/
theorem Memory.wf_clear {m : List Host.Cell} (a n : Nat) (h : Memory.wf m = true) : Memory.wf (Memory.clear m a n) = true :=
  Memory.wfFrom_filter _ h

/-! ### Bytes -/

theorem Memory.get_below {a : Nat} : ∀ {lo : Nat} {m : List Host.Cell}, a < lo → Memory.wfFrom lo m = true → Memory.get m a = Memory.blank a
  | _, [], _, _ => rfl
  | lo, (k, v) :: rest, hl, hm => by
    obtain ⟨hlo, -, hrest⟩ := Memory.wfFrom_cons.mp hm
    have hk : k ≠ a := by omega
    rw [Memory.get, if_neg hk]
    exact Memory.get_below (by omega) hrest

/-- A byte written reads as it was written, whatever list the memory is. -/
theorem Memory.get_set_same (a : Nat) (b : Byte) : ∀ m : List Host.Cell, Memory.get (Memory.set m a b) a = b
  | [] => by
    by_cases hb : b = Memory.blank a
    · rw [Memory.set, if_pos hb, hb]; rfl
    · rw [Memory.set, if_neg hb, Memory.get, if_pos rfl]
  | (k, v) :: rest => by
    have ih := Memory.get_set_same a b rest
    by_cases hb : b = Memory.blank a
    · by_cases hk : k = a
      · rw [Memory.set, if_pos hb, if_pos hk, ih]
      · rw [Memory.set, if_pos hb, if_neg hk, Memory.get, if_neg hk, ih]
    · rw [Memory.set, if_neg hb]
      by_cases hk : k = a
      · rw [if_pos hk, Memory.get, if_pos rfl]
      · rw [if_neg hk]
        by_cases ha : a < k
        · rw [if_pos ha, Memory.get, if_pos rfl]
        · rw [if_neg ha, Memory.get, if_neg hk, ih]

/-- A byte written leaves every other byte. -/
theorem Memory.get_set_other {a a' : Nat} (b : Byte) (h : a ≠ a') :
    ∀ {m : List Host.Cell}, Memory.get (Memory.set m a b) a' = Memory.get m a'
  | [] => by
    by_cases hb : b = Memory.blank a
    · rw [Memory.set, if_pos hb]
    · rw [Memory.set, if_neg hb]
      simp [Memory.get, h]
  | (k, v) :: rest => by
    have ih := Memory.get_set_other b h (m := rest)
    by_cases hb : b = Memory.blank a
    · by_cases hk : k = a
      · subst hk
        rw [Memory.set, if_pos hb, if_pos rfl, ih, Memory.get, if_neg h]
      · rw [Memory.set, if_pos hb, if_neg hk, Memory.get, Memory.get, ih]
    · rw [Memory.set, if_neg hb]
      by_cases hk : k = a
      · subst hk
        rw [if_pos rfl, Memory.get, if_neg h, Memory.get, if_neg h]
      · rw [if_neg hk]
        by_cases ha : a < k
        · rw [if_pos ha, Memory.get, if_neg h]
        · rw [if_neg ha, Memory.get, Memory.get, ih]

/-- A number written leaves every byte outside its own. -/
theorem Memory.get_writeN_other (n : Nat) :
    ∀ {m : List Host.Cell} (a v a' : Nat), a' < a ∨ a + n ≤ a' → Memory.get (Memory.writeN m a n v) a' = Memory.get m a' := by
  induction n with
  | zero => intro m a v a' _; rfl
  | succ n ih =>
    intro m a v a' h
    rw [Memory.writeN, ih _ _ _ (by omega), Memory.get_set_other _ (by omega)]

/-- A list of bytes written leaves every byte outside its own. -/
theorem Memory.get_writeBytes_other (l : List Byte) :
    ∀ {m : List Host.Cell} (a a' : Nat), a' < a ∨ a + l.length ≤ a' → Memory.get (Memory.writeBytes m a l) a' = Memory.get m a' := by
  induction l with
  | nil => intro m a a' _; rfl
  | cons b rest ih =>
    intro m a a' h
    simp only [List.length_cons] at h
    rw [Memory.writeBytes, ih _ _ (by omega), Memory.get_set_other _ (by omega)]

/-- A number written reads as its low bytes. -/
theorem Memory.readN_writeN (n : Nat) :
    ∀ (m : List Host.Cell) (a v : Nat), Memory.readN (Memory.writeN m a n v) a n = v % 2 ^ (8 * n) := by
  induction n with
  | zero => intro m a v; rw [Memory.readN]; omega
  | succ n ih =>
    intro m a v
    rw [Memory.writeN, Memory.readN, Memory.get_writeN_other _ _ _ _ (by omega), Memory.get_set_same, ih]
    have hp : 2 ^ (8 * (n + 1)) = 256 * 2 ^ (8 * n) := by rw [show 8 * (n + 1) = 8 + 8 * n by omega, Nat.pow_add]
    rw [hp, Nat.mod_mul, BitVec.toNat_ofNat]
    omega

/-- The bytes of a number written outside a range read as before. -/
theorem Memory.readN_congr (n : Nat) : ∀ {m m' : List Host.Cell} (a : Nat), (∀ i, i < n → Memory.get m (a + i) = Memory.get m' (a + i)) →
    Memory.readN m a n = Memory.readN m' a n := by
  induction n with
  | zero => intros; rfl
  | succ n ih =>
    intro m m' a h
    rw [Memory.readN, Memory.readN, show Memory.get m a = Memory.get m' a from h 0 (by omega),
      ih (m := m) (m' := m') (a + 1) (fun i hi => by simpa [Nat.add_assoc, Nat.add_comm 1 i] using h (i + 1) (by omega))]

/-! ### The state's memory -/

/-- A physical store keeps the canonical form. -/
theorem State.wf_write (s : State) (pa n v : Nat) (h : Memory.wf s.mem = true) : Memory.wf (s.write pa n v).mem = true := by
  simpa using Memory.wf_writeN n pa v h
/-- A physical store of bytes keeps the canonical form. -/
theorem State.wf_writeBytes (s : State) (pa : Nat) (l : List Byte) (h : Memory.wf s.mem = true) :
    Memory.wf (s.writeBytes pa l).mem = true := by
  simpa using Memory.wf_writeBytes l pa h
/-- Zeroing keeps the canonical form. -/
theorem State.wf_zeroRange (s : State) (pa n : Nat) (h : Memory.wf s.mem = true) : Memory.wf (s.zeroRange pa n).mem = true := by
  simpa using Memory.wf_clear pa n h
/-- A physical store reads back as the bytes stored. -/
theorem State.read_write (s : State) (pa n v : Nat) : (s.write pa n v).read pa n = v % 2 ^ (8 * n) := by
  simpa [State.read] using Memory.readN_writeN n s.mem pa v
/-- Reset memory is in canonical form. -/
theorem State.wf_reset : Memory.wf State.reset.mem = true := rfl

end Sys2Proof.Machine
end

