-- ==== Sys2Proof/Laws/Ops.lean ====
section
/-! SUPPORT. What the shared operations of the meanings can do, said once: the guard, the waits, the correction of single-bit errors, the
advance of PC, and the forms that are built from them. -/

namespace Sys2Proof.Machine

/-! ### Correcting single-bit errors -/

/-- Counting an error changes a panel alone. -/
theorem State.countCore_eq (s : State) (c n : Nat) : ∃ p, s.countCore c n = { s with panels := p } := ⟨_, rfl⟩

/-- Correcting errors changes the list of errors and the counts of panels and slices alone. -/
theorem State.correct_eq (s : State) (pa n : Nat) :
    ∃ e p k, s.correct pa n = { s with single := e, panels := p, slices := k } := by
  by_cases h : (s.single.filter (fun w => touchesWord pa n w)).length = 0
  · exact ⟨s.single, s.panels, s.slices, by simp only [State.correct]; rw [if_pos h]⟩
  · by_cases hp : isPad pa = true
    · exact ⟨_, _, s.slices, by simp only [State.correct]; rw [if_neg h, if_pos hp]; rfl⟩
    · by_cases hl : pa < 2 ^ 53
      · exact ⟨_, s.panels, _, by simp only [State.correct]; rw [if_neg h, if_neg hp, if_pos hl]; rfl⟩
      · exact ⟨_, _, s.slices, by simp only [State.correct]; rw [if_neg h, if_neg hp, if_neg hl]; rfl⟩

/-- The same for the registers that an instruction reads. -/
theorem State.correctRegs_eq (s : State) (rs : List Nat) :
    ∃ e p k, s.correctRegs rs = { s with single := e, panels := p, slices := k } := by
  unfold State.correctRegs
  split
  · rename_i c n _
    suffices h : ∀ (u : State) (e : List Nat) (p : Table Panel) (k : Table Slice), u = { s with single := e, panels := p, slices := k } →
        ∃ e p k, rs.foldl (fun s r => s.correct (regAddr c (s.strand c n).frame r) 8) u = { s with single := e, panels := p, slices := k } from
      h s s.single s.panels s.slices rfl
    induction rs with
    | nil => intro u e p k h; exact ⟨e, p, k, h⟩
    | cons r rest ih =>
      intro u e p k h
      obtain ⟨e', p', k', h'⟩ := State.correct_eq u (regAddr c (u.strand c n).frame r) 8
      rw [List.foldl_cons]
      exact ih _ e' p' k' (by rw [h', h])
  · exact ⟨s.single, s.panels, s.slices, rfl⟩

@[simp] theorem State.correctRegs_nil (s : State) : s.correctRegs [] = s := by
  unfold State.correctRegs
  split <;> rfl
@[simp] theorem State.correctRegs_cores (s : State) (rs : List Nat) : (s.correctRegs rs).cores = s.cores := by
  obtain ⟨e, p, k, h⟩ := State.correctRegs_eq s rs; rw [h]
@[simp] theorem State.correctRegs_mem (s : State) (rs : List Nat) : (s.correctRegs rs).mem = s.mem := by
  obtain ⟨e, p, k, h⟩ := State.correctRegs_eq s rs; rw [h]
@[simp] theorem State.correctRegs_cur (s : State) (rs : List Nat) : (s.correctRegs rs).cur = s.cur := by
  obtain ⟨e, p, k, h⟩ := State.correctRegs_eq s rs; rw [h]
@[simp] theorem State.correctRegs_units (s : State) (rs : List Nat) : (s.correctRegs rs).units = s.units := by
  obtain ⟨e, p, k, h⟩ := State.correctRegs_eq s rs; rw [h]
@[simp] theorem State.correctRegs_accs (s : State) (rs : List Nat) : (s.correctRegs rs).accs = s.accs := by
  obtain ⟨e, p, k, h⟩ := State.correctRegs_eq s rs; rw [h]
@[simp] theorem State.correctRegs_steals (s : State) (rs : List Nat) : (s.correctRegs rs).steals = s.steals := by
  obtain ⟨e, p, k, h⟩ := State.correctRegs_eq s rs; rw [h]
@[simp] theorem State.correctRegs_launches (s : State) (rs : List Nat) : (s.correctRegs rs).launches = s.launches := by
  obtain ⟨e, p, k, h⟩ := State.correctRegs_eq s rs; rw [h]
@[simp] theorem State.correctRegs_core (s : State) (rs : List Nat) (c : Nat) : (s.correctRegs rs).core c = s.core c := by
  simp [State.core]
@[simp] theorem State.correctRegs_strand (s : State) (rs : List Nat) (c n : Nat) : (s.correctRegs rs).strand c n = s.strand c n := by
  simp [State.strand]

/-! ### The forms of an instruction -/

/-- With a false guard an instruction retires with no effect except on PC; with a true one it goes on (R205). -/
theorem guarded_true {g len : Nat} {s : State} {k : State → Result} (h : s.predicate g = true) : guarded g len s k = k s := by
  rw [guarded, if_pos h]
theorem guarded_false {g len : Nat} {s : State} {k : State → Result} (h : s.predicate g = false) :
    guarded g len s k = .next (s.advance len) := by
  rw [guarded, if_neg (by simp [h])]
/-- An instruction whose registers are ready goes on with their errors corrected. -/
theorem needing_ready {rs : List Nat} {s : State} {k : State → Result} (h : s.waitsFor rs = false) (h' : s.badReg rs = none) :
    needing rs s k = k (s.correctRegs rs) := by
  simp only [needing, h, h', Bool.false_eq_true, if_false]
/-- An instruction that waits leaves the state as it is. -/
theorem needing_waits {rs : List Nat} {s : State} {k : State → Result} (h : s.waitsFor rs = true) : needing rs s k = .next s := by
  rw [needing, if_pos h]
/-- On a strand an instruction of strands goes on. -/
theorem onStrand_strand {s : State} {c n : Nat} {k : Nat → Nat → State → Result} (h : s.cur = .strand c n) :
    onStrand s k = k c n s := by
  rw [onStrand, h]
/-- A processor executes. -/
theorem onProcessor_runs {s : State} {k : State → Result} (h : s.cur ≠ .none) : onProcessor s k = k s := by
  unfold onProcessor
  split
  · exact absurd ‹_› h
  · rfl
/-- Everything that a computing instruction can do: it stops only where no processor executes. -/
theorem scalar_cases (g : Fin 8) (len : Nat) (reads writes : List Nat) (f : State → State) (s : State) :
    scalar g len reads writes f s = .fault .noProcessor ∧ s.cur = .none ∨
    scalar g len reads writes f s = .next (s.advance len) ∧ s.predicate g = false ∨
    scalar g len reads writes f s = .next s ∧ (s.waitsFor writes = true ∨ s.waitsFor reads = true) ∨
    (∃ a, s.badReg reads = some a ∧ scalar g len reads writes f s = .next (s.trap 0x1B 0 (word a))) ∨
    scalar g len reads writes f s = .next ((f (s.correctRegs reads)).advance len) ∧ s.predicate g = true ∧ s.badReg reads = none := by
  by_cases hc : s.cur = .none
  · exact .inl ⟨by simp only [scalar, onProcessor, hc], hc⟩
  have ho : scalar g len reads writes f s = guarded g len s fun s =>
      if s.waitsFor writes then .next s else needing reads s fun s => .next ((f s).advance len) := onProcessor_runs hc
  rw [ho]
  by_cases hg : s.predicate g = true
  · rw [guarded_true hg]
    by_cases hw : s.waitsFor writes = true
    · exact .inr (.inr (.inl ⟨if_pos hw, .inl hw⟩))
    rw [if_neg hw]
    by_cases hr : s.waitsFor reads = true
    · exact .inr (.inr (.inl ⟨needing_waits hr, .inr hr⟩))
    cases hb : s.badReg reads with
    | some a => exact .inr (.inr (.inr (.inl ⟨a, rfl, by simp only [needing, hr, hb]; rfl⟩)))
    | none => exact .inr (.inr (.inr (.inr ⟨needing_ready (by simpa using hr) hb, hg, rfl⟩)))
  · exact .inr (.inl ⟨guarded_false (by simpa using hg), by simpa using hg⟩)
/-- An instruction that only computes, with everything ready: its effect, and PC moves on. -/
theorem scalar_ready {g : Fin 8} {len : Nat} {reads writes : List Nat} {f : State → State} {s : State} (hc : s.cur ≠ .none)
    (hg : s.predicate g = true) (hw : s.waitsFor writes = false) (hr : s.waitsFor reads = false) (hb : s.badReg reads = none) :
    scalar g len reads writes f s = .next ((f (s.correctRegs reads)).advance len) := by
  rw [scalar, onProcessor_runs hc, guarded_true hg, if_neg (by simp [hw]), needing_ready hr hb]
/-- An event that may happen changes the state, and one that may not leaves it as it is. -/
theorem whenever_true {b : Bool} {s : State} {k : State → State} (h : b = true) : whenever b s k = .next (k s) := by
  rw [whenever, if_pos h]
theorem whenever_false {b : Bool} {s : State} {k : State → State} (h : b = false) : whenever b s k = .next s := by
  rw [whenever, if_neg (by simp [h])]

/-! ### Moving PC -/

/-- A strand's jump changes the strand alone: PC takes the target, the prefixes and the wait are gone. -/
theorem State.jump_strand {s : State} {c n : Nat} (h : s.cur = .strand c n) (target : Word) :
    s.jump target = s.modStrand c n (fun t => { t with pc := target, imx := [], wait := .none, deadline := none }) := by
  rw [State.jump, h]
/-- A strand's PC after a jump. -/
theorem State.jump_pc {s : State} {c n : Nat} (h : s.cur = .strand c n) (target : Word) : ((s.jump target).strand c n).pc = target := by
  rw [State.jump_strand h, State.strand_modStrand_same]

end Sys2Proof.Machine
end

