-- ==== Sys2Proof/Laws/PerInstr.lean ====
section
/-! SUPPORT. What holds of every instruction, one lemma for each constructor: the length and the first bit of its encoding (R200). -/

namespace Sys2Proof.Laws.Encoding

set_option Elab.async false

/-- An instruction's encoding has 16 or 32 bits, fits into them, and is odd where it has 32 (R200). -/
def Statement (i : Instr) : Prop := ∀ n w, encode i = some (n, w) → (n = 16 ∨ n = 32) ∧ w < 2 ^ n ∧ (w % 2 = 1 ↔ n = 32)

/-! ### The codes of the shared fields fit into their bits -/

theorem Fmt.code_lt (t : Fmt) : t.code < 16 := by cases t <;> decide
theorem Scope.code_lt (c : Scope) : c.code < 8 := by cases c <;> decide
theorem Order.code_lt (o : Order) : o.code < 4 := by cases o <;> decide
theorem Cond.code_lt (c : Cond) : c.code < 8 := by cases c <;> decide
theorem RedOp.code_lt (o : RedOp) : o.code < 7 := by cases o <;> decide
theorem AccMode.code_lt (m : AccMode) : m.code < 6 := by cases m <;> decide

/-! ### The three shapes -/

theorem long {i : Instr} {v : Nat} (h : encode i = some (32, v)) (hv : v < 2 ^ 32) (ho : v % 2 = 1) : Statement i := by
  intro n w e
  rw [h] at e
  obtain ⟨rfl, rfl⟩ : 32 = n ∧ v = w := by simpa using e
  exact ⟨.inr rfl, hv, by simp [ho]⟩
theorem short {i : Instr} {v : Nat} (h : encode i = some (16, v)) (hv : v < 2 ^ 16) (ho : v % 2 = 0) : Statement i := by
  intro n w e
  rw [h] at e
  obtain ⟨rfl, rfl⟩ : 16 = n ∧ v = w := by simpa using e
  exact ⟨.inl rfl, hv, by simp [ho]⟩
theorem event {i : Instr} (h : encode i = none) : Statement i := by
  intro n w e
  rw [h] at e
  cases e

/-! ### Every constructor -/

theorem add (g : Fin 8) (d : Fin 32) (a : Fin 32) (b : Fin 32) : Statement (.add g d a b) :=
  long rfl (by have := g.isLt; have := d.isLt; have := a.isLt; have := b.isLt; unfold Encoding.word32; omega) (by have := g.isLt; have := d.isLt; have := a.isLt; have := b.isLt; unfold Encoding.word32; omega)
theorem sub (g : Fin 8) (d : Fin 32) (a : Fin 32) (b : Fin 32) : Statement (.sub g d a b) :=
  long rfl (by have := g.isLt; have := d.isLt; have := a.isLt; have := b.isLt; unfold Encoding.word32; omega) (by have := g.isLt; have := d.isLt; have := a.isLt; have := b.isLt; unfold Encoding.word32; omega)
theorem mul (g : Fin 8) (d : Fin 32) (a : Fin 32) (b : Fin 32) : Statement (.mul g d a b) :=
  long rfl (by have := g.isLt; have := d.isLt; have := a.isLt; have := b.isLt; unfold Encoding.word32; omega) (by have := g.isLt; have := d.isLt; have := a.isLt; have := b.isLt; unfold Encoding.word32; omega)
theorem mulh (g : Fin 8) (d : Fin 32) (a : Fin 32) (b : Fin 32) : Statement (.mulh g d a b) :=
  long rfl (by have := g.isLt; have := d.isLt; have := a.isLt; have := b.isLt; unfold Encoding.word32; omega) (by have := g.isLt; have := d.isLt; have := a.isLt; have := b.isLt; unfold Encoding.word32; omega)
theorem mulhn (g : Fin 8) (d : Fin 32) (a : Fin 32) (b : Fin 32) : Statement (.mulhn g d a b) :=
  long rfl (by have := g.isLt; have := d.isLt; have := a.isLt; have := b.isLt; unfold Encoding.word32; omega) (by have := g.isLt; have := d.isLt; have := a.isLt; have := b.isLt; unfold Encoding.word32; omega)
theorem div (g : Fin 8) (d : Fin 32) (a : Fin 32) (b : Fin 32) : Statement (.div g d a b) :=
  long rfl (by have := g.isLt; have := d.isLt; have := a.isLt; have := b.isLt; unfold Encoding.word32; omega) (by have := g.isLt; have := d.isLt; have := a.isLt; have := b.isLt; unfold Encoding.word32; omega)
theorem divn (g : Fin 8) (d : Fin 32) (a : Fin 32) (b : Fin 32) : Statement (.divn g d a b) :=
  long rfl (by have := g.isLt; have := d.isLt; have := a.isLt; have := b.isLt; unfold Encoding.word32; omega) (by have := g.isLt; have := d.isLt; have := a.isLt; have := b.isLt; unfold Encoding.word32; omega)
theorem rem (g : Fin 8) (d : Fin 32) (a : Fin 32) (b : Fin 32) : Statement (.rem g d a b) :=
  long rfl (by have := g.isLt; have := d.isLt; have := a.isLt; have := b.isLt; unfold Encoding.word32; omega) (by have := g.isLt; have := d.isLt; have := a.isLt; have := b.isLt; unfold Encoding.word32; omega)
theorem remn (g : Fin 8) (d : Fin 32) (a : Fin 32) (b : Fin 32) : Statement (.remn g d a b) :=
  long rfl (by have := g.isLt; have := d.isLt; have := a.isLt; have := b.isLt; unfold Encoding.word32; omega) (by have := g.isLt; have := d.isLt; have := a.isLt; have := b.isLt; unfold Encoding.word32; omega)
theorem and (g : Fin 8) (d : Fin 32) (a : Fin 32) (b : Fin 32) : Statement (.and g d a b) :=
  long rfl (by have := g.isLt; have := d.isLt; have := a.isLt; have := b.isLt; unfold Encoding.word32; omega) (by have := g.isLt; have := d.isLt; have := a.isLt; have := b.isLt; unfold Encoding.word32; omega)
theorem or (g : Fin 8) (d : Fin 32) (a : Fin 32) (b : Fin 32) : Statement (.or g d a b) :=
  long rfl (by have := g.isLt; have := d.isLt; have := a.isLt; have := b.isLt; unfold Encoding.word32; omega) (by have := g.isLt; have := d.isLt; have := a.isLt; have := b.isLt; unfold Encoding.word32; omega)
theorem xor (g : Fin 8) (d : Fin 32) (a : Fin 32) (b : Fin 32) : Statement (.xor g d a b) :=
  long rfl (by have := g.isLt; have := d.isLt; have := a.isLt; have := b.isLt; unfold Encoding.word32; omega) (by have := g.isLt; have := d.isLt; have := a.isLt; have := b.isLt; unfold Encoding.word32; omega)
theorem shl (g : Fin 8) (d : Fin 32) (a : Fin 32) (b : Fin 32) : Statement (.shl g d a b) :=
  long rfl (by have := g.isLt; have := d.isLt; have := a.isLt; have := b.isLt; unfold Encoding.word32; omega) (by have := g.isLt; have := d.isLt; have := a.isLt; have := b.isLt; unfold Encoding.word32; omega)
theorem shr (g : Fin 8) (d : Fin 32) (a : Fin 32) (b : Fin 32) : Statement (.shr g d a b) :=
  long rfl (by have := g.isLt; have := d.isLt; have := a.isLt; have := b.isLt; unfold Encoding.word32; omega) (by have := g.isLt; have := d.isLt; have := a.isLt; have := b.isLt; unfold Encoding.word32; omega)
theorem sar (g : Fin 8) (d : Fin 32) (a : Fin 32) (b : Fin 32) : Statement (.sar g d a b) :=
  long rfl (by have := g.isLt; have := d.isLt; have := a.isLt; have := b.isLt; unfold Encoding.word32; omega) (by have := g.isLt; have := d.isLt; have := a.isLt; have := b.isLt; unfold Encoding.word32; omega)
theorem rot (g : Fin 8) (d : Fin 32) (a : Fin 32) (b : Fin 32) : Statement (.rot g d a b) :=
  long rfl (by have := g.isLt; have := d.isLt; have := a.isLt; have := b.isLt; unfold Encoding.word32; omega) (by have := g.isLt; have := d.isLt; have := a.isLt; have := b.isLt; unfold Encoding.word32; omega)
theorem min (g : Fin 8) (d : Fin 32) (a : Fin 32) (b : Fin 32) : Statement (.min g d a b) :=
  long rfl (by have := g.isLt; have := d.isLt; have := a.isLt; have := b.isLt; unfold Encoding.word32; omega) (by have := g.isLt; have := d.isLt; have := a.isLt; have := b.isLt; unfold Encoding.word32; omega)
theorem max (g : Fin 8) (d : Fin 32) (a : Fin 32) (b : Fin 32) : Statement (.max g d a b) :=
  long rfl (by have := g.isLt; have := d.isLt; have := a.isLt; have := b.isLt; unfold Encoding.word32; omega) (by have := g.isLt; have := d.isLt; have := a.isLt; have := b.isLt; unfold Encoding.word32; omega)
theorem minn (g : Fin 8) (d : Fin 32) (a : Fin 32) (b : Fin 32) : Statement (.minn g d a b) :=
  long rfl (by have := g.isLt; have := d.isLt; have := a.isLt; have := b.isLt; unfold Encoding.word32; omega) (by have := g.isLt; have := d.isLt; have := a.isLt; have := b.isLt; unfold Encoding.word32; omega)
theorem maxn (g : Fin 8) (d : Fin 32) (a : Fin 32) (b : Fin 32) : Statement (.maxn g d a b) :=
  long rfl (by have := g.isLt; have := d.isLt; have := a.isLt; have := b.isLt; unfold Encoding.word32; omega) (by have := g.isLt; have := d.isLt; have := a.isLt; have := b.isLt; unfold Encoding.word32; omega)
theorem padd (g : Fin 8) (d : Fin 32) (a : Fin 32) (b : Fin 32) : Statement (.padd g d a b) :=
  long rfl (by have := g.isLt; have := d.isLt; have := a.isLt; have := b.isLt; unfold Encoding.word32; omega) (by have := g.isLt; have := d.isLt; have := a.isLt; have := b.isLt; unfold Encoding.word32; omega)
theorem ptag (g : Fin 8) (d : Fin 32) (a : Fin 32) (b : Fin 32) : Statement (.ptag g d a b) :=
  long rfl (by have := g.isLt; have := d.isLt; have := a.isLt; have := b.isLt; unfold Encoding.word32; omega) (by have := g.isLt; have := d.isLt; have := a.isLt; have := b.isLt; unfold Encoding.word32; omega)
theorem pfmt (g : Fin 8) (d : Fin 32) (a : Fin 32) : Statement (.pfmt g d a) :=
  long rfl (by have := g.isLt; have := d.isLt; have := a.isLt; unfold Encoding.word32; omega) (by have := g.isLt; have := d.isLt; have := a.isLt; unfold Encoding.word32; omega)
theorem sel (g : Fin 8) (d : Fin 32) (a : Fin 32) (b : Fin 32) : Statement (.sel g d a b) :=
  long rfl (by have := g.isLt; have := d.isLt; have := a.isLt; have := b.isLt; unfold Encoding.word32; omega) (by have := g.isLt; have := d.isLt; have := a.isLt; have := b.isLt; unfold Encoding.word32; omega)
theorem clz (g : Fin 8) (d : Fin 32) (a : Fin 32) : Statement (.clz g d a) :=
  long rfl (by have := g.isLt; have := d.isLt; have := a.isLt; unfold Encoding.word32; omega) (by have := g.isLt; have := d.isLt; have := a.isLt; unfold Encoding.word32; omega)
theorem ctz (g : Fin 8) (d : Fin 32) (a : Fin 32) : Statement (.ctz g d a) :=
  long rfl (by have := g.isLt; have := d.isLt; have := a.isLt; unfold Encoding.word32; omega) (by have := g.isLt; have := d.isLt; have := a.isLt; unfold Encoding.word32; omega)
theorem popc (g : Fin 8) (d : Fin 32) (a : Fin 32) : Statement (.popc g d a) :=
  long rfl (by have := g.isLt; have := d.isLt; have := a.isLt; unfold Encoding.word32; omega) (by have := g.isLt; have := d.isLt; have := a.isLt; unfold Encoding.word32; omega)
theorem mov (g : Fin 8) (d : Fin 32) (a : Fin 32) : Statement (.mov g d a) :=
  long rfl (by have := g.isLt; have := d.isLt; have := a.isLt; unfold Encoding.word32; omega) (by have := g.isLt; have := d.isLt; have := a.isLt; unfold Encoding.word32; omega)
theorem sext (g : Fin 8) (n : Fin 3) (d : Fin 32) (a : Fin 32) : Statement (.sext g n d a) :=
  long rfl (by have := g.isLt; have := n.isLt; have := d.isLt; have := a.isLt; unfold Encoding.word32; omega) (by have := g.isLt; have := n.isLt; have := d.isLt; have := a.isLt; unfold Encoding.word32; omega)
theorem zext (g : Fin 8) (n : Fin 3) (d : Fin 32) (a : Fin 32) : Statement (.zext g n d a) :=
  long rfl (by have := g.isLt; have := n.isLt; have := d.isLt; have := a.isLt; unfold Encoding.word32; omega) (by have := g.isLt; have := n.isLt; have := d.isLt; have := a.isLt; unfold Encoding.word32; omega)
theorem cmp (g : Fin 8) (c : Cond) (d : Fin 32) (a : Fin 32) (b : Fin 32) : Statement (.cmp g c d a b) :=
  long rfl (by have := g.isLt; have := Cond.code_lt c; have := d.isLt; have := a.isLt; have := b.isLt; unfold Encoding.word32; omega) (by have := g.isLt; have := Cond.code_lt c; have := d.isLt; have := a.isLt; have := b.isLt; unfold Encoding.word32; omega)
theorem addi (g : Fin 8) (i : BitVec 12) (d : Fin 32) (a : Fin 32) : Statement (.addi g i d a) :=
  long rfl (by have := g.isLt; have := i.isLt; have := d.isLt; have := a.isLt; unfold Encoding.word32; omega) (by have := g.isLt; have := i.isLt; have := d.isLt; have := a.isLt; unfold Encoding.word32; omega)
theorem andi (g : Fin 8) (i : BitVec 12) (d : Fin 32) (a : Fin 32) : Statement (.andi g i d a) :=
  long rfl (by have := g.isLt; have := i.isLt; have := d.isLt; have := a.isLt; unfold Encoding.word32; omega) (by have := g.isLt; have := i.isLt; have := d.isLt; have := a.isLt; unfold Encoding.word32; omega)
theorem ori (g : Fin 8) (i : BitVec 12) (d : Fin 32) (a : Fin 32) : Statement (.ori g i d a) :=
  long rfl (by have := g.isLt; have := i.isLt; have := d.isLt; have := a.isLt; unfold Encoding.word32; omega) (by have := g.isLt; have := i.isLt; have := d.isLt; have := a.isLt; unfold Encoding.word32; omega)
theorem xori (g : Fin 8) (i : BitVec 12) (d : Fin 32) (a : Fin 32) : Statement (.xori g i d a) :=
  long rfl (by have := g.isLt; have := i.isLt; have := d.isLt; have := a.isLt; unfold Encoding.word32; omega) (by have := g.isLt; have := i.isLt; have := d.isLt; have := a.isLt; unfold Encoding.word32; omega)
theorem shli (g : Fin 8) (m : Fin 64) (d : Fin 32) (a : Fin 32) : Statement (.shli g m d a) :=
  long rfl (by have := g.isLt; have := m.isLt; have := d.isLt; have := a.isLt; unfold Encoding.word32; omega) (by have := g.isLt; have := m.isLt; have := d.isLt; have := a.isLt; unfold Encoding.word32; omega)
theorem shri (g : Fin 8) (m : Fin 64) (d : Fin 32) (a : Fin 32) : Statement (.shri g m d a) :=
  long rfl (by have := g.isLt; have := m.isLt; have := d.isLt; have := a.isLt; unfold Encoding.word32; omega) (by have := g.isLt; have := m.isLt; have := d.isLt; have := a.isLt; unfold Encoding.word32; omega)
theorem sari (g : Fin 8) (m : Fin 64) (d : Fin 32) (a : Fin 32) : Statement (.sari g m d a) :=
  long rfl (by have := g.isLt; have := m.isLt; have := d.isLt; have := a.isLt; unfold Encoding.word32; omega) (by have := g.isLt; have := m.isLt; have := d.isLt; have := a.isLt; unfold Encoding.word32; omega)
theorem cmpi (g : Fin 8) (i : BitVec 9) (c : Cond) (d : Fin 32) (a : Fin 32) : Statement (.cmpi g i c d a) :=
  long rfl (by have := g.isLt; have := i.isLt; have := Cond.code_lt c; have := d.isLt; have := a.isLt; unfold Encoding.word32; omega) (by have := g.isLt; have := i.isLt; have := Cond.code_lt c; have := d.isLt; have := a.isLt; unfold Encoding.word32; omega)
theorem paddi (g : Fin 8) (i : BitVec 12) (d : Fin 32) (a : Fin 32) : Statement (.paddi g i d a) :=
  long rfl (by have := g.isLt; have := i.isLt; have := d.isLt; have := a.isLt; unfold Encoding.word32; omega) (by have := g.isLt; have := i.isLt; have := d.isLt; have := a.isLt; unfold Encoding.word32; omega)
theorem movi (g : Fin 8) (i : BitVec 17) (d : Fin 32) : Statement (.movi g i d) :=
  long rfl (by have := g.isLt; have := i.isLt; have := d.isLt; unfold Encoding.word32; omega) (by have := g.isLt; have := i.isLt; have := d.isLt; unfold Encoding.word32; omega)
theorem kand (g : Fin 8) (d : Fin 8) (a : Fin 8) (b : Fin 8) : Statement (.kand g d a b) :=
  long rfl (by have := g.isLt; have := d.isLt; have := a.isLt; have := b.isLt; unfold Encoding.word32; omega) (by have := g.isLt; have := d.isLt; have := a.isLt; have := b.isLt; unfold Encoding.word32; omega)
theorem kor (g : Fin 8) (d : Fin 8) (a : Fin 8) (b : Fin 8) : Statement (.kor g d a b) :=
  long rfl (by have := g.isLt; have := d.isLt; have := a.isLt; have := b.isLt; unfold Encoding.word32; omega) (by have := g.isLt; have := d.isLt; have := a.isLt; have := b.isLt; unfold Encoding.word32; omega)
theorem kxor (g : Fin 8) (d : Fin 8) (a : Fin 8) (b : Fin 8) : Statement (.kxor g d a b) :=
  long rfl (by have := g.isLt; have := d.isLt; have := a.isLt; have := b.isLt; unfold Encoding.word32; omega) (by have := g.isLt; have := d.isLt; have := a.isLt; have := b.isLt; unfold Encoding.word32; omega)
theorem knot (g : Fin 8) (d : Fin 8) (a : Fin 8) : Statement (.knot g d a) :=
  long rfl (by have := g.isLt; have := d.isLt; have := a.isLt; unfold Encoding.word32; omega) (by have := g.isLt; have := d.isLt; have := a.isLt; unfold Encoding.word32; omega)
theorem kmov (g : Fin 8) (d : Fin 8) (a : Fin 8) : Statement (.kmov g d a) :=
  long rfl (by have := g.isLt; have := d.isLt; have := a.isLt; unfold Encoding.word32; omega) (by have := g.isLt; have := d.isLt; have := a.isLt; unfold Encoding.word32; omega)
theorem kset (g : Fin 8) (d : Fin 8) (a : Fin 32) : Statement (.kset g d a) :=
  long rfl (by have := g.isLt; have := d.isLt; have := a.isLt; unfold Encoding.word32; omega) (by have := g.isLt; have := d.isLt; have := a.isLt; unfold Encoding.word32; omega)
theorem kget (g : Fin 8) (d : Fin 32) (a : Fin 8) : Statement (.kget g d a) :=
  long rfl (by have := g.isLt; have := d.isLt; have := a.isLt; unfold Encoding.word32; omega) (by have := g.isLt; have := d.isLt; have := a.isLt; unfold Encoding.word32; omega)
theorem kpop (g : Fin 8) (d : Fin 32) (a : Fin 8) : Statement (.kpop g d a) :=
  long rfl (by have := g.isLt; have := d.isLt; have := a.isLt; unfold Encoding.word32; omega) (by have := g.isLt; have := d.isLt; have := a.isLt; unfold Encoding.word32; omega)
theorem csrr (g : Fin 8) (c : BitVec 12) (d : Fin 32) : Statement (.csrr g c d) :=
  long rfl (by have := g.isLt; have := c.isLt; have := d.isLt; unfold Encoding.word32; omega) (by have := g.isLt; have := c.isLt; have := d.isLt; unfold Encoding.word32; omega)
theorem csrw (g : Fin 8) (c : BitVec 12) (a : Fin 32) : Statement (.csrw g c a) :=
  long rfl (by have := g.isLt; have := c.isLt; have := a.isLt; unfold Encoding.word32; omega) (by have := g.isLt; have := c.isLt; have := a.isLt; unfold Encoding.word32; omega)
theorem movsRead (g : Fin 8) (m : Fin 16) (d : Fin 32) : Statement (.movsRead g m d) :=
  long rfl (by have := g.isLt; have := m.isLt; have := d.isLt; unfold Encoding.word32; omega) (by have := g.isLt; have := m.isLt; have := d.isLt; unfold Encoding.word32; omega)
theorem movsWrite (g : Fin 8) (m : Fin 16) (a : Fin 32) : Statement (.movsWrite g m a) :=
  long rfl (by have := g.isLt; have := m.isLt; have := a.isLt; unfold Encoding.word32; omega) (by have := g.isLt; have := m.isLt; have := a.isLt; unfold Encoding.word32; omega)
theorem tmset (g : Fin 8) (d : Fin 16) (a : Fin 16) : Statement (.tmset g d a) :=
  long rfl (by have := g.isLt; have := d.isLt; have := a.isLt; unfold Encoding.word32; omega) (by have := g.isLt; have := d.isLt; have := a.isLt; unfold Encoding.word32; omega)
theorem ld (g : Fin 8) (o : BitVec 10) (s : Fin 4) (d : Fin 32) (a : Fin 32) : Statement (.ld g o s d a) :=
  long rfl (by have := g.isLt; have := o.isLt; have := s.isLt; have := d.isLt; have := a.isLt; unfold Encoding.word32; omega) (by have := g.isLt; have := o.isLt; have := s.isLt; have := d.isLt; have := a.isLt; unfold Encoding.word32; omega)
theorem ldn (g : Fin 8) (o : BitVec 10) (s : Fin 3) (d : Fin 32) (a : Fin 32) : Statement (.ldn g o s d a) :=
  long rfl (by have := g.isLt; have := o.isLt; have := s.isLt; have := d.isLt; have := a.isLt; unfold Encoding.word32; omega) (by have := g.isLt; have := o.isLt; have := s.isLt; have := d.isLt; have := a.isLt; unfold Encoding.word32; omega)
theorem st (g : Fin 8) (o : BitVec 10) (s : Fin 4) (d : Fin 32) (a : Fin 32) : Statement (.st g o s d a) :=
  long rfl (by have := g.isLt; have := o.isLt; have := s.isLt; have := d.isLt; have := a.isLt; unfold Encoding.word32; omega) (by have := g.isLt; have := o.isLt; have := s.isLt; have := d.isLt; have := a.isLt; unfold Encoding.word32; omega)
theorem ldp (g : Fin 8) (o : BitVec 10) (d : Fin 32) (a : Fin 32) : Statement (.ldp g o d a) :=
  long rfl (by have := g.isLt; have := o.isLt; have := d.isLt; have := a.isLt; unfold Encoding.word32; omega) (by have := g.isLt; have := o.isLt; have := d.isLt; have := a.isLt; unfold Encoding.word32; omega)
theorem stp (g : Fin 8) (o : BitVec 10) (d : Fin 32) (a : Fin 32) : Statement (.stp g o d a) :=
  long rfl (by have := g.isLt; have := o.isLt; have := d.isLt; have := a.isLt; unfold Encoding.word32; omega) (by have := g.isLt; have := o.isLt; have := d.isLt; have := a.isLt; unfold Encoding.word32; omega)
theorem lda (g : Fin 8) (c : Scope) (s : Fin 4) (d : Fin 32) (a : Fin 32) : Statement (.lda g c s d a) :=
  long rfl (by have := g.isLt; have := Scope.code_lt c; have := s.isLt; have := d.isLt; have := a.isLt; unfold Encoding.word32; omega) (by have := g.isLt; have := Scope.code_lt c; have := s.isLt; have := d.isLt; have := a.isLt; unfold Encoding.word32; omega)
theorem stl (g : Fin 8) (c : Scope) (s : Fin 4) (a : Fin 32) (b : Fin 32) : Statement (.stl g c s a b) :=
  long rfl (by have := g.isLt; have := Scope.code_lt c; have := s.isLt; have := a.isLt; have := b.isLt; unfold Encoding.word32; omega) (by have := g.isLt; have := Scope.code_lt c; have := s.isLt; have := a.isLt; have := b.isLt; unfold Encoding.word32; omega)
theorem pfm (g : Fin 8) (a : Fin 32) : Statement (.pfm g a) :=
  long rfl (by have := g.isLt; have := a.isLt; unfold Encoding.word32; omega) (by have := g.isLt; have := a.isLt; unfold Encoding.word32; omega)
theorem zero (g : Fin 8) (a : Fin 32) : Statement (.zero g a) :=
  long rfl (by have := g.isLt; have := a.isLt; unfold Encoding.word32; omega) (by have := g.isLt; have := a.isLt; unfold Encoding.word32; omega)
theorem fence (g : Fin 8) (o : Order) (c : Scope) : Statement (.fence g o c) :=
  long rfl (by have := g.isLt; have := Order.code_lt o; have := Scope.code_lt c; unfold Encoding.word32; omega) (by have := g.isLt; have := Order.code_lt o; have := Scope.code_lt c; unfold Encoding.word32; omega)
theorem fencep (g : Fin 8) (d : Fin 32) (a : Fin 32) : Statement (.fencep g d a) :=
  long rfl (by have := g.isLt; have := d.isLt; have := a.isLt; unfold Encoding.word32; omega) (by have := g.isLt; have := d.isLt; have := a.isLt; unfold Encoding.word32; omega)
theorem atadd (g : Fin 8) (o : Order) (c : Scope) (d : Fin 32) (a : Fin 32) (b : Fin 32) : Statement (.atadd g o c d a b) :=
  long rfl (by have := g.isLt; have := Order.code_lt o; have := Scope.code_lt c; have := d.isLt; have := a.isLt; have := b.isLt; unfold Encoding.word32; omega) (by have := g.isLt; have := Order.code_lt o; have := Scope.code_lt c; have := d.isLt; have := a.isLt; have := b.isLt; unfold Encoding.word32; omega)
theorem atand (g : Fin 8) (o : Order) (c : Scope) (d : Fin 32) (a : Fin 32) (b : Fin 32) : Statement (.atand g o c d a b) :=
  long rfl (by have := g.isLt; have := Order.code_lt o; have := Scope.code_lt c; have := d.isLt; have := a.isLt; have := b.isLt; unfold Encoding.word32; omega) (by have := g.isLt; have := Order.code_lt o; have := Scope.code_lt c; have := d.isLt; have := a.isLt; have := b.isLt; unfold Encoding.word32; omega)
theorem ator (g : Fin 8) (o : Order) (c : Scope) (d : Fin 32) (a : Fin 32) (b : Fin 32) : Statement (.ator g o c d a b) :=
  long rfl (by have := g.isLt; have := Order.code_lt o; have := Scope.code_lt c; have := d.isLt; have := a.isLt; have := b.isLt; unfold Encoding.word32; omega) (by have := g.isLt; have := Order.code_lt o; have := Scope.code_lt c; have := d.isLt; have := a.isLt; have := b.isLt; unfold Encoding.word32; omega)
theorem atxor (g : Fin 8) (o : Order) (c : Scope) (d : Fin 32) (a : Fin 32) (b : Fin 32) : Statement (.atxor g o c d a b) :=
  long rfl (by have := g.isLt; have := Order.code_lt o; have := Scope.code_lt c; have := d.isLt; have := a.isLt; have := b.isLt; unfold Encoding.word32; omega) (by have := g.isLt; have := Order.code_lt o; have := Scope.code_lt c; have := d.isLt; have := a.isLt; have := b.isLt; unfold Encoding.word32; omega)
theorem atmin (g : Fin 8) (o : Order) (c : Scope) (d : Fin 32) (a : Fin 32) (b : Fin 32) : Statement (.atmin g o c d a b) :=
  long rfl (by have := g.isLt; have := Order.code_lt o; have := Scope.code_lt c; have := d.isLt; have := a.isLt; have := b.isLt; unfold Encoding.word32; omega) (by have := g.isLt; have := Order.code_lt o; have := Scope.code_lt c; have := d.isLt; have := a.isLt; have := b.isLt; unfold Encoding.word32; omega)
theorem atmax (g : Fin 8) (o : Order) (c : Scope) (d : Fin 32) (a : Fin 32) (b : Fin 32) : Statement (.atmax g o c d a b) :=
  long rfl (by have := g.isLt; have := Order.code_lt o; have := Scope.code_lt c; have := d.isLt; have := a.isLt; have := b.isLt; unfold Encoding.word32; omega) (by have := g.isLt; have := Order.code_lt o; have := Scope.code_lt c; have := d.isLt; have := a.isLt; have := b.isLt; unfold Encoding.word32; omega)
theorem atminn (g : Fin 8) (o : Order) (c : Scope) (d : Fin 32) (a : Fin 32) (b : Fin 32) : Statement (.atminn g o c d a b) :=
  long rfl (by have := g.isLt; have := Order.code_lt o; have := Scope.code_lt c; have := d.isLt; have := a.isLt; have := b.isLt; unfold Encoding.word32; omega) (by have := g.isLt; have := Order.code_lt o; have := Scope.code_lt c; have := d.isLt; have := a.isLt; have := b.isLt; unfold Encoding.word32; omega)
theorem atmaxn (g : Fin 8) (o : Order) (c : Scope) (d : Fin 32) (a : Fin 32) (b : Fin 32) : Statement (.atmaxn g o c d a b) :=
  long rfl (by have := g.isLt; have := Order.code_lt o; have := Scope.code_lt c; have := d.isLt; have := a.isLt; have := b.isLt; unfold Encoding.word32; omega) (by have := g.isLt; have := Order.code_lt o; have := Scope.code_lt c; have := d.isLt; have := a.isLt; have := b.isLt; unfold Encoding.word32; omega)
theorem atswp (g : Fin 8) (o : Order) (c : Scope) (d : Fin 32) (a : Fin 32) (b : Fin 32) : Statement (.atswp g o c d a b) :=
  long rfl (by have := g.isLt; have := Order.code_lt o; have := Scope.code_lt c; have := d.isLt; have := a.isLt; have := b.isLt; unfold Encoding.word32; omega) (by have := g.isLt; have := Order.code_lt o; have := Scope.code_lt c; have := d.isLt; have := a.isLt; have := b.isLt; unfold Encoding.word32; omega)
theorem atcas (g : Fin 8) (o : Order) (c : Scope) (d : Fin 32) (a : Fin 32) (b : Fin 32) : Statement (.atcas g o c d a b) :=
  long rfl (by have := g.isLt; have := Order.code_lt o; have := Scope.code_lt c; have := d.isLt; have := a.isLt; have := b.isLt; unfold Encoding.word32; omega) (by have := g.isLt; have := Order.code_lt o; have := Scope.code_lt c; have := d.isLt; have := a.isLt; have := b.isLt; unfold Encoding.word32; omega)
theorem atfaddFp64 (g : Fin 8) (o : Order) (c : Scope) (d : Fin 32) (a : Fin 32) (b : Fin 32) : Statement (.atfaddFp64 g o c d a b) :=
  long rfl (by have := g.isLt; have := Order.code_lt o; have := Scope.code_lt c; have := d.isLt; have := a.isLt; have := b.isLt; unfold Encoding.word32; omega) (by have := g.isLt; have := Order.code_lt o; have := Scope.code_lt c; have := d.isLt; have := a.isLt; have := b.isLt; unfold Encoding.word32; omega)
theorem atfaddFp32 (g : Fin 8) (o : Order) (c : Scope) (d : Fin 32) (a : Fin 32) (b : Fin 32) : Statement (.atfaddFp32 g o c d a b) :=
  long rfl (by have := g.isLt; have := Order.code_lt o; have := Scope.code_lt c; have := d.isLt; have := a.isLt; have := b.isLt; unfold Encoding.word32; omega) (by have := g.isLt; have := Order.code_lt o; have := Scope.code_lt c; have := d.isLt; have := a.isLt; have := b.isLt; unfold Encoding.word32; omega)
theorem minit (g : Fin 8) (o : Order) (c : Scope) (d : Fin 32) (a : Fin 32) (b : Fin 16) : Statement (.minit g o c d a b) :=
  long rfl (by have := g.isLt; have := Order.code_lt o; have := Scope.code_lt c; have := d.isLt; have := a.isLt; have := b.isLt; unfold Encoding.word32; omega) (by have := g.isLt; have := Order.code_lt o; have := Scope.code_lt c; have := d.isLt; have := a.isLt; have := b.isLt; unfold Encoding.word32; omega)
theorem mread (g : Fin 8) (o : Order) (c : Scope) (d : Fin 16) (a : Fin 32) : Statement (.mread g o c d a) :=
  long rfl (by have := g.isLt; have := Order.code_lt o; have := Scope.code_lt c; have := d.isLt; have := a.isLt; unfold Encoding.word32; omega) (by have := g.isLt; have := Order.code_lt o; have := Scope.code_lt c; have := d.isLt; have := a.isLt; unfold Encoding.word32; omega)
theorem mcancel (g : Fin 8) (o : Order) (c : Scope) (d : Fin 32) (a : Fin 32) (b : Fin 32) : Statement (.mcancel g o c d a b) :=
  long rfl (by have := g.isLt; have := Order.code_lt o; have := Scope.code_lt c; have := d.isLt; have := a.isLt; have := b.isLt; unfold Encoding.word32; omega) (by have := g.isLt; have := Order.code_lt o; have := Scope.code_lt c; have := d.isLt; have := a.isLt; have := b.isLt; unfold Encoding.word32; omega)
theorem mctrAdd (g : Fin 8) (o : Order) (c : Scope) (d : Fin 32) (a : Fin 32) (b : Fin 32) : Statement (.mctrAdd g o c d a b) :=
  long rfl (by have := g.isLt; have := Order.code_lt o; have := Scope.code_lt c; have := d.isLt; have := a.isLt; have := b.isLt; unfold Encoding.word32; omega) (by have := g.isLt; have := Order.code_lt o; have := Scope.code_lt c; have := d.isLt; have := a.isLt; have := b.isLt; unfold Encoding.word32; omega)
theorem mctrFadd (g : Fin 8) (o : Order) (c : Scope) (d : Fin 32) (a : Fin 32) (b : Fin 32) : Statement (.mctrFadd g o c d a b) :=
  long rfl (by have := g.isLt; have := Order.code_lt o; have := Scope.code_lt c; have := d.isLt; have := a.isLt; have := b.isLt; unfold Encoding.word32; omega) (by have := g.isLt; have := Order.code_lt o; have := Scope.code_lt c; have := d.isLt; have := a.isLt; have := b.isLt; unfold Encoding.word32; omega)
theorem mctrWait (g : Fin 8) (o : Order) (c : Scope) (d : Fin 32) (a : Fin 32) (b : Fin 32) : Statement (.mctrWait g o c d a b) :=
  long rfl (by have := g.isLt; have := Order.code_lt o; have := Scope.code_lt c; have := d.isLt; have := a.isLt; have := b.isLt; unfold Encoding.word32; omega) (by have := g.isLt; have := Order.code_lt o; have := Scope.code_lt c; have := d.isLt; have := a.isLt; have := b.isLt; unfold Encoding.word32; omega)
theorem mctrChunk (g : Fin 8) (o : Order) (c : Scope) (d : Fin 32) (a : Fin 32) : Statement (.mctrChunk g o c d a) :=
  long rfl (by have := g.isLt; have := Order.code_lt o; have := Scope.code_lt c; have := d.isLt; have := a.isLt; unfold Encoding.word32; omega) (by have := g.isLt; have := Order.code_lt o; have := Scope.code_lt c; have := d.isLt; have := a.isLt; unfold Encoding.word32; omega)
theorem mbarArrive (g : Fin 8) (o : Order) (c : Scope) (d : Fin 32) (a : Fin 32) (b : Fin 32) : Statement (.mbarArrive g o c d a b) :=
  long rfl (by have := g.isLt; have := Order.code_lt o; have := Scope.code_lt c; have := d.isLt; have := a.isLt; have := b.isLt; unfold Encoding.word32; omega) (by have := g.isLt; have := Order.code_lt o; have := Scope.code_lt c; have := d.isLt; have := a.isLt; have := b.isLt; unfold Encoding.word32; omega)
theorem mbarAwait (g : Fin 8) (o : Order) (c : Scope) (d : Fin 32) (a : Fin 32) (b : Fin 32) : Statement (.mbarAwait g o c d a b) :=
  long rfl (by have := g.isLt; have := Order.code_lt o; have := Scope.code_lt c; have := d.isLt; have := a.isLt; have := b.isLt; unfold Encoding.word32; omega) (by have := g.isLt; have := Order.code_lt o; have := Scope.code_lt c; have := d.isLt; have := a.isLt; have := b.isLt; unfold Encoding.word32; omega)
theorem mbarWaitp (g : Fin 8) (o : Order) (c : Scope) (d : Fin 32) (a : Fin 32) (b : Fin 32) : Statement (.mbarWaitp g o c d a b) :=
  long rfl (by have := g.isLt; have := Order.code_lt o; have := Scope.code_lt c; have := d.isLt; have := a.isLt; have := b.isLt; unfold Encoding.word32; omega) (by have := g.isLt; have := Order.code_lt o; have := Scope.code_lt c; have := d.isLt; have := a.isLt; have := b.isLt; unfold Encoding.word32; omega)
theorem mlockAcq (g : Fin 8) (o : Order) (c : Scope) (d : Fin 32) (a : Fin 32) : Statement (.mlockAcq g o c d a) :=
  long rfl (by have := g.isLt; have := Order.code_lt o; have := Scope.code_lt c; have := d.isLt; have := a.isLt; unfold Encoding.word32; omega) (by have := g.isLt; have := Order.code_lt o; have := Scope.code_lt c; have := d.isLt; have := a.isLt; unfold Encoding.word32; omega)
theorem mlockTry (g : Fin 8) (o : Order) (c : Scope) (d : Fin 32) (a : Fin 32) : Statement (.mlockTry g o c d a) :=
  long rfl (by have := g.isLt; have := Order.code_lt o; have := Scope.code_lt c; have := d.isLt; have := a.isLt; unfold Encoding.word32; omega) (by have := g.isLt; have := Order.code_lt o; have := Scope.code_lt c; have := d.isLt; have := a.isLt; unfold Encoding.word32; omega)
theorem mlockRel (g : Fin 8) (o : Order) (c : Scope) (d : Fin 32) (a : Fin 32) : Statement (.mlockRel g o c d a) :=
  long rfl (by have := g.isLt; have := Order.code_lt o; have := Scope.code_lt c; have := d.isLt; have := a.isLt; unfold Encoding.word32; omega) (by have := g.isLt; have := Order.code_lt o; have := Scope.code_lt c; have := d.isLt; have := a.isLt; unfold Encoding.word32; omega)
theorem mqueEnq (g : Fin 8) (o : Order) (c : Scope) (d : Fin 32) (a : Fin 32) (b : Fin 16) : Statement (.mqueEnq g o c d a b) :=
  long rfl (by have := g.isLt; have := Order.code_lt o; have := Scope.code_lt c; have := d.isLt; have := a.isLt; have := b.isLt; unfold Encoding.word32; omega) (by have := g.isLt; have := Order.code_lt o; have := Scope.code_lt c; have := d.isLt; have := a.isLt; have := b.isLt; unfold Encoding.word32; omega)
theorem mqueTenq (g : Fin 8) (o : Order) (c : Scope) (d : Fin 32) (a : Fin 32) (b : Fin 16) : Statement (.mqueTenq g o c d a b) :=
  long rfl (by have := g.isLt; have := Order.code_lt o; have := Scope.code_lt c; have := d.isLt; have := a.isLt; have := b.isLt; unfold Encoding.word32; omega) (by have := g.isLt; have := Order.code_lt o; have := Scope.code_lt c; have := d.isLt; have := a.isLt; have := b.isLt; unfold Encoding.word32; omega)
theorem mqueEnqr (g : Fin 8) (o : Order) (c : Scope) (d : Fin 32) (a : Fin 32) : Statement (.mqueEnqr g o c d a) :=
  long rfl (by have := g.isLt; have := Order.code_lt o; have := Scope.code_lt c; have := d.isLt; have := a.isLt; unfold Encoding.word32; omega) (by have := g.isLt; have := Order.code_lt o; have := Scope.code_lt c; have := d.isLt; have := a.isLt; unfold Encoding.word32; omega)
theorem mqueTenqr (g : Fin 8) (o : Order) (c : Scope) (d : Fin 32) (a : Fin 32) : Statement (.mqueTenqr g o c d a) :=
  long rfl (by have := g.isLt; have := Order.code_lt o; have := Scope.code_lt c; have := d.isLt; have := a.isLt; unfold Encoding.word32; omega) (by have := g.isLt; have := Order.code_lt o; have := Scope.code_lt c; have := d.isLt; have := a.isLt; unfold Encoding.word32; omega)
theorem mqueCommit (g : Fin 8) (o : Order) (c : Scope) (d : Fin 32) (a : Fin 32) (b : Fin 32) : Statement (.mqueCommit g o c d a b) :=
  long rfl (by have := g.isLt; have := Order.code_lt o; have := Scope.code_lt c; have := d.isLt; have := a.isLt; have := b.isLt; unfold Encoding.word32; omega) (by have := g.isLt; have := Order.code_lt o; have := Scope.code_lt c; have := d.isLt; have := a.isLt; have := b.isLt; unfold Encoding.word32; omega)
theorem mqueDeq (g : Fin 8) (o : Order) (c : Scope) (d : Fin 32) (a : Fin 32) (b : Fin 16) : Statement (.mqueDeq g o c d a b) :=
  long rfl (by have := g.isLt; have := Order.code_lt o; have := Scope.code_lt c; have := d.isLt; have := a.isLt; have := b.isLt; unfold Encoding.word32; omega) (by have := g.isLt; have := Order.code_lt o; have := Scope.code_lt c; have := d.isLt; have := a.isLt; have := b.isLt; unfold Encoding.word32; omega)
theorem mqueTdeq (g : Fin 8) (o : Order) (c : Scope) (d : Fin 32) (a : Fin 32) (b : Fin 16) : Statement (.mqueTdeq g o c d a b) :=
  long rfl (by have := g.isLt; have := Order.code_lt o; have := Scope.code_lt c; have := d.isLt; have := a.isLt; have := b.isLt; unfold Encoding.word32; omega) (by have := g.isLt; have := Order.code_lt o; have := Scope.code_lt c; have := d.isLt; have := a.isLt; have := b.isLt; unfold Encoding.word32; omega)
theorem mqueDeqr (g : Fin 8) (o : Order) (c : Scope) (d : Fin 32) (a : Fin 32) : Statement (.mqueDeqr g o c d a) :=
  long rfl (by have := g.isLt; have := Order.code_lt o; have := Scope.code_lt c; have := d.isLt; have := a.isLt; unfold Encoding.word32; omega) (by have := g.isLt; have := Order.code_lt o; have := Scope.code_lt c; have := d.isLt; have := a.isLt; unfold Encoding.word32; omega)
theorem mqueTdeqr (g : Fin 8) (o : Order) (c : Scope) (d : Fin 32) (a : Fin 32) : Statement (.mqueTdeqr g o c d a) :=
  long rfl (by have := g.isLt; have := Order.code_lt o; have := Scope.code_lt c; have := d.isLt; have := a.isLt; unfold Encoding.word32; omega) (by have := g.isLt; have := Order.code_lt o; have := Scope.code_lt c; have := d.isLt; have := a.isLt; unfold Encoding.word32; omega)
theorem mqueFree (g : Fin 8) (o : Order) (c : Scope) (d : Fin 32) (a : Fin 32) (b : Fin 32) : Statement (.mqueFree g o c d a b) :=
  long rfl (by have := g.isLt; have := Order.code_lt o; have := Scope.code_lt c; have := d.isLt; have := a.isLt; have := b.isLt; unfold Encoding.word32; omega) (by have := g.isLt; have := Order.code_lt o; have := Scope.code_lt c; have := d.isLt; have := a.isLt; have := b.isLt; unfold Encoding.word32; omega)
theorem mcondWait (g : Fin 8) (o : Order) (c : Scope) (d : Fin 32) (a : Fin 32) : Statement (.mcondWait g o c d a) :=
  long rfl (by have := g.isLt; have := Order.code_lt o; have := Scope.code_lt c; have := d.isLt; have := a.isLt; unfold Encoding.word32; omega) (by have := g.isLt; have := Order.code_lt o; have := Scope.code_lt c; have := d.isLt; have := a.isLt; unfold Encoding.word32; omega)
theorem mcondSig (g : Fin 8) (o : Order) (c : Scope) (d : Fin 32) (a : Fin 32) : Statement (.mcondSig g o c d a) :=
  long rfl (by have := g.isLt; have := Order.code_lt o; have := Scope.code_lt c; have := d.isLt; have := a.isLt; unfold Encoding.word32; omega) (by have := g.isLt; have := Order.code_lt o; have := Scope.code_lt c; have := d.isLt; have := a.isLt; unfold Encoding.word32; omega)
theorem mcondBcast (g : Fin 8) (o : Order) (c : Scope) (d : Fin 32) (a : Fin 32) : Statement (.mcondBcast g o c d a) :=
  long rfl (by have := g.isLt; have := Order.code_lt o; have := Scope.code_lt c; have := d.isLt; have := a.isLt; unfold Encoding.word32; omega) (by have := g.isLt; have := Order.code_lt o; have := Scope.code_lt c; have := d.isLt; have := a.isLt; unfold Encoding.word32; omega)
theorem cpy (g : Fin 8) (a : Fin 32) : Statement (.cpy g a) :=
  long rfl (by have := g.isLt; have := a.isLt; unfold Encoding.word32; omega) (by have := g.isLt; have := a.isLt; unfold Encoding.word32; omega)
theorem cpynb (g : Fin 8) (d : Fin 8) (a : Fin 32) : Statement (.cpynb g d a) :=
  long rfl (by have := g.isLt; have := d.isLt; have := a.isLt; unfold Encoding.word32; omega) (by have := g.isLt; have := d.isLt; have := a.isLt; unfold Encoding.word32; omega)
theorem cpx (g : Fin 8) (a : Fin 32) : Statement (.cpx g a) :=
  long rfl (by have := g.isLt; have := a.isLt; unfold Encoding.word32; omega) (by have := g.isLt; have := a.isLt; unfold Encoding.word32; omega)
theorem cpq (g : Fin 8) (d : Fin 32) : Statement (.cpq g d) :=
  long rfl (by have := g.isLt; have := d.isLt; unfold Encoding.word32; omega) (by have := g.isLt; have := d.isLt; unfold Encoding.word32; omega)
theorem cpqTag (g : Fin 8) (d : Fin 32) (a : Fin 32) : Statement (.cpqTag g d a) :=
  long rfl (by have := g.isLt; have := d.isLt; have := a.isLt; unfold Encoding.word32; omega) (by have := g.isLt; have := d.isLt; have := a.isLt; unfold Encoding.word32; omega)
theorem vadd (g : Fin 8) (t : Fmt) (d : Fin 16) (a : Fin 16) (b : Fin 16) : Statement (.vadd g t d a b) :=
  long rfl (by have := g.isLt; have := Fmt.code_lt t; have := d.isLt; have := a.isLt; have := b.isLt; unfold Encoding.word32; omega) (by have := g.isLt; have := Fmt.code_lt t; have := d.isLt; have := a.isLt; have := b.isLt; unfold Encoding.word32; omega)
theorem vsub (g : Fin 8) (t : Fmt) (d : Fin 16) (a : Fin 16) (b : Fin 16) : Statement (.vsub g t d a b) :=
  long rfl (by have := g.isLt; have := Fmt.code_lt t; have := d.isLt; have := a.isLt; have := b.isLt; unfold Encoding.word32; omega) (by have := g.isLt; have := Fmt.code_lt t; have := d.isLt; have := a.isLt; have := b.isLt; unfold Encoding.word32; omega)
theorem vmul (g : Fin 8) (t : Fmt) (d : Fin 16) (a : Fin 16) (b : Fin 16) : Statement (.vmul g t d a b) :=
  long rfl (by have := g.isLt; have := Fmt.code_lt t; have := d.isLt; have := a.isLt; have := b.isLt; unfold Encoding.word32; omega) (by have := g.isLt; have := Fmt.code_lt t; have := d.isLt; have := a.isLt; have := b.isLt; unfold Encoding.word32; omega)
theorem vfma (g : Fin 8) (t : Fmt) (d : Fin 16) (a : Fin 16) (b : Fin 16) : Statement (.vfma g t d a b) :=
  long rfl (by have := g.isLt; have := Fmt.code_lt t; have := d.isLt; have := a.isLt; have := b.isLt; unfold Encoding.word32; omega) (by have := g.isLt; have := Fmt.code_lt t; have := d.isLt; have := a.isLt; have := b.isLt; unfold Encoding.word32; omega)
theorem vfms (g : Fin 8) (t : Fmt) (d : Fin 16) (a : Fin 16) (b : Fin 16) : Statement (.vfms g t d a b) :=
  long rfl (by have := g.isLt; have := Fmt.code_lt t; have := d.isLt; have := a.isLt; have := b.isLt; unfold Encoding.word32; omega) (by have := g.isLt; have := Fmt.code_lt t; have := d.isLt; have := a.isLt; have := b.isLt; unfold Encoding.word32; omega)
theorem vmin (g : Fin 8) (t : Fmt) (d : Fin 16) (a : Fin 16) (b : Fin 16) : Statement (.vmin g t d a b) :=
  long rfl (by have := g.isLt; have := Fmt.code_lt t; have := d.isLt; have := a.isLt; have := b.isLt; unfold Encoding.word32; omega) (by have := g.isLt; have := Fmt.code_lt t; have := d.isLt; have := a.isLt; have := b.isLt; unfold Encoding.word32; omega)
theorem vmax (g : Fin 8) (t : Fmt) (d : Fin 16) (a : Fin 16) (b : Fin 16) : Statement (.vmax g t d a b) :=
  long rfl (by have := g.isLt; have := Fmt.code_lt t; have := d.isLt; have := a.isLt; have := b.isLt; unfold Encoding.word32; omega) (by have := g.isLt; have := Fmt.code_lt t; have := d.isLt; have := a.isLt; have := b.isLt; unfold Encoding.word32; omega)
theorem vdiv (g : Fin 8) (t : Fmt) (d : Fin 16) (a : Fin 16) (b : Fin 16) : Statement (.vdiv g t d a b) :=
  long rfl (by have := g.isLt; have := Fmt.code_lt t; have := d.isLt; have := a.isLt; have := b.isLt; unfold Encoding.word32; omega) (by have := g.isLt; have := Fmt.code_lt t; have := d.isLt; have := a.isLt; have := b.isLt; unfold Encoding.word32; omega)
theorem vabs (g : Fin 8) (t : Fmt) (d : Fin 16) (a : Fin 16) : Statement (.vabs g t d a) :=
  long rfl (by have := g.isLt; have := Fmt.code_lt t; have := d.isLt; have := a.isLt; unfold Encoding.word32; omega) (by have := g.isLt; have := Fmt.code_lt t; have := d.isLt; have := a.isLt; unfold Encoding.word32; omega)
theorem vneg (g : Fin 8) (t : Fmt) (d : Fin 16) (a : Fin 16) : Statement (.vneg g t d a) :=
  long rfl (by have := g.isLt; have := Fmt.code_lt t; have := d.isLt; have := a.isLt; unfold Encoding.word32; omega) (by have := g.isLt; have := Fmt.code_lt t; have := d.isLt; have := a.isLt; unfold Encoding.word32; omega)
theorem vsqrt (g : Fin 8) (t : Fmt) (d : Fin 16) (a : Fin 16) : Statement (.vsqrt g t d a) :=
  long rfl (by have := g.isLt; have := Fmt.code_lt t; have := d.isLt; have := a.isLt; unfold Encoding.word32; omega) (by have := g.isLt; have := Fmt.code_lt t; have := d.isLt; have := a.isLt; unfold Encoding.word32; omega)
theorem vrcp (g : Fin 8) (t : Fmt) (d : Fin 16) (a : Fin 16) : Statement (.vrcp g t d a) :=
  long rfl (by have := g.isLt; have := Fmt.code_lt t; have := d.isLt; have := a.isLt; unfold Encoding.word32; omega) (by have := g.isLt; have := Fmt.code_lt t; have := d.isLt; have := a.isLt; unfold Encoding.word32; omega)
theorem vrsq (g : Fin 8) (t : Fmt) (d : Fin 16) (a : Fin 16) : Statement (.vrsq g t d a) :=
  long rfl (by have := g.isLt; have := Fmt.code_lt t; have := d.isLt; have := a.isLt; unfold Encoding.word32; omega) (by have := g.isLt; have := Fmt.code_lt t; have := d.isLt; have := a.isLt; unfold Encoding.word32; omega)
theorem vexp2 (g : Fin 8) (t : Fmt) (d : Fin 16) (a : Fin 16) : Statement (.vexp2 g t d a) :=
  long rfl (by have := g.isLt; have := Fmt.code_lt t; have := d.isLt; have := a.isLt; unfold Encoding.word32; omega) (by have := g.isLt; have := Fmt.code_lt t; have := d.isLt; have := a.isLt; unfold Encoding.word32; omega)
theorem vlog2 (g : Fin 8) (t : Fmt) (d : Fin 16) (a : Fin 16) : Statement (.vlog2 g t d a) :=
  long rfl (by have := g.isLt; have := Fmt.code_lt t; have := d.isLt; have := a.isLt; unfold Encoding.word32; omega) (by have := g.isLt; have := Fmt.code_lt t; have := d.isLt; have := a.isLt; unfold Encoding.word32; omega)
theorem vmov (g : Fin 8) (t : Fmt) (d : Fin 16) (a : Fin 16) : Statement (.vmov g t d a) :=
  long rfl (by have := g.isLt; have := Fmt.code_lt t; have := d.isLt; have := a.isLt; unfold Encoding.word32; omega) (by have := g.isLt; have := Fmt.code_lt t; have := d.isLt; have := a.isLt; unfold Encoding.word32; omega)
theorem vand (g : Fin 8) (d : Fin 16) (a : Fin 16) (b : Fin 16) : Statement (.vand g d a b) :=
  long rfl (by have := g.isLt; have := d.isLt; have := a.isLt; have := b.isLt; unfold Encoding.word32; omega) (by have := g.isLt; have := d.isLt; have := a.isLt; have := b.isLt; unfold Encoding.word32; omega)
theorem vor (g : Fin 8) (d : Fin 16) (a : Fin 16) (b : Fin 16) : Statement (.vor g d a b) :=
  long rfl (by have := g.isLt; have := d.isLt; have := a.isLt; have := b.isLt; unfold Encoding.word32; omega) (by have := g.isLt; have := d.isLt; have := a.isLt; have := b.isLt; unfold Encoding.word32; omega)
theorem vxor (g : Fin 8) (d : Fin 16) (a : Fin 16) (b : Fin 16) : Statement (.vxor g d a b) :=
  long rfl (by have := g.isLt; have := d.isLt; have := a.isLt; have := b.isLt; unfold Encoding.word32; omega) (by have := g.isLt; have := d.isLt; have := a.isLt; have := b.isLt; unfold Encoding.word32; omega)
theorem vshl (g : Fin 8) (t : Fmt) (d : Fin 16) (a : Fin 16) (b : Fin 16) : Statement (.vshl g t d a b) :=
  long rfl (by have := g.isLt; have := Fmt.code_lt t; have := d.isLt; have := a.isLt; have := b.isLt; unfold Encoding.word32; omega) (by have := g.isLt; have := Fmt.code_lt t; have := d.isLt; have := a.isLt; have := b.isLt; unfold Encoding.word32; omega)
theorem vshr (g : Fin 8) (t : Fmt) (d : Fin 16) (a : Fin 16) (b : Fin 16) : Statement (.vshr g t d a b) :=
  long rfl (by have := g.isLt; have := Fmt.code_lt t; have := d.isLt; have := a.isLt; have := b.isLt; unfold Encoding.word32; omega) (by have := g.isLt; have := Fmt.code_lt t; have := d.isLt; have := a.isLt; have := b.isLt; unfold Encoding.word32; omega)
theorem vsar (g : Fin 8) (t : Fmt) (d : Fin 16) (a : Fin 16) (b : Fin 16) : Statement (.vsar g t d a b) :=
  long rfl (by have := g.isLt; have := Fmt.code_lt t; have := d.isLt; have := a.isLt; have := b.isLt; unfold Encoding.word32; omega) (by have := g.isLt; have := Fmt.code_lt t; have := d.isLt; have := a.isLt; have := b.isLt; unfold Encoding.word32; omega)
theorem vrotl (g : Fin 8) (t : Fmt) (d : Fin 16) (a : Fin 16) (b : Fin 16) : Statement (.vrotl g t d a b) :=
  long rfl (by have := g.isLt; have := Fmt.code_lt t; have := d.isLt; have := a.isLt; have := b.isLt; unfold Encoding.word32; omega) (by have := g.isLt; have := Fmt.code_lt t; have := d.isLt; have := a.isLt; have := b.isLt; unfold Encoding.word32; omega)
theorem vcmp (g : Fin 8) (c : Cond) (t : Fmt) (d : Fin 8) (a : Fin 16) (b : Fin 16) : Statement (.vcmp g c t d a b) :=
  long rfl (by have := g.isLt; have := Cond.code_lt c; have := Fmt.code_lt t; have := d.isLt; have := a.isLt; have := b.isLt; unfold Encoding.word32; omega) (by have := g.isLt; have := Cond.code_lt c; have := Fmt.code_lt t; have := d.isLt; have := a.isLt; have := b.isLt; unfold Encoding.word32; omega)
theorem vcvt (g : Fin 8) (t : Fmt) (s : Fmt) (d : Fin 16) (a : Fin 16) : Statement (.vcvt g t s d a) :=
  long rfl (by have := g.isLt; have := Fmt.code_lt t; have := Fmt.code_lt s; have := d.isLt; have := a.isLt; unfold Encoding.word32; omega) (by have := g.isLt; have := Fmt.code_lt t; have := Fmt.code_lt s; have := d.isLt; have := a.isLt; unfold Encoding.word32; omega)
theorem vdec8 (g : Fin 8) (t : Fmt) (k : Fin 3) (q : Fin 8) (d : Fin 16) (a : Fin 16) : Statement (.vdec8 g t k q d a) :=
  long rfl (by have := g.isLt; have := Fmt.code_lt t; have := k.isLt; have := q.isLt; have := d.isLt; have := a.isLt; unfold Encoding.word32; omega) (by have := g.isLt; have := Fmt.code_lt t; have := k.isLt; have := q.isLt; have := d.isLt; have := a.isLt; unfold Encoding.word32; omega)
theorem venc8 (g : Fin 8) (t : Fmt) (k : Fin 3) (q : Fin 8) (d : Fin 16) (a : Fin 16) : Statement (.venc8 g t k q d a) :=
  long rfl (by have := g.isLt; have := Fmt.code_lt t; have := k.isLt; have := q.isLt; have := d.isLt; have := a.isLt; unfold Encoding.word32; omega) (by have := g.isLt; have := Fmt.code_lt t; have := k.isLt; have := q.isLt; have := d.isLt; have := a.isLt; unfold Encoding.word32; omega)
theorem tblld (g : Fin 8) (a : Fin 16) : Statement (.tblld g a) :=
  long rfl (by have := g.isLt; have := a.isLt; unfold Encoding.word32; omega) (by have := g.isLt; have := a.isLt; unfold Encoding.word32; omega)
theorem vperm (g : Fin 8) (t : Fmt) (d : Fin 16) (a : Fin 16) (b : Fin 16) : Statement (.vperm g t d a b) :=
  long rfl (by have := g.isLt; have := Fmt.code_lt t; have := d.isLt; have := a.isLt; have := b.isLt; unfold Encoding.word32; omega) (by have := g.isLt; have := Fmt.code_lt t; have := d.isLt; have := a.isLt; have := b.isLt; unfold Encoding.word32; omega)
theorem vbcast (g : Fin 8) (t : Fmt) (d : Fin 16) (a : Fin 16) (b : Fin 32) : Statement (.vbcast g t d a b) :=
  long rfl (by have := g.isLt; have := Fmt.code_lt t; have := d.isLt; have := a.isLt; have := b.isLt; unfold Encoding.word32; omega) (by have := g.isLt; have := Fmt.code_lt t; have := d.isLt; have := a.isLt; have := b.isLt; unfold Encoding.word32; omega)
theorem vsplat (g : Fin 8) (t : Fmt) (d : Fin 16) (a : Fin 32) : Statement (.vsplat g t d a) :=
  long rfl (by have := g.isLt; have := Fmt.code_lt t; have := d.isLt; have := a.isLt; unfold Encoding.word32; omega) (by have := g.isLt; have := Fmt.code_lt t; have := d.isLt; have := a.isLt; unfold Encoding.word32; omega)
theorem vext (g : Fin 8) (t : Fmt) (d : Fin 32) (a : Fin 16) (b : Fin 32) : Statement (.vext g t d a b) :=
  long rfl (by have := g.isLt; have := Fmt.code_lt t; have := d.isLt; have := a.isLt; have := b.isLt; unfold Encoding.word32; omega) (by have := g.isLt; have := Fmt.code_lt t; have := d.isLt; have := a.isLt; have := b.isLt; unfold Encoding.word32; omega)
theorem vins (g : Fin 8) (t : Fmt) (d : Fin 16) (a : Fin 32) (b : Fin 32) : Statement (.vins g t d a b) :=
  long rfl (by have := g.isLt; have := Fmt.code_lt t; have := d.isLt; have := a.isLt; have := b.isLt; unfold Encoding.word32; omega) (by have := g.isLt; have := Fmt.code_lt t; have := d.isLt; have := a.isLt; have := b.isLt; unfold Encoding.word32; omega)
theorem vsel (g : Fin 8) (c : Fin 8) (d : Fin 16) (a : Fin 16) (b : Fin 16) : Statement (.vsel g c d a b) :=
  long rfl (by have := g.isLt; have := c.isLt; have := d.isLt; have := a.isLt; have := b.isLt; unfold Encoding.word32; omega) (by have := g.isLt; have := c.isLt; have := d.isLt; have := a.isLt; have := b.isLt; unfold Encoding.word32; omega)
theorem vclr (g : Fin 8) (d : Fin 16) : Statement (.vclr g d) :=
  long rfl (by have := g.isLt; have := d.isLt; unfold Encoding.word32; omega) (by have := g.isLt; have := d.isLt; unfold Encoding.word32; omega)
theorem vred (g : Fin 8) (o : RedOp) (t : Fmt) (d : Fin 32) (a : Fin 16) : Statement (.vred g o t d a) :=
  long rfl (by have := g.isLt; have := RedOp.code_lt o; have := Fmt.code_lt t; have := d.isLt; have := a.isLt; unfold Encoding.word32; omega) (by have := g.isLt; have := RedOp.code_lt o; have := Fmt.code_lt t; have := d.isLt; have := a.isLt; unfold Encoding.word32; omega)
theorem vscan (g : Fin 8) (o : RedOp) (t : Fmt) (d : Fin 16) (a : Fin 16) : Statement (.vscan g o t d a) :=
  long rfl (by have := g.isLt; have := RedOp.code_lt o; have := Fmt.code_lt t; have := d.isLt; have := a.isLt; unfold Encoding.word32; omega) (by have := g.isLt; have := RedOp.code_lt o; have := Fmt.code_lt t; have := d.isLt; have := a.isLt; unfold Encoding.word32; omega)
theorem vcmul (g : Fin 8) (d : Fin 16) (a : Fin 16) (b : Fin 16) : Statement (.vcmul g d a b) :=
  long rfl (by have := g.isLt; have := d.isLt; have := a.isLt; have := b.isLt; unfold Encoding.word32; omega) (by have := g.isLt; have := d.isLt; have := a.isLt; have := b.isLt; unfold Encoding.word32; omega)
theorem vcfma (g : Fin 8) (d : Fin 16) (a : Fin 16) (b : Fin 16) : Statement (.vcfma g d a b) :=
  long rfl (by have := g.isLt; have := d.isLt; have := a.isLt; have := b.isLt; unfold Encoding.word32; omega) (by have := g.isLt; have := d.isLt; have := a.isLt; have := b.isLt; unfold Encoding.word32; omega)
theorem vld (g : Fin 8) (o : BitVec 8) (t : Fmt) (d : Fin 16) (a : Fin 32) : Statement (.vld g o t d a) :=
  long rfl (by have := g.isLt; have := o.isLt; have := Fmt.code_lt t; have := d.isLt; have := a.isLt; unfold Encoding.word32; omega) (by have := g.isLt; have := o.isLt; have := Fmt.code_lt t; have := d.isLt; have := a.isLt; unfold Encoding.word32; omega)
theorem vst (g : Fin 8) (o : BitVec 8) (t : Fmt) (d : Fin 16) (a : Fin 32) : Statement (.vst g o t d a) :=
  long rfl (by have := g.isLt; have := o.isLt; have := Fmt.code_lt t; have := d.isLt; have := a.isLt; unfold Encoding.word32; omega) (by have := g.isLt; have := o.isLt; have := Fmt.code_lt t; have := d.isLt; have := a.isLt; unfold Encoding.word32; omega)
theorem vlds (g : Fin 8) (t : Fmt) (d : Fin 16) (a : Fin 32) (b : Fin 32) : Statement (.vlds g t d a b) :=
  long rfl (by have := g.isLt; have := Fmt.code_lt t; have := d.isLt; have := a.isLt; have := b.isLt; unfold Encoding.word32; omega) (by have := g.isLt; have := Fmt.code_lt t; have := d.isLt; have := a.isLt; have := b.isLt; unfold Encoding.word32; omega)
theorem vsts (g : Fin 8) (t : Fmt) (d : Fin 16) (a : Fin 32) (b : Fin 32) : Statement (.vsts g t d a b) :=
  long rfl (by have := g.isLt; have := Fmt.code_lt t; have := d.isLt; have := a.isLt; have := b.isLt; unfold Encoding.word32; omega) (by have := g.isLt; have := Fmt.code_lt t; have := d.isLt; have := a.isLt; have := b.isLt; unfold Encoding.word32; omega)
theorem vldx (g : Fin 8) (t : Fmt) (d : Fin 16) (a : Fin 32) (b : Fin 16) : Statement (.vldx g t d a b) :=
  long rfl (by have := g.isLt; have := Fmt.code_lt t; have := d.isLt; have := a.isLt; have := b.isLt; unfold Encoding.word32; omega) (by have := g.isLt; have := Fmt.code_lt t; have := d.isLt; have := a.isLt; have := b.isLt; unfold Encoding.word32; omega)
theorem vstx (g : Fin 8) (t : Fmt) (d : Fin 16) (a : Fin 32) (b : Fin 16) : Statement (.vstx g t d a b) :=
  long rfl (by have := g.isLt; have := Fmt.code_lt t; have := d.isLt; have := a.isLt; have := b.isLt; unfold Encoding.word32; omega) (by have := g.isLt; have := Fmt.code_lt t; have := d.isLt; have := a.isLt; have := b.isLt; unfold Encoding.word32; omega)
theorem vldt (g : Fin 8) (t : Fmt) (d : Fin 16) (a : Fin 16) (b : Fin 32) : Statement (.vldt g t d a b) :=
  long rfl (by have := g.isLt; have := Fmt.code_lt t; have := d.isLt; have := a.isLt; have := b.isLt; unfold Encoding.word32; omega) (by have := g.isLt; have := Fmt.code_lt t; have := d.isLt; have := a.isLt; have := b.isLt; unfold Encoding.word32; omega)
theorem vstt (g : Fin 8) (t : Fmt) (d : Fin 16) (a : Fin 16) (b : Fin 32) : Statement (.vstt g t d a b) :=
  long rfl (by have := g.isLt; have := Fmt.code_lt t; have := d.isLt; have := a.isLt; have := b.isLt; unfold Encoding.word32; omega) (by have := g.isLt; have := Fmt.code_lt t; have := d.isLt; have := a.isLt; have := b.isLt; unfold Encoding.word32; omega)
theorem vsave (g : Fin 8) (n : Fin 16) (d : Fin 16) (a : Fin 32) : Statement (.vsave g n d a) :=
  long rfl (by have := g.isLt; have := n.isLt; have := d.isLt; have := a.isLt; unfold Encoding.word32; omega) (by have := g.isLt; have := n.isLt; have := d.isLt; have := a.isLt; unfold Encoding.word32; omega)
theorem vload (g : Fin 8) (n : Fin 16) (d : Fin 16) (a : Fin 32) : Statement (.vload g n d a) :=
  long rfl (by have := g.isLt; have := n.isLt; have := d.isLt; have := a.isLt; unfold Encoding.word32; omega) (by have := g.isLt; have := n.isLt; have := d.isLt; have := a.isLt; unfold Encoding.word32; omega)
theorem setst (g : Fin 8) (t : Fmt) (x : Bool) (c : Fin 16) (k : Fin 2) (a : Fin 16) : Statement (.setst g t x c k a) :=
  long rfl (by have := g.isLt; have := Fmt.code_lt t; have := Bool.toNat_lt x; have := c.isLt; have := k.isLt; have := a.isLt; unfold Encoding.word32; omega) (by have := g.isLt; have := Fmt.code_lt t; have := Bool.toNat_lt x; have := c.isLt; have := k.isLt; have := a.isLt; unfold Encoding.word32; omega)
theorem relst (g : Fin 8) (d : Fin 2) : Statement (.relst g d) :=
  long rfl (by have := g.isLt; have := d.isLt; unfold Encoding.word32; omega) (by have := g.isLt; have := d.isLt; unfold Encoding.word32; omega)
theorem aclr (g : Fin 8) (d : Fin 4) : Statement (.aclr g d) :=
  long rfl (by have := g.isLt; have := d.isLt; unfold Encoding.word32; omega) (by have := g.isLt; have := d.isLt; unfold Encoding.word32; omega)
theorem ast (g : Fin 8) (t : Fmt) (d : Fin 16) (a : Fin 4) : Statement (.ast g t d a) :=
  long rfl (by have := g.isLt; have := Fmt.code_lt t; have := d.isLt; have := a.isLt; unfold Encoding.word32; omega) (by have := g.isLt; have := Fmt.code_lt t; have := d.isLt; have := a.isLt; unfold Encoding.word32; omega)
theorem ald (g : Fin 8) (t : Fmt) (m : AccMode) (d : Fin 4) (a : Fin 16) : Statement (.ald g t m d a) :=
  long rfl (by have := g.isLt; have := Fmt.code_lt t; have := AccMode.code_lt m; have := d.isLt; have := a.isLt; unfold Encoding.word32; omega) (by have := g.isLt; have := Fmt.code_lt t; have := AccMode.code_lt m; have := d.isLt; have := a.isLt; unfold Encoding.word32; omega)
theorem mma (g : Fin 8) (t : Fmt) (s : Fin 16) (d : Fin 4) (a : Fin 16) : Statement (.mma g t s d a) :=
  long rfl (by have := g.isLt; have := Fmt.code_lt t; have := s.isLt; have := d.isLt; have := a.isLt; unfold Encoding.word32; omega) (by have := g.isLt; have := Fmt.code_lt t; have := s.isLt; have := d.isLt; have := a.isLt; unfold Encoding.word32; omega)
theorem mmag (g : Fin 8) (t : Fmt) (s : Fin 16) (d : Fin 4) (a : Fin 16) : Statement (.mmag g t s d a) :=
  long rfl (by have := g.isLt; have := Fmt.code_lt t; have := s.isLt; have := d.isLt; have := a.isLt; unfold Encoding.word32; omega) (by have := g.isLt; have := Fmt.code_lt t; have := s.isLt; have := d.isLt; have := a.isLt; unfold Encoding.word32; omega)
theorem mrot (g : Fin 8) (t : Fmt) (s : Fin 16) (d : Fin 4) (a : Fin 16) : Statement (.mrot g t s d a) :=
  long rfl (by have := g.isLt; have := Fmt.code_lt t; have := s.isLt; have := d.isLt; have := a.isLt; unfold Encoding.word32; omega) (by have := g.isLt; have := Fmt.code_lt t; have := s.isLt; have := d.isLt; have := a.isLt; unfold Encoding.word32; omega)
theorem mrotBuf (g : Fin 8) (t : Fmt) (s : Fin 16) (d : Fin 4) : Statement (.mrotBuf g t s d) :=
  long rfl (by have := g.isLt; have := Fmt.code_lt t; have := s.isLt; have := d.isLt; unfold Encoding.word32; omega) (by have := g.isLt; have := Fmt.code_lt t; have := s.isLt; have := d.isLt; unfold Encoding.word32; omega)
theorem floado (g : Fin 8) (d : Fin 32) (a : Fin 32) (b : Fin 32) : Statement (.floado g d a b) :=
  long rfl (by have := g.isLt; have := d.isLt; have := a.isLt; have := b.isLt; unfold Encoding.word32; omega) (by have := g.isLt; have := d.isLt; have := a.isLt; have := b.isLt; unfold Encoding.word32; omega)
theorem fstart (g : Fin 8) (d : Fin 32) (a : Fin 32) (b : Fin 32) : Statement (.fstart g d a b) :=
  long rfl (by have := g.isLt; have := d.isLt; have := a.isLt; have := b.isLt; unfold Encoding.word32; omega) (by have := g.isLt; have := d.isLt; have := a.isLt; have := b.isLt; unfold Encoding.word32; omega)
theorem fcmd (g : Fin 8) (d : Fin 32) (a : Fin 32) (b : Fin 32) : Statement (.fcmd g d a b) :=
  long rfl (by have := g.isLt; have := d.isLt; have := a.isLt; have := b.isLt; unfold Encoding.word32; omega) (by have := g.isLt; have := d.isLt; have := a.isLt; have := b.isLt; unfold Encoding.word32; omega)
theorem fred (g : Fin 8) (d : Fin 32) (a : Fin 32) : Statement (.fred g d a) :=
  long rfl (by have := g.isLt; have := d.isLt; have := a.isLt; unfold Encoding.word32; omega) (by have := g.isLt; have := d.isLt; have := a.isLt; unfold Encoding.word32; omega)
theorem fopen (n : Fin 16) (a : Fin 16) : Statement (.fopen n a) :=
  long rfl (by have := n.isLt; have := a.isLt; unfold Encoding.word32; omega) (by have := n.isLt; have := a.isLt; unfold Encoding.word32; omega)
theorem facc (n : Fin 16) (a : Fin 16) : Statement (.facc n a) :=
  long rfl (by have := n.isLt; have := a.isLt; unfold Encoding.word32; omega) (by have := n.isLt; have := a.isLt; unfold Encoding.word32; omega)
theorem faccf (n : Fin 16) (a : Fin 16) : Statement (.faccf n a) :=
  long rfl (by have := n.isLt; have := a.isLt; unfold Encoding.word32; omega) (by have := n.isLt; have := a.isLt; unfold Encoding.word32; omega)
theorem frdo (n : Fin 16) (d : Fin 16) (a : Fin 16) : Statement (.frdo n d a) :=
  long rfl (by have := n.isLt; have := d.isLt; have := a.isLt; unfold Encoding.word32; omega) (by have := n.isLt; have := d.isLt; have := a.isLt; unfold Encoding.word32; omega)
theorem fclra (n : Fin 16) : Statement (.fclra n) :=
  long rfl (by have := n.isLt; unfold Encoding.word32; omega) (by have := n.isLt; unfold Encoding.word32; omega)
theorem freply (a : Fin 16) : Statement (.freply a) :=
  long rfl (by have := a.isLt; unfold Encoding.word32; omega) (by have := a.isLt; unfold Encoding.word32; omega)
theorem fwaitc (d : Fin 16) : Statement (.fwaitc d) :=
  long rfl (by have := d.isLt; unfold Encoding.word32; omega) (by have := d.isLt; unfold Encoding.word32; omega)
theorem send (g : Fin 8) (d : Fin 8) : Statement (.send g d) :=
  long rfl (by have := g.isLt; have := d.isLt; unfold Encoding.word32; omega) (by have := g.isLt; have := d.isLt; unfold Encoding.word32; omega)
theorem sendt (g : Fin 8) : Statement (.sendt g) :=
  long rfl (by have := g.isLt; unfold Encoding.word32; omega) (by have := g.isLt; unfold Encoding.word32; omega)
theorem sendr (g : Fin 8) (d : Fin 8) : Statement (.sendr g d) :=
  long rfl (by have := g.isLt; have := d.isLt; unfold Encoding.word32; omega) (by have := g.isLt; have := d.isLt; unfold Encoding.word32; omega)
theorem bclr (g : Fin 8) : Statement (.bclr g) :=
  long rfl (by have := g.isLt; unfold Encoding.word32; omega) (by have := g.isLt; unfold Encoding.word32; omega)
theorem dqpush (g : Fin 8) (d : Fin 8) : Statement (.dqpush g d) :=
  long rfl (by have := g.isLt; have := d.isLt; unfold Encoding.word32; omega) (by have := g.isLt; have := d.isLt; unfold Encoding.word32; omega)
theorem dqpop (g : Fin 8) (d : Fin 8) : Statement (.dqpop g d) :=
  long rfl (by have := g.isLt; have := d.isLt; unfold Encoding.word32; omega) (by have := g.isLt; have := d.isLt; unfold Encoding.word32; omega)
theorem dqsteal (g : Fin 8) (d : Fin 8) (a : Fin 32) : Statement (.dqsteal g d a) :=
  long rfl (by have := g.isLt; have := d.isLt; have := a.isLt; unfold Encoding.word32; omega) (by have := g.isLt; have := d.isLt; have := a.isLt; unfold Encoding.word32; omega)
theorem hodnew (g : Fin 8) (d : Fin 32) (a : Fin 32) : Statement (.hodnew g d a) :=
  long rfl (by have := g.isLt; have := d.isLt; have := a.isLt; unfold Encoding.word32; omega) (by have := g.isLt; have := d.isLt; have := a.isLt; unfold Encoding.word32; omega)
theorem hodnext (g : Fin 8) (a : Fin 32) : Statement (.hodnext g a) :=
  long rfl (by have := g.isLt; have := a.isLt; unfold Encoding.word32; omega) (by have := g.isLt; have := a.isLt; unfold Encoding.word32; omega)
theorem hodset (g : Fin 8) (n : Fin 8) (a : Fin 32) (b : Fin 32) : Statement (.hodset g n a b) :=
  long rfl (by have := g.isLt; have := n.isLt; have := a.isLt; have := b.isLt; unfold Encoding.word32; omega) (by have := g.isLt; have := n.isLt; have := a.isLt; have := b.isLt; unfold Encoding.word32; omega)
theorem hodins (g : Fin 8) (n : Fin 8) (a : Fin 32) (b : Fin 32) : Statement (.hodins g n a b) :=
  long rfl (by have := g.isLt; have := n.isLt; have := a.isLt; have := b.isLt; unfold Encoding.word32; omega) (by have := g.isLt; have := n.isLt; have := a.isLt; have := b.isLt; unfold Encoding.word32; omega)
theorem hoddel (g : Fin 8) (n : Fin 8) (a : Fin 32) : Statement (.hoddel g n a) :=
  long rfl (by have := g.isLt; have := n.isLt; have := a.isLt; unfold Encoding.word32; omega) (by have := g.isLt; have := n.isLt; have := a.isLt; unfold Encoding.word32; omega)
theorem hodget (g : Fin 8) (s : Fin 16) (d : Fin 32) (a : Fin 32) : Statement (.hodget g s d a) :=
  long rfl (by have := g.isLt; have := s.isLt; have := d.isLt; have := a.isLt; unfold Encoding.word32; omega) (by have := g.isLt; have := s.isLt; have := d.isLt; have := a.isLt; unfold Encoding.word32; omega)
theorem hodpark (g : Fin 8) (a : Fin 32) (b : Fin 32) : Statement (.hodpark g a b) :=
  long rfl (by have := g.isLt; have := a.isLt; have := b.isLt; unfold Encoding.word32; omega) (by have := g.isLt; have := a.isLt; have := b.isLt; unfold Encoding.word32; omega)
theorem hodresume (g : Fin 8) (a : Fin 32) : Statement (.hodresume g a) :=
  long rfl (by have := g.isLt; have := a.isLt; unfold Encoding.word32; omega) (by have := g.isLt; have := a.isLt; unfold Encoding.word32; omega)
theorem br (g : Fin 8) (f : Bool) (o : BitVec 16) : Statement (.br g f o) :=
  long rfl (by have := g.isLt; have := Bool.toNat_lt f; have := o.isLt; unfold Encoding.word32; omega) (by have := g.isLt; have := Bool.toNat_lt f; have := o.isLt; unfold Encoding.word32; omega)
theorem call (g : Fin 8) (o : BitVec 16) (d : Fin 32) : Statement (.call g o d) :=
  long rfl (by have := g.isLt; have := o.isLt; have := d.isLt; unfold Encoding.word32; omega) (by have := g.isLt; have := o.isLt; have := d.isLt; unfold Encoding.word32; omega)
theorem loop (g : Fin 8) (o : BitVec 12) (a : Fin 32) : Statement (.loop g o a) :=
  long rfl (by have := g.isLt; have := o.isLt; have := a.isLt; unfold Encoding.word32; omega) (by have := g.isLt; have := o.isLt; have := a.isLt; unfold Encoding.word32; omega)
theorem endAct (g : Fin 8) : Statement (.endAct g) :=
  long rfl (by have := g.isLt; unfold Encoding.word32; omega) (by have := g.isLt; unfold Encoding.word32; omega)
theorem yield (g : Fin 8) : Statement (.yield g) :=
  long rfl (by have := g.isLt; unfold Encoding.word32; omega) (by have := g.isLt; unfold Encoding.word32; omega)
theorem brk (g : Fin 8) : Statement (.brk g) :=
  long rfl (by have := g.isLt; unfold Encoding.word32; omega) (by have := g.isLt; unfold Encoding.word32; omega)
theorem calli (g : Fin 8) (d : Fin 32) (a : Fin 32) : Statement (.calli g d a) :=
  long rfl (by have := g.isLt; have := d.isLt; have := a.isLt; unfold Encoding.word32; omega) (by have := g.isLt; have := d.isLt; have := a.isLt; unfold Encoding.word32; omega)
theorem jr (g : Fin 8) (a : Fin 32) : Statement (.jr g a) :=
  long rfl (by have := g.isLt; have := a.isLt; unfold Encoding.word32; omega) (by have := g.isLt; have := a.isLt; unfold Encoding.word32; omega)
theorem ret (g : Fin 8) (a : Fin 32) : Statement (.ret g a) :=
  long rfl (by have := g.isLt; have := a.isLt; unfold Encoding.word32; omega) (by have := g.isLt; have := a.isLt; unfold Encoding.word32; omega)
theorem gang (g : Fin 8) (a : Fin 32) : Statement (.gang g a) :=
  long rfl (by have := g.isLt; have := a.isLt; unfold Encoding.word32; omega) (by have := g.isLt; have := a.isLt; unfold Encoding.word32; omega)
theorem ungang (g : Fin 8) : Statement (.ungang g) :=
  long rfl (by have := g.isLt; unfold Encoding.word32; omega) (by have := g.isLt; unfold Encoding.word32; omega)
theorem follow (g : Fin 8) : Statement (.follow g) :=
  long rfl (by have := g.isLt; unfold Encoding.word32; omega) (by have := g.isLt; unfold Encoding.word32; omega)
theorem detach (g : Fin 8) : Statement (.detach g) :=
  long rfl (by have := g.isLt; unfold Encoding.word32; omega) (by have := g.isLt; unfold Encoding.word32; omega)
theorem rejoin (g : Fin 8) (n : Fin 16) : Statement (.rejoin g n) :=
  long rfl (by have := g.isLt; have := n.isLt; unfold Encoding.word32; omega) (by have := g.isLt; have := n.isLt; unfold Encoding.word32; omega)
theorem trap (g : Fin 8) (a : Fin 32) : Statement (.trap g a) :=
  long rfl (by have := g.isLt; have := a.isLt; unfold Encoding.word32; omega) (by have := g.isLt; have := a.isLt; unfold Encoding.word32; omega)
theorem svc (g : Fin 8) (a : Fin 32) : Statement (.svc g a) :=
  long rfl (by have := g.isLt; have := a.isLt; unfold Encoding.word32; omega) (by have := g.isLt; have := a.isLt; unfold Encoding.word32; omega)
theorem rte (g : Fin 8) (a : Fin 32) : Statement (.rte g a) :=
  long rfl (by have := g.isLt; have := a.isLt; unfold Encoding.word32; omega) (by have := g.isLt; have := a.isLt; unfold Encoding.word32; omega)
theorem resume (g : Fin 8) (d : Fin 32) (a : Fin 32) (b : Fin 32) : Statement (.resume g d a b) :=
  long rfl (by have := g.isLt; have := d.isLt; have := a.isLt; have := b.isLt; unfold Encoding.word32; omega) (by have := g.isLt; have := d.isLt; have := a.isLt; have := b.isLt; unfold Encoding.word32; omega)
theorem preempt (g : Fin 8) (d : Fin 32) (a : Fin 32) (b : Fin 32) : Statement (.preempt g d a b) :=
  long rfl (by have := g.isLt; have := d.isLt; have := a.isLt; have := b.isLt; unfold Encoding.word32; omega) (by have := g.isLt; have := d.isLt; have := a.isLt; have := b.isLt; unfold Encoding.word32; omega)
theorem waitx (g : Fin 8) (d : Fin 32) (a : Fin 32) : Statement (.waitx g d a) :=
  long rfl (by have := g.isLt; have := d.isLt; have := a.isLt; unfold Encoding.word32; omega) (by have := g.isLt; have := d.isLt; have := a.isLt; unfold Encoding.word32; omega)
theorem tlbinv (g : Fin 8) (c : Scope) (d : Fin 32) (a : Fin 32) (b : Fin 32) : Statement (.tlbinv g c d a b) :=
  long rfl (by have := g.isLt; have := Scope.code_lt c; have := d.isLt; have := a.isLt; have := b.isLt; unfold Encoding.word32; omega) (by have := g.isLt; have := Scope.code_lt c; have := d.isLt; have := a.isLt; have := b.isLt; unfold Encoding.word32; omega)
theorem rtset (g : Fin 8) (a : Fin 32) (b : Fin 32) : Statement (.rtset g a b) :=
  long rfl (by have := g.isLt; have := a.isLt; have := b.isLt; unfold Encoding.word32; omega) (by have := g.isLt; have := a.isLt; have := b.isLt; unfold Encoding.word32; omega)
theorem ctxsave (g : Fin 8) (d : Fin 32) (a : Fin 32) (b : Fin 32) : Statement (.ctxsave g d a b) :=
  long rfl (by have := g.isLt; have := d.isLt; have := a.isLt; have := b.isLt; unfold Encoding.word32; omega) (by have := g.isLt; have := d.isLt; have := a.isLt; have := b.isLt; unfold Encoding.word32; omega)
theorem ctxload (g : Fin 8) (d : Fin 32) (a : Fin 32) (b : Fin 32) : Statement (.ctxload g d a b) :=
  long rfl (by have := g.isLt; have := d.isLt; have := a.isLt; have := b.isLt; unfold Encoding.word32; omega) (by have := g.isLt; have := d.isLt; have := a.isLt; have := b.isLt; unfold Encoding.word32; omega)
theorem immx (x : BitVec 27) : Statement (.immx x) :=
  long rfl (by have := x.isLt; omega) (by omega)
theorem movC (p : Fin 8) (q : Fin 8) : Statement (.movC p q) :=
  short rfl (by have := p.isLt; have := q.isLt; unfold Encoding.word16; omega) (by have := p.isLt; have := q.isLt; unfold Encoding.word16; omega)
theorem addC (p : Fin 8) (q : Fin 8) : Statement (.addC p q) :=
  short rfl (by have := p.isLt; have := q.isLt; unfold Encoding.word16; omega) (by have := p.isLt; have := q.isLt; unfold Encoding.word16; omega)
theorem subC (p : Fin 8) (q : Fin 8) : Statement (.subC p q) :=
  short rfl (by have := p.isLt; have := q.isLt; unfold Encoding.word16; omega) (by have := p.isLt; have := q.isLt; unfold Encoding.word16; omega)
theorem andC (p : Fin 8) (q : Fin 8) : Statement (.andC p q) :=
  short rfl (by have := p.isLt; have := q.isLt; unfold Encoding.word16; omega) (by have := p.isLt; have := q.isLt; unfold Encoding.word16; omega)
theorem orC (p : Fin 8) (q : Fin 8) : Statement (.orC p q) :=
  short rfl (by have := p.isLt; have := q.isLt; unfold Encoding.word16; omega) (by have := p.isLt; have := q.isLt; unfold Encoding.word16; omega)
theorem xorC (p : Fin 8) (q : Fin 8) : Statement (.xorC p q) :=
  short rfl (by have := p.isLt; have := q.isLt; unfold Encoding.word16; omega) (by have := p.isLt; have := q.isLt; unfold Encoding.word16; omega)
theorem shlC (p : Fin 8) (q : Fin 8) : Statement (.shlC p q) :=
  short rfl (by have := p.isLt; have := q.isLt; unfold Encoding.word16; omega) (by have := p.isLt; have := q.isLt; unfold Encoding.word16; omega)
theorem shrC (p : Fin 8) (q : Fin 8) : Statement (.shrC p q) :=
  short rfl (by have := p.isLt; have := q.isLt; unfold Encoding.word16; omega) (by have := p.isLt; have := q.isLt; unfold Encoding.word16; omega)
theorem sarC (p : Fin 8) (q : Fin 8) : Statement (.sarC p q) :=
  short rfl (by have := p.isLt; have := q.isLt; unfold Encoding.word16; omega) (by have := p.isLt; have := q.isLt; unfold Encoding.word16; omega)
theorem mulC (p : Fin 8) (q : Fin 8) : Statement (.mulC p q) :=
  short rfl (by have := p.isLt; have := q.isLt; unfold Encoding.word16; omega) (by have := p.isLt; have := q.isLt; unfold Encoding.word16; omega)
theorem addiC (i : BitVec 5) (p : Fin 8) (q : Fin 8) : Statement (.addiC i p q) :=
  short rfl (by have := i.isLt; have := p.isLt; have := q.isLt; unfold Encoding.word16; omega) (by have := i.isLt; have := p.isLt; have := q.isLt; unfold Encoding.word16; omega)
theorem moviC (i : BitVec 8) (p : Fin 8) : Statement (.moviC i p) :=
  short rfl (by have := i.isLt; have := p.isLt; unfold Encoding.word16; omega) (by have := i.isLt; have := p.isLt; unfold Encoding.word16; omega)
theorem ld64C (i : Fin 32) (p : Fin 8) (q : Fin 8) : Statement (.ld64C i p q) :=
  short rfl (by have := i.isLt; have := p.isLt; have := q.isLt; unfold Encoding.word16; omega) (by have := i.isLt; have := p.isLt; have := q.isLt; unfold Encoding.word16; omega)
theorem st64C (i : Fin 32) (p : Fin 8) (q : Fin 8) : Statement (.st64C i p q) :=
  short rfl (by have := i.isLt; have := p.isLt; have := q.isLt; unfold Encoding.word16; omega) (by have := i.isLt; have := p.isLt; have := q.isLt; unfold Encoding.word16; omega)
theorem ld32C (i : Fin 32) (p : Fin 8) (q : Fin 8) : Statement (.ld32C i p q) :=
  short rfl (by have := i.isLt; have := p.isLt; have := q.isLt; unfold Encoding.word16; omega) (by have := i.isLt; have := p.isLt; have := q.isLt; unfold Encoding.word16; omega)
theorem st32C (i : Fin 32) (p : Fin 8) (q : Fin 8) : Statement (.st32C i p q) :=
  short rfl (by have := i.isLt; have := p.isLt; have := q.isLt; unfold Encoding.word16; omega) (by have := i.isLt; have := p.isLt; have := q.isLt; unfold Encoding.word16; omega)
theorem brC (o : BitVec 11) : Statement (.brC o) :=
  short rfl (by have := o.isLt; unfold Encoding.word16; omega) (by have := o.isLt; unfold Encoding.word16; omega)
theorem shliC (i : Fin 32) (p : Fin 8) (q : Fin 8) : Statement (.shliC i p q) :=
  short rfl (by have := i.isLt; have := p.isLt; have := q.isLt; unfold Encoding.word16; omega) (by have := i.isLt; have := p.isLt; have := q.isLt; unfold Encoding.word16; omega)
theorem vaddC (p : Fin 8) (q : Fin 8) : Statement (.vaddC p q) :=
  short rfl (by have := p.isLt; have := q.isLt; unfold Encoding.word16; omega) (by have := p.isLt; have := q.isLt; unfold Encoding.word16; omega)
theorem vsubC (p : Fin 8) (q : Fin 8) : Statement (.vsubC p q) :=
  short rfl (by have := p.isLt; have := q.isLt; unfold Encoding.word16; omega) (by have := p.isLt; have := q.isLt; unfold Encoding.word16; omega)
theorem vmulC (p : Fin 8) (q : Fin 8) : Statement (.vmulC p q) :=
  short rfl (by have := p.isLt; have := q.isLt; unfold Encoding.word16; omega) (by have := p.isLt; have := q.isLt; unfold Encoding.word16; omega)
theorem vmovC (p : Fin 8) (q : Fin 8) : Statement (.vmovC p q) :=
  short rfl (by have := p.isLt; have := q.isLt; unfold Encoding.word16; omega) (by have := p.isLt; have := q.isLt; unfold Encoding.word16; omega)
theorem vclrC (p : Fin 8) : Statement (.vclrC p) :=
  short rfl (by have := p.isLt; unfold Encoding.word16; omega) (by have := p.isLt; unfold Encoding.word16; omega)
theorem vldC (i : Fin 32) (p : Fin 8) (q : Fin 8) : Statement (.vldC i p q) :=
  short rfl (by have := i.isLt; have := p.isLt; have := q.isLt; unfold Encoding.word16; omega) (by have := i.isLt; have := p.isLt; have := q.isLt; unfold Encoding.word16; omega)
theorem vstC (i : Fin 32) (p : Fin 8) (q : Fin 8) : Statement (.vstC i p q) :=
  short rfl (by have := i.isLt; have := p.isLt; have := q.isLt; unfold Encoding.word16; omega) (by have := i.isLt; have := p.isLt; have := q.isLt; unfold Encoding.word16; omega)
theorem jrC (p : Fin 8) : Statement (.jrC p) :=
  short rfl (by have := p.isLt; unfold Encoding.word16; omega) (by have := p.isLt; unfold Encoding.word16; omega)
theorem loopC (u : Fin 256) (p : Fin 8) : Statement (.loopC u p) :=
  short rfl (by have := u.isLt; have := p.isLt; unfold Encoding.word16; omega) (by have := u.isLt; have := p.isLt; unfold Encoding.word16; omega)
theorem nop : Statement .nop :=
  long rfl (by unfold Encoding.word32; omega) (by unfold Encoding.word32; omega)
theorem nopC : Statement .nopC :=
  short rfl (by unfold Encoding.word16; omega) (by unfold Encoding.word16; omega)
theorem endC : Statement .endC :=
  short rfl (by unfold Encoding.word16; omega) (by unfold Encoding.word16; omega)
theorem yieldC : Statement .yieldC :=
  short rfl (by unfold Encoding.word16; omega) (by unfold Encoding.word16; omega)
theorem brkC : Statement .brkC :=
  short rfl (by unfold Encoding.word16; omega) (by unfold Encoding.word16; omega)
theorem launch (p : Nat) : Statement (.launch p) := event rfl
theorem launchStart (p : Nat) : Statement (.launchStart p) := event rfl
theorem launchEnd (p : Nat) : Statement (.launchEnd p) := event rfl
theorem launchAbort (p : Nat) : Statement (.launchAbort p) := event rfl
theorem launchQuiescence (l : Nat) : Statement (.launchQuiescence l) := event rfl
theorem dispatch (c : Nat) : Statement (.dispatch c) := event rfl
theorem idleStep (c : Nat) : Statement (.idleStep c) := event rfl
theorem dequeStealRequest (r : Nat) : Statement (.dequeStealRequest r) := event rfl
theorem strandAction (p : Nat) : Statement (.strandAction p) := event rfl
theorem strandResume (r : Nat) : Statement (.strandResume r) := event rfl
theorem strandEnd (r : Nat) : Statement (.strandEnd r) := event rfl
theorem preemptCore (r : Nat) : Statement (.preemptCore r) := event rfl
theorem preemptSave (r : Nat) : Statement (.preemptSave r) := event rfl
theorem preemptResume (r : Nat) : Statement (.preemptResume r) := event rfl
theorem messageArrival (f : Nat) : Statement (.messageArrival f) := event rfl
theorem spillRedelivery (c : Nat) (p : Nat) : Statement (.spillRedelivery c p) := event rfl
theorem spillRetry (c : Nat) (p : Nat) : Statement (.spillRetry c p) := event rfl
theorem counterMessage (f : Nat) : Statement (.counterMessage f) := event rfl
theorem lateMessage (f : Nat) : Statement (.lateMessage f) := event rfl
theorem allowanceReturn (r : Nat) : Statement (.allowanceReturn r) := event rfl
theorem wakeUp (r : Nat) : Statement (.wakeUp r) := event rfl
theorem footingReply (r : Nat) : Statement (.footingReply r) := event rfl
theorem flitHop (r : Nat) : Statement (.flitHop r) := event rfl
theorem flitInjection (f : Nat) : Statement (.flitInjection f) := event rfl
theorem injectionStarvation (r : Nat) : Statement (.injectionStarvation r) := event rfl
theorem flitEjection (f : Nat) : Statement (.flitEjection f) := event rfl
theorem mortarInit (r : Nat) : Statement (.mortarInit r) := event rfl
theorem mortarRead (r : Nat) : Statement (.mortarRead r) := event rfl
theorem mortarCancel (r : Nat) : Statement (.mortarCancel r) := event rfl
theorem ctrAdd (r : Nat) : Statement (.ctrAdd r) := event rfl
theorem ctrFadd (r : Nat) : Statement (.ctrFadd r) := event rfl
theorem ctrWait (r : Nat) : Statement (.ctrWait r) := event rfl
theorem ctrChunk (r : Nat) : Statement (.ctrChunk r) := event rfl
theorem barArrive (r : Nat) : Statement (.barArrive r) := event rfl
theorem barAwait (r : Nat) : Statement (.barAwait r) := event rfl
theorem barWaitp (r : Nat) : Statement (.barWaitp r) := event rfl
theorem lockAcq (r : Nat) : Statement (.lockAcq r) := event rfl
theorem lockTry (r : Nat) : Statement (.lockTry r) := event rfl
theorem lockRel (r : Nat) : Statement (.lockRel r) := event rfl
theorem queEnq (r : Nat) : Statement (.queEnq r) := event rfl
theorem queTenq (r : Nat) : Statement (.queTenq r) := event rfl
theorem queEnqr (r : Nat) : Statement (.queEnqr r) := event rfl
theorem queTenqr (r : Nat) : Statement (.queTenqr r) := event rfl
theorem queCommit (r : Nat) : Statement (.queCommit r) := event rfl
theorem queDeq (r : Nat) : Statement (.queDeq r) := event rfl
theorem queTdeq (r : Nat) : Statement (.queTdeq r) := event rfl
theorem queDeqr (r : Nat) : Statement (.queDeqr r) := event rfl
theorem queTdeqr (r : Nat) : Statement (.queTdeqr r) := event rfl
theorem queFree (r : Nat) : Statement (.queFree r) := event rfl
theorem condWait (r : Nat) : Statement (.condWait r) := event rfl
theorem condSig (r : Nat) : Statement (.condSig r) := event rfl
theorem condBcast (r : Nat) : Statement (.condBcast r) := event rfl
theorem condReacquire (r : Nat) : Statement (.condReacquire r) := event rfl
theorem mortarUnsupported (r : Nat) : Statement (.mortarUnsupported r) := event rfl
theorem copyActivate (c : Nat) : Statement (.copyActivate c) := event rfl
theorem copyBurst (c : Nat) : Statement (.copyBurst c) := event rfl
theorem copyComplete (c : Nat) : Statement (.copyComplete c) := event rfl
theorem copyCompletionMessage (c : Nat) : Statement (.copyCompletionMessage c) := event rfl
theorem cpxPairing (c : Nat) : Statement (.cpxPairing c) := event rfl
theorem copyResume (r : Nat) : Statement (.copyResume r) := event rfl
theorem copyAbort (r : Nat) : Statement (.copyAbort r) := event rfl
theorem fredCheck (k : Nat) : Statement (.fredCheck k) := event rfl
theorem fredChunk (k : Nat) : Statement (.fredChunk k) := event rfl
theorem fredCompletion (k : Nat) : Statement (.fredCompletion k) := event rfl
theorem fredResume (r : Nat) : Statement (.fredResume r) := event rfl
theorem fredAbort (r : Nat) : Statement (.fredAbort r) := event rfl
theorem footingCommandResume (r : Nat) : Statement (.footingCommandResume r) := event rfl
theorem footingCommandAbort (r : Nat) : Statement (.footingCommandAbort r) := event rfl
theorem floadoCommand (u : Nat) : Statement (.floadoCommand u) := event rfl
theorem fstartCommand (u : Nat) : Statement (.fstartCommand u) := event rfl
theorem fcmdCommand (u : Nat) : Statement (.fcmdCommand u) := event rfl
theorem baseDieTranslation (k : Nat) (dom : Nat) (va : Nat) : Statement (.baseDieTranslation k dom va) := event rfl
theorem setstFill (c : Nat) : Statement (.setstFill c) := event rfl
theorem relstDrain (c : Nat) : Statement (.relstDrain c) := event rfl
theorem bankDrainEnd (c : Nat) (k : Nat) : Statement (.bankDrainEnd c k) := event rfl
theorem aclrExecute (c : Nat) : Statement (.aclrExecute c) := event rfl
theorem mmaExecute (c : Nat) : Statement (.mmaExecute c) := event rfl
theorem mmagJoint (c : Nat) : Statement (.mmagJoint c) := event rfl
theorem mrotJoint (c : Nat) : Statement (.mrotJoint c) := event rfl
theorem astExecute (c : Nat) : Statement (.astExecute c) := event rfl
theorem aldExecute (c : Nat) : Statement (.aldExecute c) := event rfl
theorem gangJoint (c : Nat) : Statement (.gangJoint c) := event rfl
theorem ungangJoint (c : Nat) : Statement (.ungangJoint c) := event rfl
theorem followJoint (c : Nat) (n : Nat) : Statement (.followJoint c n) := event rfl
theorem rejoinJoint (c : Nat) (n : Nat) : Statement (.rejoinJoint c n) := event rfl
theorem hodPull (c : Nat) : Statement (.hodPull c) := event rfl
theorem hodAck (r : Nat) : Statement (.hodAck r) := event rfl
theorem pageWalk (c : Nat) (va : Nat) : Statement (.pageWalk c va) := event rfl
theorem shootdownArrival (r : Nat) (g : Nat) : Statement (.shootdownArrival r g) := event rfl
theorem shootdownAck (r : Nat) : Statement (.shootdownAck r) := event rfl
theorem l2Access (r : Nat) (lo : Nat) (n : Nat) : Statement (.l2Access r lo n) := event rfl
theorem remoteLineFill (r : Nat) : Statement (.remoteLineFill r) := event rfl
theorem foAccess (r : Nat) (lo : Nat) (n : Nat) : Statement (.foAccess r lo n) := event rfl
theorem prefetch (g : Nat) (pa : Nat) : Statement (.prefetch g pa) := event rfl
theorem scratchpadAccess (r : Nat) (lo : Nat) (n : Nat) : Statement (.scratchpadAccess r lo n) := event rfl
theorem scrub (c : Nat) : Statement (.scrub c) := event rfl
theorem errorWindowEnd (g : Nat) : Statement (.errorWindowEnd g) := event rfl
theorem watchdogStall (l : Nat) : Statement (.watchdogStall l) := event rfl
theorem replay (g : Nat) : Statement (.replay g) := event rfl
theorem quarantineMove (p : Nat) (h : Nat) : Statement (.quarantineMove p h) := event rfl
theorem remoteLoad (r : Nat) : Statement (.remoteLoad r) := event rfl
theorem remoteStore (r : Nat) : Statement (.remoteStore r) := event rfl
theorem remoteAtadd (r : Nat) : Statement (.remoteAtadd r) := event rfl
theorem remoteAtand (r : Nat) : Statement (.remoteAtand r) := event rfl
theorem remoteAtor (r : Nat) : Statement (.remoteAtor r) := event rfl
theorem remoteAtxor (r : Nat) : Statement (.remoteAtxor r) := event rfl
theorem remoteAtmin (r : Nat) : Statement (.remoteAtmin r) := event rfl
theorem remoteAtmax (r : Nat) : Statement (.remoteAtmax r) := event rfl
theorem remoteAtminn (r : Nat) : Statement (.remoteAtminn r) := event rfl
theorem remoteAtmaxn (r : Nat) : Statement (.remoteAtmaxn r) := event rfl
theorem remoteAtswp (r : Nat) : Statement (.remoteAtswp r) := event rfl
theorem remoteAtcas (r : Nat) : Statement (.remoteAtcas r) := event rfl
theorem remoteAtfaddFp64 (r : Nat) : Statement (.remoteAtfaddFp64 r) := event rfl
theorem remoteAtfaddFp32 (r : Nat) : Statement (.remoteAtfaddFp32 r) := event rfl
theorem remoteMortar (r : Nat) : Statement (.remoteMortar r) := event rfl
theorem remoteRcWriteback (g : Nat) (line : Nat) : Statement (.remoteRcWriteback g line) := event rfl
theorem remoteMessage (f : Nat) : Statement (.remoteMessage f) := event rfl
theorem remoteCounter (f : Nat) : Statement (.remoteCounter f) := event rfl
theorem linkTraining (g : Nat) (peer : Nat) (cap : Word) : Statement (.linkTraining g peer cap) := event rfl
theorem laneFailure (port : Nat) (lane : Nat) (bank : Bool) : Statement (.laneFailure port lane bank) := event rfl
theorem cxlMemAccess (g : Nat) (addr : Nat) (bytes : Nat) (data : Option Nat) : Statement (.cxlMemAccess g addr bytes data) := event rfl
theorem inboxApertureWrite (p : Nat) (off : Nat) (bytes : Nat) (data : Nat) : Statement (.inboxApertureWrite p off bytes data) := event rfl
theorem powerDown (g : Nat) : Statement (.powerDown g) := event rfl
theorem selfRefresh (g : Nat) : Statement (.selfRefresh g) := event rfl
theorem powerExit (g : Nat) : Statement (.powerExit g) := event rfl
theorem footingStopTimeout (u : Nat) : Statement (.footingStopTimeout u) := event rfl
theorem channelWake (u : Nat) : Statement (.channelWake u) := event rfl
theorem modeRemoteCache (g : Nat) : Statement (.modeRemoteCache g) := event rfl
theorem modeL2Partitioning (g : Nat) : Statement (.modeL2Partitioning g) := event rfl
theorem modeL2PartitionClass (g : Nat) : Statement (.modeL2PartitionClass g) := event rfl
theorem modeCimPower (g : Nat) : Statement (.modeCimPower g) := event rfl
theorem modeWaitListCap (g : Nat) : Statement (.modeWaitListCap g) := event rfl
theorem modeAgingInterval (g : Nat) : Statement (.modeAgingInterval g) := event rfl
theorem modeVcReservePolicy (g : Nat) : Statement (.modeVcReservePolicy g) := event rfl
theorem modeChangeApply (g : Nat) : Statement (.modeChangeApply g) := event rfl
theorem portReserveApply (port : Nat) : Statement (.portReserveApply port) := event rfl
theorem clockThrottle (g : Nat) (watts : Nat) : Statement (.clockThrottle g watts) := event rfl
theorem packageReset (g : Nat) (good : Nat) : Statement (.packageReset g good) := event rfl
theorem spdmGetVersion (g : Nat) (req : Nat) : Statement (.spdmGetVersion g req) := event rfl
theorem spdmGetCapabilities (g : Nat) (req : Nat) : Statement (.spdmGetCapabilities g req) := event rfl
theorem spdmNegotiateAlgorithms (g : Nat) (req : Nat) : Statement (.spdmNegotiateAlgorithms g req) := event rfl
theorem spdmGetDigests (g : Nat) (req : Nat) : Statement (.spdmGetDigests g req) := event rfl
theorem spdmGetCertificate (g : Nat) (req : Nat) : Statement (.spdmGetCertificate g req) := event rfl
theorem spdmChallenge (g : Nat) (req : Nat) : Statement (.spdmChallenge g req) := event rfl
theorem spdmGetMeasurements (g : Nat) (req : Nat) : Statement (.spdmGetMeasurements g req) := event rfl
theorem spdmUnsupportedRequest (g : Nat) (req : Nat) : Statement (.spdmUnsupportedRequest g req) := event rfl
theorem controlRegisterWrite (g : Nat) (addr : Nat) (v : Word) : Statement (.controlRegisterWrite g addr v) := event rfl
theorem illegalInstruction (detail : Nat) : Statement (.illegalInstruction detail) := event rfl
theorem fetchFault (addr : Word) : Statement (.fetchFault addr) := event rfl
theorem loadReply (r : Nat) : Statement (.loadReply r) := event rfl
theorem mortarReply (r : Nat) : Statement (.mortarReply r) := event rfl
theorem condReleaseReply (r : Nat) : Statement (.condReleaseReply r) := event rfl
theorem bulkTransfer (r : Nat) : Statement (.bulkTransfer r) := event rfl

end Sys2Proof.Laws.Encoding
end

