-- ==== Sys2Proof/Tests/Slice0.lean ====
section
/-! SUPPORT. The model's own tests: ill-formed instructions that are refused, words that decode as the spec's worked encodings say, results that
the spec works out, and for each statement with hypotheses a state and operands that meet them. Each test cites its source. -/

namespace Sys2Proof.Tests

set_option Elab.async false

open Sys2Proof.Machine

/-! ### Small states -/

/-- Core 0 of launch 1, domain 1; its strand 0 executes an activation in frame 0. Its TLB maps three pages of 64 KiB: 0x10000 in ordinary
memory, 0x20000 with M, and 0x30000 with FO. -/
def demoCore : Core :=
  let k : Core :=
    { Core.init with
      launch := 1, domain := 1, frames := 1,
      tlb := [⟨1, 1, 16, 0x100000, 0x1D⟩, ⟨1, 2, 16, 0x110000, 0x2D⟩, ⟨1, 3, 16, 0x120000, 0x9D⟩] }
  k.setStrand 0 { Strand.init with mode := .running }
/-- Launch 1 on the whole array of package 0, with eight frames a core and eight park entries (R344–R346). -/
def demoPacket : Msg :=
  ⟨BitVec.ofNat 64 (3 * 2 ^ 60 + 0x140), BitVec.ofNat 64 (2 ^ 56 + 2 ^ 40), 0x7D00B400, 0x10000, BitVec.ofNat 64 (4 * 2 ^ 36), 0, 0x10400, BitVec.ofNat 64 (8 * 2 ^ 56 + 0x11000)⟩
def demoLaunch : Launch := { Launch.queuedOf 1 0 demoPacket with state := .running }
/-- A state with that core and launch and memory in which w(r) of its frame holds the r-th number of the list. -/
def demoWith (k : Core) (ws : List Nat) : State :=
  let s : State := { State.reset with cores := [(0, k)], launches := [demoLaunch], cur := .strand 0 0, fresh := 100 }
  ws.zipIdx.foldl (fun s x => s.write (regAddr 0 0 x.2) 8 x.1) s
def demo (ws : List Nat) : State := demoWith demoCore ws
/-- Unit 0 runs on a command of core 0 that names banks 0 and 1, with blocks 0 to 31 granted; w(r) in lane order as above. -/
def footing (ws : List Nat) : State :=
  let cmd : UCmd := ⟨.fstart, 0, 0, 0, 9, 1, 1, 0, 0x30000, 0⟩
  let s : State := { State.reset with
    cur := .unit 0, units := [(0, { Unit.init with run := .running, owner := some (1, 0), grants := [(0, 32)], cmd := some cmd })] }
  ws.zipIdx.foldl (fun s x => s.setW x.2 (BitVec.ofNat 64 x.1)) s
/-- An address of the scratch window, which needs no page table (R25). -/
def window : Nat := 0xFFFFFFE0000000
/-- −1 as a word. -/
def minusOne : Nat := 2 ^ 64 - 1

theorem ready_of {s : State} {g : Nat} {r w : List Nat}
    (h : (decide (s.cur ≠ .none) && s.predicate g && !s.waitsFor w && !s.waitsFor r && (s.badReg r).isNone) = true) : s.ready g r w := by
  simp only [Bool.and_eq_true, decide_eq_true_eq, Bool.not_eq_true', Option.isNone_iff_eq_none] at h
  exact ⟨h.1.1.1.1, h.1.1.1.2, h.1.1.2, h.1.2, h.2⟩
theorem strandReady_of {s : State} {c n g : Nat} {r w : List Nat}
    (h : (decide (s.cur = .strand c n) && s.predicate g && !s.waitsFor w && !s.waitsFor r && (s.badReg r).isNone) = true) :
    s.strandReady c n g r w := by
  simp only [Bool.and_eq_true, decide_eq_true_eq, Bool.not_eq_true', Option.isNone_iff_eq_none] at h
  exact ⟨h.1.1.1.1, h.1.1.1.2, h.1.1.2, h.1.2, h.2⟩
/-- A check that comes to an answer comes to some state and answer. -/
def isOk {α ε β : Type} (x : α × Except ε β) : Bool := match x.2 with | .ok _ => true | .error _ => false
theorem ok_of {α ε β : Type} {x : α × Except ε β} (h : isOk x = true) : ∃ u p, x = (u, .ok p) := by
  obtain ⟨u, r⟩ := x
  cases r with
  | error e => exact absurd h (by simp [isOk])
  | ok p => exact ⟨u, p, rfl⟩
theorem error_of {α ε β : Type} {x : α × Except ε β} (h : isOk x = false) : ∃ u e, x = (u, .error e) := by
  obtain ⟨u, r⟩ := x
  cases r with
  | error e => exact ⟨u, e, rfl⟩
  | ok p => exact absurd h (by simp [isOk])
/-- The pieces of an instruction pass the checks of R222 with some places. -/
theorem passes_of {s : State} {c n : Nat} {u : Use} {op : AccOp} {sync : Bool} {ws : List Want}
    (h : isOk (checkWants s c n u op sync ws) = true) : ∃ t ps, s.passes c n u op sync ws t ps := ok_of h

/-! ### Witnesses: scalar instructions -/

theorem witness_RegisterArithmetic : (demo [0, 6, 7]).ready 0 [1, 2] [3] ∧ (footing [0, 6, 7]).ready 0 [1, 2] [3] :=
  ⟨ready_of (by decide +kernel), ready_of (by decide +kernel)⟩
/-- A divisor that is not zero, −1 among them, and zero on a strand and on a footing core (R242). -/
theorem witness_Division :
    ((demo [0, 6, minusOne]).ready 0 [1, 2] [3] ∧ ((demo [0, 6, minusOne]).correctRegs [1, 2]).w 2 ≠ 0) ∧
    ((demo [0, 6, 0]).ready 0 [1, 2] [3] ∧ ((demo [0, 6, 0]).correctRegs [1, 2]).w 2 = 0 ∧ (demo [0, 6, 0]).cur = .strand 0 0) ∧
    ((footing [0, 6, 0]).ready 0 [1, 2] [3] ∧ ((footing [0, 6, 0]).correctRegs [1, 2]).w 2 = 0 ∧ (footing [0, 6, 0]).cur = .unit 0) :=
  ⟨⟨ready_of (by decide +kernel), by decide +kernel⟩, ⟨ready_of (by decide +kernel), by decide +kernel, rfl⟩, ready_of (by decide +kernel), by decide +kernel, rfl⟩
theorem witness_OneOperandForms : (demo [0, 6]).ready 0 [1] [3] ∧ (footing [0, 6]).ready 0 [1] [3] :=
  ⟨ready_of (by decide +kernel), ready_of (by decide +kernel)⟩
theorem witness_ImmediateForms : (demo [0, 6]).ready 0 [1] [3] ∧ (demo []).ready 0 [] [3] := ⟨ready_of (by decide +kernel), ready_of (by decide +kernel)⟩
theorem witness_Compares :
    Cond.ltn.inCmp = true ∧ (demo [0, 6, 7]).ready 0 [1, 2] (flagReg (demo [0, 6, 7]) 3) ∧
    (footing [0, 6, 7]).ready 0 [1, 2] (flagReg (footing [0, 6, 7]) 3) := ⟨rfl, ready_of (by decide +kernel), ready_of (by decide +kernel)⟩
/-- The least and the greatest sum that keep the tag (R252), a tag whose fields PFMT reads, and both values of a selector. -/
theorem witness_PointerAndMaskForms :
    (demo [0, 1, minusOne]).strandReady 0 0 0 [1, 2] [3] ∧ (demo [0, 1, minusOne]).strandReady 0 0 0 [1] [3] ∧
    (0 : Int) ≤ (((demo [0, 1, minusOne]).w 1).toNat % 2 ^ 56 : Nat) + ((demo [0, 1, minusOne]).w 2).toInt ∧
    (((demo [0, 2 ^ 56 - 1, 0]).w 1).toNat % 2 ^ 56 : Nat) + ((demo [0, 2 ^ 56 - 1, 0]).w 2).toInt < (2 : Int) ^ 56 ∧
    (((demo [0, 1, minusOne - 1]).w 1).toNat % 2 ^ 56 : Nat) + ((demo [0, 1, minusOne - 1]).w 2).toInt < (0 : Int) ∧
    (let p := (demo [0, 0x6300000000000000]).w 1
     p.toNat / 2 ^ 59 < 16 ∧ p.toNat / 2 ^ 59 ∉ [0, 5, 15]) ∧
    (let p := (demo [0, 0x0100000000000000]).w 1
     p.toNat / 2 ^ 56 % 8 ≠ 0 ∧ p.toNat / 2 ^ 59 ∈ [0, 5, 15]) ∧
    (demo []).predicate 0 = true ∧ (demo []).predicate 1 = false ∧
    ((demo []).k 0).getLsbD 0 = true ∧ ((demo []).k 1).getLsbD 0 = false :=
  ⟨strandReady_of (by decide +kernel), strandReady_of (by decide +kernel), by decide +kernel, by decide +kernel, by decide +kernel, by decide +kernel, by decide +kernel, by decide +kernel, by decide +kernel,
    by decide +kernel, by decide +kernel⟩
theorem witness_SpecialRegisters :
    (demo [0, 6]).strandReady 0 0 0 [1] [1] ∧ flagsOutstanding (demo [0, 6]) 0 0 = false ∧ dequeBusy (demo [0, 6]) 0 = false ∧
    scaledLoads (demo [0, 6]) 0 0 = false ∧ (demo [0, 6]).me.mbad.getLsbD 7 = false ∧ (demo [0, 6]).me.busyV.getLsbD 15 = false :=
  ⟨strandReady_of (by decide +kernel), by decide +kernel, by decide +kernel, by decide +kernel, by decide +kernel, by decide +kernel⟩
theorem witness_ShortScalarForms :
    (demo [0, 0, 0, 0, 0, 0, 0, 0, 5, 6]).ready 0 [8, 9] [8] ∧ (demo [0, 0, 0, 0, 0, 0, 0, 0, 5, 6]).ready 0 [8, 15] [8] :=
  ⟨ready_of (by decide +kernel), ready_of (by decide +kernel)⟩

/-! ### Witnesses: the memory path -/

/-- w4 holds an address of the own scratchpad's data, and w9 too for the 16-bit forms. -/
def loads : State := demo [0, 7, 0, 0, window + 0x18000, 0, 0, 0, 0, window + 0x18000]
theorem witness_LoadsIssue :
    loads.strandReady 0 0 0 [4] [1, 2] ∧ loads.strandReady 0 0 0 [9] [8] ∧
    (∃ u ps, (loads.correctRegs [4]).passes 0 0 .load .load false [⟨effAddr (loads.w 4) 0, 8, 0, 0, 0⟩] u ps) ∧
    (∃ u ps, (loads.correctRegs [4]).passes 0 0 .load .load false [⟨effAddr (loads.w 4) 4, 4, 0, 0, 0⟩] u ps) ∧
    (∃ u ps, (loads.correctRegs [4]).passes 0 0 .load .load false [⟨effAddr (loads.w 4) 0, 16, 0, 0, 0⟩] u ps) ∧
    (∃ u ps, (loads.correctRegs [4]).passes 0 0 .load .load true [⟨effAddr (loads.w 4) 0, 8, 0, 0, 0⟩] u ps) ∧
    (∃ u ps, (loads.correctRegs [9]).passes 0 0 .load .load false [⟨effAddr (loads.w 9) (8 * 31 : Nat), 8, 0, 0, 0⟩] u ps) ∧
    (∃ u ps, (loads.correctRegs [9]).passes 0 0 .load .load false [⟨effAddr (loads.w 9) (4 * 31 : Nat), 4, 0, 0, 0⟩] u ps) :=
  ⟨strandReady_of (by decide +kernel), strandReady_of (by decide +kernel), passes_of (by decide +kernel), passes_of (by decide +kernel), passes_of (by decide +kernel),
    passes_of (by decide +kernel), passes_of (by decide +kernel), passes_of (by decide +kernel)⟩
theorem witness_StoresIssue :
    loads.strandReady 0 0 0 [4, 2, 3] [] ∧ loads.strandReady 0 0 0 [9, 8] [] ∧
    (∃ u ps, (loads.correctRegs [4, 2]).passes 0 0 .store .store false [⟨effAddr (loads.w 4) 0, 8, 0, 0, 0⟩] u ps) ∧
    (∃ u ps, (loads.correctRegs [4, 2, 3]).passes 0 0 .store .store false [⟨effAddr (loads.w 4) 0, 16, 0, 0, 0⟩] u ps) ∧
    (∃ u ps, (loads.correctRegs [4, 2]).passes 0 0 .store .store true [⟨effAddr (loads.w 4) 0, 8, 0, 0, 0⟩] u ps) ∧
    (∃ u ps, (loads.correctRegs [4]).passes 0 0 .store .store false [⟨effAddr (loads.w 4) 0, 64, 0, 1, 0⟩] u ps) ∧
    (∃ u ps, (loads.correctRegs [9, 8]).passes 0 0 .store .store false [⟨effAddr (loads.w 9) (8 * 31 : Nat), 8, 0, 0, 0⟩] u ps) ∧
    (∃ u ps, (loads.correctRegs [9, 8]).passes 0 0 .store .store false [⟨effAddr (loads.w 9) (4 * 31 : Nat), 4, 0, 0, 0⟩] u ps) :=
  ⟨strandReady_of (by decide +kernel), strandReady_of (by decide +kernel), passes_of (by decide +kernel), passes_of (by decide +kernel), passes_of (by decide +kernel),
    passes_of (by decide +kernel), passes_of (by decide +kernel), passes_of (by decide +kernel)⟩
theorem witness_AtomicsIssue :
    loads.strandReady 0 0 0 [4, 1, 2] [2] ∧
    (∃ u ps, (loads.correctRegs [4, 1]).passes 0 0 .atomic (.atomic 2) true [⟨effAddr (loads.w 4) 0, 8, 7, 0, 0⟩] u ps) ∧
    (∃ u ps, (loads.correctRegs [4, 1, 2]).passes 0 0 .atomic (.atomic 11) true [⟨effAddr (loads.w 4) 0, 8, 7, 0, 0⟩] u ps) ∧
    (∃ u ps, (loads.correctRegs [4, 1]).passes 0 0 .atomic (.atomic 13) true [⟨effAddr (loads.w 4) 0, 4, 7, 0, 0⟩] u ps) :=
  ⟨strandReady_of (by decide +kernel), passes_of (by decide +kernel), passes_of (by decide +kernel), passes_of (by decide +kernel)⟩
theorem witness_AccessInFlight : (demo []).cur = .strand 0 0 ∧ ((demo []).core 0).replay = none := by decide +kernel
/-- One piece of an access in flight. -/
def piece (pa n : Nat) (p : Place) : Piece := ⟨0x10000, pa, n, p, decide (p = .fo), 0x1122334455667788, 0, 0, 0, false⟩
/-- An access of strand 0 of core 0 with one piece. -/
def access (op : AccOp) (p : Piece) (blocking : Bool) : Acc :=
  ⟨7, 0, 0, 0, 1, op, [p], false, .strand, .none, blocking, 4, 0, false, .w 3 8 true, 0, 0, none, 7⟩
/-- The state with that access in flight. -/
def flying (op : AccOp) (p : Piece) (blocking : Bool) : State := { demo [] with accs := [access op p blocking] }
theorem witness_PiecesArePerformed :
    (∀ x ∈ [(Place.pad, 0x6000018000), (.fo, 0x120000), (.l2, 0x100000)],
      (flying .load (piece x.2 8 x.1) false).acc? 7 = some (access .load (piece x.2 8 x.1) false) ∧
      pieceReady (flying .load (piece x.2 8 x.1) false) (access .load (piece x.2 8 x.1) false) 0 (piece x.2 8 x.1) = true) ∧
    channelReady (flying .load (piece 0x120000 8 .fo) false) 1 7 (piece 0x120000 8 .fo) = true ∧
    (∀ x ∈ [(Place.pad, 0x6000018000), (.fo, 0x120000), (.l2, 0x100000)], let p := piece x.2 8 x.1
      let a := access .load p false
      let v := releaseFor (flying .load p false) a
      portRefuses v a p = none ∧ v.poisonMet false p.pa p.n = none) ∧
    isHbm 0x5FFFFFFFC0 = true ∧ paPkg 0x5FFFFFFFC0 = 0 ∧
    (((trainOn (demo []) 1 0x5FFFFFFFC0).die (dieOfSlice (homeSlice 0x5FFFFFFFC0))).trained.find? (fun t =>
      decide (t.1 = 0x5FFFFFFFC0 / 65536))) = some (0x5FFFFFFFC0 / 65536, 1) := by decide +kernel
/-- An atomic with a new value and one without (R230), in ordinary memory. -/
theorem witness_AccessEffect :
    inPad 0x100000 = false ∧ (piece 0x100000 8 .l2).place ≠ .pad ∧ (demo []).poisonedAt 0x100000 8 = none ∧ atomicNew 2 0 1 0 = some 1 ∧ atomicNew 11 1 5 2 = none ∧
    (demo []).admits 0x100000 .system (partyOf 0 0) = true := by decide +kernel
/-- A load of 8 bytes that was performed, with and without its strand waiting. -/
theorem witness_LoadReplies :
    ∀ b ∈ [true, false], let p := { piece 0x100000 8 .l2 with done := true, got := 5 }
      (flying .load p b).acc? 7 = some (access .load p b) ∧ p.done = true ∧ p.place ≠ .remote ∧ (access .load p b).refused = none ∧
      (access .load p b).dest = .w 3 8 true ∧ rspStopped (flying .load p b) 0 = false ∧ ((flying .load p b).strand 0 0).act = 0 ∧
      ((flying .load p b).strand 0 0).mode ≠ .free := by
  decide
/-- A misaligned address, and an address that no table maps. -/
theorem witness_AccessTraps : 0x10001 % 2 ≠ 0 ∧ 0x40000 % 8 = 0 ∧ ∃ t r, translateFor (demo []) 0 1 0x40000 .load = (t, .error r) ∧ r.cause ≠ 0x0A :=
  ⟨by decide +kernel, by decide +kernel, _, _, rfl, by decide +kernel⟩
theorem witness_Fences :
    (loads.strandReady 0 0 0 [4] [2] ∧ loadsOutstanding loads 0 0 = false ∧
      (commandsBefore loads 0 (loads.strand 0 0).act loads.fresh).any (·.accesses) = false ∧ remoteDone (loads.correctRegs [4]) 0 0 = true) ∧
    (∃ u ps, (loads.correctRegs [4]).passes 0 0 .load .load false [⟨effAddr (loads.w 4) 0, 1, 0, 0, 0⟩] u ps) ∧
    (∃ u ps, (loads.correctRegs [4]).passes 0 0 .store .store false
      ((List.range 32).map (fun i => ⟨(effAddr (loads.w 4) 0 + 64 * i) % 2 ^ 56, 64, 0, 0, i⟩)) u ps ∧ ∃ p ∈ ps, p.place = .pad) ∧
    (∃ u ps, ((demo [0, 0, 0, 0, 0x10000]).correctRegs [4]).passes 0 0 .store .store false
      ((List.range 32).map (fun i => ⟨(0x10000 + 64 * i) % 2 ^ 56, 64, 0, 0, i⟩)) u ps ∧ ∀ p ∈ ps, p.place ≠ .pad) :=
  ⟨⟨strandReady_of (by decide +kernel), by decide +kernel, by decide +kernel, by decide +kernel⟩, passes_of (by decide +kernel), ⟨_, _, rfl, by decide +kernel⟩, _, _, rfl, by decide +kernel⟩

/-! ### Witnesses: mortar objects -/

/-- An object from its type and fields: offset, bytes, value. -/
def object (type : Nat) (fs : List (Nat × Nat × Nat)) : Nat := fs.foldl (fun o f => setHodField o f.1 f.2.1 f.2.2) type
/-- A request of strand 0 of core 0 for the object at 0x110000. -/
def request (op : Nat) (arg : Word) (data : Nat) : MReq :=
  ⟨7, .strand 0 0, 0, op, .core, .none, 0x110000, 1, arg, data, 0x100000, 16, 0x1D, 0, false, false, 0, 1⟩
/-- The state with an object there and that request on its way. -/
def asked (op obj : Nat) (arg : Word) (data : Nat) : State :=
  { (demo []).write 0x110000 64 obj with mreqs := [request op arg data] }
theorem homeReady_of {s : State} {id op type : Nat} {q : MReq}
    (h : decide (s.req? id op false = some q ∧ q.ready s = true ∧ q.frees = false ∧ (homeState s q).admits q.line q.scope q.party = true ∧
      (homeState s q).poisonedAt q.line 64 = none ∧ 1 ≤ objType (objAt (homeState s q) q.line) ∧
      objType (objAt (homeState s q) q.line) ≤ 5 ∧ (type = 0 ∨ objType (objAt (homeState s q) q.line) = type)) = true) :
    s.homeReady id op type q := by unfold State.homeReady; exact of_decide_eq_true h

theorem witness_MortarRequests :
    (demo [0, 0, 0, 0, 0x20000]).strandReady 0 0 0 [4, 1, 2] [2, 3, 4] ∧ ((demo [0, 0, 0, 0, 0x20000]).strand 0 0).busyV = 0 ∧
    ((demo [0, 0, 0, 0, 0x20000]).strand 0 0).audit = false ∧ effAddr ((demo [0, 0, 0, 0, 0x20000]).w 4) 0 % 64 = 0 ∧
    (∃ u p, translateFor ((demo [0, 0, 0, 0, 0x20000]).correctRegs [4, 1]) 0 1 0x20000 .mortar = (u, .ok p)) ∧
    (∃ u p, initArg 1 0 0 (demo [0, 0, 0, 0, 0x20000]) = (u, .ok p)) :=
  ⟨strandReady_of (by decide +kernel), by decide +kernel, by decide +kernel, by decide +kernel, ok_of (by decide +kernel), ok_of (by decide +kernel)⟩
/-- A counter at 5 of 8, a barrier of 2 with 2 pending in phase 3, a free and a held lock, and a condition. -/
def counter : Nat := object 1 [(8, 8, 5), (16, 8, 8), (24, 4, 1), (28, 4, 1), (32, 8, 1)]
def barrier : Nat := object 2 [(8, 4, 3), (12, 4, 2), (16, 4, 2)]
def heldLock : Nat := object 3 [(8, 4, 1)]
/-- A held lock with the next ticket, 1, waiting. -/
def awaited : State :=
  { asked 0x32 (object 3 [(8, 4, 2)]) 0 0 with
    slices := [(homeSlice 0x110000, { Slice.init with waits := [⟨0, 1, { request 0x30 0 0 with id := 8 }⟩] })] }
/-- Thresholds at, below and above the value, and arrival counts of zero, below, at and above the pending count; CANCEL of all, by a selector,
and by words that are none. -/
theorem witness_MortarOperations :
    (asked 0x00 3 0 1).homeReady 7 0x00 0 (request 0x00 0 1) ∧ (asked 0x01 3 0 0).homeReady 7 0x01 0 (request 0x01 0 0) ∧
    (∀ a ∈ [0, 1, 2, 2 ^ 39 + 1], (asked 0x02 3 (BitVec.ofNat 64 a) 0).homeReady 7 0x02 0 (request 0x02 (BitVec.ofNat 64 a) 0)) ∧
    (∀ op ∈ [0x10, 0x11, 0x12, 0x13], (asked op counter 5 0).homeReady 7 op 1 (request op 5 0)) ∧
    (request 0x12 5 0).arg.toInt ≤ (BitVec.ofNat 64 (hodField counter 8 8)).toInt ∧
    (BitVec.ofNat 64 (hodField counter 8 8)).toInt < (request 0x12 6 0).arg.toInt ∧
    nextChunk counter = some (5, 3) ∧ nextChunk (setHodField counter 8 8 8) = none ∧
    (∀ op ∈ [0x20, 0x21, 0x22], ∀ a ∈ [0, 1, 2, 3],
      (asked op barrier (BitVec.ofNat 64 a) 0).homeReady 7 op 2 (request op (BitVec.ofNat 64 a) 0)) ∧
    0 < (request 0x20 1 0).arg.toNat ∧ (request 0x20 1 0).arg.toNat < hodField barrier 16 4 ∧ (2 : Nat) = hodField barrier 16 4 ∧
    passed barrier 2 = true ∧ passed barrier 3 = false ∧
    (∀ op ∈ [0x30, 0x31, 0x32], (asked op 3 0 0).homeReady 7 op 3 (request op 0 0) ∧
      (asked op heldLock 0 0).homeReady 7 op 3 (request op 0 0)) ∧
    hodField 3 8 4 = hodField 3 12 4 ∧ hodField heldLock 8 4 ≠ hodField heldLock 12 4 ∧ waitsOn (asked 0x32 heldLock 0 0) 0x110000 = [] ∧
    (∀ op ∈ [0x50, 0x51, 0x52], (asked op 5 0 0).homeReady 7 op 5 (request op 0 0)) ∧
    freeWait (asked 0x12 counter 6 0) 0x110000 = some 0 ∧
    (awaited.homeReady 7 0x32 3 (request 0x32 0 0) ∧
      (let u := lineState (homeState awaited (request 0x32 0 0)) (request 0x32 0 0)
       ((waitsOn u 0x110000).find? (fun e => decide (e.ticket = (0 + 1) % 2 ^ 32))).isSome = true)) :=
  ⟨homeReady_of (by decide +kernel), homeReady_of (by decide +kernel), fun a h => homeReady_of (by revert a; decide +kernel), fun op h => homeReady_of (by revert op; decide +kernel), by decide +kernel,
    by decide +kernel, by decide +kernel, by decide +kernel, fun op h a h' => homeReady_of (by revert op a; decide +kernel), by decide +kernel, by decide +kernel, by decide +kernel, by decide +kernel, by decide +kernel,
    fun op h => ⟨homeReady_of (by revert op; decide +kernel), homeReady_of (by revert op; decide +kernel)⟩, by decide +kernel, by decide +kernel, by decide +kernel,
    fun op h => homeReady_of (by revert op; decide +kernel), by decide +kernel, homeReady_of (by decide +kernel), by decide +kernel⟩
/-- INIT of type 0, of a good and of a bad barrier, on a free line (R90). -/
theorem witness_MortarInit :
    (asked 0 0 0 0).req? 7 0 false = some (request 0 0 0) ∧ (request 0 0 0).ready (asked 0 0 0 0) = true ∧
    waitsOn (asked 0 0 0 0) 0x110000 = [] ∧ waitsOn awaited 0x110000 ≠ [] ∧ objType (objAt (asked 0 0 0 0) 0x110000) = 0 ∧
    initObj (asked 0 0 0 0) (request 0 0 (object 2 [(12, 4, 1)])) ≠ none ∧ initObj (asked 0 0 0 0) (request 0 0 2) = none ∧
    (asked 0 0 0 2).admits 0x110000 .core (partyOf 0 0) = true := by decide +kernel
/-- A queue of 2 slots of 8 bytes: empty, with one entry, and full; and with an index reserved or claimed. -/
def queue (head claim tail resv : Nat) : Nat :=
  object 4 [(8, 5, 0x100000), (14, 4, head), (18, 4, claim), (22, 4, tail), (26, 4, resv), (30, 1, 1), (31, 1, 3)]
theorem witness_QueueOperations :
    (∀ op ∈ [0x40, 0x41, 0x42, 0x43, 0x44, 0x45, 0x46, 0x47, 0x48, 0x49],
      (asked op (queue 0 0 1 1) 1 0).homeReady 7 op 4 (request op 1 0)) ∧
    (∀ x ∈ [(0x40, queue 0 0 2 2, (8 : Word)), (0x41, queue 0 0 2 2, 8), (0x40, queue 0 0 1 1, 0), (0x41, queue 0 0 1 1, 9), (0x42, queue 0 0 2 2, 0),
        (0x43, queue 0 0 2 2, 0), (0x44, queue 0 0 0 1, 0), (0x45, queue 0 0 0 0, 0), (0x46, queue 0 0 0 0, 0), (0x47, queue 0 0 0 0, 0),
        (0x48, queue 0 0 0 0, 0), (0x49, queue 0 1 1 1, 0)], (asked x.1 x.2.1 x.2.2 0).homeReady 7 x.1 4 (request x.1 x.2.2 0)) ∧
    (idxSub (queResv (queue 0 0 1 1)) (queTail (queue 0 0 1 1)) ≤ idxSub 1 (queTail (queue 0 0 1 1)) ∧
      idxSub (queClaim (queue 0 0 1 1)) (queHead (queue 0 0 1 1)) ≤ idxSub 1 (queHead (queue 0 0 1 1))) ∧
    hasRoom (queue 0 0 1 1) = true ∧ hasRoom (queue 0 0 2 2) = false ∧ hasWork (queue 0 0 1 1) = true ∧ hasWork (queue 0 0 0 0) = false ∧
    moved (queue 0 0 1 1) = 8 ∧ (∃ v o b i, dequeue (asked 0x45 (queue 0 0 1 1) 1 0) (request 0x45 1 0) (queue 0 0 1 1) = (v, some (o, b, i))) ∧
    idxSub 0 0 < idxSub 1 0 ∧ bit (hodField (queue 0 0 0 1) 32 8) 0 = false ∧ bit (hodField (queue 0 1 1 1) 40 8) 0 = false :=
  ⟨fun op h => homeReady_of (by revert op; decide +kernel), fun x h => homeReady_of (by revert x; decide +kernel), by decide +kernel,
    by decide +kernel, by decide +kernel, by decide +kernel, by decide +kernel, by decide +kernel, ⟨_, _, _, _, rfl⟩, by decide +kernel,
    by decide +kernel, by decide +kernel⟩
/-- A counter at 5 with two parked waiters, for 5 and for 6. -/
theorem witness_CounterWakes :
    let w (i : Nat) (arg : Word) : WaitEnt := ⟨i, 0, { request 0x12 arg 0 with id := 8 + i }⟩
    let s : State := { asked 0x10 counter 1 0 with slices := [(homeSlice 0x110000, { Slice.init with waits := [w 0 5, w 1 6] })] }
    objType counter = 1 ∧ w 0 5 ∈ waitsOn s 0x110000 ∧ w 1 6 ∈ waitsOn s 0x110000 ∧
    (w 0 5).req.arg.toInt ≤ (BitVec.ofNat 64 (hodField counter 8 8)).toInt ∧
    (BitVec.ofNat 64 (hodField counter 8 8)).toInt < (w 1 6).req.arg.toInt := by decide +kernel
/-- A reply of an instruction of strand 0, which waits for it. -/
def answered (op status cause : Nat) (wake : Bool) : State :=
  { (demo []).modStrand 0 0 (fun t => { t with wait := .mortar 7 10 1 0x20000 }) with
    mreps := [⟨7, .strand 0 0, op, status, 5, 6, 9, cause, wake, .core, .none, 0x110000, 0, 1⟩] }
theorem witness_MortarReplies :
    (∀ x ∈ [(0x12, 0, 0, true), (0x13, 255, 0, false), (0x01, 0, 0, false), (0x12, 0, 0x1B, false)],
      let s := answered x.1 x.2.1 x.2.2.1 x.2.2.2
      let p : MRep := ⟨7, .strand 0 0, x.1, x.2.1, 5, 6, 9, x.2.2.1, x.2.2.2, .core, .none, 0x110000, 0, 1⟩
      s.rep? 7 = some p ∧ p.iss.strandOf = some (0, 0) ∧ (s.strand 0 0).wait = .mortar 7 10 1 0x20000 ∧ (s.strand 0 0).mode ≠ .free ∧
      paPkg p.line = corePkg 0 ∧ wakeDiverted s 0 7 = false ∧ rspStopped s 0 = false ∧ (s.core 0).preempted = false ∧ (s.core 0).launch = p.launch ∧ p.status < 256) ∧
    (∀ st ∈ [0, 5], let e : WaitEnt := ⟨0, 0, { request 0x50 0 0 with id := 8 }⟩
     let s : State := { demo [] with
      mreps := [⟨7, .condRel 0x110000 8, 0x32, st, 0, 0, 0, 0, false, .core, .none, 0x110040, 0, 1⟩],
      slices := [(homeSlice 0x110000, { Slice.init with waits := [e] })] }
     (s.mreps.find? (fun p => decide (p.id = 7) && (match p.iss with | .condRel _ _ => true | _ => false))).isSome = true ∧
      (waitsOn s 0x110000).find? (fun e => decide (e.req.id = 8)) = some e ∧ paPkg 0x110040 = paPkg 0x110000) ∧
    (let q : MReq := { request 0x30 0 0 with iss := .condAcq 9 0 0 }
     let s : State := { (demo []).write 0x110000 64 3 with mreqs := [q] }
     s.req? 7 0x30 true = some q ∧ q.ready s = true ∧ (homeState s q).admits q.line q.scope q.party = true ∧
      (homeState s q).poisonedAt q.line 64 = none ∧ objType (objAt (homeState s q) q.line) = 3 ∧ lockNext 3 = lockServing 3) ∧
    (let s := asked 0x7F 3 0 0
     s.mreqs.find? (fun q => decide (q.id = 7) && !mortarCodes.contains q.op) = some (request 0x7F 0 0) ∧ (request 0x7F 0 0).ready s = true) := by
  decide +kernel
/-- A request of package 1 for an object of package 0, which the port of package 0 admits for domain 1 but not for domain 2. -/
theorem witness_MortarReplies_remote :
    let q (dom : Nat) : MReq := { request 0x30 0 0 with iss := .strand 2048 0, from_ := 1, dom := dom }
    let s (dom : Nat) (word : Word) : State := { demo [] with
      mreqs := [q dom], pkgs := [(0, { Pkg.init with torus := (2, 1, 1), word := word }), (1, { Pkg.init with torus := (2, 1, 1) })],
      dies := [(0, { Die.init with roots := [(1, 0x2000)], pkgset := [(1, [0, 1])] }), (1, { Die.init with roots := [(1, 0x2000)], pkgset := [(1, [0, 1])] })] }
    (∀ x ∈ [(1, qk7Word), (1, 0), (2, qk7Word)], (s x.1 x.2).mreqs.find? (fun q => decide (q.id = 7)) = some (q x.1) ∧ (q x.1).admitted = false ∧
      paPkg (q x.1).line ≠ (q x.1).from_ ∧ (q x.1).ordered (s x.1 x.2) = true ∧
      (let u := releaseRemote (s x.1 x.2) (q x.1).chargedTo.1 (q x.1).chargedTo.2 (q x.1).mark (q x.1).relSys
       u.linkDown 1 0 = false ∧ portAdmits u 2048 x.1 1 0x110000 64 true = decide (x.1 = 1) ∧
         u.admits (q x.1).line (q x.1).scope (q x.1).party = true ∧ u.lacks 1 0 (q x.1).feature = decide (x.2 = 0))) := by
  decide +kernel

/-! ### Witnesses: copy engines -/

/-- A request of an operation with CMODE 0 and a length, from 0x10000 to 0x10800. -/
def copying (op len word2 : Nat) : State := demo [0, 0, 0, 0, op * 2 ^ 56 + len, 0x10000, word2, 0]
theorem witness_CopyInstructions :
    (∀ x ∈ [(1, 64, 0x10800), (1, 16777216, 0x10800), (2, 128, 2 ^ 12 + 6)],
      (copying x.1 x.2.1 x.2.2).strandReady 0 0 0 [4, 5, 6, 7] [3] ∧
      (let t := (copying x.1 x.2.1 x.2.2).correctRegs [4, 5, 6, 7]
       copyRefused t 0 x.1 (t.strand 0 0).audit (t.w 4) (t.w 6) (t.w 7) = none ∧ (t.core 0).copy.q.length < 2 ∧
         performedBelow t 0 0 (t.strand 0 0).relMark = true)) ∧
    (let s := (copying 1 64 0x10800)
     let f := queueCopy (queueCopy s 0 0 0 0 0 0) 0 0 0 0 0 0
     f.strandReady 0 0 0 [4, 5, 6, 7] [3] ∧ 2 ≤ ((f.correctRegs [4, 5, 6, 7]).core 0).copy.q.length ∧
       copyRefused (f.correctRegs [4, 5, 6, 7]) 0 1 false (f.w 4) (f.w 6) (f.w 7) = none) :=
  ⟨fun x h => ⟨strandReady_of (by revert x; decide +kernel), by revert x; decide +kernel⟩,
    strandReady_of (by decide +kernel), by decide +kernel, by decide +kernel⟩
/-- The request at the head of core 0's engine: w0, its source, and its words 2 and 3. -/
def copyReq (w0 : Nat) (w1 w2 : Word) (phase : CopyPhase) (cursor : Nat) (paused paired : Bool) : CopyReq :=
  ⟨7, BitVec.ofNat 64 w0, w1, w2, 0, 0, 0, false, 0, phase, cursor, cursor, none, 0, paused, false, 0, paired⟩
def engineWith (q : CopyReq) : State := (demo []).modCopy 0 (fun e => { e with q := [q], allow := 1 })
/-- A copy of 64 bytes between 0x10000 and 0x10800. -/
def copyOf (phase : CopyPhase) (cursor : Nat) (paused : Bool) : CopyReq :=
  copyReq (2 ^ 56 + 64) 0x10000 0x10800 phase cursor paused false
/-- An exchange of 128 bytes of core 0 with core 1 by bit 6 (R113), and core 1's. -/
def exchangeOf (c : Nat) (paired : Bool) : CopyReq :=
  copyReq (2 * 2 ^ 56 + 128) (BitVec.ofNat 64 (scratchVa 0 0x18000 + c * 0x80000)) (2 ^ 12 + 6) .running 0 false paired
theorem witness_CopyEngineSteps :
    (let q := copyOf .queued 0 false
     (engineWith q).activeCopy 0 = some q ∧ performedBelow (engineWith q) 0 0 0 = true ∧ q.clear (engineWith q) 0 = true ∧
       activationRefused ((engineWith q).setCopy 0 { q with phase := .running }) 0 { q with phase := .running } = none) ∧
    (let q := copyReq (2 ^ 56 + 64) (7 * 2 ^ 56) 0x10800 .running 0 false false
     activationRefused (engineWith q) 0 q = some 0x03) ∧
    (let q := copyOf .running 0 false
     (engineWith q).activeCopy 0 = some q ∧ q.plan (engineWith q) 0 = .ok .bytes ∧ q.cursor < q.len ∧ q.inflight = 0) ∧
    (let q := exchangeOf 0 false
     let r := exchangeOf 1 false
     let k : Core := { Core.init with launch := 1, domain := 1 }
     let s : State := ((engineWith q).setCore 1 k).modCopy 1 (fun e => { e with q := [r] })
     s.activeCopy 0 = some q ∧ q.isExchange = true ∧ exWithin q.w2 = true ∧ sameArea s 0 (partnerOf 0 q.w2) = true ∧
       (s.core (partnerOf 0 q.w2)).copy.ended = [] ∧ s.activeCopy (partnerOf 0 q.w2) = some r ∧ r.isExchange = true ∧ r.phase = .running ∧ r.ordinal = q.ordinal ∧
       s.lacks 0 0 7 = false ∧ r.paired = false ∧ r.paused = false ∧ r.aborted = false ∧
       partnerOf (partnerOf 0 q.w2) r.w2 = 0 ∧ q.w2 = r.w2 ∧ q.len = r.len ∧
       fieldOf q.w1 55 0 + coreIdx (partnerOf 0 q.w2) * 0x80000 = fieldOf r.w1 55 0 + coreIdx 0 * 0x80000) ∧
    (engineWith (exchangeOf 0 true)).activeCopy 0 = some (exchangeOf 0 true) ∧
    (copyOf .running 64 false).finished 0 = true ∧
    (engineWith (copyOf .messaging 64 false)).activeCopy 0 = some (copyOf .messaging 64 false) ∧
      0 < ((engineWith (copyOf .messaging 64 false)).core 0).copy.allow ∧
    (∀ a ∈ [0, 1], ∀ b ∈ [true, false],
      let p : Packet := ⟨7, 0x19, a, BitVec.ofNat 64 (2 ^ 36), none⟩
      let s : State := { engineWith (copyOf .running 0 b) with packets := [p] }
      s.packet? 7 = some p ∧ p.sfn = 0x19 ∧ fieldOf p.target 39 36 = 1 ∧ p.action = a ∧
        pausedCopy s p = if b then some (0, copyOf .running 0 true) else none) := by decide +kernel
/-- A finished copy, in a replay and in none. -/
theorem witness_CopyEngineSteps_replay : ∀ b ∈ [true, false],
    let s := (engineWith (copyOf .running 64 false)).modCore 0 (fun k =>
      { k with replay := if b then some ⟨1, 0, 0, [], [], none, false, false⟩ else none })
    s.activeCopy 0 = some (copyOf .running 64 false) ∧ (s.core 0).replay.isSome = b := by decide +kernel
/-- Exchanges of core 0 of packages 0 and 1 by bit 12 (R113, R114). -/
theorem witness_CopyEngineSteps_across :
    let q := copyReq (2 * 2 ^ 56 + 128) 0x10000 0 .running 0 false false
    let k : Core := { demoCore with copy := { demoCore.copy with q := [q] } }
    let s : State := { demo [] with dies := [(0, { Die.init with pkgset := [(1, [0, 1])] })], cores := [(0, k), (2048, k)] }
    s.activeCopy 0 = some q ∧ q.isExchange = true ∧ exWithin q.w2 = false ∧ partnerOf 0 q.w2 = 2048 ∧ s.lacks 0 1 7 = false ∧
      (Table.get [] (s.die (dieKey 0)).pkgset (s.core 0).domain).contains 1 = true ∧ (s.core 2048).copy.ended = [] ∧
      s.activeCopy 2048 = some q ∧ partnerOf 2048 q.w2 = 0 := by decide +kernel
/-- A burst of 64 bytes between two pages of the own package passes its checks. -/
theorem witness_CopyEngineSteps_burst :
    let q := copyOf .running 0 false
    let s := engineWith q
    ∃ s1 s2 s3 s4 pl pd data, q.fromHost = false ∧ translateFor s 0 1 0x10000 .load = (s1, .ok pl) ∧ ownPlace 0 pl.pa = true ∧
      foOpen s1 1 pl = true ∧ burstRefused s1 (s.agent 0) pl.pa 64 false = none ∧ burstRead s1 (s.agent 0) 70 pl 64 = (s2, .ok data) ∧
      CopyPlan.bytes.apply s2 0 data = some data ∧ translateFor s2 0 1 0x10800 .store = (s3, .ok pd) ∧ ownPlace 0 pd.pa = true ∧
      foOpen s3 1 pd = true ∧ burstHeld s3 pd data = false ∧ burstRefused s3 (s2.agent 0) pd.pa data.length true = none ∧
      burstWrite s3 (s2.agent 0) 70 pd data = (s4, none) :=
  ⟨_, _, _, _, _, _, _, by decide +kernel, rfl, by decide +kernel, by decide +kernel, by decide +kernel, rfl, rfl, rfl, by decide +kernel, by decide +kernel,
    by decide +kernel, by decide +kernel, rfl⟩
theorem witness_burst : isHbm 0x100000 = true ∧ isHbm (0x100000 + 4096) = true ∧ paPkg 0x100000 = corePkg 0 ∧
    (0x100000 : Nat) < 2 ^ 53 := by decide +kernel

/-! ### Witnesses: vector instructions -/

theorem vectorsReady_of {s : State} {c n : Nat} {vs : List Nat} (h : (∀ r ∈ vs, (s.strand c n).busyV.getLsbD r = false)) :
    s.vectorsReady c n vs := h
theorem witness_VectorArithmetic : (demo []).cur = .strand 0 0 ∧ (demo []).vectorsReady 0 0 [1, 2, 3] ∧ (demo []).vectorsReady 0 0 [1, 2] :=
  ⟨by decide +kernel, vectorsReady_of (by decide +kernel), vectorsReady_of (by decide +kernel)⟩
theorem witness_VectorMoves :
    (demo [0, 5, 6]).strandReady 0 0 0 [1, 2] [2] ∧ (demo [0, 5, 6]).vectorsReady 0 0 [1, 2, 3] ∧ tableInUse (demo []) 0 = false ∧
    bytesInFlight (demo []) 0 0 (padBase 0 + 0x15400) 1024 = false ∧
    (∀ i, i < 4 → ((demo []).strand 0 0).busyV.getLsbD (12 + i) = false) ∧ Fmt.fp64.size * Fmt.fp64.lanes = 256 ∧
    laneOn ((demo []).k 0) 8 31 = true ∧ laneOn ((demo []).k 1) 8 31 = false :=
  ⟨strandReady_of (by decide +kernel), vectorsReady_of (by decide +kernel), by decide +kernel, by decide +kernel, by decide +kernel, rfl, by decide +kernel, by decide +kernel⟩
/-- The presets decode code 5 and can encode (R156). -/
theorem witness_VectorMoves_tables :
    (((demo []).tableOf 0 (k8Of 0)).get 5).isSome = true ∧ ((demo []).tableOf 0 (k8Of 1)).enc = true := by decide +kernel
/-- w4 holds the window with the tag of FP32 without scales, and w9 too; w10 is 4, a stride. -/
def vectors : State :=
  let a := 8 * Fmt.code .fp32 * 2 ^ 56 + window + 0x18000
  demo [0, 0, 0, 0, a, 0, 0, 0, 0, a, 4]
theorem regPieces_of {x : State × List Piece × Nat × Option (Nat × Nat × Nat)} (h : x.2.2.2.isNone = true) : ∃ u ps j, x = (u, ps, j, none) := by
  obtain ⟨u, ps, j, e⟩ := x
  exact ⟨u, ps, j, by simpa using h⟩
theorem vectorPasses_of {s : State} {c n : Nat} {t : Fmt} {k : Use} {op : AccOp} {p : VPlan} (h : p.ends.isNone = true)
    (hb : p.elems.all (fun e => !byteInFlight s c n e.scale) = true)
    (hp : (match checkWants s c n k op false (p.elems.map (fun e => ⟨e.va, t.size, 0, 0, e.lane⟩)) with
      | (x, .ok _) => isOk (if p.scaled then readScales x (x.strandAgent c n) (p.elems.map (·.scale)) else (x, .ok []))
      | (_, .error _) => false) = true) : ∃ v ps scales, s.vectorPasses c n t k op p v ps scales := by
  generalize hx : checkWants s c n k op false (p.elems.map (fun e => ⟨e.va, t.size, 0, 0, e.lane⟩)) = y at hp
  obtain ⟨x, e | ps⟩ := y
  · exact absurd hp (by simp)
  · obtain ⟨v, l, hv⟩ := ok_of hp
    refine ⟨v, ps, l, by simpa using h, fun _ e he => ?_, x, hx, hv⟩
    simpa using List.all_eq_true.mp hb e he
/-- Pieces that pass their checks, with a property. -/
theorem passesWith_of {s : State} {c n : Nat} {u : Use} {op : AccOp} {ws : List Want} {q : State → List Piece → Bool}
    (h : (match checkWants s c n u op false ws with | (x, .ok ps) => q x ps | (_, .error _) => false) = true) :
    ∃ x ps, s.passes c n u op false ws x ps ∧ q x ps = true := by
  generalize hx : checkWants s c n u op false ws = y at h
  obtain ⟨x, e | ps⟩ := y
  · exact absurd h (by simp)
  · exact ⟨x, ps, hx, h⟩
/-- A store to the own scratchpad does not hold its strand, and one to core 1's does (R224). -/
theorem witness_VectorMemory_held : ∀ k ∈ [0, 1],
    let s : State := { vectors with cores := vectors.cores ++ [(1, demoCore)] }
    let p : VPlan := ⟨[⟨0, window + 0x80000 * k + 0x18000, 0⟩], none, [], false⟩
    ∃ v ps, s.vectorPasses 0 0 .fp32 .store .store p v ps [] ∧ decide (holdsStrand v 0 .store false .none ps = decide (k = 1)) = true := by
  intro k h
  obtain ⟨x, ps, hp, hq⟩ := passesWith_of (s := { vectors with cores := vectors.cores ++ [(1, demoCore)] }) (c := 0) (n := 0) (u := .store)
    (op := .store) (ws := [⟨window + 0x80000 * k + 0x18000, 4, 0, 0, 0⟩])
    (q := fun x ps => decide (holdsStrand x 0 .store false .none ps = decide (k = 1))) (by revert k; decide +kernel)
  exact ⟨x, ps, ⟨rfl, by simp, x, hp, rfl⟩, hq⟩
theorem witness_VectorMemory :
    (vectors.strandReady 0 0 0 [4, 10] [] ∧ vectors.vectorsReady 0 0 [1, 2] ∧ vectors.strandReady 0 0 0 [9] [] ∧ vectors.strandReady 0 0 0 [4] []) ∧
    tagCheck (fieldOf (vectors.w 4) 63 56) .fp32 (vectors.strand 0 0).scb.toNat = .ok false ∧
    tagCheck (fieldOf (vectors.w 9) 63 56) .fp32 (vectors.strand 0 0).scb.toNat = .ok false ∧
    effAddr (vectors.w 4) 0 % 256 = 0 ∧ (vectors.strand 0 0).vresume.toNat < 1 ∧
    (∀ load, ∃ u ps j, regPieces (vectors.correctRegs [4]) 0 0 (effAddr (vectors.w 4) 0) 1 load [0, 1] = (u, ps, j, none)) ∧
    (let s := vectors.modStrand 0 0 (fun t => { t with vresume := 2 })
     s.strandReady 0 0 0 [4] [] ∧ 2 ≤ (s.strand 0 0).vresume.toNat) :=
  ⟨⟨strandReady_of (by decide +kernel), vectorsReady_of (by decide +kernel), strandReady_of (by decide +kernel), strandReady_of (by decide +kernel)⟩,
    by decide +kernel, by decide +kernel, by decide +kernel, by decide +kernel, fun load => regPieces_of (by revert load; decide +kernel),
    strandReady_of (by decide +kernel), by decide +kernel⟩
/-- The plan of a vector access of FP32 from the window on, a distance apart, on every lane, with or without the scales that stand from the window
on, one for eight lanes. -/
def planAt (step : Nat) (scaled : Bool) : VPlan :=
  ⟨(List.range 64).map (fun j => ⟨j, window + 0x18000 + step * j, window + 0x1C000 + j / 8⟩), none, [], scaled⟩
theorem witness_VectorMemory_plans : ∀ step ∈ [0, 4], ∀ scaled ∈ [true, false],
    (∃ u ps scales, (vectors.correctRegs [4]).vectorPasses 0 0 .fp32 .load .load (planAt step scaled) u ps scales) ∧
    (∃ u ps scales, (vectors.correctRegs [4]).vectorPasses 0 0 .fp32 .store .store (planAt step scaled) u ps scales) :=
  fun step h scaled h' =>
    ⟨vectorPasses_of (by revert step scaled; decide +kernel) (by revert step scaled; decide +kernel) (by revert step scaled; decide +kernel),
      vectorPasses_of (by revert step scaled; decide +kernel) (by revert step scaled; decide +kernel) (by revert step scaled; decide +kernel)⟩
/-- Replies to a vector load of 64 elements and to a VLOAD of one register, whose pieces are performed. -/
def vectorReply (dest : AccDest) (blocking : Bool) : State × Acc :=
  let a : Acc := { access .load (piece 0x100000 4 .l2) blocking with
    dest := dest, pieces := (List.range 64).map (fun j => { piece (0x100000 + 4 * j) 4 .l2 with lane := j, got := j, done := true }) }
  ({ demo [] with accs := [a] }, a)
theorem witness_VectorMemory_replies : ∀ d ∈ [AccDest.v 3 .fp32 [] false [], .regs 3 0 1 true none], ∀ b ∈ [true, false],
    let s := (vectorReply d b).1
    let a := (vectorReply d b).2
    s.acc? 7 = some a ∧ a.performed = true ∧ (∀ p ∈ a.pieces, p.place ≠ .remote) ∧ a.refused = none ∧ rspStopped s 0 = false ∧ a.ord = .none ∧ a.dest = d ∧
      a.blocking = b ∧ (s.strand 0 0).act = a.act ∧ (s.strand 0 0).mode ≠ .free ∧ (s.core 0).preempted = false := by decide +kernel

/-! ### Witnesses: matrix commands -/

/-- A tensor map of FP64 of a 1 × 1 matrix in the own scratchpad's data, padded with zeros to a tile of tr × tc (R141). -/
def smallMap (tr tc : Nat) : Nat :=
  setHodField (setHodField (setHodField (setHodField (setHodField (setHodField (setHodField (window + 0x18000) 7 1 (8 * Fmt.code .fp64)) 16 8 8)
    24 4 1) 28 4 1) 40 2 tr) 42 2 tc) 44 1 2
/-- The strand claims tile 0, and entry 5 of the core's table is that map. -/
def matrix (ms : List MCmd) (k : Core → Core) : State :=
  ((demo []).modCore 0 (fun x => k { x with mq := ms })).modStrand 0 0 (fun t => { t with claim := 1 }) |>.write (padBase 0 + 0x15000 + 64 * 5) 64 (smallMap 16 16)
theorem witness_MatrixIssue :
    let s := matrix [] id
    let y := s.strand 0 0
    let filled (m : MCmd) (map : Option Nat) : MCmd :=
      { m with id := s.fresh, strand := 0, act := y.act, actseq := y.actseq, pc := s.firstPc, audit := y.audit, claim := y.claim,
               map := (map.map (fun i => BitVec.ofNat 512 (s.tmap 0 i))).getD 0, fctl := y.fctl }
    let bonded : State := s.modCore 0 (fun k => { k with bond := some 0 })
    s.cur = .strand 0 0 ∧ s.predicate 0 = true ∧ (s.core 0).mq.length < 8 ∧ (∀ m ∈ (s.core 0).mq, m.act = y.act) ∧
    Fmt.fp64.isGated = true ∧ (s.pkg (corePkg 0)).narrow = false ∧ (∀ b ∈ [0, 1], bankAwaited s 0 b = false) ∧
    (∀ op ∈ [MOp.setst, .mma, .ast, .ald], matrixRefused s 0 0 (filled (matrixCmd op .fp64 0 1 false .p64) (some 5)) (some 5) = none) ∧
    (∀ op ∈ [MOp.relst, .aclr], matrixRefused s 0 0 (filled (matrixCmd op .untyped 0 0 false .none) none) none = none) ∧
    (∀ x ∈ [(MOp.mmag, some 5), (.mrot, some 5), (.mrotBuf, none)],
      matrixRefused bonded 0 0 (filled (matrixCmd x.1 .fp64 0 0 false .p64) x.2) x.2 = none) := by decide +kernel
theorem witness_MatrixIssue_gated :
    let s := (demo []).modPkg 0 (fun p => { p with narrow := true })
    s.cur = .strand 0 0 ∧ Fmt.fp64.isGated = true ∧ (s.pkg (corePkg 0)).narrow = true := by decide +kernel
/-- Row 0 of that tile, as VLDT and VSTT of FP64 access it. -/
theorem witness_VectorMemory_tile :
    let s := (matrix [] id).correctRegs [3]
    let map := s.tmap 0 5
    let p := tilePlan map 8 0 false ((List.range 32).filter (fun j => laneOn (s.k 0) 8 j))
    (tmValid map = true ∧ 0 < tmTrows map ∧ tmTcols map ≤ Fmt.fp64.lanes ∧ tmStride map % 8 = 0 ∧
      tagCheck (tmTag map) .fp64 (tmScales map) = .ok false) ∧
    (∃ u ps scales, s.vectorPasses 0 0 .fp64 .load .load p u ps scales) ∧ ∃ u ps scales, s.vectorPasses 0 0 .fp64 .store .store p u ps scales :=
  ⟨by decide +kernel, vectorPasses_of (by decide +kernel) (by decide +kernel) (by decide +kernel),
    vectorPasses_of (by decide +kernel) (by decide +kernel) (by decide +kernel)⟩
/-- A command of strand 0 at the head of the queue, with the map above. -/
def mcmd (op : MOp) (n row : Nat) : MCmd :=
  { matrixCmd op .fp64 0 n false .p64 with id := 7, claim := 1, map := BitVec.ofNat 512 (smallMap 16 16), row := row }
/-- Bank 0 holds a fired slot of FP64, or is in another state. -/
def bankIn (st : BankState) (k : Core) : Core := { k with banks := [(0, { Bank.init with state := st, fmt := .fp64, n := 1 })] }
theorem both_of {α ε β γ : Type} {x : α × Except ε β} {f : α → β → Option γ}
    (h : (match x.2 with | .ok l => (f x.1 l).isSome | .error _ => false) = true) : ∃ u l st, x = (u, .ok l) ∧ f u l = some st := by
  obtain ⟨u, r⟩ := x
  cases r with
  | error e => exact absurd h (by simp)
  | ok l =>
    obtain ⟨st, hs⟩ := Option.isSome_iff_exists.mp h
    exact ⟨u, l, st, rfl, hs⟩
theorem witness_MatrixSteps_setst : ∀ n ∈ [1, 2],
    let m := mcmd .setst n 0
    let s := matrix [m] id
    matrixHead s 0 (fun o => decide (o = .setst)) = some m ∧ spansOpen s 0 (tileSpans m.map.toNat 8 0 0 16 16) = true ∧
    ∃ u l st, mapElems s 0 m false ((List.range (16 * 16)).map (fun q => (0 + q / 16, 0 + q % 16))) = (u, .ok l) ∧
      stageTile (cmdTable u 0 m.t) m.t (m.row * 4096) l ((u.core 0).bank m.d).staged = some st :=
  fun n h => ⟨by revert n; decide +kernel, by revert n; decide +kernel, both_of (by revert n; decide +kernel)⟩
theorem witness_MatrixSteps :
    (∀ b ∈ [BankState.fired, .ordinary], matrixHead (matrix [mcmd .relst 0 0] (bankIn b)) 0 (fun o => decide (o = .relst)) = some (mcmd .relst 0 0) ∧
      (((matrix [mcmd .relst 0 0] (bankIn b)).core 0).bank 0).state = b) ∧
    matrixHead (matrix [mcmd .aclr 0 0] id) 0 (fun o => decide (o = .aclr)) = some (mcmd .aclr 0 0) ∧
    (∀ r ∈ [0, 15], let m := mcmd .mma 0 r
      let s := matrix [m] (bankIn .fired)
      matrixHead s 0 (fun o => decide (o = .mma)) = some m ∧ rowOpen s 0 m r 16 = true ∧ multiplyRefused (s.core 0) m = none ∧
        isOk (readRow (takeMode s 0 m) 0 m r) = true) ∧
    (∀ r ∈ [0, 14], let m := mcmd .ast 0 r
      let s := matrix [m] (fun k => { k with tiles := [(0, { Tile.init with mode := .p64 })] })
      matrixHead s 0 (fun o => decide (o = .ast)) = some m ∧ astAccepts ((s.core 0).tile 0).mode .fp64 = true ∧
        tmTrows m.map.toNat ≤ accDim .p64 ∧ tmTcols m.map.toNat ≤ accDim .p64 ∧ rowOpen s 0 m r 16 = true ∧ tmZpad m.map.toNat = true ∧
        r + 1 < tmTrows m.map.toNat ∧
        isOk (rowPlaces s 0 m (if r = 0 then [(window + 0x18000, 0)] else [])) = true) ∧
    (∀ r ∈ [0, 15], let m := mcmd .ald 0 r
      let s := matrix [m] id
      let v := s.setTile 0 0 { Tile.init with mode := .p64 }
      matrixHead s 0 (fun o => decide (o = .ald)) = some m ∧ ((s.core 0).tile 0).mode ≠ m.mode ∧ rowOpen v 0 m r 16 = true ∧
        isOk (mapElems v 0 m false ((List.range 16).map (fun j => (r, j)))) = true) := by decide +kernel
/-- Two cores of a bond of 2 × 1 at MMAG, and one core in a bond of its own at MROT. -/
theorem witness_MatrixJoints :
    ((((matrix [] (fun k => { k with banks := [(0, { Bank.init with state := .draining })] })).core 0).bank 0).state = .draining ∧
      (((matrix [] (fun k => { k with banks := [(0, { Bank.init with state := .draining })] })).core 0).bank 0).drainEnd ≤ 0) ∧
    (let m := mcmd .mmag 0 0
     let r := 2 ^ 10
     let s := (matrix [m] (fun k => { bankIn .fired k with bond := some r })).setCore 1 { bankIn .fired Core.init with launch := 1, domain := 1, bond := some r, mq := [m] }
     gangHeads s (fun o => decide (o = .mmag)) 0 (courseOf s 0) = some [(0, m), (1, m)] ∧ jointOpen s [(0, m), (1, m)] = true ∧
       (∀ c ∈ [0, 1], multiplyRefused (s.core c) m = none) ∧ rowOpen s 0 m 0 16 = true ∧
       isOk (readRow (takeMode (takeMode s 0 m) 1 m) 0 m 0) = true) ∧
    (∀ f ∈ [false, true], let m := { mcmd .mrot 0 0 with formed := f }
      let s := matrix [m] (fun k => { bankIn .fired k with bond := some 0 })
      gangHeads s MOp.isRot 0 (bondCores s 0) = some [(0, m)] ∧ (f = false → rotating s (bondCores s 0) = none ∧ jointOpen s [(0, m)] = true ∧
        bankAwaited s 0 (s.core 0).inactive = false ∧
        ((s.core 0).shown (s.core 0).inactive = .ordinary ∨ (s.core 0).shown (s.core 0).inactive = .fired))) ∧
    (∀ row ∈ [0, 16], let m := { mcmd .mrot 0 row with formed := true }
      let s := matrix [m] (fun k => { bankIn .fired k with bond := some 0 })
      rotating s (bondCores s 0) = some [(0, m)] ∧ accDim m.mode = 16) := by
  decide +kernel

/-! ### Witnesses: footing -/

theorem witness_FootingIssue :
    let s := demo [0, 0, 0, 0, 0x30000, 5]
    let full : State := s.modUnit 5 (fun t => { t with q := List.replicate 8 ⟨.fcmd, 0, 0, 0, 9, 1, 1, 0, 0, 0⟩ })
    s.strandReady 0 0 0 [4, 5] [9] ∧ full.strandReady 0 0 0 [4, 5] [9] ∧ (s.strand 0 0).audit = false ∧
      ((s.correctRegs [4, 5]).unit 5).q.length < 8 ∧ 8 ≤ ((full.correctRegs [4, 5]).unit 5).q.length ∧ effAddr (s.w 4) 0 % 4096 = 0 :=
  ⟨strandReady_of (by decide +kernel), strandReady_of (by decide +kernel), by decide +kernel⟩
/-- A parameter block in the own scratchpad whose DEST, word 2, is 0x30000 in ordinary memory of the package. -/
theorem witness_FootingIssue_fred :
    let s := (demo [0, 0, 0, 0, window + 0x18000]).write (padBase 0 + 0x18010) 8 0x30000
    s.strandReady 0 0 0 [4] [9] ∧ ∃ v p w x y q, translateFor (s.correctRegs [4]) 0 1 (window + 0x18000) .load = (v, .ok p) ∧
      localRead v (v.agent 0) { p with pa := p.pa + 16 } 8 = (w, .ok x) ∧ translate w 0 1 (x % 2 ^ 56) = (y, .ok q) ∧ ownPlace 0 p.pa = true ∧
      loadReady v 0 0 (p.pa + 16) 8 = true ∧ foOpen v 1 p = true ∧ ownPlace 0 q.pa = true ∧ isHbm q.pa = true ∧
      (y.hbm (unitOfPa q.pa / 64)).q.length < 16 :=
  ⟨strandReady_of (by decide +kernel), _, _, _, _, _, _, rfl, rfl, rfl, by decide +kernel⟩
/-- A parameter block on another package. -/
theorem witness_FootingIssue_remote :
    let s := demoWith { demoCore with tlb := [⟨1, 1, 16, 0x8000100000, 0x1D⟩] } [0, 0, 0, 0, 0x10000]
    s.strandReady 0 0 0 [4] [9] ∧ ∃ v p, translateFor (s.correctRegs [4]) 0 1 0x10000 .load = (v, .ok p) ∧ ownPlace 0 p.pa = false :=
  ⟨strandReady_of (by decide +kernel), _, _, rfl, by decide +kernel⟩
/-- w1 = 0 and w2 = 12,288: FOPEN of bank 0 in the granted blocks, in a block not granted, and beyond the channel (R297). -/
theorem witness_FootingCore :
    let s := footing [0, 0, 12288, 12287]
    let t := s.unit 0
    let o := s.modUnit 0 (fun t => { t with openBlk := [(0, some 1)] })
    s.unitRuns 0 ∧ (s.w 1).toNat ≤ 12287 ∧ (∃ r ∈ t.grants, r.1 ≤ (s.w 1).toNat * 16 ∧ (s.w 1).toNat * 16 < r.1 + r.2) ∧
      t.cmd = some ⟨.fstart, 0, 0, 0, 9, 1, 1, 0, 0x30000, 0⟩ ∧ bit (UCmd.banks ⟨.fstart, 0, 0, 0, 9, 1, 1, 0, 0x30000, 0⟩) 0 = true ∧ 12287 < (s.w 2).toNat ∧
      ¬ (∃ r ∈ t.grants, r.1 ≤ (s.w 3).toNat * 16 ∧ (s.w 3).toNat * 16 < r.1 + r.2) ∧ t.blockOf 0 = none ∧
      (o.unit 0).blockOf 0 = some 16 ∧ isOk (dieRead o 0 0 (blockPa 0 16) 256) = true ∧ t.cmd.isSome = true ∧ t.stopping = none :=
  ⟨rfl, by decide +kernel⟩
/-- The last word of the data memory, a word that ends beyond it, and an odd offset (R47). -/
theorem witness_FootingCore_memory :
    let s := footing [0, 0x7F8, 0x800, 1]
    s.unitRuns 0 ∧ effAddr (s.w 1) 0 % 8 = 0 ∧ effAddr (s.w 1) 0 + 8 ≤ 0x800 ∧ effAddr (s.w 2) 0 % 8 = 0 ∧ 0x800 < effAddr (s.w 2) 0 + 8 ∧
      effAddr (s.w 3) 0 % 8 ≠ 0 := ⟨rfl, by decide +kernel⟩
/-- A command of core 0 at the head of unit 0's queue; launch 1 and core 0 own the unit, or launch 2 does. -/
def commanded (op : UOp) (owner : Nat) (run : FRun) : State :=
  let s := (demo []).modHbm 0 (fun b => { b with tlb := [⟨1, 3, 16, 0x120000, 0x9D⟩] })
  s.modUnit 0 (fun t => { t with owner := some (owner, 0), run := run, q := [⟨op, 0, 0, 0, 9, 1, 1, 0x30000, 0, 0⟩] })
theorem witness_FootingCommands :
    (∀ op ∈ [UOp.floado, .fstart, .fcmd], ∀ o ∈ [1, 2], ∀ run ∈ [FRun.halted, .running, .waiting],
      unitHead (commanded op o run) 0 op = some ⟨op, 0, 0, 0, 9, 1, 1, 0x30000, 0, 0⟩ ∧
      unitDenied (commanded op o run) 0 ⟨op, 0, 0, 0, 9, 1, 1, 0x30000, 0, 0⟩ = decide (o = 2)) ∧
    (∃ v p w x, hbmTranslate (commanded .floado 1 .halted) 0 1 0x30000 .foLoad = (v, .ok p) ∧
      bankOpen v (attrFO p.attr) 1 p.pa 0 = true ∧ dieRead v 0 0x30000 p.pa 4096 = (w, .ok x)) ∧
    (let f : FReply := ⟨7, 0, 0, 9, 1, 5⟩
     let s : State := { demo [] with freplies := [f] }
     s.freplies.find? (fun f => decide (f.id = 7)) = some f ∧ (s.core f.core).launch = f.launch ∧ rspStopped s f.core = false) ∧
    (∀ a ∈ [0, 1], ∀ k ∈ [none, some (8, 0, 0)], let p : Packet := ⟨7, 0x19, a, BitVec.ofNat 64 (5 * 2 ^ 36), none⟩
      let s : State := { (commanded .floado 1 .halted).modUnit 0 (fun t => { t with parked := k }) with packets := [p] }
      s.packet? 7 = some p ∧ fieldOf p.target 39 36 = 5 ∧ (s.unit (packetUnit p)).parked = k) :=
  ⟨by decide +kernel, ⟨_, _, _, _, rfl, by decide +kernel, rfl⟩, by decide +kernel, by decide +kernel⟩
/-- A FRED of two sources of 64 elements at 0x31000 and 0x32000 into 0x33000, whose block is at 0x30000 (R55). -/
def fredWords (cmode len : Nat) : List Word :=
  [BitVec.ofNat 64 (1 + 2 ^ 8 + cmode * 2 ^ 14 + len * 2 ^ 32), 0x31000, 0x33000, 0x34000, 1, BitVec.ofNat 64 (2 ^ 12), 0, 0]
def fredOf (phase : FredPhase) (cmode len : Nat) (parked : Bool) : Fred :=
  { core := 0, strand := 0, act := 0, frame := 0, reg := 9, launch := 1, domain := 1, block := 0x30000, words := fredWords cmode len, phase := phase,
    next := 0, parked := if parked then some (8, 0, 0x31000, 0) else none }
def reducing (f : Fred) : State :=
  let s := (demo []).modHbm 0 (fun b => { b with q := [f], tlb := [⟨1, 3, 16, 0x120000, 0x9D⟩] })
  (fredWords f.cmode f.len).zipIdx.foldl (fun s w => s.write (0x120000 + 8 * w.2) 8 w.1.toNat) s
/-- Address 0x10000 of domain 1 has a page of 64 KiB at 0x500000, which no TLB of core 0 or of stack 0 holds; a footing command for unit 0 or a
FRED of that domain is in stack 0's queue. -/
def walked (queued : Nat) : State :=
  let s : State := { demo [] with
    cores := [(0, { demoCore with tlb := [] })], dies := [(0, { Die.init with roots := [(1, 0x400000 / 2 ^ 13)], pkgset := [(1, [0])] })],
    units := if queued = 1 then [(0, { Unit.init with q := [⟨.fcmd, 0, 0, 0, 9, 1, 1, 0x10000, 0, 0⟩] })] else [],
    hbms := if queued = 2 then [(0, { Stack.init with q := [{ fredOf .check 0 64 false with block := 0x10000 }] })] else [] }
  [(0x400000, 0x402003), (0x402000, 0x404003), (0x404000, 0x406003), (0x406000 + 8, 0x500005)].foldl (fun s e => s.write e.1 8 e.2) s
theorem witness_FredSteps :
    (∀ x ∈ [(64, true), (0, false)], let f := { fredOf .check 0 x.1 false with words := [] }
      let s := reducing (fredOf .check 0 x.1 false) |>.modHbm 0 (fun b => { b with q := [f] })
      fredHead s 0 = some f ∧ f.parked = none ∧ ∃ v p w y, hbmTranslate s 0 1 0x30000 .foLoad = (v, .ok p) ∧
        dieRead v 0 0x30000 p.pa 64 = (w, .ok y) ∧ paPkg p.pa = 0 ∧ foOpen v 1 p = true ∧
        (fredOffences { f with words := (List.range 8).map (fun i => BitVec.ofNat 64 (y / 2 ^ (64 * i))), phase := .chunks } = []) = x.2) ∧
    (∀ len ∈ [1, 64, 65], let f := fredOf .chunks 0 len false
      let n := Nat.min 64 len
      fredHead (reducing f) 0 = some f ∧ f.phase = .chunks ∧ ∃ v ps w xs,
        chunkPlaces (reducing f) 0 1 [(0x31000, .foLoad), (0x32000, .foLoad), (0x33000, .foStore)] = (v, .ok ps) ∧
        readAll v 0 (n * 4) ((ps.take 2).zip [0x31000, 0x32000]) = (w, .ok xs) ∧ (∀ p ∈ ps, foOpen v 1 p = true) ∧ ps.getLast?.isSome = true) ∧
    (∀ m ∈ [0, 1, 2], fredHead (reducing (fredOf .completing m 64 false)) 0 = some (fredOf .completing m 64 false) ∧
      (fredOf .completing m 64 false).cmode = m) ∧
    (let s := reducing (fredOf .completing 1 64 false)
     isOk (hbmTranslate s 0 1 0x34000 .foStore) = true ∧ paPkg 0x124000 = 0 ∧ inPad 0x124000 = false ∧
       s.admits 0x124000 (Scope.ofCode (bits ((fredOf .completing 1 64 false).word 0) 18 16)) (partyOf 0 0) = true ∧
       foOpen s 1 ⟨0x124000, 0x9D, 16⟩ = true) ∧
    (let f := fredOf (.arriving 9) 2 64 false
     let p : MRep := ⟨9, .fred 0 0 0, 0x20, 0, 0, 0, 0, 0, false, .core, .release, 0x110000, 0, 1⟩
     let s : State := { reducing f with mreps := [p] }
     fredHead s 0 = some f ∧ s.mreps.find? (fun p => decide (p.id = 9 ∧ p.iss = .fred 0 f.core f.strand)) = some p ∧ paPkg p.line = 0 / 8) ∧
    (((walked 1).unit 0).q.map (·.domain) = [1] ∧ ((walked 2).hbm 0).q.map (·.domain) = [1] ∧
      ∀ k ∈ [1, 2], (∀ e ∈ ((walked k).hbm 0).tlb, e.serves 1 0x10000 = false) ∧ inWindow 0x10000 = false ∧
        isOk (dieWalk (walked k) (diePanel 0) 0 1 0x10000) = true) ∧
    (∀ a ∈ [0, 1], let p : Packet := ⟨7, 0x19, a, BitVec.ofNat 64 (3 * 2 ^ 36), none⟩
      let f := fredOf .chunks 0 64 true
      let s : State := { reducing f with packets := [p] }
      s.packet? 7 = some p ∧ fieldOf p.target 39 36 = 3 ∧ fredHead s (packetStack p) = some f ∧ f.parked.isSome = true) ∧
    (fredOf .check 0 64 false ∈ ((reducing (fredOf .check 0 64 false)).hbm 0).q ∧ inWindow 0x31000 = false) := by
  refine ⟨?_, ?_, by decide +kernel, by decide +kernel, by decide +kernel, by decide +kernel, by decide +kernel, by decide +kernel⟩
  · intro x h
    simp only [List.mem_cons, List.not_mem_nil, or_false] at h
    rcases h with rfl | rfl <;> exact ⟨by decide +kernel, by decide +kernel, _, _, _, _, rfl, rfl, by decide +kernel⟩
  · intro x h
    simp only [List.mem_cons, List.not_mem_nil, or_false] at h
    rcases h with rfl | rfl | rfl <;> exact ⟨by decide +kernel, by decide +kernel, _, _, _, _, rfl, rfl, by decide +kernel⟩
/-- A POWER request for channel 5 of package 0 with an action, from the host (R392). -/
def powerAsk (act : Nat) : Msg :=
  ⟨BitVec.ofNat 64 (3 * 2 ^ 60 + 0x140), BitVec.ofNat 64 (0x40 * 2 ^ 56), BitVec.ofNat 64 (act * 2 ^ 9 + 5), 0x10000, 0, 0, 0, 0⟩
def powering (act : Nat) (p : FPower) (live : Bool) : State :=
  let s := State.reset.modPanel 0 (fun p => { p with sys := [powerAsk act] })
  s.modUnit 5 (fun t => { t with power := p, flags := if live then [(0, 1)] else [] })
theorem witness_PowerStates :
    (∀ a ∈ [0, 1, 2], ∀ b ∈ [true, false],
      let s := powering a (if a = 2 then .refresh else .awake) b
      sysHead s 0 0x40 = some (powerAsk a) ∧ s.answers 0 = true ∧ fieldOf (powerAsk a).w0 63 12 = 0 ∧ fieldOf (powerAsk a).w0 10 9 = a ∧
        bit (powerAsk a).w0.toNat 11 = false ∧ unitLive (dropSys s 0) 5 = b ∧
        ((dropSys s 0).unit 5).power = if a = 2 then .refresh else .awake) ∧
    (∀ x ∈ [(0, FPower.down), (1, .refresh)], unitLive (dropSys (powering x.1 x.2 true) 0) 5 = true ∧
      ((dropSys (powering x.1 x.2 true) 0).unit 5).power = x.2) ∧
    (∀ r ∈ [FRun.running, .halted], ∀ a ∈ [0, 1],
      let s := (powering (a + 4) .awake true).modUnit 5 (fun t => { t with run := r })
      sysHead s 0 0x40 = some (powerAsk (a + 4)) ∧ fieldOf (powerAsk (a + 4)).w0 63 12 = 0 ∧ fieldOf (powerAsk (a + 4)).w0 10 9 = a ∧
        bit (powerAsk (a + 4)).w0.toNat 11 = true ∧ unitLive (dropSys s 0) 5 = true ∧ ((dropSys s 0).unit 5).run = r ∧
        ((dropSys s 0).unit 5).power = .awake) ∧
    (let s : State := { State.reset.modUnit 5 (fun t => { t with stopping := some (0, [(.down, 0x10000)]) }) with cycle := 65536 }
     (s.unit 5).stopping = some (0, [(.down, 0x10000)]) ∧ 0 + 65536 ≤ s.cycle) ∧
    (let x : USave := ⟨[], [], 4, .running, [(0, 1)], []⟩
     let s := State.reset.modUnit 5 (fun t => { t with power := .down, save := some x })
     (s.unit 5).power ≠ .awake ∧ (s.unit 5).save = some x) := by decide +kernel

/-! ### Witnesses: control, ending, traps and supervision -/

/-- w1 counts 2, w2 is even, w3 odd, and w8 counts 1: both ways of a loop, and both kinds of a jump's address. -/
theorem witness_Branches :
    let s := demo [0, 2, 0x100, 0x101, 0, 0, 0, 0, 1]
    s.cur ≠ .none ∧ s.predicate 0 = !false ∧ s.predicate 0 = true ∧ s.ready 0 [] [3] ∧
      (∀ r ∈ [1, 2, 3, 8], s.ready 0 [r] [4]) ∧ s.ready 0 [8] [] ∧ (s.correctRegs [1]).w 1 - 1 ≠ 0 ∧ (s.correctRegs [8]).w 8 - 1 = 0 ∧
      ((s.correctRegs [2]).w 2).toNat % 2 = 0 ∧ ((s.correctRegs [3]).w 3).toNat % 2 = 1 ∧ s.cur = .strand 0 0 :=
  ⟨by decide +kernel, by decide +kernel, by decide +kernel, ready_of (by decide +kernel),
    fun r h => ready_of (by revert r; decide +kernel), ready_of (by decide +kernel), by decide +kernel⟩
theorem witness_Branches_footing : (footing [0, 2]).cur ≠ .none ∧ (footing [0, 2]).ready 0 [1] [4] := ⟨by decide +kernel, ready_of (by decide +kernel)⟩
/-- Strand 1 is parked by a trap, whose message strand 0 has in m, as an activation of class 63 and as one of another class. -/
def handling (cls : Nat) : State :=
  let s := (demo [0, 0, 1]).modStrand 0 1 (fun t => { t with mode := .parked, act := 2, frame := 1 })
  s.modStrand 0 0 (fun t => { t with cls := cls, m := { Msg.zero with w3 := s.identOf 0 1 } })
theorem witness_EndingAndTraps :
    (∀ r ∈ [1, 2], (handling 63).strandReady 0 0 0 [r] []) ∧ mayEnd (handling 63) 0 0 = true ∧
    ((handling 63).strand 0 0).audit = false ∧ ((handling 63).strand 0 0).allow = 8 ∧ ((handling 63).strand 0 0).arsp = 2 ∧
    loadsOutstanding (handling 63) 0 0 = false ∧
    (∀ len ∈ [2, 4], (accept (demo []) 0 0 (contMsg (demo []) 0 0) 0 (.cont (contOf ((demo []).strand 0 0) 0 len)) 0 0).2 = true) ∧
    (∀ r ∈ [1, 2], let t := (handling 63).correctRegs [r]
      (t.strand 0 0).cls = 63 ∧ parkedStrand t 0 (t.strand 0 0).m.w3 = some 1 ∧ mayEnd t 0 0 = true ∧ (t.w r).getLsbD 0 = decide (r = 2)) ∧
    (((handling 5).correctRegs [1]).strand 0 0).cls ≠ 63 :=
  ⟨fun r h => strandReady_of (by revert r; decide +kernel), by decide +kernel⟩
theorem witness_TrapEntry :
    let s := demo []
    (0x15 : Nat) < 256 ∧ (s.strand 0 0).hod = none ∧ trapIsLocal s 0 0 0x15 = false ∧ (s.core 0).replay = none ∧ (s.core 0).domain < 65536 := by
  decide +kernel
/-- Core 1024, the foreman of panel 0, runs a strand in domain 0, with a page of 2^30 bytes at 0. w1 names core 0, w2 and w3 are 0 and 1,
w4 is 2 and w5 is 3. Core 0 is pre-empted. -/
def foreman (k : Core → Core) : State :=
  let f : Core := { Core.init with frames := 1, tlb := [⟨0, 0, 30, 0, 0x1D⟩] }
  let s : State := { demo [] with cores := [(0, k { demoCore with preempted := true }), (1024, f.setStrand 0 { Strand.init with mode := .running })],
                                  cur := .strand 1024 0 }
  [(1, (engineIdent 0 0 0).toNat), (3, 1), (4, 2), (5, 3), (6, scratchVa 4 0)].foldl (fun s x => s.write (regAddr 1024 0 x.1) 8 x.2) s
theorem bytesLE_length (n : Nat) : ∀ x, (bytesLE x n).length = n := by induction n <;> simp_all [bytesLE]
theorem memoryBytes_length (m : List Host.Cell) (n : Nat) : ∀ a, (Memory.bytes m a n).length = n := by induction n <;> simp_all [Memory.bytes]
/-- The image of a core with ordinary banks and an empty inbox and queue has 610,432 bytes (R370, Table 6). -/
theorem coreImage_length (s : State) (c num : Nat) (h : ∀ b, (s.core c).bank b = .init) (i : (s.core c).inbox = []) (q : (s.core c).mq = [])
    (r : (s.core c).rot = none) : (coreImage s c num).length = 610432 := by
  simp [coreImage, imageHeader, imagePad, imageRot, imageBank, inboxAt, h, i, q, r, bytesLE_length, memoryBytes_length, State.readBytes,
    List.length_flatMap, Bank.init, -List.reduceReplicate]
theorem witness_Supervision :
    (let s := demo [0, 1, 1]
     s.strandReady 0 0 0 [9, 1, 4, 5] [9] ∧ (waitMask (s.correctRegs [1]) 0 0 &&& (((s.correctRegs [1]).w 1).toNat % 32)) = 0 ∧
      fieldOf ((demo [0, 1, 1, 0, 0, 0, 0, 0, 0, 1]).w 9) 15 0 = ((demo []).core 0).domain ∧ (s.strand 0 0).audit = false ∧ isForeman 0 = false ∧
      bytesInFlight (s.correctRegs [1, 4, 5]) 0 0 (padBase 0 + 0x15800 + 16 * (((s.correctRegs [1, 4, 5]).w 1).toNat % 64)) 16 = false) ∧
    (let s := foreman id
     (∀ r ∈ [2, 3, 4, 5, 6], s.strandReady 1024 0 0 [9, 1, r, r + 1] [9]) ∧ isForeman 1024 = true ∧
      fieldOf ((s.correctRegs [1, 2]).w 1) 39 36 ∈ [0, 1, 3, 5] ∧ ((s.correctRegs [1, 4]).w 4).toNat % 4 ≠ 3 ∧
      ((s.correctRegs [1, 5]).w 5).toNat % 4 = 3 ∧ (∀ r ∈ [2, 6], fieldOf ((s.correctRegs [1, r]).w r) 55 0 % 4096 = 0 ∧ launchEnding (s.correctRegs [1, r]) 0 = false) ∧
      imageCore 1024 ((s.correctRegs [1, 2]).w 1) = some 0) :=
  ⟨⟨strandReady_of (by decide +kernel), by decide +kernel⟩, fun r h => strandReady_of (by revert r; decide +kernel), by decide +kernel⟩
/-- The scratch window's addresses lie in the scratchpad aperture of package 0. -/
theorem windowPlace (va : Nat) (lo : window ≤ va) (hi : va < 2 ^ 56) :
    inPad (0x6000000000 + (va - window)) = true ∧ paPkg (0x6000000000 + (va - window)) = 0 := by
  have h : va - window < 0x20000000 := by simp only [window] at *; omega
  generalize va - window = x at h
  constructor
  · have : isPad (0x6000000000 + x) = true := by unfold isPad paLocal; exact decide_eq_true (by omega)
    simp only [inPad, this, Bool.true_or]
  · simp only [paPkg]; omega
theorem padRefuses_foreman (s : State) (a : Agent) (pa k : Nat) (hf : a.foreman = true) : padRefuses s a pa k false = none := by
  unfold padRefuses; exact if_pos hf
theorem correct_none (s : State) (pa k : Nat) (hs : s.single = []) : s.correct pa k = s := by unfold State.correct; rw [hs]; rfl
theorem farRead_own (s : State) (a : Agent) (p : Place53) (k : Nat) (hpk : paPkg p.pa = corePkg a.core) (hr : (s.core a.core).replay = none) :
    farRead s a p k = localRead s a p k := by
  have ho : ownPlace a.core p.pa = true := by simp [ownPlace, hpk]
  simp only [farRead, hr, ho]
theorem inControl_pad (pa : Nat) (h : inPad pa = true) (hpk : paPkg pa = 0) : inControl pa = false := by
  have hp : pa < 2 ^ 39 := by simp only [paPkg] at hpk; omega
  have hl : paLocal pa = pa := by simp only [paLocal]; omega
  have h53 : ¬ 2 ^ 53 ≤ pa := by omega
  simp only [inPad, isPad, hl, Bool.or_eq_true, decide_eq_true_eq] at h
  simp only [inControl, hl, decide_eq_false_iff_not]
  omega
/-- What a foreman reads of a scratchpad that has no poison. -/
theorem farRead_pad (s : State) (a : Agent) (p : Place53) (k : Nat) (hpk : paPkg p.pa = corePkg a.core) (hpk0 : corePkg a.core = 0)
    (hr : (s.core a.core).replay = none) (hpad : inPad p.pa = true) (hf : a.foreman = true) (hp : s.poison = []) (hs : s.single = []) :
    farRead s a p k = (s.tickFresh, .ok (padRead s a.head p.pa k)) := by
  have h2 : padRefuses s a p.pa k false = none := padRefuses_foreman s a _ _ hf
  have h3 : s.poisonMet a.head p.pa k = none := by
    have h : s.poisonedAt p.pa k = none := by unfold State.poisonedAt; rw [hp]; rfl
    unfold State.poisonMet
    split
    · rfl
    · exact h
  have h4 : s.correct p.pa k = s := by exact correct_none s p.pa k hs
  have h5 : inControl p.pa = false := inControl_pad p.pa hpad (hpk.trans hpk0)
  rw [farRead_own s a p k hpk hr]
  unfold localRead
  simp only [hpad, if_true, h2, h3, h4, h5, Bool.false_eq_true, if_false]
theorem translate_window (s : State) (c dom va pa : Nat) (x : Use) (h5 : useCheck x 0xD = none) (hin : inWindow va = true)
    (hw : windowPa s c va = pa) : translateFor s c dom va x = (s, .ok ⟨pa, 0xD, 19⟩) := by
  have h1 : Machine.translate s c dom va = (s, .ok ⟨pa, 0xD, 19⟩) := by unfold Machine.translate; rw [if_pos hin, hw]
  unfold translateFor
  rw [h1]
  simp only [h5]
theorem windowPa_own (s : State) (c va : Nat) (hc : corePkg c = 0) (hr : (s.core c).replay = none) :
    windowPa s c va = 0x6000000000 + (va - window) := by
  unfold windowPa
  simp only [hr, hc, paOf, Nat.zero_mul, Nat.zero_add]
  rfl
theorem readVa_step (s t u v : State) (a : Agent) (fuel va n k : Nat) (p : Place53) (x : Nat) (l : List Byte) (hn : n ≠ 0)
    (hva : va % 2 ^ 56 = va) (hk : Nat.min n (64 - va % 64) = k) (htr : translateFor s a.core a.dom va .load = (t, .ok p))
    (hread : farRead t a p k = (u, .ok x)) (hl : readVa u a .load fuel (va + k) (n - k) = (v, .ok l)) :
    readVa s a .load (fuel + 1) va n = (v, .ok (bytesLE x k ++ l)) := by
  simp only [readVa, if_neg hn, hva, hk, htr, hread, hl]
/-- A foreman reads any run of the scratch window: nothing there is poisoned. -/
theorem readVa_window (c : Nat) (hc : corePkg c = 0) (a : Agent) (ha : a.core = c) (hf : a.foreman = true) :
    ∀ (fuel va n : Nat) (s : State), s.poison = [] → s.single = [] → (s.core c).replay = none → window ≤ va → va + n ≤ 2 ^ 56 →
      ∃ k l, readVa s a .load fuel va n = ({ s with fresh := k }, .ok l) := by
  intro fuel
  induction fuel with
  | zero => intro va n s _ _ _ _ _; exact ⟨s.fresh, [], rfl⟩
  | succ fuel ih =>
    intro va n s hp hs hr hlo hhi
    by_cases hn : n = 0
    · exact ⟨s.fresh, [], by simp [readVa, hn]⟩
    · have hlt : va < 2 ^ 56 := lt_of_lt_of_le (Nat.lt_add_of_pos_right (Nat.pos_of_ne_zero hn)) hhi
      have hva : va % 2 ^ 56 = va := Nat.mod_eq_of_lt hlt
      have hkn : Nat.min n (64 - va % 64) ≤ n := Nat.min_le_left _ _
      obtain ⟨hpad, hpk⟩ := windowPlace va hlo hlt
      have htr := translate_window s c a.dom va _ .load (by decide +kernel) (decide_eq_true hlo) (windowPa_own s c va hc hr)
      generalize 0x6000000000 + (va - window) = pa at hpad hpk htr
      have hread := farRead_pad s a ⟨pa, 0xD, 19⟩ (Nat.min n (64 - va % 64)) (by rw [hpk, ha, hc]) (by rw [ha]; exact hc) (by rw [ha]; exact hr) hpad hf hp hs
      obtain ⟨k', l', h'⟩ := ih (va + Nat.min n (64 - va % 64)) (n - Nat.min n (64 - va % 64)) s.tickFresh hp hs hr (Nat.le_add_right_of_le hlo)
        (by rw [Nat.add_assoc, Nat.add_sub_cancel' hkn]; exact hhi)
      exact ⟨k', _, readVa_step s s _ _ a fuel va n _ _ _ l' hn hva rfl (by rw [ha]; exact htr) hread h'⟩
theorem farWrite_pad (s : State) (a : Agent) (p : Place53) (k x : Nat) (hpk : paPkg p.pa = corePkg a.core) (hr : (s.core a.core).replay = none)
    (hpad : inPad p.pa = true) (hf : a.foreman = true) : farWrite s a p k x = (padWrite s a.head p.pa k x, none) := by
  have ho : ownPlace a.core p.pa = true := by simp [ownPlace, hpk]
  have h2 : padRefuses s a p.pa k true = none := by unfold padRefuses; exact if_pos hf
  simp only [farWrite, hr, ho, localWrite, hpad, h2, if_true, Option.isSome_none, Bool.false_eq_true, if_false]
theorem padWrite_core (s : State) (h : Bool) (pa k x c : Nat) : (padWrite s h pa k x).core c = s.core c := by unfold padWrite; split <;> rfl
/-- A foreman writes any run of the scratch window. -/
theorem writeVa_window (c : Nat) (hc : corePkg c = 0) (a : Agent) (ha : a.core = c) (hf : a.foreman = true) :
    ∀ (fuel va : Nat) (l : List Byte) (s : State), (s.core c).replay = none → window ≤ va → va + l.length ≤ 2 ^ 56 →
      ∃ v, writeVa s a fuel va l = (v, none) := by
  intro fuel
  induction fuel with
  | zero => intro va l s _ _ _; exact ⟨s, rfl⟩
  | succ fuel ih =>
    intro va l s hr hlo hhi
    by_cases hn : l.isEmpty = true
    · exact ⟨s, by simp [writeVa, hn]⟩
    · have hpos : 0 < l.length := by cases l <;> simp_all
      have hlt : va < 2 ^ 56 := lt_of_lt_of_le (Nat.lt_add_of_pos_right hpos) hhi
      have hva : va % 2 ^ 56 = va := Nat.mod_eq_of_lt hlt
      have hkn : Nat.min l.length (64 - va % 64) ≤ l.length := Nat.min_le_left _ _
      obtain ⟨hpad, hpk⟩ := windowPlace va hlo hlt
      have htr := translate_window s c a.dom va _ .store (by decide +kernel) (decide_eq_true hlo) (windowPa_own s c va hc hr)
      generalize 0x6000000000 + (va - window) = pa at hpad hpk htr
      obtain ⟨v, hv⟩ := ih (va + Nat.min l.length (64 - va % 64)) (l.drop (Nat.min l.length (64 - va % 64)))
        (padWrite s a.head pa (Nat.min l.length (64 - va % 64)) (ofBytesLE (l.take (Nat.min l.length (64 - va % 64)))))
        (by rw [padWrite_core]; exact hr) (Nat.le_add_right_of_le hlo)
        (by rw [List.length_drop, Nat.add_assoc, Nat.add_sub_cancel' hkn]; exact hhi)
      have hw := farWrite_pad s a ⟨pa, 0xD, 19⟩ (Nat.min l.length (64 - va % 64)) (ofBytesLE (l.take (Nat.min l.length (64 - va % 64))))
        (by rw [hpk, ha, hc]) (by rw [ha]; exact hr) hpad hf
      exact ⟨v, by simp only [writeVa, if_neg hn, hva, ha, htr, hw, hv]⟩
theorem none_of {α β : Type} {x : α × Option β} (h : x.2.isNone = true) : ∃ u, x = (u, none) := by
  obtain ⟨u, r⟩ := x
  exact ⟨u, by simpa using h⟩
/-- A pre-empted core to save, one that is not, and an image in the scratch window to load. -/
theorem witness_Supervision_image :
    (let s := (foreman id).correctRegs [1, 6]
     (s.core 0).preempted = true ∧ launchEnding s 0 = false ∧ (∀ b, b < 2 → bankStands s 0 b = true) ∧ imagePoison s 0 = none ∧
      fieldOf (s.w 6) 55 0 = scratchVa 4 0 ∧
      ∃ u v, firstRefused s 1024 (scratchVa 4 0) (coreImage s 0 s.fresh).length .store = (u, none) ∧
        writeVa u (u.agent 1024) ((coreImage s 0 s.fresh).length / 64 + 2) (scratchVa 4 0) (coreImage s 0 s.fresh) = (v, none)) ∧
    (((foreman (fun k => { k with preempted := false })).correctRegs [1, 2]).core 0).preempted = false ∧
    (let s := (foreman id).write (padBase 4) 8 0x43580001
     launchEnding s 0 = false ∧ ∃ u v head l, readVa s (s.agent 1024) .load 70 (scratchVa 4 0) 4096 = (u, .ok head) ∧ ofBytesLE head % 2 ^ 32 = 0x43580001 ∧
      readVa u (u.agent 1024) .load (headedLength (ofBytesLE head) / 64 + 2) (scratchVa 4 0) (headedLength (ofBytesLE head)) = (v, .ok l)) := by
  refine ⟨⟨by decide +kernel, by decide +kernel, by decide +kernel, by decide +kernel, by decide +kernel, ?_⟩, by decide +kernel, ?_⟩
  · have hl := coreImage_length ((foreman id).correctRegs [1, 6]) 0 ((foreman id).correctRegs [1, 6]).fresh (fun b => rfl) (by decide +kernel)
      (by decide +kernel) (by decide +kernel)
    obtain ⟨u, hu⟩ : ∃ u, firstRefused ((foreman id).correctRegs [1, 6]) 1024 (scratchVa 4 0) 610432 .store = (u, none) := none_of (by decide +kernel)
    have hr : (u.core 1024).replay = none := by
      have h : ((firstRefused ((foreman id).correctRegs [1, 6]) 1024 (scratchVa 4 0) 610432 .store).1.core 1024).replay = none := by decide +kernel
      rw [hu] at h; exact h
    obtain ⟨v, hv⟩ := writeVa_window 1024 (by decide +kernel) (u.agent 1024) rfl
      (by show isForeman 1024 = true; decide +kernel) (610432 / 64 + 2) (scratchVa 4 0)
      (coreImage ((foreman id).correctRegs [1, 6]) 0 ((foreman id).correctRegs [1, 6]).fresh) u hr (by decide +kernel) (by rw [hl]; decide +kernel)
    exact ⟨u, v, by rw [hl]; exact hu, by rw [hl]; exact hv⟩
  · intro s
    obtain ⟨k, head, h⟩ := readVa_window 1024 (by decide +kernel) (s.agent 1024) rfl (by decide +kernel) 70 (scratchVa 4 0) 4096 s
      (by decide +kernel) (by decide +kernel) (by decide +kernel) (by decide +kernel) (by decide +kernel)
    have hh : (match (readVa s (s.agent 1024) .load 70 (scratchVa 4 0) 4096).2 with
      | .ok x => decide (ofBytesLE x % 2 ^ 32 = 0x43580001 ∧ headedLength (ofBytesLE x) = 610432) | .error _ => false) = true := by decide +kernel
    rw [h] at hh
    simp only [decide_eq_true_eq] at hh
    obtain ⟨k', l, h'⟩ := readVa_window 1024 (by decide +kernel) (State.agent { s with fresh := k } 1024) rfl rfl
      (headedLength (ofBytesLE head) / 64 + 2) (scratchVa 4 0) (headedLength (ofBytesLE head)) { s with fresh := k }
      rfl rfl rfl (by decide +kernel) (by rw [hh.2]; decide +kernel)
    exact ⟨by decide +kernel, _, _, head, l, h, hh.1, h'⟩

/-! ### Witnesses: pre-emption, bonds, messages and deques -/

/-- A packet of the foreman to core 0, and the state with it and that core. -/
def packetFor (sfn action : Nat) (target : Word) : Packet := ⟨7, sfn, action, target, none⟩
def packeted (s : State) (p : Packet) : State := { s with packets := [p] }
theorem witness_Preemption :
    (∀ a ∈ [0, 1], let s := packeted (handling 63) (packetFor 0x19 a ((handling 63).identOf 0 1))
      let p := packetFor 0x19 a ((handling 63).identOf 0 1)
      s.packet? 7 = some p ∧ fieldOf p.target 39 36 = 0 ∧ coreOfIdent p.target = 0 ∧ parkedStrand s 0 p.target = some 1 ∧
        mayEnd (dropRefused s 0 1) 0 1 = true ∧ (s.core 0).preempted = false ∧
        parkedStrand (s.modCore 0 (fun k => { k with preempted := true })) 0 p.target = some 1) ∧
    (∀ x ∈ [(0, false), (1, false), (1, true), (2, true)],
      let p := packetFor 0x18 x.1 0
      let s := packeted (demoWith { demoCore with preempted := x.2 } []) p
      s.packet? 7 = some p ∧ (s.core 0).launch ≠ 0 ∧ isForeman 0 = false ∧ launchEnding s 0 = false ∧ (s.core 0).preempted = x.2 ∧ (s.core 0).saved = false ∧
        (∀ n, n < 4 → atBoundary s 0 n = true) ∧ maySave s 0 = true) ∧
    (let m : Msg := ⟨stamp (headerTo 3 (foremanIdent 0)) 1024 0 3, header1 0x14 0, 0, 0, 0, engineIdent 0 0 0, 0, 0⟩
     let s := (demo []).modPanel 0 (fun p => { p with sys := [m] })
     sysHead s 0 0x14 = some m ∧ (dropSys s 0).launchOf (coreOfIdent m.w3) = some demoLaunch ∧ sentBy m demoLaunch.supv = true ∧
       fieldOf m.w3 39 36 = 0) := by decide +kernel
/-- Two cores of a rectangle of 2 × 1 whose strands 0 wait at a joint, in a bond or not yet in one; the bond's leader is core 0. -/
def joining (j : Joint) (bond : Option Nat) (fol : Nat) : State :=
  let k : Core := { demoCore with bond := bond }
  let w (c : Nat) : Core := k.setStrand 0 { k.strand 0 with wait := .joint j, fol := if c = 0 then 0 else fol, followed := decide (fol ≠ 0) }
  { demo [0, 2 ^ 10, 1] with cores := [(0, w 0), (1, w 1)] }
theorem witness_Bonds :
    (∀ r ∈ [1, 2], (demo [0, 2 ^ 10, 1]).strandReady 0 0 0 [r] []) ∧
    (gangBad ((demo [0, 2 ^ 10, 1]).correctRegs [1]) 0 (2 ^ 10) = false ∧ gangBad ((demo [0, 2 ^ 10, 1]).correctRegs [2]) 0 1 = true) ∧
    (((demo []).core 0).bond = none ∧ ((joining .follow (some (2 ^ 10)) 0).core 0).bond.isSome = true ∧
      leaderOf (joining .follow (some (2 ^ 10)) 2) 0 = some 0 ∧ detachedMembers (joining .follow (some (2 ^ 10)) 2) 0 0 = [1] ∧
      followersBehind (joining .follow (some (2 ^ 10)) 2) 0 0 = false ∧ detachedMembers (joining .follow (some (2 ^ 10)) 0) 0 0 = [] ∧
      followersBehind (joining .follow (some (2 ^ 10)) 0) 0 0 = false ∧
      followersBehind ((joining .follow (some (2 ^ 10)) 1).modStrand 1 0 (fun t => { t with folq := [⟨0, 4, .step⟩] })) 0 0 = true) ∧
    (let s : State := { joining .follow (some (2 ^ 10)) 2 with cur := .strand 1 0 }
     s.strandReady 1 0 0 [1] [] ∧ leaderOf s 1 ≠ some 1 ∧ (s.strand 1 0).followed = true ∧ (s.strand 1 0).fol ≠ 1) ∧
    (∀ fol ∈ [0, 1], let s : State := { joining .follow (some (2 ^ 10)) fol with cur := .strand 1 0 }
     s.strandReady 1 0 0 [1] [] ∧ leaderOf s 1 ≠ some 1 ∧ (s.strand 1 0).followed = decide (fol = 1) ∧ (s.strand 1 0).fol = fol) ∧
    (let s := joining (.gang (2 ^ 10)) none 0
     gangOf (s.core 0) = some (0, 2 ^ 10) ∧
       ∀ m ∈ rectCores (corePkg 0) (2 ^ 10), (s.core m).preempted = false ∧ gangOf (s.core m) = some (0, 2 ^ 10)) ∧
    (let k : Core := demoCore.setStrand 0 { demoCore.strand 0 with wait := .joint (.gang 0) }
     let s := (joining (.gang (2 ^ 10)) none 0).setCore 1 k
     gangOf (s.core 0) = some (0, 2 ^ 10) ∧ gangOf (s.core 1) = some (0, 0) ∧ rectCores 0 (2 ^ 10) = [0, 1] ∧
       (∀ i ∈ List.range 1024, (s.core i).preempted = false)) ∧
    (let s := joining .ungang (some (2 ^ 10)) 0
     bondCores s 0 ≠ [] ∧ ∀ m ∈ bondCores s 0, (ungangStrand s m).isSome = true ∧ (s.core m).mq = []) ∧
    (∀ m ∈ bondCores (joining .follow (some (2 ^ 10)) 0) 0, waitsAtJoint (joining .follow (some (2 ^ 10)) 0) m 0 .follow = true) ∧
    (let s := joining (.rejoin 3) (some (2 ^ 10)) 2
     rejoinMarker (s.strand 0 0) = some 3 ∧ leaderOf s 0 = some 0 ∧ (s.core 0).preempted = false ∧
       ∀ m ∈ detachedMembers s 0 0, waitsAtJoint s m 0 (.rejoin 3) = true) ∧
    (let s := (joining (.rejoin 3) (some (2 ^ 10)) 2).modStrand 1 0 (fun t => { t with wait := .joint (.rejoin 4) })
     rejoinMarker (s.strand 0 0) = some 3 ∧ leaderOf s 0 = some 0 ∧ detachedMembers s 0 0 = [1] ∧ (s.core 1).preempted = false ∧
       rejoinMarker (s.strand 1 0) = some 4) :=
  ⟨fun r h => strandReady_of (by revert r; decide +kernel), by decide +kernel, by decide +kernel,
    ⟨strandReady_of (by decide +kernel), by decide +kernel, by decide +kernel, by decide +kernel⟩,
    fun fol h => ⟨strandReady_of (by revert fol; decide +kernel), by revert fol; decide +kernel⟩, by decide +kernel⟩
/-- The build registers hold a DIRECT message to core 1, and the strand holds an allowance or none. -/
def sending (allow arsp : Nat) (rres : Bool) : State :=
  (demo [0, 1]).modStrand 0 0 (fun t =>
    { t with b := { Msg.zero with h0 := headerTo 0 (engineIdent 1 0 0) }, allow := allow, arsp := arsp, rres := rres })
/-- The deque of a core, of three entries at 0x20000, with its two ends. -/
def dequeAt (head tail : Nat) (k : Core) : Core :=
  { k with dqbase := 0x20000, dqlim := 0x200C0, dqhead := BitVec.ofNat 64 head, dqtail := BitVec.ofNat 64 tail }
theorem dequeEntry_of {s : State} {c b : Nat} {p : Word} (h : s.poisonedAt (dequePa c p) 64 = none) :
    ∃ u m, dequeEntry s c p b = (u, .ok m) := by
  unfold dequeEntry
  rw [h]
  exact ⟨_, _, rfl⟩
theorem witness_Sends :
    (∀ x ∈ [(1, 0, false), (0, 1, false), (0, 0, true), (0, 0, false)], let s := sending x.1 x.2.1 x.2.2
      s.strandReady 0 0 0 [1] [] ∧ sendRefused s 0 (s.strand 0 0).b false = none ∧ sendRefused s 0 (s.strand 0 0).b true = none ∧
        releasedBelow s 0 0 (s.strand 0 0).relMark = true ∧ releasedBelow s 0 0 s.fresh = true ∧ headerReserved (s.strand 0 0).b = false ∧
        msgKind (s.strand 0 0).b = 0 ∧ sameArea (s.correctRegs [1]) ((s.correctRegs [1]).seenCore 0) 1 = true) ∧
    (let k := dequeAt 0x20080 0x20080 demoCore
     dequeValid k = true ∧ dequeEmpty k = true ∧ dequeNext k k.dqhead ≠ k.dqtail) ∧
    (let k := dequeAt 0x20000 0x20080 demoCore
     dequeValid k = true ∧ dequeEmpty k = false) ∧
    (inFlight ((sending 1 0 false).correctRegs [1]) 0 0).any (·.ord.acq) = false ∧
    (∀ p : Nat, p ∈ [0x20000, 0x20040, 0x20080] → loadReady (demo []) 0 0 (dequePa 0 (BitVec.ofNat 64 p)) 64 = true ∧
      ∃ u m, dequeEntry (demo []) 0 (BitVec.ofNat 64 p) 0 = (u, .ok m)) ∧
    (∀ b ∈ [true, false], let x : Steal := ⟨7, 0, 0, 1, 2, 4⟩
      let s : State := { demo [] with steals := [x], cores := [(0, demoCore.setStrand 0 { demoCore.strand 0 with wait := .steal 7 }),
        (1, dequeAt (if b then 0x20080 else 0x20000) 0x20080 demoCore)] }
      s.steals.find? (fun x => decide (x.id = 7)) = some x ∧ (s.strand 0 0).wait = .steal 7 ∧ dequeValid (s.core 1) = true ∧
        dequeEmpty (s.core 1) = b) := by
  refine ⟨fun x h => ⟨strandReady_of (by revert x; decide +kernel), by revert x; decide +kernel⟩, by decide +kernel, by decide +kernel, by decide +kernel, ?_, by decide +kernel⟩
  exact fun p h => ⟨by revert p; decide +kernel, dequeEntry_of (by revert p; decide +kernel)⟩

/-! ### Witnesses: hods -/

/-- A sound hod with a number of stops at core 1, class 5, a tile of 4 bytes at 0x18000 of the own scratchpad, and a status (R193). -/
def hodWith (stops cur status : Nat) : HodImage :=
  let h := setHodField (setHodField (setHodField (setHodField (setHodField 0x0D48 2 1 1) 3 1 stops) 4 1 cur) 5 1 status) 12 4 4
  (List.range stops).foldl (fun h i => setHodField h (64 + 16 * i) 8 (5 * 2 ^ 24 + 2 ^ 14)) (setHodField h 40 8 (scratchVa 0 0x18000))
/-- Core 0 has two landing slots at 0x20000; slot 0 holds that hod. w1 names it, w2 and w3 are 0. -/
def holding (h : HodImage) (busy : Nat) : State :=
  let s := demoWith { demoCore with hodarea := BitVec.ofNat 64 (0x20000 + 2 * 2 ^ 20 + busy * 2 ^ 24) } []
  let s := setSlotImage s 0 0 h
  s.write (regAddr 0 0 1) 8 (slotVa s 0 0)
theorem hodFound_of {s : State} {c va : Nat} {b : Bool} {w : HodAt} {h : HodImage}
    (x : (match (hodOperand s c va b).2 with | .ok y => decide (y = (w, h)) | .error _ => false) = true) :
    ∃ u, hodOperand s c va b = (u, .ok (w, h)) := by
  generalize hodOperand s c va b = r at x
  obtain ⟨u, e | y⟩ := r
  · exact absurd x (by simp)
  · exact ⟨u, by simp only [decide_eq_true_eq] at x; rw [x]⟩
/-- A BUILT hod at its first and a RUNNING one at its last stop: edits at the lowest and the highest stop, and HODNEXT that forwards and
that finishes. -/
theorem witness_HodInstructions :
    (∀ x ∈ [(2, 0, 0), (2, 1, 3), (2, 0, 3)], let h := hodWith x.1 x.2.1 x.2.2
      let s := holding h 1
      s.strandReady 0 0 0 [1, 2, 3] [9] ∧ (s.core 0).replay = none ∧
        (∀ rs ∈ [[1, 2, 3], [1], [1, 2]], ∃ u, hodOperand (s.correctRegs rs) 0 (s.w 1).toNat false = (u, .ok (.slot 0 0, h))) ∧
        lowStop h ≤ 2 ∧ stopValid (s.w 2).toNat = true ∧ hodNstop h = 2 ∧ (s.core 0).hodAllow ≠ 0 ∧ (s.strand 0 0).samp = none ∧
        (∀ rs ∈ [[1, 2, 3], [1], [1, 2]], hodBusy (s.correctRegs rs) 0 0 (s.w 1).toNat false = false) ∧
        releasedBelow s 0 0 s.fresh = true ∧ strandDigest s 0 0 = none) ∧
    (lowStop (hodWith 2 0 0) ≤ 0 ∧ lowStop (hodWith 2 0 3) ≤ 1) := by
  refine ⟨fun x h => ⟨strandReady_of (by revert x; decide +kernel), by revert x; decide +kernel, fun rs hr => hodFound_of ?_, by revert x; decide +kernel⟩,
    by decide +kernel⟩
  revert rs x; decide +kernel
/-- A parked hod in entry 0 of launch 1's park area, before the foreman, whose w1 names it. -/
theorem witness_HodInstructions_resume :
    let h := hodWith 2 0 4
    let f := foreman id
    let k : Core := { f.core 1024 with tlb := [⟨1, 1, 16, 0x100000, 0x1D⟩] }
    let s : State := ({ f with launches := [{ demoLaunch with parked := [0] }], cores := [(0, demoCore), (1024, k)] }.write 0x101000 192 h).write
      (regAddr 1024 0 1) 8 0x11000
    s.strandReady 1024 0 0 [1] [] ∧ (∃ u, hodOperand (s.correctRegs [1]) 1024 (s.w 1).toNat true = (u, .ok (.park 1 0, h))) ∧ isForeman 1024 = true ∧
      hodBusy (s.correctRegs [1]) 1024 0 (s.w 1).toNat true = false ∧ 4 ≤ hodStatus h ∧ hodCur h ≠ hodNstop h ∧ (s.core 1024).hodAllow ≠ 0 ∧ (s.core 1024).replay = none :=
  ⟨strandReady_of (by decide +kernel), hodFound_of (by decide +kernel), by decide +kernel⟩
/-- The three reads of HODNEW at an address. -/
def newReads (t : State) (va : Nat) : Option (State × List Byte × State × List Byte × State) :=
  match hodSource t 0 0 va 64 with
  | (u, .ok x) =>
    match hodSource u 0 0 (va + 64) (16 * hodNstop (ofBytesLE x)) with
    | (v, .ok y) =>
      match hodSource v 0 0 (hodTaddr (ofBytesLE x + 2 ^ 512 * ofBytesLE y) % 2 ^ 56) (hodLen (ofBytesLE x + 2 ^ 512 * ofBytesLE y)) with
      | (w, .ok _) => some (u, x, v, y, w)
      | _ => none
    | _ => none
  | _ => none
theorem newReads_of {t : State} {va : Nat} {p : State × List Byte × State × List Byte × State → Bool} (h : (newReads t va).any p = true) :
    ∃ u x v y w tile, hodSource t 0 0 va 64 = (u, .ok x) ∧ hodSource u 0 0 (va + 64) (16 * hodNstop (ofBytesLE x)) = (v, .ok y) ∧
      hodSource v 0 0 (hodTaddr (ofBytesLE x + 2 ^ 512 * ofBytesLE y) % 2 ^ 56) (hodLen (ofBytesLE x + 2 ^ 512 * ofBytesLE y)) = (w, .ok tile) ∧
      p (u, x, v, y, w) = true := by
  unfold newReads at h
  split at h
  · split at h
    · split at h
      · exact ⟨_, _, _, _, _, _, by assumption, by assumption, by assumption, h⟩
      · exact absurd h (by simp)
    · exact absurd h (by simp)
  · exact absurd h (by simp)
/-- The image of a hod at 0x10000 for HODNEW, with a free landing slot and with none. -/
theorem witness_HodInstructions_new : ∀ busy ∈ [1, 3],
    let s := ((holding (hodWith 2 0 0) busy).write 0x100000 192 (hodWith 2 0 0)).write (regAddr 0 0 1) 8 0x10000
    let t := s.correctRegs [1]
    s.strandReady 0 0 0 [1] [9] ∧ releasedBelow t 0 0 t.fresh = true ∧ fieldOf (t.w 1) 55 0 = 0x10000 ∧
      ∃ u x v y w tile, hodSource t 0 0 0x10000 64 = (u, .ok x) ∧ hodSource u 0 0 (0x10000 + 64) (16 * hodNstop (ofBytesLE x)) = (v, .ok y) ∧
        hodSource v 0 0 (hodTaddr (ofBytesLE x + 2 ^ 512 * ofBytesLE y) % 2 ^ 56) (hodLen (ofBytesLE x + 2 ^ 512 * ofBytesLE y)) = (w, .ok tile) ∧
        decide (hodImageValid (ofBytesLE x) = true ∧ (u.core 0).replay = none ∧ freeLanding (u.core 0) = (if busy = 1 then some 1 else none) ∧
          (∀ j, j < hodNstop (ofBytesLE x + 2 ^ 512 * ofBytesLE y) → stopValid (hodStop (ofBytesLE x + 2 ^ 512 * ofBytesLE y) j) = true) ∧
          hodNstop (ofBytesLE x + 2 ^ 512 * ofBytesLE y) = hodNstop (ofBytesLE x) ∧ (w.core 0).replay = none) = true := by
  intro busy h
  refine ⟨strandReady_of (by revert busy; decide +kernel), by revert busy; decide +kernel, by revert busy; decide +kernel, ?_⟩
  refine newReads_of (p := fun r => decide (hodImageValid (ofBytesLE r.2.1) = true ∧ (r.1.core 0).replay = none ∧
    freeLanding (r.1.core 0) = (if busy = 1 then some 1 else none) ∧
    (∀ j, j < hodNstop (ofBytesLE r.2.1 + 2 ^ 512 * ofBytesLE r.2.2.2.1) → stopValid (hodStop (ofBytesLE r.2.1 + 2 ^ 512 * ofBytesLE r.2.2.2.1) j) = true) ∧
    hodNstop (ofBytesLE r.2.1 + 2 ^ 512 * ofBytesLE r.2.2.2.1) = hodNstop (ofBytesLE r.2.1) ∧ (r.2.2.2.2.core 0).replay = none)) ?_
  revert busy; decide +kernel
/-- A forward of the hod in core 0's slot 0 to core 1. -/
def forward (ack : Option Nat) : HodFwd := ⟨7, 0, 1, 0, 1, scratchVa 0 0x20000, some 0, none, 0, 1, 5, 0, ack, none⟩
/-- Its message waits in core 1, whose landing slots are free; its holder is launch 1's core 0 in domain 1 or, for a failing pull, in 2. -/
def pulling (dom : Nat) (ack : Option Nat) : State :=
  let s := holding (hodWith 2 0 1) 1
  let k : Core := { demoCore with domain := dom, launch := 1, hodarea := BitVec.ofNat 64 (0x20000 + 2 * 2 ^ 20),
                                  inbox := if ack = none then [⟨3, 0, .zero, 0, 0, .hod 7 none, 0⟩] else [] }
  { s.setCore 1 k with fwds := [{ forward ack with dom := dom }] }
theorem witness_HodTransport :
    (∀ d ∈ [1, 2], waitingHod ((pulling d none).core 1) = some (⟨3, 0, .zero, 0, 0, .hod 7 none, 0⟩, 7) ∧ freeLanding ((pulling d none).core 1) = some 0 ∧
      (pulling d none).fwd? 7 = some { forward none with dom := d } ∧ corePkg (forward none).core = corePkg 1 ∧
      isOk (pullHod (pulling d none) 1 { forward none with dom := d }) = decide (d = 1)) ∧
    (∀ a ∈ [0, 0x1B], (pulling 1 (some a)).fwd? 7 = some (forward (some a)) ∧ hodAnswered (pulling 1 (some a)) (forward (some a)) = true ∧
      rspStopped (pulling 1 (some a)) 0 = false) ∧
    (let f := { forward none with core := 2048, fetched := some [1] }
     let s : State := { pulling 1 none with fwds := [f] }
     s.fwd? 7 = some f ∧ waitingHod (s.core 1) = some (⟨3, 0, .zero, 0, 0, .hod 7 none, 0⟩, 7) ∧ corePkg f.core ≠ corePkg 1) ∧
    (∀ k ∈ [BulkKind.copyRead 0x100000 64 0x1D, .copyWrite 0x100000 0x1D [1, 2]],
      let b : Bulk := ⟨7, 0, 7, 0, 1, 1, k⟩
      let s : State := { engineWith (copyOf .running 0 false) with bulks := [b] }
      let a : Agent := ⟨0, 1, isForeman 0, false, none⟩
      s.bulks.find? (fun b => decide (b.id = 7)) = some b ∧ b.pkg = corePkg b.core ∧
        (s.core 0).copy.q.find? (fun q => decide (q.id = b.req)) = some (copyOf .running 0 false) ∧ foOpen s 1 ⟨0x100000, 0x1D, 16⟩ = true ∧
        burstRefused s a 0x100000 64 false = none ∧ burstRefused s a 0x100000 2 true = none ∧
        isOk (burstRead { s with bulks := [] } a 70 ⟨0x100000, 0x1D, 16⟩ 64) = true ∧
        (burstWrite { s with bulks := [] } a 70 ⟨0x100000, 0x1D, 16⟩ [1, 2]).2 = none ∧ s.bulkDown 0 1 = false) ∧
    (let b : Bulk := ⟨8, 0, 9, 0, 1, 1, .hodPull 7⟩
     let s : State := { pulling 1 none with bulks := [], dies := [(0, { Die.init with roots := [(1, 0x2000)], pkgset := [(1, [0])] })] }
     s.fwd? 7 = some (forward none) ∧ rootAdmits s (2 * b.pkg) b.dom (corePkg b.core) = true ∧ isOk (pullHod s 0 (forward none)) = true) := by
  decide +kernel

/-! ### Witnesses: launches, dispatch and pointing -/

/-- A LAUNCH packet for core 0 of package 0 in domain 1 whose image header lies at 0x10000 (R346); its reserved field is zero, or not. -/
def launchPacket (bad : Nat) : Msg :=
  ⟨BitVec.ofNat 64 (3 * 2 ^ 60 + 0x140), BitVec.ofNat 64 (2 ^ 56 + 2 ^ 40 + bad), BitVec.ofNat 64 (14 * 2 ^ 22), 0x10000, BitVec.ofNat 64 (4 * 2 ^ 36), 0,
    0x11000, BitVec.ofNat 64 (2 ^ 56 + 0x20000)⟩
/-- Package 0 before any launch: domain 1 has a root on both dies, and the foreman of panel 0 a page of 2^30 bytes of it at 0. -/
def launching (ms : List Msg) (ls : List Launch) : State :=
  { State.reset with
    cores := [(1024, { Core.init with frames := 1, tlb := [⟨1, 0, 30, 0, 0x1D⟩] })], panels := [(0, { Panel.init with sys := ms })],
    dies := [(0, { Die.init with roots := [(1, 0x2000)] }), (1, { Die.init with roots := [(1, 0x2000)] })], launches := ls }
/-- The header of an image of two bytes of code at 0x40000, tables at 0x30000 with a valid class 0, and a spill region at 0x50000 (R347). -/
def imageHead : Nat :=
  [(2, 1, 1), (4, 4, 2), (16, 7, 0x40000), (24, 7, 0x40000), (32, 7, 0x30000), (40, 7, 0x31000), (64, 7, 0x32000), (72, 7, 0x50000)].foldl
    (fun h x => setHodField h x.1 x.2.1 x.2.2) 0x4C49
def starting (good : Bool) : State :=
  let s := launching [] [Launch.queuedOf 5 0 (launchPacket 0)]
  (s.write 0x10000 128 (if good then imageHead else 0)).write 0x30000 8 (2 ^ 16)
/-- The same with a range of one page at 0x10000 to mark, whose leaf carries no FO. -/
def marking : State :=
  [(0x4000000, 0x402003), (0x402000, 0x404003), (0x404000, 0x406003), (0x406000 + 8, 0x500005)].foldl (fun s e => s.write e.1 8 e.2)
    ((starting true).write 0x10000 128 (setHodField (setHodField imageHead 88 7 0x10000) 96 8 65536))
theorem witness_LaunchEvents :
    (∀ b ∈ [0, 1], let s := launching [launchPacket b] []
      sysHead s 0 0x01 = some (launchPacket b) ∧ (s.pkg 0).boot = .off ∧
        packetRefused (dropSys s 0) 0 (launchPacket b) = if b = 0 then none else some 0x01) ∧
    (∀ g ∈ [true, false], settledStart (starting g) 0 = none ∧ startable (starting g) 0 = some (Launch.queuedOf 5 0 (launchPacket 0)) ∧
      isOk (readImage (starting g) (Launch.queuedOf 5 0 (launchPacket 0))) = g) ∧
    (∀ m ∈ [true, false], let s := if m then marking else starting true
      let l := Launch.queuedOf 5 0 (launchPacket 0)
      settledStart s 0 = none ∧ startable s 0 = some l ∧
        (match readImage s l with | (t, .ok i) => decide ((unmarkedLeaves t l i.head).2 = if m then [0x406008] else []) | _ => false) = true) ∧
    (let i : Image := ⟨imageHead, [], [], [], [], [], [], 0, 0⟩
     let l := { Launch.queuedOf 5 0 (launchPacket 0) with state := .starting, image := some i, shoots := [7] }
     settledStart (launching [] [l]) 0 = some (l, i)) ∧
    (let l := { Launch.queuedOf 5 0 (launchPacket 0) with state := .ending, closing := some 3, shoots := [7] }
     (launching [] [l]).launch? 5 = some l ∧ marksSettled (launching [] [l]) l = true) ∧
    (∀ x ∈ [(0x02, 5, true), (0x03, 5, true), (0x02, 0, false), (0x03, 0, false)],
      let m : Msg := ⟨BitVec.ofNat 64 (3 * 2 ^ 60 + x.2.1 * 2 ^ 6), header1 x.1 1, 0, 0, 0, 0, 0, 0⟩
      let l : Launch := { Launch.queuedOf 5 0 (launchPacket 0) with state := .running }
      let s := launching [m] [l]
      sysHead s 0 x.1 = some m ∧ namedLaunch (dropSys s 0) 0 m = some l ∧ mayEndLaunch (dropSys s 0) l m = x.2.2) ∧
    (let l : Launch := { Launch.queuedOf 5 0 (launchPacket 0) with state := .running, endAsked := true }
     let s := (launching [] [l]).setCore 0 { Core.init with launch := 5, domain := 1 }
     s.launch? 5 = some l ∧ quiescent s l = true ∧ isStill s l = false) ∧
    (let l : Launch := { Launch.queuedOf 5 0 (launchPacket 0) with state := .ending }
     let s := (launching [] [l]).setCore 0 { Core.init with launch := 5, domain := 1 }
     s.launch? 5 = some l ∧ l.closing = none ∧ woundUp (cancelParked s l) l = true) := by decide +kernel
/-- A launch whose one strand waits at a joint is still. -/
theorem witness_LaunchEvents_still :
    let l : Launch := { Launch.queuedOf 5 0 (launchPacket 0) with state := .running }
    let k : Core := { Core.init with launch := 5, domain := 1, frames := 1 }
    let s := (launching [] [l]).setCore 0 (k.setStrand 0 { Strand.init with mode := .running, wait := .joint .ungang })
    s.launch? 5 = some l ∧ isStill s l = true ∧ l.still = none ∧
      (∀ x ∈ [(2 ^ 22, false), (2 ^ 22 - 1, false), (2 ^ 22, true)],
        let l := { l with still := some 0, reported := x.2 }
        let s : State := { s with launches := [l], cycle := x.1 }
        s.launch? 5 = some l ∧ isStill s l = true ∧ (0 + 2 ^ 22 ≤ s.cycle ∧ l.reported = false ↔ x = (2 ^ 22, false))) := by decide +kernel
/-- Core 0 with nothing running and the message of a class, or a continuation, in slot 0; entry 5 of its routine table is good. -/
def arriving (x : Slot) : State :=
  ({ State.reset with cores := [(0, { Core.init with launch := 1, domain := 1, inbox := [x] })], launches := [demoLaunch] } : State).write
    (padBase 0 + 0x15800 + 16 * 5) 8 (2 ^ 16)
def direct (cls : Nat) : Slot := ⟨0, 0, { Msg.zero with h1 := BitVec.ofNat 64 (cls * 2 ^ 58) }, 0, 0, .message, 0⟩
def continuation : Slot := { direct 5 with kind := .cont (contOf { Strand.init with cls := 5 } 2 4) }
theorem witness_DispatchEvents :
    (∀ x ∈ [direct 5, continuation], ((arriving x).core 0).preempted = false ∧
      (candidates ((arriving x).core 0)).find? (fun y => !entryGood (routineEntry (arriving x) 0 y.2)) = none ∧
      stuckTrap (arriving x) 0 = none ∧ choose (arriving x) 0 = some (0, x, 5)) ∧
    ((arriving (direct 6)).core 0).preempted = false ∧
    (candidates ((arriving (direct 6)).core 0)).find? (fun x => !entryGood (routineEntry (arriving (direct 6)) 0 x.2)) = some (direct 6, 6) := by
  decide +kernel
/-- An idle core 0 with an entry in its deque, and one whose stealing rectangle of 2 × 1 holds core 1 with an entry. -/
theorem witness_DispatchEvents_idle :
    let idle (k : Core) : State := { State.reset with cores := [(0, { k with launch := 1, domain := 1, stealmask := BitVec.ofNat 64 (2 ^ 16 + 2 ^ 10) }),
                                                                (1, dequeAt 0x20040 0x20000 { Core.init with launch := 1, domain := 1 })],
                                                      launches := [demoLaunch], cycle := 16 }
    (∀ k ∈ [dequeAt 0x20040 0x20000 .init, .init], let s := idle k
      candidates (s.core 0) = [] ∧ (∃ n, n < 4 ∧ strandFree s 0 n = true) ∧ (freeFrame (s.core 0)).isSome = true ∧ (s.core 0).preempted = false ∧
        (s.core 0).launch ≠ 0 ∧ (s.core 0).idleAt + 16 ≤ s.cycle ∧ (s.core 0).freeSlot 0 = some 0) ∧
    (dequeValid ((idle (dequeAt 0x20040 0x20000 .init)).core 0) = true ∧ dequeEmpty ((idle (dequeAt 0x20040 0x20000 .init)).core 0) = false) ∧
    (dequeEmpty ((idle .init).core 0) = true ∧ nextVictim (stealVictims (idle .init) 0) ((idle .init).core 0).stealAt = some 1 ∧
      dequeValid ((idle .init).core 1) = true ∧ dequeEmpty ((idle .init).core 1) = false) := by decide +kernel
/-- A shootdown of the whole of domain 1 from core 0, which package 0 is still to see or has seen. -/
def shooting (left : List Nat) : Shoot := ⟨7, 0, 0, 1, 0, 0, .package, left, 0⟩
theorem witness_PointingEvents :
    ((demo []).core 0).launch ≠ 0 ∧ isForeman 1024 = true ∧
    (inWindow 0x10000 = false ∧ (∀ e ∈ ((walked 0).core 0).tlb, e.serves 1 0x10000 = false) ∧
      (∀ e ∈ ((walked 0).panel 0).tlb, e.serves 1 0x10000 = false) ∧ isOk (dieWalk (walked 0) 0 0 1 0x10000) = true) ∧
    (∀ l ∈ [[0], []], let s : State := { (demo []).modStrand 0 0 (fun t => { t with wait := .shootdown 7 }) with shoots := [shooting l] }
      s.shoots.find? (fun x => decide (x.id = 7)) = some (shooting l) ∧ (shooting l).burstsLeft s = false ∧ s.rlines = [] ∧ (s.strand 0 0).wait = .shootdown 7 ∧
        (0 : Nat) = corePkg (shooting l).core) ∧
    (let s := (demo []).modCore 0 (fun k => { k with banks := [(1, { Bank.init with state := .fired, single := [16383] })] })
     ((s.core 0).bank 1).state = .fired ∧ ((s.core 0).bank 1).single ≠ []) ∧
    (let s : State := { State.reset with cycle := 2 ^ 24, slices := [(127, { Slice.init with corr := 9 })] }
     s.cycle % 2 ^ 24 = 0 ∧ (s.pkg 0).windowAt < s.cycle ∧ 127 / 128 = 0 ∧ (127, { Slice.init with corr := 9 }) ∈ s.slices ∧ (s.slices.map (·.1)).Nodup) ∧
    (let s := State.reset.modPanel 0 (fun p => { p with health := [(127, { Health.init with q := true })] })
     (Table.get .init (s.panel 0).health 127).q = true ∧ spareUsed s 0 (127 % 8) = false ∧
       (∀ c ∈ rowCores 0 (127 % 8) (127 / 8), ∀ n, n < 4 → atBoundary s c n = true) ∧
       (s.core (0 * 2048 + 1032 + 0 * 8 + 127 % 8)).replay = none) := by decide +kernel
/-- A replay that has ended on spare core 1032, and an entry of core 0 that may be replayed on spare core 1040 only. -/
def audited (digest : Option Word) : State :=
  let e : AuditEnt := ⟨7, 1, 5, 0, 0, 0, 0, .zero, [], 0, [], 0, 0, some 1, [], 0, 0⟩
  let q (n : Nat) : Table Health := ((List.range 8).filter (fun i => decide (n ≤ i))).map (fun i => (128 + i, { Health.init with q := true }))
  { demo [] with
    cores := [(0, demoCore), (1032, { Core.init with replay := digest.map (fun d => ⟨7, 0, 0, [], [], some d, false, false⟩) })],
    panels := (0, { Panel.init with ring := [e] }) :: (1, { Panel.init with health := q 1 }) :: ((List.range 6).map (fun p => (p + 2, { Panel.init with health := q 0 }))) }
theorem witness_PointingEvents_replay :
    (endedReplays (audited (some 1)) 0).length = 1 ∧ endedReplays (audited none) 0 = [] ∧
    ((List.range 8).filterMap (fun p => nextEntry (audited none) 0 (0 * 8 + p))).map (fun e => (e.core, e.launch)) = [(0, 1)] ∧
    ((audited none).core 0).launch = 1 ∧
    ((List.range 8).filterMap (fun p => nextEntry (audited none) 0 (0 * 8 + p))).map (fun e => (spareCores 0).filter (mayHost (audited none) e)) = [[1040]] := by
  decide +kernel

/-! ### Witnesses: grout, messages, Nelyen and the platform -/

/-- A DIRECT message of class 5 from core 0 to core 1, or to another package, as flit 3. -/
def flitOf (loc : FlitLoc) (kind dep pkg : Nat) : Flit :=
  ⟨3, 0, 0, 0, 1, 0, dep, 0, 0, 0, loc, { Msg.zero with h0 := BitVec.ofNat 64 (kind * 2 ^ 60 + pkg * 2 ^ 45 + 2 ^ 40), h1 := BitVec.ofNat 64 (5 * 2 ^ 58 + 3 * 2 ^ 34) },
    0, false, false, some (.strand 0 0), 0, false, false, none, 1, 9, 1, 0, none⟩
def flits (f : Flit) : State := { demo [] with flits := [f], cycle := 200, cores := [(0, demoCore), (1, demoCore)] }
theorem witness_GroutEvents :
    (let f := flitOf (.waiting 0) 0 0 0
     (flits f).flit? 3 = some f ∧ arrivedAt (flits f) (routerKey 0 0 0) = [] ∧
       (Table.get (0, 0) (flits f).ports (routerKey 0 0 0)).2 ≠ (flits f).cycle + 1 ∧ heldBack (flits f) f = false ∧
       freeLinks (flits f) 0 0 0 ≠ [] ∧ 0 + 128 ≤ (flits f).cycle ∧ (flits f).starving = []) ∧
    (∀ l ∈ [FlitLoc.queued, .held], ∀ b ∈ [true, false],
      let f := { flitOf l 0 0 0 with single := !b, badHeader := b }
      (flits f).flit? 3 = some f ∧ f.seq = (flits f).nextSeq f ∧ f.badHeader = b ∧ f.single = !b) ∧
    (let f := { flitOf .queued 0 0 0 with seq := 1 }
     (flits f).flit? 3 = some f ∧ f.seq ≠ (flits f).nextSeq f) ∧
    (∀ x ∈ [0, 1, 2], let f := flitOf (.at_ x 0 0 1) 0 0 0
      arrivedAt (flits f) x = [f] ∧ ejects (flits f) x 0 f = decide (x = 1) ∧ f.dx < 32 ∧ f.dy < 32 ∧ (f.dx ≠ x ↔ x ≠ 1) ∧
        freeLinks (flits f) f.pkg x 0 = neighbours x 0) ∧
    (let f := flitOf (.at_ 1 0 0 2) 0 0 0
     let s : State := { flits f with ports := [(routerKey 0 1 0, (201, 0))] }
     arrivedAt s 1 = [f] ∧ ejects s 1 0 f = false ∧ freeLinks s f.pkg 1 0 ≠ [] ∧
       ∀ p ∈ freeLinks s f.pkg 1 0, f.distance 1 0 ≤ f.distance p.1 p.2) := by decide +kernel
/-- A state in which a ring of core 0 holds one entry of a message, and its last read or write may have failed; the spill region is the page at
0x10000. -/
def spilled (rfail : Bool) (wfail : Option Nat) : State :=
  (demo []).modCore 0 (fun k => { k.setRing 0 ⟨[⟨0, 0, .message, 0⟩], 1, rfail, wfail, false, 0⟩ with spillq := 0x1000C })
theorem witness_MessageEvents :
    (((demo []).core 0).preempted = false ∧ (((demo []).core 0).ring 0).ents = [] ∧ ((demo []).core 0).freeSlot 0 = some 0) ∧
    (∀ k ∈ [0, 1], let f := flitOf .queued k 0 0
      (flits f).frontFlit 3 = some f ∧ f.dep = 0 ∧ f.goal = 1 ∧ takesFrom (flits f) 1 f = true ∧ msgKind f.msg = k ∧ f.bad &&& 3 = 0 ∧
        (accept (flits f) 1 0 f.msg f.bad .message f.src f.id).2 = true ∧ (accept (flits f) 1 0 f.msg f.bad (.fired 5) 1 f.id).2 = true) ∧
    (∀ n ∈ [3, 4], let f := flitOf .queued 1 0 0
      let s := (flits f).write (counterPa 1 (fieldOf f.msg.h1 57 50)) 8 (n + 2 ^ 39 + 5 * 2 ^ 32)
      let e := s.read (counterPa 1 (fieldOf f.msg.h1 57 50)) 8
      ringFull (s.core 1) 0 = false ∧ e.testBit 39 = true ∧ e % 65536 = n ∧ fieldOf f.msg.h1 49 34 = 3) ∧
    (∀ k ∈ [0, 2], ∀ v ∈ [none, some 1], let f := { flitOf .queued k 0 0 with dom := 2, via := v }
      (flits f).frontFlit 3 = some f ∧ takesFrom (flits f) 1 f = false ∧ msgKind f.msg = k) ∧
    (∀ b ∈ [true, false], (((spilled b none).core 0).ring 0).ents = [⟨0, 0, .message, 0⟩] ∧ ((spilled b none).core 0).preempted = false ∧
      (((spilled b none).core 0).ring 0).rfail = b ∧ (((spilled b none).core 0).ring 0).wfail = none ∧
      (((spilled b none).core 0).ring 0).tried = 0 ∧ ((spilled b none).core 0).freeSlot 0 = some 0 ∧
      isOk (readSpilled (spilled b none) 0 0 0) = true) ∧
    (let f := { flitOf .queued 0 0 0 with dx := 0 }
     let s : State := { spilled false (some 3) with flits := [f] }
     ((s.core 0).ring 0).rfail = false ∧ ((s.core 0).ring 0).wfail = some 3 ∧ s.frontFlit 3 = some f ∧ f.dep = 0 ∧ isCounter f.msg = false ∧
       takesFrom (s.modCore 0 (fun k => k.setRing 0 { k.ring 0 with wfail := none, tried := s.cycle })) f.goal f = true) ∧
    (∀ k ∈ [(0, none), (1, none), (2, none), (3, none), (4, some 1)], let x : Ret := ⟨7, 0, 0, k.1, 0, 0, k.2⟩
      let s : State := { demo [] with rets := [x] }
      s.rets.find? (fun x => decide (x.id = 7)) = some x ∧ rspStopped s x.core = false ∧ x.kind = k.1 ∧ x.failedPkg = k.2) := by
  decide +kernel
/-- Package 1 holds a root of domain 1 for the cores of packages 0 and 1, and runs a launch of domain 1 on its core 1. -/
def acrossWith (s : State) : State :=
  let d : Die := { Die.init with roots := [(1, 0x200000)], pkgset := [(1, [0, 1])] }
  { s with dies := [(2, d), (3, d)], cores := s.cores ++ [(2049, { demoCore with launch := 2 })] }
theorem witness_MessageEvents_far :
    (∀ k ∈ [0, 1], let f := { flitOf .queued k 4 1 with launch := 0 }
      let s := acrossWith (flits f)
      atPort s 3 = some f ∧ f.bad.getLsbD 0 = false ∧ f.cutOff s = false ∧ msgKind f.msg = k ∧ f.target = 2049 ∧ portTakes s 2049 f = true ∧
        f.dom < 65536) ∧
    (∀ k ∈ [0, 1], let f := { flitOf .queued k 4 1 with launch := 0 }
     atPort (flits f) 3 = some f ∧ f.bad.getLsbD 0 = false ∧ msgKind f.msg = k ∧ portTakes (flits f) f.target f = false) := by
  decide +kernel
/-- Accesses to HBM of package 1, at the target's port and in the remote partition, which is empty. -/
theorem witness_RemoteEvents :
    (∀ op ∈ [AccOp.load, .store, .atomic 2, .atomic 3, .atomic 4, .atomic 5, .atomic 6, .atomic 7, .atomic 8, .atomic 9, .atomic 10, .atomic 11,
        .atomic 12, .atomic 13],
      let p := piece 0x8000100000 8 .remote
      let s := acrossWith (flying op p true)
      s.acc? 7 = some (access op p true) ∧ pieceReady s (access op p true) 0 p = true ∧ (access op p true).sync = false ∧
        channelReady s 1 7 p = true ∧
        (let t := releaseFor s.tickFresh (access op p true)
         t.cannotReach 0 1 (featureOf op 8) = false ∧ portAdmits t 0 1 0 p.pa p.n (decide (op ≠ .load)) = true ∧
           isOk (performAt t (access op p true) p) = true ∧
           portAdmits (releaseFor (flying op p true).tickFresh (access op p true)) 0 1 0 p.pa p.n (decide (op ≠ .load)) = false)) ∧
    (let p := piece 0x8000100000 8 .rpart
     let s := acrossWith (flying .load p true)
     s.acc? 7 = some (access .load p true) ∧ p.pa % 64 + p.n ≤ 64 ∧ pieceReady s (access .load p true) 0 p = true ∧ s.rline 0 (p.pa / 64) = none ∧
       s.cannotReach 0 1 2 = false ∧ portAdmits s 0 1 0 p.pa p.n false = true ∧ s.poison = []) ∧
    (∀ x ∈ [(0, true), (0xFF, true), (0xFF, false)],
      let r : RLine := ⟨0, 0x8000100000 / 64, 47, 0, 0xFF, BitVec.ofNat 64 x.1, 1, 0, 0, 0, false, [(0, 0, 0)]⟩
      let s : State := { (if x.2 then acrossWith (demo []) else demo []) with rlines := [r] }
      s.rline 0 (0x8000100000 / 64) = some r ∧ r.dirty = BitVec.ofNat 64 x.1 ∧ takesBack s r = x.2) ∧
    (demo []).linkDown 0 1 = false ∧ (demo []).linkDown 1 0 = false ∧ ((demo []).port 0 0).lanes.getLsbD 3 = true ∧ ((demo []).port 0 0).banks.getLsbD 3 = true := by decide +kernel
/-- A MODE request of the host, or of a strand, at panel 0 (R393, Table 3). -/
def modeMsg (skind mode value : Nat) : Msg :=
  ⟨BitVec.ofNat 64 (3 * 2 ^ 60 + skind * 2 ^ 6), BitVec.ofNat 64 (0x41 * 2 ^ 56), BitVec.ofNat 64 mode, BitVec.ofNat 64 value, 0x10000, 0, 0, 0⟩
def asking (m : Msg) : State := (demo []).modPanel 0 (fun p => { p with sys := [m] })
theorem witness_PlatformEvents :
    (demo []).poison = [] ∧ (demo []).answers 0 = true ∧ hostOpen (demo []) 0 (paOf 0 64) = true ∧ ((demo []).panel 0).aperture.length < 16 ∧ ((demo []).pkg 0).boot = .off ∧
    (∀ x ∈ [(1, 8), (2, 1), (3, 9), (4, 1), (5, 512), (6, 20), (7, 2)], let m := modeMsg 5 x.1 x.2
      sysHead (asking m) (0 * 8) 0x41 = some m ∧ msgSkind m = 5 ∧ modeGood m = true ∧ fieldOf m.w0 7 0 = x.1 ∧ fieldOf m.w0 15 8 < 8) ∧
    (let m := modeMsg 5 5 513
     sysHead (asking m) (0 * 8) 0x41 = some m ∧ msgSkind m = 5 ∧ modeGood m = false ∧ fieldOf m.w0 7 0 = 5) ∧
    (let m := modeMsg 0 5 1
     sysHead (asking m) (0 * 8) 0x41 = some m ∧ msgSkind m = 0 ∧ fieldOf m.w0 7 0 = 5) ∧
    (let s : State := { State.reset with pkgs := [(0, { Pkg.init with held := [⟨5, 0, 0, 1, 0x10000⟩], policy := 1 })] }
     (s.pkg 0).held = [⟨5, 0, 0, 1, 0x10000⟩] ∧ modeQuiet s 0 ⟨5, 0, 0, 1, 0x10000⟩ = true ∧ (s.port (3 / 12) (3 % 12)).policy ≠ (s.pkg (3 / 12)).policy ∧
       reservesFit s (3 / 12) (3 % 12) (s.pkg (3 / 12)).policy = true) ∧
    dieQuiet State.reset 0 = true ∧ dieQuiet State.reset 1 = true ∧ dieQuiet (demo []) 0 = false ∧
    1300 ≤ ((demo []).pkg 0).clock ∧ (5 : Nat) ∉ [0x84, 0xE1, 0xE3, 0x81, 0x82, 0x83, 0xE0] := by decide +kernel

/-! ### Witnesses: frames, memory, encodings, the step -/

/-- A step or an instruction comes to a next state. -/
def goesOn (r : Result) : Bool := match r with | .next _ => true | _ => false
theorem next_of {r : Result} (h : goesOn r = true) : ∃ t, r = .next t := by
  cases r with
  | next t => exact ⟨t, rfl⟩
  | fault f => exact absurd h (by simp [goesOn])
  | refused f => exact absurd h (by simp [goesOn])
theorem witness_RegisterFrame :
    let s := demo [0, 6, 7]
    s.cur = .strand 0 0 ∧ s.badReg [1, 2] = none ∧ (s.correctRegs [1, 2]).w 2 ≠ 0 ∧ s.predicate 1 = false ∧ s.predicate 0 = true ∧
      (∃ t, exec (.add 0 3 1 2) s = .next t) ∧ ∃ t, exec (.div 0 3 1 2) s = .next t :=
  ⟨by decide +kernel, by decide +kernel, by decide +kernel, by decide +kernel, by decide +kernel, next_of (by decide +kernel), next_of (by decide +kernel)⟩
theorem witness_StoreFrame :
    ((∃ u ps, (demo []).passes 0 0 .store .store false [⟨0x10000, 8, 5, 0, 0⟩] u ps) ∧
      ∃ v q, translateFor (demo []) 0 ((demo []).core 0).domain 0x10000 .store = (v, .ok q)) ∧
    (∀ x ∈ [(Place.pad, 0x6000018000), (.fo, 0x120000), (.l2, 0x100000)], let p := piece x.2 8 x.1
      (flying .store p false).acc? 7 = some (access .store p false) ∧ (access .store p false).releases = false ∧
        (∃ t, exec (.scratchpadAccess 7 0 1) (flying .store p false) = .next t) ∧ (∃ t, exec (.foAccess 7 0 1) (flying .store p false) = .next t) ∧
        ∃ t, exec (.l2Access 7 0 1) (flying .store p false) = .next t) :=
  ⟨⟨passes_of (by decide +kernel), ok_of (by decide +kernel)⟩, fun x h =>
    ⟨by revert x; decide +kernel, by revert x; decide +kernel, ⟨_, rfl⟩, ⟨_, rfl⟩, ⟨_, rfl⟩⟩⟩
theorem witness_ReadAfterWrite : (demo []).cur = .strand 0 0 ∧ (footing []).cur = .unit 0 ∧ Memory.wf (demo [1, 2, 3]).mem = true := by decide +kernel
theorem witness_DecodeEncode :
    WellFormed .strand (.add 0 5 6 7) = true ∧ encode (.add 0 5 6 7) = some (32, 0x000E6283) ∧
      WellFormed .footing (.addi 0 0xFFF 15 15) = true ∧ (encode (.addi 0 0xFFF 15 15)).isSome = true := by decide +kernel
theorem witness_OnlyEncodings :
    decode .strand (bytesOf 4 0x000E6283 ++ [9]) = .ok (.add 0 5 6 7, [9]) ∧ decode .strand (bytesOf 4 0x01C00071) = .ok (.nop, []) := by decide +kernel
/-- ADD w5, w6, w7 at the PC of strand 0, and at that of unit 0, and a turn of each, or of another unit. -/
def adding (t : Turn) : State := { (demo [0, 0, 0, 0, 0, 0, 2, 3]).write (padBase 0) 4 0x000E6283 with agenda := [t], cur := .none }
def addingBelow : State :=
  { (footing []).modUnit 0 (fun u => { u with overlay := Memory.writeN u.overlay 0 4 0x000E6283 }) with agenda := [.run (.unit 0)] }
/-- IMMX 1 and ADDI w5, w6, 5 there, and a follower that its leader's stream sends to the ADD. -/
def prefixedCode : Nat := 123 + 680581 * 2 ^ 32
def addingLong (t : Turn) : State := { (adding t).write (padBase 0) 8 prefixedCode with agenda := [t], cur := .none }
def addingLongBelow : State := addingBelow.modUnit 0 (fun u => { u with overlay := Memory.writeN u.overlay 0 8 prefixedCode })
def addingFollower : State := (adding (.run (.strand 0 0))).modStrand 0 0 (fun t => { t with pc := 0x40, fol := 1, folq := [⟨0, 4, .step⟩] })
theorem witness_StepRunsDecoded :
    (∀ s ∈ [adding (.run (.strand 0 0)), addingFollower],
      let u : State := { s with agenda := [] }
      let v := atPlace u (.strand 0 0)
      s.agenda = [.run (.strand 0 0)] ∧ (s.strand 0 0).mode = .running ∧ (s.strand 0 0).wait = .none ∧ (s.core 0).preempted = false ∧
        (v.strand 0 0).pc = 0 ∧ (v.strand 0 0).imx = [] ∧ pendingMatrixTrap { u with cur := .strand 0 0 } 0 0 = none ∧
        s.poisonedAt (padBase 0 + 0) 4 = none ∧ decode .strand (Memory.bytes s.mem (padBase 0 + 0) 4) = .ok (.add 0 5 6 7, [])) ∧
    (adding (.run (.strand 0 0))).strand 0 0 ≠ addingFollower.strand 0 0 ∧ (addingFollower.strand 0 0).folq.head? = some ⟨0, 4, .step⟩ ∧
    (let s := addingLong (.run (.strand 0 0))
     let u : State := { s with agenda := [] }
     (s.strand 0 0).mode = .running ∧ (s.strand 0 0).wait = .none ∧ (s.strand 0 0).fol = 0 ∧ (s.strand 0 0).imx = [] ∧ (s.core 0).preempted = false ∧
     ((atPlace u (.strand 0 0)).strand 0 0).pc = 0 ∧ pendingMatrixTrap { u with cur := .strand 0 0 } 0 0 = none ∧
     s.poisonedAt (padBase 0 + 0) 8 = none ∧ decode .strand (Memory.bytes s.mem (padBase 0 + 0) 4) = .ok (.immx 1, []) ∧
     decode .strand (Memory.bytes s.mem (padBase 0 + 4) 4) = .ok (.addi 0 5 5 6, []) ∧
     extendable (ofBytesLE (Memory.bytes s.mem (padBase 0 + 4) 2)) = true) ∧
    (let s := addingBelow
     (s.unit 0).run = .running ∧ (s.unit 0).power = .awake ∧ (s.unit 0).imx = [] ∧ s.pc = 0 ∧
       decode .footing (Memory.bytes (s.unit 0).overlay 0 4) = .ok (.add 0 5 6 7, [])) ∧
    (let s := addingLongBelow
     (s.unit 0).run = .running ∧ (s.unit 0).power = .awake ∧ (s.unit 0).imx = [] ∧ s.pc = 0 ∧
       decode .footing (Memory.bytes (s.unit 0).overlay 0 4) = .ok (.immx 1, []) ∧
       decode .footing (Memory.bytes (s.unit 0).overlay 4 4) = .ok (.addi 0 5 5 6, []) ∧
       extendable (ofBytesLE (Memory.bytes (s.unit 0).overlay 4 2)) = true) ∧
    (∃ t, exec (.flitHop 0) { adding (.event (.flitHop 0)) with agenda := [], cur := .none } = .next t) :=
  ⟨by decide +kernel, by decide +kernel, by decide +kernel, by decide +kernel, by decide +kernel, by decide +kernel, ⟨_, rfl⟩⟩
/-- The step takes a prefix and the instruction that it extends as one: w5 is 2 + (1 · 2^12 + 5), and PC is 8 (R207). -/
theorem test_step_prefixed : (match step (addingLong (.run (.strand 0 0))) with
    | .next t => decide (t.read (regAddr 0 0 5) 8 = 2 + 4096 + 5 ∧ (t.strand 0 0).pc = 8)
    | _ => false) = true := by decide +kernel
/-- The step runs that instruction: w5 of strand 0 is 2 + 3, and PC is 4. -/
theorem test_step_add : (match step (adding (.run (.strand 0 0))) with
    | .next t => decide (t.read (regAddr 0 0 5) 8 = 5 ∧ (t.strand 0 0).pc = 4)
    | _ => false) = true := by decide +kernel
theorem witness_WatchdogCounts : (adding (.tick 3)).stills = true ∧ ∃ t, step (adding (.tick 3)) = .next t :=
  ⟨by decide +kernel, next_of (by decide +kernel)⟩

/-! ### Well-formedness and decoding -/

/-- R203, R204, R214: an instruction with one operand out of class, for each check, is refused on a strand. -/
theorem test_ill_formed_strand : ∀ i ∈ [Instr.sel 0 1 8 2, .cmp 0 .un 1 2 3, .cmp 0 .eq 8 2 3, .cmpi 0 1 .un 1 2, .csrr 0 0x006 1, .csrw 0 0x053 1,
    .ldp 0 0 5 1, .stp 0 0 7 1, .fence 0 .none .core, .minit 0 .none .core 1 2 3, .mctrChunk 0 .none .core 2 3, .cpy 0 2, .cpx 0 5,
    .vadd 0 .k8a 1 2 3, .vmul 0 .cf32 1 2 3, .vfma 0 .int8 1 2 3, .vabs 0 .nat8 1 2, .vneg 0 .nat8 1 2, .vshl 0 .fp32 1 2 3, .vcmp 0 .ltn .fp32 1 2 3,
    .vcmp 0 .lt .cf32 1 2 3, .vcmp 0 .un .int8 1 2 3, .vcvt 0 .fp32 .fp32 1 2, .vcvt 0 .k8a .fp32 1 2, .vdec8 0 .fp16 0 2 1 2, .venc8 0 .fp64 0 0 1 2,
    .tblld 0 2, .vred 0 .and .fp32 1 2, .vred 0 .adds .fp64 1 2, .vsave 0 8 8 1, .vload 0 15 1 1, .setst 0 .int16 false 0 0 0, .ast 0 .k8a 1 0,
    .ald 0 .fp16 .p32 0 1, .mma 0 .e8 1 0 1, .mrotBuf 0 .nat8 0 1, .fwaitc 3, .fwaitc 14, .hodset 0 1 2 3, .hodins 0 1 2 5, .tlbinv 0 .strand 1 2 3,
    .rtset 0 1 3], WellFormed .strand i = false := by decide +kernel
/-- R47: a footing core has no guards, no w16 to w31, and not these instructions. -/
theorem test_ill_formed_footing : ∀ i ∈ [Instr.add 1 1 2 3, .add 0 16 2 3, .add 0 1 16 3, .add 0 1 2 16, .cmp 0 .un 1 2 3, .br 1 false 0, .br 0 true 0,
    .movi 0 0 31, .padd 0 1 2 3, .vadd 0 .fp32 1 2 3, .send 0 1, .csrr 0 0 1, .endC, .vaddC 1 2, .fcmd 0 2 3 4], WellFormed .footing i = false := by
  decide +kernel
/-- The footing instructions and the shared ones are well-formed there. -/
theorem test_well_formed_footing : ∀ i ∈ [Instr.add 0 15 14 13, .ld 0 0 3 1 2, .fopen 1 2, .facc 3 2, .fwaitc 2, .br 0 false 4, .nop, .immx 5, .addC 1 2],
    WellFormed .footing i = true := by decide +kernel
/-- R213: refused words and their details: an unlisted function, a reserved bit, an operand out of class, and, on a footing core, an
encoding of strands alone. -/
theorem test_refused_words :
    let refuses (p : Proc) (w : Nat) (e : DecodeError) : Bool := match decode p (bytesOf 4 w) with | .error x => decide (x = e) | .ok _ => false
    refuses .strand (0x03 + 0x1E * 2 ^ 25) .unassigned = true ∧ refuses .strand (0x03 + 0x18 * 2 ^ 25 + 2 ^ 17) .reservedField = true ∧
      refuses .strand (0x03 + 0x26 * 2 ^ 25) .outOfClass = true ∧ refuses .footing (0x03 + 0x14 * 2 ^ 25) .repertoire = true := by decide +kernel
/-- Chapter 13, Table 4. -/
theorem test_decode_scalar : ∀ x ∈ [(0x000E6283, Instr.add 0 5 6 7), (0x48949203, .cmp 2 .ltn 4 9 10), (0xC438808F, .cmpi 0 0x19C .lt 1 8),
    (0x0A10628D, .sari 0 40 5 6), (0x10006291, .paddi 0 256 5 6), (0x00CA1195, .kand 3 3 1 5), (0x00209019, .csrw 0 0x010 9),
    (0x0200561B, .movsWrite 0 12 5)], decodeTableWord 32 x.1 = some x.2 := by decide +kernel
/-- Chapter 12, "Encodings worked". -/
theorem test_decode_memory : ∀ x ∈ [(0x001662A1, Instr.ld 0 2 3 5 6), (0xFE383623, .ldn 0 0x3FF 0 12 3), (0x5E124029, .stl 0 .package 3 4 9),
    (0xE2067131, .atcas 0 .acqRel .system 2 7 3), (0x520C4537, .mbarAwait 0 .acquire .panel 10 4 6), (0x00004043, .cpy 0 4),
    (0x02004143, .cpynb 0 2 4), (0x1E0062A9, .lda 0 .package 3 5 6)], decodeTableWord 32 x.1 = some x.2 := by decide +kernel
/-- Chapter 14, Table 7. -/
theorem test_decode_vector : ∀ x ∈ [(0x648620C5, Instr.vfma 2 .fp32 1 2 3), (0x440C524B, .vcmp 0 .lt .fp32 4 5 6),
    (0x080483CD, .vcvt 0 .bf16 .fp32 7 8), (0x240414CF, .venc8 0 .fp32 0 2 9 1), (0xAA0620D1, .vsel 0 5 1 2 3),
    (0x040014D3, .vred 0 .add .fp32 9 1), (0x04021153, .vscan 0 .add .fp32 2 1), (0x080491D7, .vld 0 2 .bf16 3 9), (0x000E445D, .vsave 0 7 8 4)], decodeTableWord 32 x.1 = some x.2 := by decide +kernel
/-- Chapter 15, Tables 3 and 6. -/
theorem test_decode_matrix : ∀ x ∈ [(0x081E20DF, Instr.setst 0 .bf16 false 15 1 2), (0x640001DF, .ast 0 .fp32 3 0),
    (0x8406415F, .ald 0 .fp32 .p32 2 4), (0x08061061, .mma 0 .bf16 3 0 1), (0x482000E1, .mrotBuf 0 .bf16 0 1), (0x400A4563, .fcmd 0 10 4 5),
    (0x26002065, .facc 3 2), (0xC0000165, .fwaitc 2)], decodeTableWord 32 x.1 = some x.2 := by decide +kernel
/-- Chapter 16, Table 6, and the 16-bit words of chapter 11. -/
theorem test_decode_control : (∀ x ∈ [(0x00000167, Instr.send 0 2), (0x20000067, .sendt 0), (0xC00060E7, .dqsteal 0 1 6),
    (0x20004069, .hodnext 0 4), (0x44105069, .hodset 0 2 5 8), (0xFEFFA06B, .br 3 true 0xFFFA), (0xFE30306F, .loop 0 0xFF8 3),
    (0x02800071, .endAct 2), (0x8A000073, .rejoin 0 5), (0x660A4175, .tlbinv 0 .package 2 4 5)], decodeTableWord 32 x.1 = some x.2) ∧
    decodeTableWord 16 0x001C = some .nopC ∧ decodeTableWord 16 0x081C = some .endC := by decide +kernel

/-! ### Results that the spec works out -/

/-- What w(d) holds after an instruction, on strand 0 of core 0 with w0 and on as listed, and the trap cause that it leaves. -/
def after (i : Instr) (ws : List Nat) (d : Nat) : Nat × Nat :=
  match exec i (demo ws) with
  | .next t => ((t.w d).toNat, (t.strand 0 0).trapc.toNat % 256)
  | _ => (0, 0xFF)
/-- R241. -/
theorem test_mulh : after (.mulh 0 3 1 2) [0, minusOne, minusOne] 3 = (0, 0) ∧ after (.mulhn 0 3 1 2) [0, minusOne, minusOne] 3 = (minusOne - 1, 0) := by
  decide +kernel
/-- R241: only the low six bits of a count count; SAR copies bit 63. -/
theorem test_shifts : after (.shl 0 3 1 2) [0, 3, 65] 3 = (6, 0) ∧ after (.sar 0 3 1 2) [0, 2 ^ 63, 63] 3 = (minusOne, 0) ∧
    after (.rot 0 3 1 2) [0, 2 ^ 63 + 1, 1] 3 = (3, 0) := by decide +kernel
/-- R242: −2^63 ÷ −1, the sign of a remainder, and division by zero, which leaves w(d). -/
theorem test_division : after (.div 0 3 1 2) [0, 2 ^ 63, minusOne] 3 = (2 ^ 63, 0) ∧ after (.rem 0 3 1 2) [0, 2 ^ 64 - 7, 2] 3 = (minusOne, 0) ∧
    after (.remn 0 3 1 2) [0, 7, 0, 5] 3 = (5, 0x15) := by decide +kernel
/-- R243, R244. -/
theorem test_bits : after (.clz 0 3 1) [0, 0] 3 = (64, 0) ∧ after (.ctz 0 3 1) [0, 8] 3 = (3, 0) ∧ after (.popc 0 3 1) [0, minusOne] 3 = (64, 0) ∧
    after (.sext 0 0 3 1) [0, 0x180] 3 = (2 ^ 64 - 128, 0) ∧ after (.zext 0 1 3 1) [0, 0x18000] 3 = (0x8000, 0) := by decide +kernel
/-- R247, R250: immediates are sign-extended. -/
theorem test_immediates : after (.andi 0 0xFF0 3 1) [0, minusOne] 3 = (2 ^ 64 - 16, 0) ∧ after (.movi 0 0x10000 3) [] 3 = (2 ^ 64 - 65536, 0) ∧
    after (.addi 0 0xFFF 1 1) [0, 0] 1 = (minusOne, 0) := by decide +kernel
/-- R252, R253, R254: PADD keeps the tag or traps; PFMT's worked pointer. -/
theorem test_pointers : after (.padd 0 3 1 2) [0, 0x6300000000000008, 2 ^ 64 - 8] 3 = (0x6300000000000000, 0) ∧
    after (.padd 0 3 1 2) [0, 7, 2 ^ 64 - 8, 9] 3 = (9, 0x0B) ∧ after (.ptag 0 3 1 2) [0, 0x0100000000000008, 0x163] 3 = (0x6300000000000008, 0) ∧
    after (.pfmt 0 3 1) [0, 0x6300001234567800] 3 = (0x000000200001030C, 0) := by decide +kernel
/-- R249: the immediate −1 compares as the greatest unsigned value. -/
theorem test_compare : (match exec (.cmpi 0 0x1FF .ltn 3 1) (demo [0, 5]) with
    | .next t => decide (t.k 3 = BitVec.allOnes 64)
    | _ => false) = true := by decide +kernel
/-- Chapter 09, Table 3: codes and flags. -/
theorem test_k8a_encode : [0x40533333, 0x40580000, 0xC0533333, 0x43FA0000, 0x3A83126F, 0x7FC00000].map (fun x => tableA.encode (fpF32.decode x)) =
    [(0x45, flagNX), (0x46, flagNX), (0xC5, flagNX), (0x7F, flagSAT + flagNX), (0, flagUF + flagNX), (0, flagNV)] := by decide +kernel
/-- Chapter 09, "A worked group": the narrow pass gives 1.5, and the FP32 pass 1.75 with nothing lost. -/
def workedProducts : List (Val × Val) :=
  [(0x4780, 0x4700), (0x3F40, 0x3F80), (0xC780, 0x4700), (0, 0)].map (fun p => (fpB16.decode p.1, fpB16.decode p.2))
theorem test_worked_group : narrowPass workedProducts 0x3F800000 = (0x3FC00000, false, false) ∧
    pairPass fpF32 64 workedProducts [false, false, false, false] 0x3F800000 0 = (0x3FE00000, 0, false, false) := by decide +kernel
/-- R170: −2^31 is never produced. -/
theorem test_int_pass : intPass [(-128, 127)] (2 ^ 31 + 1) = (2 ^ 31 + 1, true) ∧ intPass [(3, -4)] 20 = (8, false) := by decide +kernel
/-- R166: 300.0 saturates to 127 with NV alone, and 2.5 rounds to 2 with NX. -/
theorem test_convert : convertElem .rne tableA .fp32 .int8 0x43960000 = some (127, flagNV) ∧ convertElem .rne tableA .fp32 .int8 0x40200000 = some (2, flagNX) := by
  decide +kernel
/-- Chapter 18, "A packet worked": the rectangle 0x2444 covers cores 68, 69, 100 and 101; with X = 5 it is refused. -/
theorem test_rectangle : rectCores 0 0x2444 = [68, 69, 100, 101] ∧ rectAligned 0x2444 = true ∧ rectAligned 0x2445 = false := by decide +kernel
/-- Chapter 02: 0x12_3456_7800 has table indices 0, 1, 141 and 86, and offset 0x7800 in a 64 KiB page; the walk passes those entries. -/
def tables : State :=
  let s : State := { demo [] with dies := [(0, { Die.init with roots := [(1, 0x400000 / 2 ^ 13)], pkgset := [(1, [0])] })] }
  [(0x400000, 0x402003), (0x402000 + 8, 0x404003), (0x404000 + 8 * 141, 0x406003), (0x406000 + 8 * 86, 0x500005)].foldl (fun s e => s.write e.1 8 e.2) s
theorem test_page_walk : (match (dieWalk tables 0 0 1 0x1234567800).2 with | .ok p => p.pa | .error _ => 0) = 0x507800 := by decide +kernel
/-- R28, R29: a table pointer with R set, and a leaf that is not valid. -/
theorem test_page_walk_refused : (match (dieWalk (tables.write 0x402008 8 0x404007) 0 0 1 0x1234567800).2 with | .ok _ => (0, 0) | .error r => (r.cause, r.kind)) = (7, 1) ∧
    (match (dieWalk tables 0 0 1 0x1234580000).2 with | .ok _ => (9, 9) | .error r => (r.cause, r.kind)) = (7, 0) := by decide +kernel

end Sys2Proof.Tests
end

section
/-! SUPPORT. The scalar, pointer and mask instructions (chapter 13): what each of their operand forms answers when its registers are
ready, the values that they compute, and the statements about them. -/

namespace Sys2Proof.Machine

/-! ### Ready registers -/

section Ready

variable {s : State} {c n : Nat} {rs rs' : List Nat}

/-- A part of registers that need no wait needs none. -/
theorem State.waitsFor_of_subset (hsub : rs' ⊆ rs) (h : s.waitsFor rs = false) : s.waitsFor rs' = false := by
  unfold State.waitsFor at h ⊢
  split at h
  · exact List.any_eq_false.2 fun r hr => List.any_eq_false.1 h r (hsub hr)
  · rfl

/-- A part of registers without poison has none. -/
theorem State.badReg_of_subset (hsub : rs' ⊆ rs) (h : s.badReg rs = none) : s.badReg rs' = none := by
  unfold State.badReg at h ⊢
  split at h
  · rw [Option.map_eq_none_iff, List.find?_eq_none] at h ⊢
    exact fun r hr => h r (hsub hr)
  · rfl

variable {g : Nat} {reads writes reads' writes' : List Nat}

theorem State.ready.mono (h : s.ready g reads writes) (hr : reads' ⊆ reads) (hw : writes' ⊆ writes) : s.ready g reads' writes' :=
  ⟨h.runs, h.guard, State.waitsFor_of_subset hw h.written, State.waitsFor_of_subset hr h.read, State.badReg_of_subset hr h.sound⟩

theorem State.strandReady.mono (h : s.strandReady c n g reads writes) (hr : reads' ⊆ reads) (hw : writes' ⊆ writes) :
    s.strandReady c n g reads' writes' :=
  ⟨h.runs, h.guard, State.waitsFor_of_subset hw h.written, State.waitsFor_of_subset hr h.read, State.badReg_of_subset hr h.sound⟩

/-- Guard 0 is k0, which reads as all ones (R138, R205). -/
theorem State.predicate_zero (s : State) : s.predicate 0 = true := by
  unfold State.predicate
  split
  · simp [Strand.mask]
  · rfl

end Ready

/-! ### The shared forms on ready registers -/

section Forms

variable {s t : State} {c n : Nat} {g : Fin 8} {len : Nat} {reads writes : List Nat} {cause detail : Nat} {x : Word}

theorem State.ready.scalar {f : State → State} (h : s.ready g reads writes) :
    scalar g len reads writes f s = .next ((f (s.correctRegs reads)).advance len) :=
  scalar_ready h.runs h.guard h.written h.read h.sound

theorem State.ready.scalarTrap_ok {f : State → Except (Nat × Nat × Word) State} (h : s.ready g reads writes)
    (hf : f (s.correctRegs reads) = .ok t) : scalarTrap g len reads writes f s = .next (t.advance len) := by
  rw [scalarTrap, onProcessor_runs h.runs, guarded_true h.guard, if_neg (by simp [h.written]), needing_ready h.read h.sound, hf]

theorem State.ready.scalarTrap_error {f : State → Except (Nat × Nat × Word) State} (h : s.ready g reads writes)
    (hf : f (s.correctRegs reads) = .error (cause, detail, x)) :
    scalarTrap g len reads writes f s = .next ((s.correctRegs reads).trap cause detail x) := by
  rw [scalarTrap, onProcessor_runs h.runs, guarded_true h.guard, if_neg (by simp [h.written]), needing_ready h.read h.sound, hf]

theorem State.strandReady.strandOp_ok {f : Nat → Nat → State → Except (Nat × Nat × Word) State}
    (h : s.strandReady c n g reads writes) (hf : f c n (s.correctRegs reads) = .ok t) :
    strandOp g len reads writes f s = .next (t.advance len) := by
  rw [strandOp, onStrand_strand h.runs, guarded_true h.guard, if_neg (by simp [h.written]), needing_ready h.read h.sound, hf]

theorem State.strandReady.strandOp_error {f : Nat → Nat → State → Except (Nat × Nat × Word) State}
    (h : s.strandReady c n g reads writes) (hf : f c n (s.correctRegs reads) = .error (cause, detail, x)) :
    strandOp g len reads writes f s = .next ((s.correctRegs reads).trap cause detail x) := by
  rw [strandOp, onStrand_strand h.runs, guarded_true h.guard, if_neg (by simp [h.written]), needing_ready h.read h.sound, hf]

/-- An instruction of strands that reads no w register finds no error to correct. -/
theorem State.strandReady.strandOp_noReads {f : Nat → Nat → State → Except (Nat × Nat × Word) State}
    (h : s.strandReady c n g [] writes) (hf : f c n s = .ok t) : strandOp g len [] writes f s = .next (t.advance len) :=
  h.strandOp_ok (by rw [State.correctRegs_nil, hf])

/-- An instruction of strands that writes a value which may be a trap instead: the value. -/
theorem State.strandReady.strandOp_value {d : Nat} {f : State → Except (Nat × Nat × Word) Word}
    (h : s.strandReady c n g reads [d]) (hf : f (s.correctRegs reads) = .ok x) :
    strandOp g len reads [d] (fun _ _ s => (f s).map (s.setW d)) s = .next (((s.correctRegs reads).setW d x).advance len) :=
  h.strandOp_ok (by rw [hf]; rfl)

/-- An instruction of strands that writes a value which may be a trap instead: the trap. -/
theorem State.strandReady.strandOp_trap {d : Nat} {f : State → Except (Nat × Nat × Word) Word}
    (h : s.strandReady c n g reads [d]) (hf : f (s.correctRegs reads) = .error (cause, detail, x)) :
    strandOp g len reads [d] (fun _ _ s => (f s).map (s.setW d)) s = .next ((s.correctRegs reads).trap cause detail x) :=
  h.strandOp_error (by rw [hf]; rfl)

end Forms

/-! ### The operand forms on ready registers -/

section OperandForms

variable {s : State} {c n u : Nat} {g : Fin 8} {len d a b : Nat}

theorem State.ready.aluR {f : Word → Word} (h : s.ready g [a] [d]) :
    aluR g len d a f s = .next (((s.correctRegs [a]).setW d (f ((s.correctRegs [a]).w a))).advance len) :=
  h.scalar

theorem State.ready.aluRI {k : Nat} {i : BitVec k} {f : Word → Word → Word} (h : s.ready g [a] [d]) :
    aluRI g len d a i f s =
      .next (((s.correctRegs [a]).setW d (f ((s.correctRegs [a]).w a) ((s.correctRegs [a]).imm i))).advance len) :=
  h.scalar

theorem State.ready.aluI {k : Nat} {i : BitVec k} (h : s.ready g [] [d]) :
    aluI g len d i s = .next ((s.setW d (s.imm i)).advance len) := by
  rw [Machine.aluI, h.scalar, State.correctRegs_nil]

theorem State.ready.divRR_of_ne_zero {f : Word → Word → Word} {z : Word → Word} (h : s.ready g [a, b] [d])
    (hy : (s.correctRegs [a, b]).w b ≠ 0) :
    divRR g d a b f z s =
      .next (((s.correctRegs [a, b]).setW d (f ((s.correctRegs [a, b]).w a) ((s.correctRegs [a, b]).w b))).advance 4) :=
  h.scalarTrap_ok (if_neg hy)

theorem State.ready.divRR_zero_strand {f : Word → Word → Word} {z : Word → Word} (h : s.ready g [a, b] [d])
    (hy : (s.correctRegs [a, b]).w b = 0) (hc : s.cur = .strand c n) :
    divRR g d a b f z s = .next ((s.correctRegs [a, b]).trap 0x15 0 0) :=
  h.scalarTrap_error (by simp only [hy, if_true, State.correctRegs_cur, hc])

theorem State.ready.divRR_zero_unit {f : Word → Word → Word} {z : Word → Word} (h : s.ready g [a, b] [d])
    (hy : (s.correctRegs [a, b]).w b = 0) (hc : s.cur = .unit u) :
    divRR g d a b f z s = .next (((s.correctRegs [a, b]).setW d (z ((s.correctRegs [a, b]).w a))).advance 4) :=
  h.scalarTrap_ok (by simp only [hy, if_true, State.correctRegs_cur, hc])

/-- On a strand a comparison's outcome is a mask (R246). -/
theorem State.setFlag_strand {r : Nat} {o : Bool} (hc : s.cur = .strand c n) :
    s.setFlag r o = s.setK r (if o then BitVec.allOnes 64 else 0) := by
  simp only [State.setFlag, State.setK, State.modMe, hc, Actor.ids]

/-- On a footing core a comparison's outcome is a w register (R240). -/
theorem State.setFlag_unit {r : Nat} {o : Bool} (hc : s.cur = .unit u) : s.setFlag r o = s.setW r (if o then 1 else 0) := by
  simp only [State.setFlag, hc]

theorem State.ready.cmpRR {f : Word → Word → Bool} (h : s.ready g [a, b] (flagReg s d)) :
    cmpRR g d a b f s =
      .next (((s.correctRegs [a, b]).setFlag d (f ((s.correctRegs [a, b]).w a) ((s.correctRegs [a, b]).w b))).advance 4) :=
  h.scalar

theorem State.ready.cmpRI {k : Nat} {i : BitVec k} {f : Word → Word → Bool} (h : s.ready g [a] (flagReg s d)) :
    cmpRI g d a i f s =
      .next (((s.correctRegs [a]).setFlag d (f ((s.correctRegs [a]).w a) ((s.correctRegs [a]).imm i))).advance 4) :=
  h.scalar

theorem State.strandReady.maskOp {f : State → Word} (h : s.strandReady c n g [] []) :
    maskOp g d f s = .next ((s.setK d (f s)).advance 4) :=
  h.strandOp_noReads rfl

/-- SEL with a false guard retires with no effect, whatever the selector holds (R205, R245). -/
theorem execSel_of_not_predicate {d a b : Fin 32} (hc : s.cur = .strand c n) (hg : s.predicate g = false) :
    execSel g d a b s = .next (s.advance 4) := by
  rw [execSel, onProcessor_runs (by simp [hc]), guarded_false hg]

/-- SEL on a strand reads bit 0 of its selector and then either moves w(b) or retires (R245). -/
theorem State.strandReady.execSel {d a b : Fin 32} (h : s.strandReady c n g [b] [d]) :
    execSel g d a b s = if (s.k a).getLsbD 0 then .next (((s.correctRegs [b]).setW d ((s.correctRegs [b]).w b)).advance 4)
      else .next (s.advance 4) := by
  have hruns : s.cur ≠ .none := by simp [h.runs]
  have hregs : flagReg s a = [] := by simp only [flagReg, h.runs]
  have hnone : s.strandReady c n g [] [] := h.mono (List.nil_subset _) (List.nil_subset _)
  have hflag : s.flag a = (s.k a).getLsbD 0 := by simp only [State.flag, State.k, State.me, h.runs, Actor.ids]
  have hmove : s.ready (0 : Fin 8) [b] [d] := ⟨hruns, s.predicate_zero, h.written, h.read, h.sound⟩
  rw [Machine.execSel, onProcessor_runs hruns, guarded_true h.guard, hregs, needing_ready hnone.read hnone.sound,
    State.correctRegs_nil, hflag, hmove.scalar]

end OperandForms

/-! ### The values that they compute -/

/-- The conditions that compare by order, as the order of the signed and unsigned values (R246). -/
theorem not_slt_eq_decide (x y : Word) : (!y.slt x) = decide (x.toInt ≤ y.toInt) := by
  simp [BitVec.slt, ← decide_not]

theorem not_ult_eq_decide (x y : Word) : (!y.ult x) = decide (x.toNat ≤ y.toNat) := by
  simp [BitVec.ult, ← decide_not]

/-- An immediate shift count is less than 64, so that it is the whole count (R248). -/
@[simp] theorem shiftCount_word (m : Fin 64) : shiftCount (word m) = m := by
  simp only [shiftCount, word, BitVec.toNat_ofNat]
  omega

/-- The signed value of all bits of a word (R4). -/
theorem signedOf_toNat {n : Nat} (x : BitVec n) : signedOf n x.toNat = x.toInt := by
  have hlt := x.isLt
  rw [signedOf, Nat.mod_eq_of_lt hlt, BitVec.toInt_eq_toNat_cond]
  cases n with
  | zero => simp
  | succ n =>
    have hpow : 2 ^ (n + 1) = 2 * 2 ^ n := by rw [pow_succ, mul_comm]
    simp only [Nat.add_sub_cancel]
    by_cases h : x.toNat < 2 ^ n
    · rw [if_pos h, if_pos (by omega)]
    · rw [if_neg h, if_neg (by omega)]; push_cast; rfl

/-- Bits joined are a sum (R207). -/
theorem toNat_append_eq_add {m n : Nat} (x : BitVec m) (y : BitVec n) : (x ++ y).toNat = x.toNat * 2 ^ n + y.toNat := by
  rw [BitVec.toNat_append, ← Nat.shiftLeft_add_eq_or_of_lt y.isLt, Nat.shiftLeft_eq]

/-- The immediate without a prefix is the field sign-extended (R207, R247). -/
theorem immOf_nil {n : Nat} (i : BitVec n) : immOf [] n i.toNat = i.signExtend 64 := by
  rw [immOf, signedOf_toNat, BitVec.signExtend]

/-- One prefix stands above the field (R207). -/
theorem immOf_one {n : Nat} (i : BitVec n) (x : BitVec 27) : immOf [x] n i.toNat = (x ++ i).signExtend 64 := by
  rw [immOf, ← toNat_append_eq_add, signedOf_toNat, BitVec.signExtend]

/-- Two prefixes stand above the field in fetch order (R207). -/
theorem immOf_two {n : Nat} (i : BitVec n) (x y : BitVec 27) :
    immOf [x, y] n i.toNat = (x ++ (y ++ i)).signExtend 64 := by
  have hval : (x.toNat * 2 ^ 27 + y.toNat) * 2 ^ n + i.toNat = (x ++ (y ++ i)).toNat := by
    rw [toNat_append_eq_add, toNat_append_eq_add, pow_add]
    ring
  have hwidth : 54 + n = 27 + (27 + n) := by omega
  rw [immOf, hval, hwidth, signedOf_toNat, BitVec.signExtend]

/-- A pointer addition within 56 bits keeps the tag (R252). -/
theorem pointerAdd_ok {p o : Word} (hlo : 0 ≤ ((p.toNat % 2 ^ 56 : Nat) : Int) + o.toInt)
    (hhi : ((p.toNat % 2 ^ 56 : Nat) : Int) + o.toInt < 2 ^ 56) :
    pointerAdd p o = .ok (word (p.toNat / 2 ^ 56 * 2 ^ 56 + (((p.toNat % 2 ^ 56 : Nat) : Int) + o.toInt).toNat)) :=
  if_neg (not_or.2 ⟨not_lt.2 hlo, not_le.2 hhi⟩)

/-- A pointer addition outside 56 bits traps with the address (R252). -/
theorem pointerAdd_error {p o : Word}
    (h : ((p.toNat % 2 ^ 56 : Nat) : Int) + o.toInt < 0 ∨ 2 ^ 56 ≤ ((p.toNat % 2 ^ 56 : Nat) : Int) + o.toInt) :
    pointerAdd p o = .error (0x0B, 0, word (p.toNat % 2 ^ 56)) :=
  if_pos h

/-- Of the formats with a code below 16, those with codes 0, 5 and 15 allow no block (R19, R20). -/
theorem blkAllowed_ofCode_iff {f : Nat} (h : f < 16) : (Fmt.ofCode f).blkAllowed = true ↔ f ∉ [0, 5, 15] := by
  revert f
  decide

/-- A tag is FMT over the three bits of BLK, and reserved as R20 says. -/
theorem tagValid_iff (t : Nat) : tagValid t = true ↔ t / 8 < 16 ∧ (t % 8 = 0 ∨ t / 8 ∉ [0, 5, 15]) := by
  simp only [tagValid, Bool.and_eq_true, Bool.or_eq_true, decide_eq_true_eq]
  exact and_congr_right fun h => or_congr_right (blkAllowed_ofCode_iff h)

/-- FMT of a pointer is bits 63 to 59, and BLK bits 58 to 56 (R19). -/
theorem tag_div_eight (x : Word) : fieldOf x 63 56 / 8 = x.toNat / 2 ^ 59 := by
  have := x.isLt
  simp only [fieldOf, bits]
  omega

theorem tag_mod_eight (x : Word) : fieldOf x 63 56 % 8 = x.toNat / 2 ^ 56 % 8 := by
  simp only [fieldOf, bits]
  omega

/-- PFMT of a tag that is not reserved (R254, Table 2). -/
theorem tagFields_ok {x : Word} (hfmt : x.toNat / 2 ^ 59 < 16)
    (hblk : x.toNat / 2 ^ 56 % 8 = 0 ∨ x.toNat / 2 ^ 59 ∉ [0, 5, 15]) :
    tagFields x = .ok (word ((if x.toNat / 2 ^ 56 % 8 = 0 then 0 else 2 ^ (x.toNat / 2 ^ 56 % 8 + 2)) * 2 ^ 32 +
      (Fmt.ofCode (x.toNat / 2 ^ 59)).size * 2 ^ 16 + x.toNat / 2 ^ 56 % 8 * 2 ^ 8 + x.toNat / 2 ^ 59)) := by
  have hvalid : tagValid (fieldOf x 63 56) = true := by
    rw [tagValid_iff, tag_div_eight, tag_mod_eight]
    exact ⟨hfmt, hblk⟩
  simp only [tagFields, hvalid, if_true, tag_div_eight, tag_mod_eight]

/-- PFMT of a reserved tag (R254). -/
theorem tagFields_error {x : Word}
    (h : 16 ≤ x.toNat / 2 ^ 59 ∨ (x.toNat / 2 ^ 56 % 8 ≠ 0 ∧ x.toNat / 2 ^ 59 ∈ [0, 5, 15])) :
    tagFields x = .error (0x03, 0, word (x.toNat % 2 ^ 56)) := by
  have hvalid : ¬ tagValid (fieldOf x 63 56) = true := by
    rw [tagValid_iff, tag_div_eight, tag_mod_eight]
    rintro ⟨hfmt, hblk⟩
    rcases h with h | ⟨hne, hmem⟩
    · omega
    · exact hblk.elim hne (fun hnot => hnot hmem)
  simp only [tagFields, hvalid, if_false, Bool.false_eq_true]

/-! ### Which form each instruction is -/

section Dispatch

variable (s : State) (g : Fin 8) (d a b : Fin 32)

theorem exec_div : exec (.div g d a b) s = divRR g d a b divS (fun _ => BitVec.allOnes 64) s := rfl
theorem exec_divn : exec (.divn g d a b) s = divRR g d a b divU (fun _ => BitVec.allOnes 64) s := rfl
theorem exec_rem : exec (.rem g d a b) s = divRR g d a b remS (fun x => x) s := rfl
theorem exec_remn : exec (.remn g d a b) s = divRR g d a b remU (fun x => x) s := rfl
theorem exec_clz : exec (.clz g d a) s = aluR g 4 d a leadingZeros s := rfl
theorem exec_ctz : exec (.ctz g d a) s = aluR g 4 d a trailingZeros s := rfl
theorem exec_popc : exec (.popc g d a) s = aluR g 4 d a setBits s := rfl
theorem exec_mov : exec (.mov g d a) s = aluR g 4 d a (fun x => x) s := rfl
theorem exec_sext (n : Fin 3) : exec (.sext g n d a) s = aluR g 4 d a (fun x => signExt (widthBits n) x.toNat) s := rfl
theorem exec_zext (n : Fin 3) : exec (.zext g n d a) s = aluR g 4 d a (fun x => zeroExt (widthBits n) x.toNat) s := rfl
theorem exec_shli (m : Fin 64) : exec (.shli g m d a) s = aluR g 4 d a (fun x => x <<< m.val) s := by
  have hword : exec (.shli g m d a) s = aluR g 4 d a (fun x => shiftL x (word m)) s := rfl
  simpa only [shiftL, shiftCount_word] using hword
theorem exec_shri (m : Fin 64) : exec (.shri g m d a) s = aluR g 4 d a (fun x => x >>> m.val) s := by
  have hword : exec (.shri g m d a) s = aluR g 4 d a (fun x => shiftR x (word m)) s := rfl
  simpa only [shiftR, shiftCount_word] using hword
theorem exec_sari (m : Fin 64) : exec (.sari g m d a) s = aluR g 4 d a (fun x => x.sshiftRight m.val) s := by
  have hword : exec (.sari g m d a) s = aluR g 4 d a (fun x => shiftA x (word m)) s := rfl
  simpa only [shiftA, shiftCount_word] using hword
theorem exec_addi (i : BitVec 12) : exec (.addi g i d a) s = aluRI g 4 d a i (· + ·) s := rfl
theorem exec_andi (i : BitVec 12) : exec (.andi g i d a) s = aluRI g 4 d a i (· &&& ·) s := rfl
theorem exec_ori (i : BitVec 12) : exec (.ori g i d a) s = aluRI g 4 d a i (· ||| ·) s := rfl
theorem exec_xori (i : BitVec 12) : exec (.xori g i d a) s = aluRI g 4 d a i (· ^^^ ·) s := rfl
theorem exec_movi (i : BitVec 17) : exec (.movi g i d) s = aluI g 4 d i s := rfl
theorem exec_cmp (c : Cond) : exec (.cmp g c d a b) s = cmpRR g d a b (condHolds c) s := rfl
theorem exec_cmpi (i : BitVec 9) (c : Cond) : exec (.cmpi g i c d a) s = cmpRI g d a i (condHolds c) s := rfl
theorem exec_padd : exec (.padd g d a b) s =
    strandOp g 4 [a, b] [d] (fun _ _ s => (pointerAdd (s.w a) (s.w b)).map (s.setW d)) s := rfl
theorem exec_paddi (i : BitVec 12) : exec (.paddi g i d a) s =
    strandOp g 4 [a] [d] (fun _ _ s => (pointerAdd (s.w a) (s.imm i)).map (s.setW d)) s := rfl
theorem exec_ptag : exec (.ptag g d a b) s =
    strandOp g 4 [a, b] [d] (fun _ _ s => .ok (s.setW d (withTag (s.w a) (s.w b)))) s := rfl
theorem exec_pfmt : exec (.pfmt g d a) s = strandOp g 4 [a] [d] (fun _ _ s => (tagFields (s.w a)).map (s.setW d)) s := rfl
theorem exec_sel : exec (.sel g d a b) s = execSel g d a b s := rfl

variable (k l m : Fin 8)

theorem exec_kand : exec (.kand g k l m) s = maskOp g k (fun s => s.k l &&& s.k m) s := rfl
theorem exec_kor : exec (.kor g k l m) s = maskOp g k (fun s => s.k l ||| s.k m) s := rfl
theorem exec_kxor : exec (.kxor g k l m) s = maskOp g k (fun s => s.k l ^^^ s.k m) s := rfl
theorem exec_knot : exec (.knot g k l) s = maskOp g k (fun s => ~~~(s.k l)) s := rfl
theorem exec_kmov : exec (.kmov g k l) s = maskOp g k (fun s => s.k l) s := rfl
theorem exec_kset : exec (.kset g k a) s = strandOp g 4 [a] [] (fun _ _ s => .ok (s.setK k (s.w a))) s := rfl
theorem exec_kget : exec (.kget g d l) s = strandOp g 4 [] [d] (fun _ _ s => .ok (s.setW d (s.k l))) s := rfl
theorem exec_kpop : exec (.kpop g d l) s = strandOp g 4 [] [d] (fun _ _ s => .ok (s.setW d (setBits (s.k l)))) s := rfl

end Dispatch

/-! ### The statements of chapter 13 -/

/-- Settles O2: a divisor that is not zero is divided by, and a zero one traps or answers by the processor. -/
theorem division : Obligations.Division := by
  intro s g d a b h t x y put
  rw [exec_div, exec_divn, exec_rem, exec_remn]
  refine ⟨fun hy => ?_, fun hy c n hc => ?_, fun hy u hc => ?_⟩
  · exact ⟨h.divRR_of_ne_zero hy, h.divRR_of_ne_zero hy, h.divRR_of_ne_zero hy, h.divRR_of_ne_zero hy⟩
  · exact ⟨h.divRR_zero_strand hy hc, h.divRR_zero_strand hy hc, h.divRR_zero_strand hy hc, h.divRR_zero_strand hy hc⟩
  · exact ⟨h.divRR_zero_unit hy hc, h.divRR_zero_unit hy hc, h.divRR_zero_unit hy hc, h.divRR_zero_unit hy hc⟩

/-- Settles O3: every one-operand form is `aluR` with its function. -/
theorem oneOperandForms : Obligations.OneOperandForms := by
  intro s g d a n m h t x put bits low
  exact ⟨(exec_clz s g d a).trans h.aluR, (exec_ctz s g d a).trans h.aluR, (exec_popc s g d a).trans h.aluR,
    (exec_mov s g d a).trans h.aluR, (exec_sext s g d a n).trans h.aluR, (exec_zext s g d a n).trans h.aluR,
    (exec_shli s g d a m).trans h.aluR, (exec_shri s g d a m).trans h.aluR, (exec_sari s g d a m).trans h.aluR⟩

/-- Settles O4: the four register forms and MOVI on the operand's immediate, and what the immediate is with no, one and two prefixes. -/
theorem immediateForms : Obligations.ImmediateForms := by
  refine ⟨fun s g i d a h => ?_, fun s g i d h => (exec_movi s g d i).trans h.aluI, fun n i x y => ?_⟩
  · exact ⟨(exec_addi s g d a i).trans h.aluRI, (exec_andi s g d a i).trans h.aluRI, (exec_ori s g d a i).trans h.aluRI,
      (exec_xori s g d a i).trans h.aluRI⟩
  · exact ⟨immOf_nil i, immOf_one i x, immOf_two i x y⟩

/-- Settles O5: the condition is the order of the values, and the outcome a mask on a strand and a w register on a footing core. -/
theorem compares : Obligations.Compares := by
  intro s g c d a b i _ h holds t u one two
  have hholds : condHolds c = holds := by
    funext x y
    cases c with
    | le => exact not_slt_eq_decide x y
    | len => exact not_ult_eq_decide x y
    | eq | ne | lt | ltn | un => rfl
  have hcmpRR : exec (.cmp g c d a b) s = .next ((t.setFlag d one).advance 4) := by
    rw [show one = condHolds c (t.w a) (t.w b) by rw [hholds]]
    exact h.cmpRR
  have hcmpRI : exec (.cmpi g i c d a) s = .next ((u.setFlag d two).advance 4) := by
    rw [show two = condHolds c (u.w a) (u.imm i) by rw [hholds]; rfl]
    exact (h.mono (by simp) (List.Subset.refl _)).cmpRI
  refine ⟨fun j n hc => ?_, fun j hc => ?_⟩
  · rw [hcmpRR, hcmpRI, State.setFlag_strand ((s.correctRegs_cur _).trans hc), State.setFlag_strand ((s.correctRegs_cur _).trans hc)]
    exact ⟨rfl, rfl⟩
  · rw [hcmpRR, hcmpRI, State.setFlag_unit ((s.correctRegs_cur _).trans hc), State.setFlag_unit ((s.correctRegs_cur _).trans hc)]
    exact ⟨rfl, rfl⟩

/-- Settles O6: the pointer forms are a value or a trap of `pointerAdd` and `tagFields`, the mask forms write k(d), and SEL goes by bit 0
of its selector. -/
theorem pointerAndMaskForms : Obligations.PointerAndMaskForms := by
  refine ⟨fun s c n g d a b i h => ?_, fun s c n g d a b hc hg => (exec_sel s g d a b).trans (execSel_of_not_predicate hc hg),
    fun s c n g d a b r q h => ?_⟩
  · intro t u sum low moved
    have hone : s.strandReady c n g [a] [d] := h.mono (by simp) (List.Subset.refl _)
    rw [exec_padd, exec_paddi, exec_ptag, exec_pfmt]
    exact ⟨fun hlo hhi => h.strandOp_value (pointerAdd_ok hlo hhi), fun hlo hhi => hone.strandOp_value (pointerAdd_ok hlo hhi),
      h.strandOp_ok rfl, fun hout => h.strandOp_trap (pointerAdd_error hout), fun hout => hone.strandOp_trap (pointerAdd_error hout),
      fun hfmt hblk => hone.strandOp_value (tagFields_ok hfmt hblk), fun hres => hone.strandOp_trap (tagFields_error hres)⟩
  · intro t put
    have hnone : s.strandReady c n g [] [] := h.mono (List.nil_subset _) (List.nil_subset _)
    have hread : s.strandReady c n g [r] [] := h.mono (List.Subset.refl _) (List.nil_subset _)
    have hwrite : s.strandReady c n g [] [q] := h.mono (List.nil_subset _) (List.Subset.refl _)
    rw [exec_kand, exec_kor, exec_kxor, exec_knot, exec_kmov, exec_kset, exec_kget, exec_kpop, exec_sel, h.execSel]
    exact ⟨hnone.maskOp, hnone.maskOp, hnone.maskOp, hnone.maskOp, hnone.maskOp, hread.strandOp_ok rfl, hwrite.strandOp_noReads rfl,
      hwrite.strandOp_noReads rfl, fun hsel => if_pos hsel, fun hsel => if_neg (Bool.eq_false_iff.1 hsel), rfl⟩

end Sys2Proof.Machine
end

section
/-! SUPPORT. The watchdog (chapter 18, R359): what decides whether a launch is still does not read the list of launches, so that a count
cleared after a turn changes no other launch's stillness. -/

namespace Sys2Proof.Machine

/-! ### Translation leaves and reads no launch -/

/-- The state with another list of launches. -/
def State.withLaunches (ls : List Launch) (s : State) : State := { s with launches := ls }

section WithLaunches

variable (ls : List Launch) (s : State)

@[simp] theorem State.core_withLaunches (c : Nat) : (s.withLaunches ls).core c = s.core c := rfl
@[simp] theorem State.unit_withLaunches (u : Nat) : (s.withLaunches ls).unit u = s.unit u := rfl
@[simp] theorem State.slice_withLaunches (k : Nat) : (s.withLaunches ls).slice k = s.slice k := rfl
@[simp] theorem State.die_withLaunches (d : Nat) : (s.withLaunches ls).die d = s.die d := rfl
@[simp] theorem State.panel_withLaunches (p : Nat) : (s.withLaunches ls).panel p = s.panel p := rfl
@[simp] theorem State.fresh_withLaunches : (s.withLaunches ls).fresh = s.fresh := rfl
@[simp] theorem State.tickFresh_withLaunches : (s.withLaunches ls).tickFresh = s.tickFresh.withLaunches ls := rfl
@[simp] theorem State.modCore_withLaunches (c : Nat) (f : Core → Core) :
    (s.withLaunches ls).modCore c f = (s.modCore c f).withLaunches ls := rfl
@[simp] theorem State.modUnit_withLaunches (u : Nat) (f : Unit → Unit) :
    (s.withLaunches ls).modUnit u f = (s.modUnit u f).withLaunches ls := rfl
@[simp] theorem State.modSlice_withLaunches (k : Nat) (f : Slice → Slice) :
    (s.withLaunches ls).modSlice k f = (s.modSlice k f).withLaunches ls := rfl
@[simp] theorem State.modDie_withLaunches (d : Nat) (f : Die → Die) :
    (s.withLaunches ls).modDie d f = (s.modDie d f).withLaunches ls := rfl
@[simp] theorem State.modPanel_withLaunches (p : Nat) (f : Panel → Panel) :
    (s.withLaunches ls).modPanel p f = (s.modPanel p f).withLaunches ls := rfl

/-- A choice between two states that both keep the list of launches. -/
theorem ite_withLaunches (p : Prop) [Decidable p] (t : State) :
    (if p then s.withLaunches ls else t.withLaunches ls) = (if p then s else t).withLaunches ls :=
  (apply_ite (State.withLaunches ls) p s t).symm

@[simp] theorem wakeFor_withLaunches (pa : Nat) : wakeFor (s.withLaunches ls) pa = (wakeFor s pa).withLaunches ls := by
  unfold wakeFor
  exact (apply_ite (State.withLaunches ls) ((s.unit (unitOfPa pa)).power = .awake) s (wakeUnit s (unitOfPa pa))).symm

@[simp] theorem touchLine_withLaunches (dom pa n : Nat) (write : Bool) :
    touchLine (s.withLaunches ls) dom pa n write = (touchLine s dom pa n write).withLaunches ls := by
  have htrain : trainOn (s.withLaunches ls) dom pa = (trainOn s dom pa).withLaunches ls := rfl
  unfold touchLine useLine
  rw [htrain]
  generalize trainOn s dom pa = t
  simp only [State.slice_withLaunches, State.die_withLaunches, wakeFor_withLaunches, ite_withLaunches, State.modSlice_withLaunches]
  split
  · rfl
  · split
    · rfl
    · simp only [State.fresh_withLaunches, State.tickFresh_withLaunches]
      split <;> rfl

@[simp] theorem reportPoisonTo_withLaunches (panel va pa : Nat) :
    reportPoisonTo (s.withLaunches ls) panel va pa = (reportPoisonTo s panel va pa).withLaunches ls := by
  unfold reportPoisonTo reportPoisonIn
  split <;> rfl

@[simp] theorem State.correct_withLaunches (pa n : Nat) : (s.withLaunches ls).correct pa n = (s.correct pa n).withLaunches ls := by
  unfold State.correct
  simp only [apply_ite (State.withLaunches ls)]
  rfl

theorem readEntry_withLaunches (panel dom at_ : Nat) :
    readEntry (s.withLaunches ls) panel dom at_ = (readEntry s panel dom at_).map (State.withLaunches ls) id := by
  unfold readEntry
  simp only [touchLine_withLaunches, ite_withLaunches]
  generalize (if isHbm at_ = true then touchLine s dom at_ 8 false else s) = t
  simp only [reportPoisonTo_withLaunches, State.correct_withLaunches, apply_ite (Prod.map (State.withLaunches ls) id)]
  rfl

theorem entryKind_withLaunches (d dom : Nat) (glob : Bool) (level e : Nat) :
    entryKind (s.withLaunches ls) d dom glob level e = entryKind s d dom glob level e := rfl

theorem walkFrom_withLaunches (panel d dom : Nat) (glob : Bool) (va level : Nat) : ∀ (s : State) (table : Nat),
    walkFrom panel d dom glob va level (s.withLaunches ls) table =
      (walkFrom panel d dom glob va level s table).map (State.withLaunches ls) id := by
  induction level with
  | zero =>
    intro s table
    unfold walkFrom
    rw [readEntry_withLaunches]
    rcases readEntry s _ _ _ with ⟨t, r | e⟩
    · rfl
    · simp only [Prod.map, id, entryKind_withLaunches]
      rcases entryKind t d dom glob 0 e with r | _ | next <;> rfl
  | succ level ih =>
    intro s table
    unfold walkFrom
    rw [readEntry_withLaunches]
    rcases readEntry s _ _ _ with ⟨t, r | e⟩
    · rfl
    · simp only [Prod.map, id, entryKind_withLaunches]
      rcases entryKind t d dom glob (level + 1) e with r | _ | next
      · rfl
      · rfl
      · simp only [ih]
        rcases walkFrom panel d dom glob va level t next with ⟨u, r | ⟨ptrs, l⟩⟩ <;> rfl

theorem dieWalk_withLaunches (panel d dom va : Nat) :
    dieWalk (s.withLaunches ls) panel d dom va = (dieWalk s panel d dom va).map (State.withLaunches ls) id := by
  unfold dieWalk
  simp only [State.die_withLaunches]
  split
  · rfl
  · rw [walkFrom_withLaunches]
    rcases walkFrom panel d dom _ va _ s _ with ⟨t, r | ⟨ptrs, e, lv⟩⟩
    · rfl
    · exact congrArg (fun u => (u, _)) (List.foldl_hom (State.withLaunches ls) (fun _ _ => rfl))

theorem translate_withLaunches (c dom va : Nat) :
    translate (s.withLaunches ls) c dom va = (translate s c dom va).map (State.withLaunches ls) id := by
  unfold translate
  split
  · rfl
  · simp only [State.core_withLaunches, State.panel_withLaunches]
    split
    · rfl
    · split
      · rfl
      · rw [dieWalk_withLaunches]
        rcases dieWalk s _ _ dom va with ⟨t, r | p⟩ <;> rfl

theorem physSpansIn_withLaunches (c dom : Nat) : ∀ fuel va n,
    physSpansIn (s.withLaunches ls) c dom fuel va n = physSpansIn s c dom fuel va n := by
  intro fuel
  induction fuel with
  | zero => intro va n; rfl
  | succ fuel ih =>
    intro va n
    unfold physSpansIn
    simp only [ih, translate_withLaunches]
    rcases translate s c dom va with ⟨t, r | p⟩ <;> rfl

/-! ### Stillness reads no list of launches -/

theorem precedes_withLaunches (c : Nat) (m : MCmd) (a : Acc) : precedes (s.withLaunches ls) c m a = precedes s c m a := by
  have hspans : ∀ va n, physSpans (s.withLaunches ls) c 258 va n = physSpans s c 258 va n := fun va n =>
    physSpansIn_withLaunches ls s c _ 258 va n
  unfold precedes
  simp only [hspans]
  rfl

theorem queueStands_withLaunches (c : Nat) : queueStands (s.withLaunches ls) c = queueStands s c := by
  unfold queueStands matrixHead
  simp only [precedes_withLaunches]
  rfl

theorem best_withLaunches (c : Nat) (xs : List (Slot × Nat)) : best (s.withLaunches ls) c xs = best s c xs := by
  induction xs with
  | nil => rfl
  | cons x rest ih =>
    unfold best
    rw [ih]
    rfl

theorem isStill_withLaunches (l : Launch) : isStill (s.withLaunches ls) l = isStill s l := by
  have hidle : ∀ c, coreIdle (s.withLaunches ls) c = coreIdle s c := fun c => by
    unfold coreIdle
    simp only [queueStands_withLaunches]
    rfl
  have hchoose : ∀ c, choose (s.withLaunches ls) c = choose s c := fun c => by
    unfold choose
    simp only [best_withLaunches]
    rfl
  have hwaits : ∀ c, strandWaits (s.withLaunches ls) c = strandWaits s c := fun c => rfl
  have hruns : ∀ c n, strandRuns (s.withLaunches ls) c n = strandRuns s c n := fun c n => rfl
  have hfooting : footingIdle (s.withLaunches ls) l = footingIdle s l := rfl
  simp only [isStill, hidle, hchoose, hwaits, hruns, hfooting]

end WithLaunches

/-! ### Every step keeps that only still launches are counted -/

/-- A launch whose count is cleared or kept is as still as before: stillness does not read the count. -/
theorem isStill_uncounted (s : State) (l : Launch) : isStill s { l with still := none, reported := false } = isStill s l := rfl

/-- After the watchdogs have seen a state, each launch that they count is still. -/
theorem stills_watchLaunches (s : State) : (watchLaunches s).stills = true := by
  unfold watchLaunches
  split
  next hany =>
    have hstill := isStill_withLaunches (s.launches.map
      (fun l => if l.still.isSome && !isStill s l then { l with still := none, reported := false } else l)) s
    unfold State.withLaunches at hstill
    simp only [State.stills, hstill, List.all_map, List.all_eq_true, Function.comp_apply]
    intro l _
    split
    · rfl
    next hkept => cases hl : l.still <;> simp_all
  next hnone =>
    simp only [State.stills, List.all_eq_true]
    intro l hl
    have huncounted : ¬ l.still.isSome = true := fun h => hnone (List.any_eq_true.2 ⟨l, hl, h⟩)
    simp [Option.not_isSome_iff_eq_none.1 huncounted]

/-- A watched turn answers what the watchdogs have seen. -/
theorem watched_next {r : Result} {t : State} (h : watched r = .next t) : ∃ s, t = watchLaunches s := by
  unfold watched at h
  split at h
  · exact ⟨_, (Host.Outcome.next.inj h).symm⟩
  next hno => exact absurd h (hno t)

/-- Settles O60: every step, of the agenda or free, ends with the watchdogs, which clear the count of each launch that is not still. -/
theorem watchdogCounts : Obligations.WatchdogCounts := by
  intro s t _ hstep
  have hseen : ∃ u, t = watchLaunches u := by
    unfold step at hstep
    split at hstep
    · exact watched_next hstep
    · exact watched_next hstep
  obtain ⟨u, rfl⟩ := hseen
  exact stills_watchLaunches u

end Sys2Proof.Machine
end

section
/-! SUPPORT. The decoder against the encoder (chapter 11): what a row of the map decodes to has the row's word as its encoding. -/

namespace Sys2Proof.Machine

open Decoding Encoding

/-! ### The codes of the shared fields -/

theorem Fmt.code_ofCode {n : Nat} (h : n < 16) : (Fmt.ofCode n).code = n := by
  revert n
  decide
theorem Scope.code_ofCode {n : Nat} (h : n < 5) : (Scope.ofCode n).code = n := by
  revert n
  decide
theorem Order.code_ofCode {n : Nat} (h : n < 4) : (Order.ofCode n).code = n := by
  revert n
  decide
theorem Cond.code_ofCode {n : Nat} (h : n < 7) : (Cond.ofCode n).code = n := by
  revert n
  decide
theorem RedOp.code_ofCode {n : Nat} (h : n < 7) : (RedOp.ofCode n).code = n := by
  revert n
  decide
theorem AccMode.code_ofCode {n : Nat} (h : n < 6) : (AccMode.ofCode n).code = n := by
  revert n
  decide
/-- A field of one bit is the number of the condition that it is 1. -/
theorem toNat_decide_eq_one {n : Nat} (h : n < 2) : (decide (n = 1)).toNat = n := by
  revert n
  decide

/-! ### Rows of the map -/

/-- The fields of a 32-bit frame fit into their bits (R202, Table 1). -/
structure FrameFields (fn g b a d : Nat) : Prop where
  fn_lt : fn < 128
  g_lt : g < 8
  b_lt : b < 32
  a_lt : a < 32
  d_lt : d < 32

/-- What a row decodes to is not NOP and has that word of n bits as its encoding. -/
def Encodes (n w : Nat) (r : Except DecodeError Instr) : Prop := ∀ i, r = .ok i → i ≠ .nop ∧ encode i = some (n, w)

theorem Encodes.error {n w : Nat} {e : DecodeError} : Encodes n w (.error e) := fun _ h => nomatch h

theorem Encodes.ite {n w : Nat} {p : Prop} [Decidable p] {x y : Except DecodeError Instr} (hx : p → Encodes n w x)
    (hy : ¬p → Encodes n w y) : Encodes n w (if p then x else y) := by
  split
  · exact hx ‹_›
  · exact hy ‹_›

/-- A listed row gives its instruction where its zero fields are zero and its operands in range. -/
theorem mk_eq_ok {zero range : Bool} {i j : Instr} (h : mk zero range i = .ok j) : zero = true ∧ range = true ∧ i = j := by
  unfold mk at h
  split at h
  · split at h
    · exact ⟨‹_›, ‹_›, Except.ok.inj h⟩
    · cases h
  · cases h

/-- A row of the units gives it under guard 0. -/
theorem mkUnit_eq_ok {g : Nat} {zero range : Bool} {i j : Instr} (h : mkUnit g zero range i = .ok j) :
    g = 0 ∧ zero = true ∧ range = true ∧ i = j := by
  unfold mkUnit at h
  split at h
  · exact ⟨‹_›, mk_eq_ok h⟩
  · split at h <;> cases h

theorem Encodes.row {n w v : Nat} {zero range : Bool} {i : Instr} (hi : i ≠ .nop) (he : encode i = some (n, v))
    (hw : zero = true → range = true → v = w) : Encodes n w (mk zero range i) := by
  intro j hj
  obtain ⟨hz, hr, rfl⟩ := mk_eq_ok hj
  exact ⟨hi, hw hz hr ▸ he⟩

theorem Encodes.unitRow {n w v g : Nat} {zero range : Bool} {i : Instr} (hi : i ≠ .nop) (he : encode i = some (n, v))
    (hw : g = 0 → zero = true → range = true → v = w) : Encodes n w (mkUnit g zero range i) := by
  intro j hj
  obtain ⟨hg, hz, hr, rfl⟩ := mkUnit_eq_ok hj
  exact ⟨hi, hw hg hz hr ▸ he⟩

/-! ### The majors of Table 6 -/

section Majors

variable {fn g b a d : Nat} (h : FrameFields fn g b a d)
include h

theorem major01_encodes : Encodes 32 (word32 0x01 fn g b a d) (major01 fn g b a d) := by
  obtain ⟨hfn, hg, hb, ha, hd⟩ := h
  unfold major01
  repeat' with_reducible refine Encodes.ite (fun _ => ?_) (fun _ => ?_)
  all_goals first | exact Encodes.error | refine Encodes.row (by simp) rfl (fun hz hr => ?_)
  all_goals
    simp only [decide_eq_true_eq] at hz hr
    simp (disch := omega) only [word32, Fin.val_ofNat, Cond.code_ofCode]
    omega

theorem major02_encodes : Encodes 32 (word32 0x02 fn g b a d) (major02 fn g b a d) := by
  obtain ⟨hfn, hg, hb, ha, hd⟩ := h
  unfold major02
  refine Encodes.row (by simp) rfl (fun _ _ => ?_)
  simp only [word32, Fin.val_ofNat, BitVec.toNat_ofNat]
  omega

theorem major03_encodes : Encodes 32 (word32 0x03 fn g b a d) (major03 fn g b a d) := by
  obtain ⟨hfn, hg, hb, ha, hd⟩ := h
  unfold major03
  refine Encodes.row (by simp) rfl (fun _ _ => ?_)
  simp only [word32, Fin.val_ofNat, BitVec.toNat_ofNat]
  omega

theorem major04_encodes : Encodes 32 (word32 0x04 fn g b a d) (major04 fn g b a d) := by
  obtain ⟨hfn, hg, hb, ha, hd⟩ := h
  unfold major04
  refine Encodes.row (by simp) rfl (fun _ _ => ?_)
  simp only [word32, Fin.val_ofNat, BitVec.toNat_ofNat]
  omega

theorem major05_encodes : Encodes 32 (word32 0x05 fn g b a d) (major05 fn g b a d) := by
  obtain ⟨hfn, hg, hb, ha, hd⟩ := h
  unfold major05
  refine Encodes.row (by simp) rfl (fun _ _ => ?_)
  simp only [word32, Fin.val_ofNat, BitVec.toNat_ofNat]
  omega

theorem major06_encodes : Encodes 32 (word32 0x06 fn g b a d) (major06 fn g b a d) := by
  obtain ⟨hfn, hg, hb, ha, hd⟩ := h
  unfold major06
  repeat' with_reducible refine Encodes.ite (fun _ => ?_) (fun _ => ?_)
  all_goals first | exact Encodes.error | refine Encodes.row (by simp) rfl (fun hz _ => ?_)
  all_goals
    simp only [decide_eq_true_eq] at hz
    simp only [word32, Fin.val_ofNat]
    omega

theorem major07_encodes : Encodes 32 (word32 0x07 fn g b a d) (major07 fn g b a d) := by
  obtain ⟨hfn, hg, hb, ha, hd⟩ := h
  unfold major07
  refine Encodes.row (by simp) rfl (fun _ hr => ?_)
  simp only [decide_eq_true_eq] at hr
  simp (disch := omega) only [word32, Fin.val_ofNat, BitVec.toNat_ofNat, Cond.code_ofCode]
  omega

theorem major08_encodes : Encodes 32 (word32 0x08 fn g b a d) (major08 fn g b a d) := by
  obtain ⟨hfn, hg, hb, ha, hd⟩ := h
  unfold major08
  refine Encodes.row (by simp) rfl (fun _ _ => ?_)
  simp only [word32, Fin.val_ofNat, BitVec.toNat_ofNat]
  omega

theorem major09_encodes : Encodes 32 (word32 0x09 fn g b a d) (major09 fn g b a d) := by
  obtain ⟨hfn, hg, hb, ha, hd⟩ := h
  unfold major09
  refine Encodes.row (by simp) rfl (fun _ _ => ?_)
  simp only [word32, Fin.val_ofNat, BitVec.toNat_ofNat]
  omega

theorem major0A_encodes : Encodes 32 (word32 0x0A fn g b a d) (major0A fn g b a d) := by
  obtain ⟨hfn, hg, hb, ha, hd⟩ := h
  unfold major0A
  repeat' with_reducible refine Encodes.ite (fun _ => ?_) (fun _ => ?_)
  all_goals first | exact Encodes.error | refine Encodes.row (by simp) rfl (fun hz hr => ?_)
  all_goals
    simp only [decide_eq_true_eq] at hz hr
    simp only [word32, Fin.val_ofNat]
    omega

theorem major0B_encodes : Encodes 32 (word32 0x0B fn g b a d) (major0B fn g b a d) := by
  obtain ⟨hfn, hg, hb, ha, hd⟩ := h
  unfold major0B
  refine Encodes.row (by simp) rfl (fun hz _ => ?_)
  simp only [decide_eq_true_eq] at hz
  simp only [word32, Fin.val_ofNat, BitVec.toNat_ofNat]
  omega

theorem major0C_encodes : Encodes 32 (word32 0x0C fn g b a d) (major0C fn g b a d) := by
  obtain ⟨hfn, hg, hb, ha, hd⟩ := h
  unfold major0C
  refine Encodes.row (by simp) rfl (fun hz _ => ?_)
  simp only [decide_eq_true_eq] at hz
  simp only [word32, Fin.val_ofNat, BitVec.toNat_ofNat]
  omega

theorem major0D_encodes : Encodes 32 (word32 0x0D fn g b a d) (major0D fn g b a d) := by
  obtain ⟨hfn, hg, hb, ha, hd⟩ := h
  unfold major0D
  repeat' with_reducible refine Encodes.ite (fun _ => ?_) (fun _ => ?_)
  all_goals first | exact Encodes.error | refine Encodes.row (by simp) rfl (fun hz hr => ?_)
  all_goals
    simp only [decide_eq_true_eq] at hz hr
    simp only [word32, Fin.val_ofNat]
    omega

theorem major10_encodes : Encodes 32 (word32 0x10 fn g b a d) (major10 fn g b a d) := by
  obtain ⟨hfn, hg, hb, ha, hd⟩ := h
  unfold major10
  refine Encodes.row (by simp) rfl (fun _ _ => ?_)
  simp only [word32, Fin.val_ofNat, BitVec.toNat_ofNat]
  omega

theorem major11_encodes : Encodes 32 (word32 0x11 fn g b a d) (major11 fn g b a d) := by
  obtain ⟨hfn, hg, hb, ha, hd⟩ := h
  unfold major11
  repeat' with_reducible refine Encodes.ite (fun _ => ?_) (fun _ => ?_)
  all_goals first | exact Encodes.error | refine Encodes.row (by simp) rfl (fun _ _ => ?_)
  all_goals
    simp only [word32, Fin.val_ofNat, BitVec.toNat_ofNat]
    omega

theorem major12_encodes : Encodes 32 (word32 0x12 fn g b a d) (major12 fn g b a d) := by
  obtain ⟨hfn, hg, hb, ha, hd⟩ := h
  unfold major12
  refine Encodes.row (by simp) rfl (fun _ _ => ?_)
  simp only [word32, Fin.val_ofNat, BitVec.toNat_ofNat]
  omega

theorem major13_encodes : Encodes 32 (word32 0x13 fn g b a d) (major13 fn g b a d) := by
  obtain ⟨hfn, hg, hb, ha, hd⟩ := h
  unfold major13
  repeat' with_reducible refine Encodes.ite (fun _ => ?_) (fun _ => ?_)
  all_goals first | exact Encodes.error | refine Encodes.row (by simp) rfl (fun _ _ => ?_)
  all_goals
    simp only [word32, Fin.val_ofNat, BitVec.toNat_ofNat]
    omega

theorem major14_encodes : Encodes 32 (word32 0x14 fn g b a d) (major14 fn g b a d) := by
  obtain ⟨hfn, hg, hb, ha, hd⟩ := h
  unfold major14
  repeat' with_reducible refine Encodes.ite (fun _ => ?_) (fun _ => ?_)
  all_goals first | exact Encodes.error | refine Encodes.row (by simp) rfl (fun hz hr => ?_)
  all_goals
    simp only [decide_eq_true_eq] at hz hr
    simp (disch := omega) only [word32, Fin.val_ofNat, Scope.code_ofCode]
    omega

theorem major15_encodes : Encodes 32 (word32 0x15 fn g b a d) (major15 fn g b a d) := by
  obtain ⟨hfn, hg, hb, ha, hd⟩ := h
  unfold major15
  repeat' with_reducible refine Encodes.ite (fun _ => ?_) (fun _ => ?_)
  all_goals first | exact Encodes.error | refine Encodes.row (by simp) rfl (fun hz hr => ?_)
  all_goals
    simp only [decide_eq_true_eq] at hz hr
    simp (disch := omega) only [word32, Fin.val_ofNat, Scope.code_ofCode, Order.code_ofCode]
    omega

theorem major16_encodes : Encodes 32 (word32 0x16 fn g b a d) (major16 fn g b a d) := by
  obtain ⟨hfn, hg, hb, ha, hd⟩ := h
  unfold major16
  repeat' with_reducible refine Encodes.ite (fun _ => ?_) (fun _ => ?_)
  all_goals first | exact Encodes.error | refine Encodes.row (by simp) rfl (fun _ hr => ?_)
  all_goals
    simp only [decide_eq_true_eq] at hr
    simp (disch := omega) only [word32, Fin.val_ofNat, Scope.code_ofCode, Order.code_ofCode]
    omega

theorem major17_encodes : Encodes 32 (word32 0x17 fn g b a d) (major17 fn g b a d) := by
  obtain ⟨hfn, hg, hb, ha, hd⟩ := h
  unfold major17
  repeat' with_reducible refine Encodes.ite (fun _ => ?_) (fun _ => ?_)
  all_goals first | exact Encodes.error | refine Encodes.row (by simp) rfl (fun _ hr => ?_)
  all_goals
    simp only [decide_eq_true_eq] at hr
    simp (disch := omega) only [word32, Fin.val_ofNat, Scope.code_ofCode, Order.code_ofCode]
    omega

theorem major18_encodes : Encodes 32 (word32 0x18 fn g b a d) (major18 fn g b a d) := by
  obtain ⟨hfn, hg, hb, ha, hd⟩ := h
  unfold major18
  repeat' with_reducible refine Encodes.ite (fun _ => ?_) (fun _ => ?_)
  all_goals first | exact Encodes.error | refine Encodes.row (by simp) rfl (fun _ hr => ?_)
  all_goals
    simp only [decide_eq_true_eq] at hr
    simp (disch := omega) only [word32, Fin.val_ofNat, Scope.code_ofCode, Order.code_ofCode]
    omega

theorem major19_encodes : Encodes 32 (word32 0x19 fn g b a d) (major19 fn g b a d) := by
  obtain ⟨hfn, hg, hb, ha, hd⟩ := h
  unfold major19
  repeat' with_reducible refine Encodes.ite (fun _ => ?_) (fun _ => ?_)
  all_goals first | exact Encodes.error | refine Encodes.row (by simp) rfl (fun hz hr => ?_)
  all_goals
    simp only [decide_eq_true_eq] at hz hr
    simp (disch := omega) only [word32, Fin.val_ofNat, Scope.code_ofCode, Order.code_ofCode]
    omega

theorem major1A_encodes : Encodes 32 (word32 0x1A fn g b a d) (major1A fn g b a d) := by
  obtain ⟨hfn, hg, hb, ha, hd⟩ := h
  unfold major1A
  repeat' with_reducible refine Encodes.ite (fun _ => ?_) (fun _ => ?_)
  all_goals first | exact Encodes.error | refine Encodes.row (by simp) rfl (fun hz hr => ?_)
  all_goals
    simp only [decide_eq_true_eq] at hz hr
    simp (disch := omega) only [word32, Fin.val_ofNat, Scope.code_ofCode, Order.code_ofCode]
    omega

theorem major1B_encodes : Encodes 32 (word32 0x1B fn g b a d) (major1B fn g b a d) := by
  obtain ⟨hfn, hg, hb, ha, hd⟩ := h
  unfold major1B
  repeat' with_reducible refine Encodes.ite (fun _ => ?_) (fun _ => ?_)
  all_goals first | exact Encodes.error | refine Encodes.row (by simp) rfl (fun _ hr => ?_)
  all_goals
    simp only [decide_eq_true_eq] at hr
    simp (disch := omega) only [word32, Fin.val_ofNat, Scope.code_ofCode, Order.code_ofCode]
    omega

theorem major1C_encodes : Encodes 32 (word32 0x1C fn g b a d) (major1C fn g b a d) := by
  obtain ⟨hfn, hg, hb, ha, hd⟩ := h
  unfold major1C
  repeat' with_reducible refine Encodes.ite (fun _ => ?_) (fun _ => ?_)
  all_goals first | exact Encodes.error | refine Encodes.row (by simp) rfl (fun hz hr => ?_)
  all_goals
    simp only [decide_eq_true_eq] at hz hr
    simp (disch := omega) only [word32, Fin.val_ofNat, Scope.code_ofCode, Order.code_ofCode]
    omega

theorem major1D_encodes : Encodes 32 (word32 0x1D fn g b a d) (major1D fn g b a d) := by
  obtain ⟨hfn, hg, hb, ha, hd⟩ := h
  unfold major1D
  repeat' with_reducible refine Encodes.ite (fun _ => ?_) (fun _ => ?_)
  all_goals first | exact Encodes.error | refine Encodes.row (by simp) rfl (fun hz hr => ?_)
  all_goals
    simp only [decide_eq_true_eq] at hz hr
    simp (disch := omega) only [word32, Fin.val_ofNat, Scope.code_ofCode, Order.code_ofCode]
    omega

theorem major1E_encodes : Encodes 32 (word32 0x1E fn g b a d) (major1E fn g b a d) := by
  obtain ⟨hfn, hg, hb, ha, hd⟩ := h
  unfold major1E
  repeat' with_reducible refine Encodes.ite (fun _ => ?_) (fun _ => ?_)
  all_goals first | exact Encodes.error | refine Encodes.row (by simp) rfl (fun hz hr => ?_)
  all_goals
    simp only [decide_eq_true_eq] at hz hr
    simp (disch := omega) only [word32, Fin.val_ofNat, Scope.code_ofCode, Order.code_ofCode]
    omega

theorem major1F_encodes : Encodes 32 (word32 0x1F fn g b a d) (major1F fn g b a d) := by
  obtain ⟨hfn, hg, hb, ha, hd⟩ := h
  unfold major1F
  repeat' with_reducible refine Encodes.ite (fun _ => ?_) (fun _ => ?_)
  all_goals first | exact Encodes.error | refine Encodes.row (by simp) rfl (fun hz hr => ?_)
  all_goals
    simp only [decide_eq_true_eq] at hz hr
    simp (disch := omega) only [word32, Fin.val_ofNat, Scope.code_ofCode, Order.code_ofCode]
    omega

theorem major20_encodes : Encodes 32 (word32 0x20 fn g b a d) (major20 fn g b a d) := by
  obtain ⟨hfn, hg, hb, ha, hd⟩ := h
  unfold major20
  repeat' with_reducible refine Encodes.ite (fun _ => ?_) (fun _ => ?_)
  all_goals first | exact Encodes.error | refine Encodes.row (by simp) rfl (fun hz hr => ?_)
  all_goals
    simp only [decide_eq_true_eq] at hz hr
    simp (disch := omega) only [word32, Fin.val_ofNat, Scope.code_ofCode, Order.code_ofCode]
    omega

theorem major21_encodes : Encodes 32 (word32 0x21 fn g b a d) (major21 fn g b a d) := by
  obtain ⟨hfn, hg, hb, ha, hd⟩ := h
  unfold major21
  repeat' with_reducible refine Encodes.ite (fun _ => ?_) (fun _ => ?_)
  all_goals first | exact Encodes.error | refine Encodes.row (by simp) rfl (fun hz hr => ?_)
  all_goals
    simp only [decide_eq_true_eq] at hz hr
    simp only [word32, Fin.val_ofNat]
    omega

theorem major22_encodes : Encodes 32 (word32 0x22 fn g b a d) (major22 fn g b a d) := by
  obtain ⟨hfn, hg, hb, ha, hd⟩ := h
  unfold major22
  repeat' with_reducible refine Encodes.ite (fun _ => ?_) (fun _ => ?_)
  all_goals first | exact Encodes.error | refine Encodes.row (by simp) rfl (fun _ hr => ?_)
  all_goals
    simp only [decide_eq_true_eq] at hr
    simp (disch := omega) only [word32, Fin.val_ofNat, Fmt.code_ofCode]
    omega

theorem major23_encodes : Encodes 32 (word32 0x23 fn g b a d) (major23 fn g b a d) := by
  obtain ⟨hfn, hg, hb, ha, hd⟩ := h
  unfold major23
  repeat' with_reducible refine Encodes.ite (fun _ => ?_) (fun _ => ?_)
  all_goals first | exact Encodes.error | refine Encodes.row (by simp) rfl (fun hz hr => ?_)
  all_goals
    simp only [decide_eq_true_eq] at hz hr
    simp (disch := omega) only [word32, Fin.val_ofNat, Fmt.code_ofCode]
    omega

theorem major24_encodes : Encodes 32 (word32 0x24 fn g b a d) (major24 fn g b a d) := by
  obtain ⟨hfn, hg, hb, ha, hd⟩ := h
  unfold major24
  repeat' with_reducible refine Encodes.ite (fun _ => ?_) (fun _ => ?_)
  all_goals first | exact Encodes.error | refine Encodes.row (by simp) rfl (fun _ hr => ?_)
  all_goals
    simp only [decide_eq_true_eq] at hr
    simp (disch := omega) only [word32, Fin.val_ofNat, Fmt.code_ofCode]
    omega

theorem major25_encodes : Encodes 32 (word32 0x25 fn g b a d) (major25 fn g b a d) := by
  obtain ⟨hfn, hg, hb, ha, hd⟩ := h
  unfold major25
  refine Encodes.row (by simp) rfl (fun _ hr => ?_)
  simp only [decide_eq_true_eq] at hr
  simp (disch := omega) only [word32, Fin.val_ofNat, Fmt.code_ofCode, Cond.code_ofCode]
  omega

theorem major26_encodes : Encodes 32 (word32 0x26 fn g b a d) (major26 fn g b a d) := by
  obtain ⟨hfn, hg, hb, ha, hd⟩ := h
  unfold major26
  refine Encodes.row (by simp) rfl (fun hz hr => ?_)
  simp only [decide_eq_true_eq] at hz hr
  simp (disch := omega) only [word32, Fin.val_ofNat, Fmt.code_ofCode]
  omega

theorem major27_encodes : Encodes 32 (word32 0x27 fn g b a d) (major27 fn g b a d) := by
  obtain ⟨hfn, hg, hb, ha, hd⟩ := h
  unfold major27
  repeat' with_reducible refine Encodes.ite (fun _ => ?_) (fun _ => ?_)
  all_goals first | exact Encodes.error | refine Encodes.row (by simp) rfl (fun hz hr => ?_)
  all_goals
    simp only [decide_eq_true_eq] at hz hr
    simp (disch := omega) only [word32, Fin.val_ofNat, Fmt.code_ofCode]
    omega

theorem major28_encodes : Encodes 32 (word32 0x28 fn g b a d) (major28 fn g b a d) := by
  obtain ⟨hfn, hg, hb, ha, hd⟩ := h
  unfold major28
  repeat' with_reducible refine Encodes.ite (fun _ => ?_) (fun _ => ?_)
  all_goals first | exact Encodes.error | refine Encodes.row (by simp) rfl (fun hz hr => ?_)
  all_goals
    simp only [decide_eq_true_eq] at hz hr
    simp (disch := omega) only [word32, Fin.val_ofNat, Fmt.code_ofCode]
    omega

theorem major29_encodes : Encodes 32 (word32 0x29 fn g b a d) (major29 fn g b a d) := by
  obtain ⟨hfn, hg, hb, ha, hd⟩ := h
  unfold major29
  repeat' with_reducible refine Encodes.ite (fun _ => ?_) (fun _ => ?_)
  all_goals first | exact Encodes.error | refine Encodes.row (by simp) rfl (fun hz hr => ?_)
  all_goals
    simp only [decide_eq_true_eq] at hz hr
    simp (disch := omega) only [word32, Fin.val_ofNat, Fmt.code_ofCode, RedOp.code_ofCode]
    omega

theorem major2A_encodes : Encodes 32 (word32 0x2A fn g b a d) (major2A fn g b a d) := by
  obtain ⟨hfn, hg, hb, ha, hd⟩ := h
  unfold major2A
  repeat' with_reducible refine Encodes.ite (fun _ => ?_) (fun _ => ?_)
  all_goals first | exact Encodes.error | refine Encodes.row (by simp) rfl (fun _ hr => ?_)
  all_goals
    simp only [decide_eq_true_eq] at hr
    simp only [word32, Fin.val_ofNat]
    omega

theorem major2B_encodes : Encodes 32 (word32 0x2B fn g b a d) (major2B fn g b a d) := by
  obtain ⟨hfn, hg, hb, ha, hd⟩ := h
  unfold major2B
  refine Encodes.row (by simp) rfl (fun _ hr => ?_)
  simp only [decide_eq_true_eq] at hr
  simp (disch := omega) only [word32, Fin.val_ofNat, BitVec.toNat_ofNat, Fmt.code_ofCode]
  omega

theorem major2C_encodes : Encodes 32 (word32 0x2C fn g b a d) (major2C fn g b a d) := by
  obtain ⟨hfn, hg, hb, ha, hd⟩ := h
  unfold major2C
  refine Encodes.row (by simp) rfl (fun _ hr => ?_)
  simp only [decide_eq_true_eq] at hr
  simp (disch := omega) only [word32, Fin.val_ofNat, BitVec.toNat_ofNat, Fmt.code_ofCode]
  omega

theorem major2D_encodes : Encodes 32 (word32 0x2D fn g b a d) (major2D fn g b a d) := by
  obtain ⟨hfn, hg, hb, ha, hd⟩ := h
  unfold major2D
  repeat' with_reducible refine Encodes.ite (fun _ => ?_) (fun _ => ?_)
  all_goals first | exact Encodes.error | refine Encodes.row (by simp) rfl (fun _ hr => ?_)
  all_goals
    simp only [decide_eq_true_eq] at hr
    simp (disch := omega) only [word32, Fin.val_ofNat, Fmt.code_ofCode]
    omega

theorem major2E_encodes : Encodes 32 (word32 0x2E fn g b a d) (major2E fn g b a d) := by
  obtain ⟨hfn, hg, hb, ha, hd⟩ := h
  unfold major2E
  repeat' with_reducible refine Encodes.ite (fun _ => ?_) (fun _ => ?_)
  all_goals first | exact Encodes.error | refine Encodes.row (by simp) rfl (fun hz hr => ?_)
  all_goals
    simp only [decide_eq_true_eq] at hz hr
    simp only [word32, Fin.val_ofNat]
    omega

theorem major2F_encodes : Encodes 32 (word32 0x2F fn g b a d) (major2F fn g b a d) := by
  obtain ⟨hfn, hg, hb, ha, hd⟩ := h
  unfold major2F
  repeat' with_reducible refine Encodes.ite (fun _ => ?_) (fun _ => ?_)
  all_goals first | exact Encodes.error | refine Encodes.row (by simp) rfl (fun hz hr => ?_)
  all_goals
    simp only [decide_eq_true_eq] at hz hr
    simp (disch := omega) only [word32, Fin.val_ofNat, Fmt.code_ofCode, AccMode.code_ofCode, toNat_decide_eq_one]
    omega

theorem major30_encodes : Encodes 32 (word32 0x30 fn g b a d) (major30 fn g b a d) := by
  obtain ⟨hfn, hg, hb, ha, hd⟩ := h
  unfold major30
  repeat' with_reducible refine Encodes.ite (fun _ => ?_) (fun _ => ?_)
  all_goals first | exact Encodes.error | refine Encodes.row (by simp) rfl (fun hz hr => ?_)
  all_goals
    simp only [decide_eq_true_eq] at hz hr
    simp (disch := omega) only [word32, Fin.val_ofNat, Fmt.code_ofCode]
    omega

theorem major31_encodes : Encodes 32 (word32 0x31 fn g b a d) (major31 fn g b a d) := by
  obtain ⟨hfn, hg, hb, ha, hd⟩ := h
  unfold major31
  repeat' with_reducible refine Encodes.ite (fun _ => ?_) (fun _ => ?_)
  all_goals first | exact Encodes.error | refine Encodes.row (by simp) rfl (fun hz _ => ?_)
  all_goals
    simp only [decide_eq_true_eq] at hz
    simp only [word32, Fin.val_ofNat]
    omega

theorem major32_encodes : Encodes 32 (word32 0x32 fn g b a d) (major32 fn g b a d) := by
  obtain ⟨hfn, hg, hb, ha, hd⟩ := h
  unfold major32
  repeat' with_reducible refine Encodes.ite (fun _ => ?_) (fun _ => ?_)
  all_goals first | exact Encodes.error | refine Encodes.unitRow (by simp) rfl (fun hg0 hz hr => ?_)
  all_goals
    simp only [decide_eq_true_eq] at hz hr
    simp only [word32, Fin.val_ofNat]
    omega

theorem major33_encodes : Encodes 32 (word32 0x33 fn g b a d) (major33 fn g b a d) := by
  obtain ⟨hfn, hg, hb, ha, hd⟩ := h
  unfold major33
  repeat' with_reducible refine Encodes.ite (fun _ => ?_) (fun _ => ?_)
  all_goals first | exact Encodes.error | refine Encodes.row (by simp) rfl (fun hz hr => ?_)
  all_goals
    simp only [decide_eq_true_eq] at hz hr
    simp only [word32, Fin.val_ofNat]
    omega

theorem major34_encodes : Encodes 32 (word32 0x34 fn g b a d) (major34 fn g b a d) := by
  obtain ⟨hfn, hg, hb, ha, hd⟩ := h
  unfold major34
  repeat' with_reducible refine Encodes.ite (fun _ => ?_) (fun _ => ?_)
  all_goals first | exact Encodes.error | refine Encodes.row (by simp) rfl (fun hz hr => ?_)
  all_goals
    simp only [decide_eq_true_eq] at hz hr
    simp only [word32, Fin.val_ofNat]
    omega

theorem major35_encodes : Encodes 32 (word32 0x35 fn g b a d) (major35 fn g b a d) := by
  obtain ⟨hfn, hg, hb, ha, hd⟩ := h
  unfold major35
  refine Encodes.row (by simp) rfl (fun hz _ => ?_)
  simp only [decide_eq_true_eq] at hz
  simp (disch := omega) only [word32, Fin.val_ofNat, BitVec.toNat_ofNat, toNat_decide_eq_one]
  omega

theorem major36_encodes : Encodes 32 (word32 0x36 fn g b a d) (major36 fn g b a d) := by
  obtain ⟨hfn, hg, hb, ha, hd⟩ := h
  unfold major36
  refine Encodes.row (by simp) rfl (fun hz _ => ?_)
  simp only [decide_eq_true_eq] at hz
  simp only [word32, Fin.val_ofNat, BitVec.toNat_ofNat]
  omega

theorem major37_encodes : Encodes 32 (word32 0x37 fn g b a d) (major37 fn g b a d) := by
  obtain ⟨hfn, hg, hb, ha, hd⟩ := h
  unfold major37
  refine Encodes.row (by simp) rfl (fun hz _ => ?_)
  simp only [decide_eq_true_eq] at hz
  simp only [word32, Fin.val_ofNat, BitVec.toNat_ofNat]
  omega

theorem major39_encodes : Encodes 32 (word32 0x39 fn g b a d) (major39 fn g b a d) := by
  obtain ⟨hfn, hg, hb, ha, hd⟩ := h
  unfold major39
  repeat' with_reducible refine Encodes.ite (fun _ => ?_) (fun _ => ?_)
  all_goals first | exact Encodes.error | refine Encodes.row (by simp) rfl (fun hz _ => ?_)
  all_goals
    simp only [decide_eq_true_eq] at hz
    simp only [word32, Fin.val_ofNat]
    omega

theorem major3A_encodes : Encodes 32 (word32 0x3A fn g b a d) (major3A fn g b a d) := by
  obtain ⟨hfn, hg, hb, ha, hd⟩ := h
  unfold major3A
  repeat' with_reducible refine Encodes.ite (fun _ => ?_) (fun _ => ?_)
  all_goals first | exact Encodes.error | refine Encodes.row (by simp) rfl (fun hz hr => ?_)
  all_goals
    simp only [decide_eq_true_eq] at hz hr
    simp (disch := omega) only [word32, Fin.val_ofNat, Scope.code_ofCode]
    omega

end Majors

/-- The one row that is not told apart by its word: NOP stands behind any guard (R313). -/
theorem major38_encodes {fn g b a d : Nat} (h : FrameFields fn g b a d) {i : Instr} (hi : major38 fn g b a d = .ok i) :
    i = .nop ∧ fn = 0 ∧ b = 0 ∧ a = 0 ∧ d = 0 ∨ i ≠ .nop ∧ encode i = some (32, word32 0x38 fn g b a d) := by
  obtain ⟨hfn, hg, hb, ha, hd⟩ := h
  by_cases hnop : fn = 0
  · rw [major38, if_pos hnop] at hi
    obtain ⟨hz, -, rfl⟩ := mk_eq_ok hi
    exact .inl ⟨rfl, hnop, of_decide_eq_true hz⟩
  · rw [major38, if_neg hnop] at hi
    refine .inr ((?_ : Encodes 32 (word32 0x38 fn g b a d) _) i hi)
    repeat' with_reducible refine Encodes.ite (fun _ => ?_) (fun _ => ?_)
    all_goals first | exact Encodes.error | refine Encodes.row (by simp) rfl (fun hz _ => ?_)
    all_goals
      simp only [decide_eq_true_eq] at hz
      simp only [word32, Fin.val_ofNat]
      omega

/-- The 16-bit forms of Table 5. -/
theorem raw16_encodes {mj i5 q p : Nat} (hi5 : i5 < 32) (hq : q < 8) (hp : p < 8) :
    Encodes 16 (word16 mj i5 q p) (raw16 mj i5 q p) := by
  unfold raw16
  split
  all_goals
    repeat' with_reducible refine Encodes.ite (fun _ => ?_) (fun _ => ?_)
  all_goals first | exact Encodes.error | refine Encodes.row (by simp) rfl (fun hz _ => ?_)
  all_goals
    simp only [decide_eq_true_eq] at hz
    simp only [word16, Fin.val_ofNat, BitVec.toNat_ofNat]
    omega

/-- The majors but 0x38. -/
theorem raw32_encodes {mj fn g b a d : Nat} (h : FrameFields fn g b a d) (hmj : mj ≠ 0x38) :
    Encodes 32 (word32 mj fn g b a d) (raw32 mj fn g b a d) := by
  unfold raw32
  split
  exacts [major01_encodes h, major02_encodes h, major03_encodes h, major04_encodes h, major05_encodes h, major06_encodes h,
    major07_encodes h, major08_encodes h, major09_encodes h, major0A_encodes h, major0B_encodes h, major0C_encodes h,
    major0D_encodes h, major10_encodes h, major11_encodes h, major12_encodes h, major13_encodes h, major14_encodes h,
    major15_encodes h, major16_encodes h, major17_encodes h, major18_encodes h, major19_encodes h, major1A_encodes h,
    major1B_encodes h, major1C_encodes h, major1D_encodes h, major1E_encodes h, major1F_encodes h, major20_encodes h,
    major21_encodes h, major22_encodes h, major23_encodes h, major24_encodes h, major25_encodes h, major26_encodes h,
    major27_encodes h, major28_encodes h, major29_encodes h, major2A_encodes h, major2B_encodes h, major2C_encodes h,
    major2D_encodes h, major2E_encodes h, major2F_encodes h, major30_encodes h, major31_encodes h, major32_encodes h,
    major33_encodes h, major34_encodes h, major35_encodes h, major36_encodes h, major37_encodes h, absurd rfl hmj, major39_encodes h,
    major3A_encodes h, Encodes.error]

/-! ### Words -/

/-- A 32-bit word is made of its fields (R202). -/
theorem word32_fields {w : Nat} (h : w % 2 = 1) :
    word32 (w / 2 % 64) (w / 33554432) (w / 4194304 % 8) (w / 131072 % 32) (w / 4096 % 32) (w / 128 % 32) = w := by
  unfold word32
  omega

/-- A 16-bit word is made of its fields (R208). -/
theorem word16_fields {w : Nat} (h : w % 2 = 0) : word16 (w / 2 % 16) (w / 2048) (w / 256 % 8) (w / 32 % 8) = w := by
  unfold word16
  omega

/-- What an odd word decodes to has that word as its encoding, or is NOP behind a guard (R200, R206, R313). -/
theorem word32Of_encodes {w : Nat} {i : Instr} (hw : w < 2 ^ 32) (hodd : w % 2 = 1) (h : word32Of w = .ok i) :
    i = .nop ∧ (∃ g, g < 8 ∧ w = word32 0x38 0 0 0 0 0 + g * 4194304) ∨ i ≠ .nop ∧ encode i = some (32, w) := by
  unfold word32Of at h
  split at h
  next himmx =>
    cases h
    refine .inr ⟨by simp, congrArg (fun v => some (32, v)) ?_⟩
    rw [BitVec.toNat_ofNat]
    omega
  next =>
    have hfields : FrameFields (w / 33554432) (w / 4194304 % 8) (w / 131072 % 32) (w / 4096 % 32) (w / 128 % 32) := by
      constructor <;> omega
    have hw' := word32_fields hodd
    rw [Nat.mod_eq_of_lt (by omega : w / 33554432 < 128)] at h
    by_cases hmj : w / 2 % 64 = 0x38
    · rw [hmj] at h hw'
      rcases major38_encodes hfields h with ⟨rfl, hfn, hb, ha, hd⟩ | hrow
      · rw [hfn, hb, ha, hd] at hw'
        refine .inl ⟨rfl, w / 4194304 % 8, by omega, ?_⟩
        unfold word32 at hw' ⊢
        omega
      · exact .inr (by rwa [hw'] at hrow)
    · have hrow := raw32_encodes hfields hmj i h
      exact .inr (by rwa [hw'] at hrow)

/-- What an even halfword decodes to has it as its encoding (R200, R208). -/
theorem word16Of_encodes {w : Nat} {i : Instr} (hw : w < 2 ^ 16) (heven : w % 2 = 0) (h : word16Of w = .ok i) :
    i ≠ .nop ∧ encode i = some (16, w) := by
  unfold word16Of at h
  rw [Nat.mod_eq_of_lt (by omega : w / 2048 < 32)] at h
  have hrow := raw16_encodes (by omega) (by omega) (by omega) i h
  rwa [word16_fields heven] at hrow

/-- A word that decodes for a processor decodes to an instruction that is well-formed for it (R204, R210). -/
theorem decodeWord_eq_ok {p : Proc} {w : Nat} {i : Instr} (h : decodeWord p w = .ok i) :
    WellFormed p i = true ∧ (if w % 2 = 1 then word32Of w else word16Of w) = .ok i := by
  unfold decodeWord at h
  split at h
  · cases h
  next j hj =>
    split at h
    · unfold classed at h
      split at h
      next hwf =>
        cases h
        exact ⟨hwf, hj⟩
      next => cases p <;> cases h
    · cases h

/-! ### Bytes -/

theorem bytesOf_two (b0 b1 : Byte) : bytesOf 2 (b0.toNat + b1.toNat * 256) = [b0, b1] := by
  have h0 := b0.isLt
  simp only [bytesOf, List.cons.injEq, and_true]
  exact ⟨BitVec.eq_of_toNat_eq (by rw [BitVec.toNat_ofNat]; omega), BitVec.eq_of_toNat_eq (by rw [BitVec.toNat_ofNat]; omega)⟩

theorem bytesOf_four (b0 b1 b2 b3 : Byte) :
    bytesOf 4 (b0.toNat + b1.toNat * 256 + b2.toNat * 65536 + b3.toNat * 16777216) = [b0, b1, b2, b3] := by
  have h0 := b0.isLt
  have h1 := b1.isLt
  have h2 := b2.isLt
  simp only [bytesOf, List.cons.injEq, and_true]
  refine ⟨BitVec.eq_of_toNat_eq ?_, BitVec.eq_of_toNat_eq ?_, BitVec.eq_of_toNat_eq ?_, BitVec.eq_of_toNat_eq ?_⟩ <;>
    rw [BitVec.toNat_ofNat] <;> omega

/-- Bit 0 of the first byte gives the length (R200). -/
theorem lengthOf_eq_four {b : Byte} : lengthOf b = 4 ↔ b.toNat % 2 = 1 := by
  unfold lengthOf
  split <;> simp_all

/-- A long instruction after its first two bytes, for any reading of words: what `decode` does there, with the reading as a parameter so
that no proof evaluates it. -/
def decodeTail (word : Nat → Except DecodeError Instr) (b0 b1 : Byte) : List Byte → Except DecodeError (Instr × List Byte)
  | b2 :: b3 :: tail =>
    match word (b0.toNat + b1.toNat * 256 + b2.toNat * 65536 + b3.toNat * 16777216) with
    | .ok i => .ok (i, tail)
    | .error e => .error e
  | _ => .error .short

/-- A short instruction after its two bytes, in the same way. -/
def decodeShort (word : Nat → Except DecodeError Instr) (b0 b1 : Byte) (tail : List Byte) : Except DecodeError (Instr × List Byte) :=
  match word (b0.toNat + b1.toNat * 256) with
  | .ok i => .ok (i, tail)
  | .error e => .error e

theorem decode_long (p : Proc) {b0 b1 : Byte} {tail : List Byte} (h : lengthOf b0 = 4) :
    decode p (b0 :: b1 :: tail) = decodeTail (decodeWord p) b0 b1 tail :=
  if_pos h
theorem decode_short (p : Proc) {b0 b1 : Byte} {tail : List Byte} (h : lengthOf b0 ≠ 4) :
    decode p (b0 :: b1 :: tail) = decodeShort (decodeWord p) b0 b1 tail :=
  if_neg h

theorem decodeTail_eq_ok {word : Nat → Except DecodeError Instr} {b0 b1 : Byte} {l rest : List Byte} {i : Instr}
    (h : decodeTail word b0 b1 l = .ok (i, rest)) : ∃ b2 b3, l = b2 :: b3 :: rest ∧
      word (b0.toNat + b1.toNat * 256 + b2.toNat * 65536 + b3.toNat * 16777216) = .ok i := by
  unfold decodeTail at h
  split at h
  next b2 b3 tail =>
    split at h
    next j hj =>
      cases h
      exact ⟨b2, b3, rfl, hj⟩
    next => cases h
  next => cases h

theorem decodeShort_eq_ok {word : Nat → Except DecodeError Instr} {b0 b1 : Byte} {l rest : List Byte} {i : Instr}
    (h : decodeShort word b0 b1 l = .ok (i, rest)) : l = rest ∧ word (b0.toNat + b1.toNat * 256) = .ok i := by
  unfold decodeShort at h
  split at h
  next j hj =>
    cases h
    exact ⟨rfl, hj⟩
  next => cases h

/-- The decoder takes a 32-bit word or a 16-bit word from the front of its bytes. -/
theorem decode_eq_ok {p : Proc} {l rest : List Byte} {i : Instr} (h : decode p l = .ok (i, rest)) :
    (∃ w, w < 2 ^ 32 ∧ w % 2 = 1 ∧ l = bytesOf 4 w ++ rest ∧ decodeWord p w = .ok i) ∨
      ∃ w, w < 2 ^ 16 ∧ w % 2 = 0 ∧ l = bytesOf 2 w ++ rest ∧ decodeWord p w = .ok i := by
  match l with
  | [] => cases h
  | [_] => cases h
  | b0 :: b1 :: tail =>
    have h0 := b0.isLt
    have h1 := b1.isLt
    by_cases hlen : lengthOf b0 = 4
    · rw [decode_long p hlen] at h
      obtain ⟨b2, b3, rfl, hword⟩ := decodeTail_eq_ok h
      have h2 := b2.isLt
      have h3 := b3.isLt
      rw [lengthOf_eq_four] at hlen
      exact .inl ⟨_, by omega, by omega, by rw [bytesOf_four]; rfl, hword⟩
    · rw [decode_short p hlen] at h
      obtain ⟨rfl, hword⟩ := decodeShort_eq_ok h
      rw [lengthOf_eq_four] at hlen
      exact .inr ⟨_, by omega, by omega, by rw [bytesOf_two]; rfl, hword⟩

/-! ### The statements -/

/-- Settles O56: what the rows of each major decode to has the row's word as its encoding, NOP alone under every guard. -/
theorem onlyEncodings : Obligations.OnlyEncodings := by
  intro p l rest i h
  rcases decode_eq_ok h with ⟨w, hw, hodd, rfl, hword⟩ | ⟨w, hw, heven, rfl, hword⟩
  · obtain ⟨hwf, hrow⟩ := decodeWord_eq_ok hword
    rw [if_pos hodd] at hrow
    refine ⟨hwf, ?_⟩
    rcases word32Of_encodes hw hodd hrow with ⟨rfl, g, hg, hnop⟩ | ⟨hi, henc⟩
    · exact ⟨32, _, rfl, fun hne => absurd rfl hne, fun _ => ⟨g, hg, by rw [← hnop]⟩⟩
    · exact ⟨32, w, henc, fun _ => rfl, fun hnop => absurd hnop hi⟩
  · obtain ⟨hwf, hrow⟩ := decodeWord_eq_ok hword
    rw [if_neg (by omega)] at hrow
    obtain ⟨hi, henc⟩ := word16Of_encodes hw heven hrow
    exact ⟨hwf, 16, w, henc, fun _ => rfl, fun hnop => absurd hnop hi⟩

/-- Refutes O55: MOVS to mh0 is well-formed for a strand and has an encoding, and the decoder refuses that encoding as a write of a message
register (R213, detail 0x06). -/
theorem not_decodeEncode : ¬ Obligations.DecodeEncode := by
  intro h
  obtain ⟨-, -, -, hdecode⟩ := h .strand (.movsWrite 0 0 0) 32 (word32 0x0D 1 0 0 0 0) [] (by decide) (by decide)
  have hrefused : decode .strand (bytesOf (32 / 8) (word32 0x0D 1 0 0 0 0) ++ []) = .error .movsWrite := by decide
  rw [hrefused] at hdecode
  cases hdecode

end Sys2Proof.Machine
end

section
/-! SUPPORT. The register–register forms, their 16-bit forms, and the special registers (chapters 8, 11 and 13). -/

namespace Sys2Proof.Machine

/-! ### Register–register and 16-bit forms -/

section RegisterForms

variable {s : State} {g : Fin 8} {len d a b : Nat}

theorem State.ready.aluRR {f : Word → Word → Word} (h : s.ready g [a, b] [d]) :
    aluRR g len d a b f s =
      .next (((s.correctRegs [a, b]).setW d (f ((s.correctRegs [a, b]).w a) ((s.correctRegs [a, b]).w b))).advance len) :=
  h.scalar

/-- The minimum and maximum by order of the values (R241). -/
theorem minS_eq (x y : Word) : minS x y = if y.toInt < x.toInt then y else x := by
  simp only [minS, BitVec.slt, decide_eq_true_eq]
theorem maxS_eq (x y : Word) : maxS x y = if x.toInt < y.toInt then y else x := by
  simp only [maxS, BitVec.slt, decide_eq_true_eq]
theorem minU_eq (x y : Word) : minU x y = if y.toNat < x.toNat then y else x := by
  simp only [minU, BitVec.ult, decide_eq_true_eq]
theorem maxU_eq (x y : Word) : maxU x y = if x.toNat < y.toNat then y else x := by
  simp only [maxU, BitVec.ult, decide_eq_true_eq]

end RegisterForms

/-- Settles O1: every register–register form is `aluRR` with its function. -/
theorem registerArithmetic : Obligations.RegisterArithmetic := by
  intro s g d a b h t x y put
  have hform (f : Word → Word → Word) : aluRR g 4 d a b f s = put (f x y) := h.aluRR
  refine ⟨hform _, hform _, hform _, hform mulHigh, hform mulHighN, hform _, hform _, hform _, hform shiftL, hform shiftR, hform shiftA,
    hform rotateL, ?_, ?_, ?_, ?_⟩
  · rw [← minS_eq]
    exact hform minS
  · rw [← maxS_eq]
    exact hform maxS
  · rw [← minU_eq]
    exact hform minU
  · rw [← maxU_eq]
    exact hform maxU

/-- Settles O8: the 16-bit forms are the operand forms on w8 to w15, two bytes long. -/
theorem shortScalarForms : Obligations.ShortScalarForms := by
  intro s p q i j m h t u x y put one
  have hone : s.ready (0 : Fin 8) [8 + q.val] [8 + p.val] := h.mono (by simp) (List.Subset.refl _)
  have hnone : s.ready (0 : Fin 8) [] [8 + p.val] := h.mono (List.nil_subset _) (List.Subset.refl _)
  have hform (f : Word → Word → Word) : aluRR 0 2 (8 + p.val) (8 + p.val) (8 + q.val) f s = put (f x y) := State.ready.aluRR h
  have hshift : shiftCount (word m.val) = m.val := by
    simp only [shiftCount, word, BitVec.toNat_ofNat]
    omega
  have hmov : aluR 0 2 (8 + p.val) (8 + q.val) (fun x => x) s = one (u.w (8 + q.val)) := State.ready.aluR hone
  have haddi : aluRI 0 2 (8 + p.val) (8 + q.val) i (· + ·) s = one (u.w (8 + q.val) + immOf u.imx 5 i.toNat) := State.ready.aluRI hone
  have hshli : aluR 0 2 (8 + p.val) (8 + q.val) (fun x => shiftL x (word m.val)) s = one (u.w (8 + q.val) <<< m.val) := by
    rw [State.ready.aluR hone, shiftL, hshift]
  have hmovi : aluI 0 2 (8 + p.val) j s = .next ((s.setW (8 + p.val) (immOf s.imx 8 j.toNat)).advance 2) := State.ready.aluI hnone
  exact ⟨hform _, hform _, hform _, hform _, hform _, hform shiftL, hform shiftR, hform shiftA, hform _, hmov, haddi, hshli, hmovi⟩

/-! ### Special registers -/

section SpecialRegisters

variable {s : State} {c n : Nat}

@[simp] theorem scaledLoads_correctRegs (rs : List Nat) : scaledLoads (s.correctRegs rs) c n = scaledLoads s c n := by
  simp only [scaledLoads, State.correctRegs_accs, State.correctRegs_strand]
@[simp] theorem flagsOutstanding_correctRegs (rs : List Nat) : flagsOutstanding (s.correctRegs rs) c n = flagsOutstanding s c n := by
  have hstrand : flagStrand (s.correctRegs rs) c = flagStrand s c := by
    funext m
    simp only [flagStrand, strandOfAct, State.correctRegs_strand]
  rw [flagsOutstanding, hstrand, scaledLoads_correctRegs, State.correctRegs_core, flagsOutstanding]
@[simp] theorem dequeBusy_correctRegs (rs : List Nat) : dequeBusy (s.correctRegs rs) c = dequeBusy s c := by
  simp only [dequeBusy, State.correctRegs_steals]

/-- CSRR reads its register once w(d) is ready and no flags are outstanding (R257, R258). -/
theorem execCsrr_ready {g : Fin 8} {d : Fin 32} {num : BitVec 12} (h : s.strandReady c n g [] [d.val])
    (hflags : flagsOutstanding s c n = false) :
    execCsrr g num d s = .next ((s.setW d (csrRead s c n num.toNat)).advance 4) := by
  rw [execCsrr, onStrand_strand h.runs, guarded_true h.guard, if_neg (by simp [h.written, hflags])]

/-- CSRW writes its register once nothing outstanding reads or sets it (R257–R259). -/
theorem execCsrw_ready {g : Fin 8} {a : Fin 32} {num : BitVec 12} (h : s.strandReady c n g [a.val] [])
    (hflags : flagsOutstanding s c n = false) (hdeque : dequeBusy s c = false) (hscaled : scaledLoads s c n = false) :
    execCsrw g num a s = .next ((csrWrite (s.correctRegs [a]) c n num.toNat ((s.correctRegs [a]).w a)).advance 4) := by
  rw [execCsrw, onStrand_strand h.runs, guarded_true h.guard, needing_ready h.read h.sound, if_neg (by simp [hflags, hdeque, hscaled])]

/-- MOVS reads a message word that is not poisoned, or a build word (R142, R260). -/
theorem execMovsRead_message {g : Fin 8} {m : Fin 16} {d : Fin 32} (h : s.strandReady c n g [] [d.val]) (hm : m.val < 8)
    (hbad : s.me.mbad.getLsbD m.val = false) : execMovsRead g m d s = .next ((s.setW d (s.me.m.get m.val)).advance 4) :=
  h.strandOp_noReads (by rw [if_pos hm, if_neg (by simp [hbad])])
theorem execMovsRead_build {g : Fin 8} {m : Fin 16} {d : Fin 32} (h : s.strandReady c n g [] [d.val]) (hm : 8 ≤ m.val) :
    execMovsRead g m d s = .next ((s.setW d (s.me.b.get (m.val - 8))).advance 4) :=
  h.strandOp_noReads (if_neg (by omega))
/-- MOVS writes a build word (R142, R260). -/
theorem execMovsWrite_build {g : Fin 8} {m : Fin 16} {a : Fin 32} (h : s.strandReady c n g [a.val] []) (hm : 8 ≤ m.val) :
    execMovsWrite g m a s = .next (((s.correctRegs [a]).modMe
      (fun x => { x with b := x.b.set (m.val - 8) ((s.correctRegs [a]).w a) })).advance 4) := by
  rw [execMovsWrite, onStrand_strand h.runs, if_neg (by omega)]
  exact h.strandOp_ok rfl

/-- TMSET writes the entry once its vector and the entry's bytes are not in flight (R141, R261, R335). -/
theorem execTmset_ready {g : Fin 8} {d a : Fin 16} (h : s.strandReady c n g [] []) (hv : s.me.busyV.getLsbD a = false)
    (hbytes : bytesInFlight s c n (padBase c + 0x15000 + 64 * d.val) 64 = false) :
    execTmset g d a s = .next ((s.write (padBase c + 0x15000 + 64 * d.val) 64 ((s.v a).toNat % 2 ^ 512)).advance 4) := by
  rw [execTmset, onStrand_strand h.runs, guarded_true h.guard, hv, hbytes]
  rfl

end SpecialRegisters

/-- BCLR clears the build registers (R302). -/
theorem execBclr_strand {s : State} {c n : Nat} {g : Fin 8} (h : s.strandReady c n g [] []) :
    execBclr g s = .next ((s.modMe (fun x => { x with b := .zero })).advance 4) := by
  rw [execBclr, onStrand_strand h.runs, guarded_true h.guard, State.modMe, h.runs]
  rfl

/-- CSRW changes the listed read-write registers alone; the others ignore it (R7, R143). -/
theorem csrWrite_of_not_mem {s : State} {c n num : Nat} {x : Word}
    (h : num ∉ [0x010, 0x011, 0x012, 0x023, 0x040, 0x041, 0x044]) : csrWrite s c n num x = s := by
  unfold csrWrite
  split <;> first | rfl | simp at h

/-- Settles O7: each special-register instruction retires on ready registers, and what CSRW writes CSRR reads. -/
theorem specialRegisters : Obligations.SpecialRegisters := by
  intro s c n g r m d e h hflags hdeque hscaled t
  have hread : s.strandReady c n g [] [r.val] := h.mono (List.nil_subset _) (List.Subset.refl _)
  have hwrite : s.strandReady c n g [r.val] [] := h.mono (List.Subset.refl _) (List.nil_subset _)
  have hnone : s.strandReady c n g [] [] := h.mono (List.nil_subset _) (List.nil_subset _)
  refine ⟨fun num => execCsrr_ready hread hflags, fun num => execCsrw_ready hwrite hflags hdeque hscaled, execMovsRead_message hread,
    execMovsRead_build hread, execMovsWrite_build hwrite, execTmset_ready hnone, execBclr_strand hnone, fun v => ?_⟩
  refine ⟨?_, ?_, ?_, ?_, ?_, ?_, ?_, ?_, ?_, ?_, ?_, fun num hnum => csrWrite_of_not_mem hnum⟩ <;>
    simp only [csrRead, csrWrite, State.strand_modStrand_same, State.core_modCore_same] <;> rfl

end Sys2Proof.Machine
end

section
/-! PROOFS. The worked encodings, the state after reset, what a write is read as, and what register instructions leave. -/

open Sys2Proof

namespace Sys2Proof.Machine

/-! ### Worked encodings and reset -/

/-- Settles O57: each word is decoded by evaluation. -/
theorem workedEncodings : Obligations.WorkedEncodings := by
  unfold Obligations.WorkedEncodings
  decide +kernel

/-- At reset no way of a slice is set aside for lines of other packages. -/
theorem remsz_reset (d : Nat) : (State.reset.die d).remsz = 0 := by
  have hdie : State.reset.die d = Die.init := rfl
  rw [Die.remsz, hdie]
  decide

/-- Settles O59: every table of the reset state is empty, so each read gives the initial value. -/
theorem resetState : Obligations.ResetState := by
  unfold Obligations.ResetState
  exact ⟨fun _ _ => ⟨rfl, rfl, rfl, rfl⟩, fun _ => ⟨rfl, rfl, rfl, rfl, rfl, rfl, rfl, rfl, rfl⟩, fun _ _ => ⟨rfl, rfl⟩,
    fun _ => ⟨rfl, rfl, rfl, rfl⟩, fun _ => ⟨rfl, rfl, rfl, rfl⟩, remsz_reset, fun _ => rfl, fun _ => rfl,
    rfl, rfl, rfl, rfl, rfl, rfl, rfl⟩

/-! ### What is written is read -/

section ReadBack

variable {s : State} {c n u d e : Nat}

/-- A number written is read byte by byte. -/
theorem Memory.get_writeN (k : Nat) : ∀ (m : List Host.Cell) (a v i : Nat), i < k →
    Memory.get (Memory.writeN m a k v) (a + i) = BitVec.ofNat 8 (v / 2 ^ (8 * i)) := by
  induction k with
  | zero => intro m a v i h; omega
  | succ k ih =>
    intro m a v i h
    rw [Memory.writeN]
    cases i with
    | zero =>
      rw [Memory.get_writeN_other _ _ _ _ (by omega), Nat.add_zero, Memory.get_set_same]
      refine BitVec.eq_of_toNat_eq ?_
      simp
    | succ i =>
      rw [show a + (i + 1) = a + 1 + i by omega, ih _ _ _ _ (by omega), Nat.div_div_eq_div_mul]
      rw [show 2 ^ (8 * (i + 1)) = 256 * 2 ^ (8 * i) by rw [show 8 * (i + 1) = 8 + 8 * i by omega, Nat.pow_add]]

/-- A number written leaves the bytes of a range that it does not meet. -/
theorem Memory.readN_writeN_other (m : List Host.Cell) {a b k j : Nat} (v : Nat) (h : b + j ≤ a ∨ a + k ≤ b) :
    Memory.readN (Memory.writeN m a k v) b j = Memory.readN m b j :=
  Memory.readN_congr j b fun i hi => Memory.get_writeN_other k a v (b + i) (by omega)

/-- The 64 bits of a word as bytes and back. -/
theorem word_toNat_mod (x : Word) : word (x.toNat % 2 ^ (8 * 8)) = x :=
  BitVec.eq_of_toNat_eq (by simpa [word] using x.isLt)

theorem State.w_setW_strand (h : s.cur = .strand c n) (x : Word) : (s.setW d x).w d = x := by
  simp only [State.w, State.setW, State.setWAt, h, State.write_cur]
  exact (congrArg word (State.read_write s _ 8 _)).trans (word_toNat_mod x)

theorem State.w_setW_strand_other (h : s.cur = .strand c n) (hne : e ≠ d) (x : Word) : (s.setW d x).w e = s.w e := by
  simp only [State.w, State.setW, State.setWAt, h, State.write_cur]
  refine congrArg word (Memory.readN_writeN_other _ _ ?_)
  have hframe : (State.strand (s.write (regAddr c (s.strand c n).frame d) 8 x.toNat) c n).frame = (s.strand c n).frame := rfl
  rw [hframe]
  simp only [regAddr]
  omega

theorem State.w_setW_unit (h : s.cur = .unit u) (x : Word) : (s.setW d x).w d = x := by
  simp only [State.w, State.setW, h, State.modUnit_cur, State.unit_modUnit_same, Memory.readN_writeN, word_toNat_mod]

theorem State.w_setW_unit_other (h : s.cur = .unit u) (hne : e ≠ d) (x : Word) : (s.setW d x).w e = s.w e := by
  simp only [State.w, State.setW, h, State.modUnit_cur, State.unit_modUnit_same]
  exact congrArg word (Memory.readN_writeN_other _ _ (by omega))

theorem State.me_modMe (s : State) (f : Strand → Strand) : (s.modMe f).me = f s.me := State.strand_modStrand_same ..

theorem State.k_setK (s : State) (x : Word) : (s.setK d x).k d = if d = 0 then BitVec.allOnes 64 else x := by
  rw [State.k, State.setK, State.me_modMe, Strand.mask, Strand.setMask]
  split
  · rfl
  · exact Table.get_set_same ..

theorem State.k_setK_other (s : State) (hne : e ≠ d) (x : Word) : (s.setK d x).k e = s.k e := by
  rw [State.k, State.setK, State.me_modMe, State.k, Strand.mask, Strand.mask, Strand.setMask]
  split
  · rfl
  · split
    · rfl
    · exact Table.get_set_other _ _ _ hne.symm

theorem State.v_setV (s : State) (x : VWord) : (s.setV d x).v d = x := by
  rw [State.v, State.setV, State.me_modMe]
  exact Table.get_set_same ..

theorem State.v_setV_other (s : State) (hne : e ≠ d) (x : VWord) : (s.setV d x).v e = s.v e := by
  rw [State.v, State.setV, State.me_modMe]
  exact Table.get_set_other _ _ _ hne.symm

end ReadBack

/-- Settles O54, register file by register file. -/
theorem readAfterWrite : Obligations.ReadAfterWrite := by
  refine ⟨fun s c n x h => ⟨fun d _ => ⟨State.w_setW_strand h x, fun e _ hne => State.w_setW_strand_other h hne x⟩,
      fun d _ => ⟨State.k_setK s x, fun e _ hne => State.k_setK_other s hne x⟩⟩,
    fun s c n d v _ _ => ⟨State.v_setV s v, fun e _ hne => State.v_setV_other s hne v⟩,
    fun s u d x h _ => ⟨State.w_setW_unit h x, fun e _ hne => State.w_setW_unit_other h hne x⟩,
    fun s pa k v => ⟨State.read_write s pa k v, fun i hi => ?_, fun x hx => ?_, State.wf_write s pa k v⟩⟩
  · exact Memory.get_writeN k s.mem pa v i hi
  · exact Memory.get_writeN_other k pa v x hx

/-! ### What register instructions leave -/

/-- What a write of w(d) by strand n of core c, or none, may change from one state to another. -/
structure RegisterFrameOf (s t : State) (c n d : Nat) : Prop where
  bytes : ∀ x, (x < regAddr c (s.strand c n).frame d ∨ regAddr c (s.strand c n).frame d + 8 ≤ x) → t.byteAt x = s.byteAt x
  strand : ∃ pc imx wait deadline, t.strand c n = { s.strand c n with pc := pc, imx := imx, wait := wait, deadline := deadline }
  strands : ∀ j, j ≠ n → t.strand c j = s.strand c j
  core : ∃ q, t.core c = { s.core c with strands := q }
  cores : ∀ j, j ≠ c → t.core j = s.core j
  parts : t.units = s.units ∧ t.hbms = s.hbms ∧ t.dies = s.dies ∧ t.pkgs = s.pkgs ∧ t.rlines = s.rlines ∧ t.records = s.records ∧
    t.launches = s.launches ∧ t.accs = s.accs ∧ t.mreqs = s.mreqs ∧ t.mreps = s.mreps ∧ t.flits = s.flits ∧ t.host = s.host

section RegisterFrames

variable {s t : State} {c n len d : Nat} {rs : List Nat} {x : Word}

theorem RegisterFrameOf.refl : RegisterFrameOf s s c n d :=
  ⟨fun _ _ => rfl, ⟨_, _, _, _, rfl⟩, fun _ _ => rfl, ⟨_, rfl⟩, fun _ _ => rfl, rfl, rfl, rfl, rfl, rfl, rfl, rfl, rfl, rfl, rfl, rfl, rfl⟩

/-- A jump of the strand changes the strand's PC, prefixes and wait alone. -/
theorem RegisterFrameOf.jump (h : RegisterFrameOf s t c n d) (ht : t.cur = .strand c n) (target : Word) :
    RegisterFrameOf s (t.jump target) c n d := by
  obtain ⟨hbytes, ⟨pc, imx, wait, deadline, hstrand⟩, hstrands, ⟨q, hcore⟩, hcores, hparts⟩ := h
  rw [State.jump_strand ht]
  refine ⟨hbytes, ⟨target, [], .none, none, ?_⟩, fun j hj => ?_, ⟨?_, ?_⟩, fun j hj => ?_, hparts⟩
  · rw [State.strand_modStrand_same, hstrand]
  · rw [State.strand_modStrand_other _ _ (.inr hj.symm), hstrands j hj]
  · exact Table.set q n { t.strand c n with pc := target, imx := [], wait := .none, deadline := none }
  · rw [State.modStrand, State.core_modCore_same, Core.setStrand, hcore, State.strand, hcore]
  · rw [State.modStrand, State.core_modCore_other _ _ hj.symm, hcores j hj]

/-- A write of w(d) after the errors of other registers are corrected changes the bytes of w(d) alone. -/
theorem RegisterFrameOf.setW (h : s.cur = .strand c n) (rs : List Nat) (x : Word) :
    RegisterFrameOf s ((s.correctRegs rs).setW d x) c n d := by
  obtain ⟨e, p, k, hcorrect⟩ := State.correctRegs_eq s rs
  rw [hcorrect, State.setW]
  simp only [h]
  exact ⟨fun y hy => Memory.get_writeN_other _ _ _ _ hy, ⟨_, _, _, _, rfl⟩, fun _ _ => rfl, ⟨_, rfl⟩, fun _ _ => rfl,
    rfl, rfl, rfl, rfl, rfl, rfl, rfl, rfl, rfl, rfl, rfl, rfl⟩

variable {g : Fin 8} {a b : Nat} {i : Instr}

/-- The instruction computes w(d) from the registers it reads, all of them among a and b. -/
def WritesRegister (i : Instr) (s : State) (g : Fin 8) (d a b : Nat) : Prop :=
  ∃ (reads : List Nat) (f : State → Word), reads ⊆ [a, b] ∧ exec i s = scalar g 4 reads [d] (fun u => u.setW d (f u)) s

theorem aluRR_writesRegister {f : Word → Word → Word} (h : exec i s = aluRR g 4 d a b f s) : WritesRegister i s g d a b :=
  ⟨[a, b], fun u => f (u.w a) (u.w b), List.Subset.refl _, h⟩
theorem aluR_writesRegister {f : Word → Word} (h : exec i s = aluR g 4 d a f s) : WritesRegister i s g d a b :=
  ⟨[a], fun u => f (u.w a), by simp, h⟩
theorem aluRI_writesRegister {k : Nat} {o : BitVec k} {f : Word → Word → Word} (h : exec i s = aluRI g 4 d a o f s) :
    WritesRegister i s g d a b :=
  ⟨[a], fun u => f (u.w a) (u.imm o), by simp, h⟩
theorem aluI_writesRegister {k : Nat} {o : BitVec k} (h : exec i s = aluI g 4 d o s) : WritesRegister i s g d a b :=
  ⟨[], fun u => u.imm o, by simp, h⟩

/-- Waiting for registers passes on the one state with their errors corrected. -/
theorem needing_congr {k k' : State → Result} (h : k (s.correctRegs rs) = k' (s.correctRegs rs)) : needing rs s k = needing rs s k' := by
  unfold needing
  split
  · rfl
  · split
    · rfl
    · exact h
/-- Where its effect is defined a form that may trap is the form that only computes. -/
theorem scalarTrap_eq_scalar {reads writes : List Nat} {f : State → Except (Nat × Nat × Word) State} {f' : State → State}
    (h : f (s.correctRegs reads) = .ok (f' (s.correctRegs reads))) : scalarTrap g len reads writes f s = scalar g len reads writes f' s := by
  have hneed : (needing reads s fun u => match f u with
      | .ok v => .next (v.advance len)
      | .error (cause, detail, x) => .next (u.trap cause detail x)) = needing reads s fun u => .next ((f' u).advance len) :=
    needing_congr (by rw [h])
  unfold scalarTrap scalar onProcessor guarded
  split
  · rfl
  · beta_reduce
    split
    · split
      · rfl
      · exact hneed
    · rfl
/-- A division whose divisor is not zero computes like the other forms. -/
theorem divRR_eq_aluRR {f : Word → Word → Word} {zero : Word → Word} (h : (s.correctRegs [a, b]).w b ≠ 0) :
    divRR g d a b f zero s = aluRR g 4 d a b f s :=
  scalarTrap_eq_scalar (if_neg h)
theorem divRR_writesRegister {f : Word → Word → Word} {zero : Word → Word} (h : exec i s = divRR g d a b f zero s)
    (hb : (s.correctRegs [a, b]).w b ≠ 0) : WritesRegister i s g d a b :=
  aluRR_writesRegister (h.trans (divRR_eq_aluRR hb))

/-- With its guard false a register instruction only moves PC. -/
theorem WritesRegister.skipped (h : WritesRegister i s g d a b) (hc : s.cur = .strand c n) (hg : s.predicate g = false) :
    exec i s = .next (s.advance 4) := by
  obtain ⟨reads, f, _, hexec⟩ := h
  rw [hexec, scalar, onProcessor_runs (by simp [hc]), guarded_false hg]

/-- Where it does not trap a register instruction keeps the frame. -/
theorem WritesRegister.frame (h : WritesRegister i s g d a b) (hc : s.cur = .strand c n) (hbad : s.badReg [a, b] = none)
    (ht : exec i s = .next t) : RegisterFrameOf s t c n d := by
  obtain ⟨reads, f, hsub, hexec⟩ := h
  rw [hexec] at ht
  obtain ⟨-, hnone⟩ | ⟨hskip, -⟩ | ⟨hwait, -⟩ | ⟨pa, hpa, -⟩ | ⟨hrun, -, -⟩ := scalar_cases g 4 reads [d] (fun u => u.setW d (f u)) s
  · exact absurd (hc.symm.trans hnone) (by simp)
  · rw [hskip] at ht
    cases ht
    exact RegisterFrameOf.refl.jump hc _
  · rw [hwait] at ht
    cases ht
    exact .refl
  · rw [State.badReg_of_subset hsub hbad] at hpa
    exact absurd hpa (by simp)
  · rw [hrun] at ht
    cases ht
    have hcur : ((s.correctRegs reads).setW d (f (s.correctRegs reads))).cur = .strand c n := by
      simp only [State.setW, State.correctRegs_cur, hc]
      exact (State.write_cur ..).trans ((State.correctRegs_cur ..).trans hc)
    exact (RegisterFrameOf.setW hc reads _).jump hcur _

end RegisterFrames

/-- The register instructions of the frame statement. -/
def registerInstrs (g : Fin 8) (d a b : Fin 32) (o : BitVec 12) (e : BitVec 17) (m : Fin 64) (z : Fin 3) : List Instr :=
  [.add g d a b, .sub g d a b, .mul g d a b, .mulh g d a b, .mulhn g d a b, .and g d a b, .or g d a b, .xor g d a b, .shl g d a b,
    .shr g d a b, .sar g d a b, .rot g d a b, .min g d a b, .max g d a b, .minn g d a b, .maxn g d a b, .clz g d a, .ctz g d a,
    .popc g d a, .mov g d a, .sext g z d a, .zext g z d a, .addi g o d a, .andi g o d a, .ori g o d a, .xori g o d a, .shli g m d a,
    .shri g m d a, .sari g m d a, .movi g e d]

theorem registerInstrs_write (s : State) (g : Fin 8) (d a b : Fin 32) (o : BitVec 12) (e : BitVec 17) (m : Fin 64) (z : Fin 3) :
    ∀ i ∈ registerInstrs g d a b o e m z, WritesRegister i s g d a b := by
  have two {i : Instr} (f : Word → Word → Word) (h : exec i s = aluRR g 4 d a b f s) : WritesRegister i s g d a b := aluRR_writesRegister h
  have one {i : Instr} (f : Word → Word) (h : exec i s = aluR g 4 d a f s) : WritesRegister i s g d a b := aluR_writesRegister h
  have imm {i : Instr} (f : Word → Word → Word) (h : exec i s = aluRI g 4 d a o f s) : WritesRegister i s g d a b := aluRI_writesRegister h
  simp only [registerInstrs, List.forall_mem_cons]
  exact ⟨two _ rfl, two _ rfl, two _ rfl, two _ rfl, two _ rfl, two _ rfl, two _ rfl, two _ rfl, two _ rfl, two _ rfl, two _ rfl,
    two _ rfl, two _ rfl, two _ rfl, two _ rfl, two _ rfl, one _ (exec_clz ..), one _ (exec_ctz ..), one _ (exec_popc ..), one _ (exec_mov ..),
    one _ (exec_sext ..), one _ (exec_zext ..), imm _ (exec_addi ..), imm _ (exec_andi ..), imm _ (exec_ori ..), imm _ (exec_xori ..),
    one _ (exec_shli ..), one _ (exec_shri ..), one _ (exec_sari ..), aluI_writesRegister (exec_movi ..), by simp⟩

theorem divisions_write {s : State} {g : Fin 8} {d a b : Fin 32} (hb : (s.correctRegs [a, b]).w b ≠ 0) :
    ∀ i ∈ [Instr.div g d a b, .divn g d a b, .rem g d a b, .remn g d a b], WritesRegister i s g d a b := by
  simp only [List.forall_mem_cons]
  exact ⟨divRR_writesRegister (exec_div ..) hb, divRR_writesRegister (exec_divn ..) hb, divRR_writesRegister (exec_rem ..) hb,
    divRR_writesRegister (exec_remn ..) hb, by simp⟩

/-- Settles O52: every instruction of the list computes w(d), and what that may change is `RegisterFrameOf`. -/
theorem registerFrame : Obligations.RegisterFrame := by
  intro s t c n g d a b o e m z i hc hbad hi
  have hwrites : WritesRegister i s g d a b := by
    obtain hi | hi := List.mem_append.1 hi
    · exact registerInstrs_write s g d a b o e m z i hi
    · by_cases hb : (s.correctRegs [a, b]).w b = 0
      · rw [if_pos hb] at hi
        exact absurd hi (by simp)
      · rw [if_neg hb] at hi
        exact divisions_write hb i hi
  refine ⟨hwrites.skipped hc, fun ht => ?_⟩
  obtain ⟨hbytes, hstrand, hstrands, hcore, hcores, hparts⟩ := hwrites.frame hc hbad ht
  exact ⟨hbytes, hstrand, hstrands, hcore, hcores, hparts⟩

end Sys2Proof.Machine
end

section
/-! PROOFS. Fetching: a turn of a processor runs the instruction that its bytes decode to, after the prefixes before it. -/

open Sys2Proof

namespace Sys2Proof.Machine

/-! ### One fetch -/

section OneFetch

variable {s : State} {p : Proc} {mem : List Host.Cell} {base limit off k : Nat} {i : Instr}

theorem lengthOf_eq (b : Byte) : lengthOf b = 2 ∨ lengthOf b = 4 := by
  unfold lengthOf
  split <;> simp

/-- What a decoded instruction leaves of its bytes. -/
theorem decode_rest {p : Proc} {i : Instr} {b₀ b₁ : Byte} {rest left : List Byte} (h : decode p (b₀ :: b₁ :: rest) = .ok (i, left)) :
    2 + rest.length = lengthOf b₀ + left.length := by
  by_cases hlen : lengthOf b₀ = 4
  · rw [decode_long p hlen] at h
    obtain ⟨b₂, b₃, rfl, -⟩ := decodeTail_eq_ok h
    rw [hlen, List.length_cons, List.length_cons]
    omega
  · rw [decode_short p hlen] at h
    obtain ⟨rfl, -⟩ := decodeShort_eq_ok h
    rw [(lengthOf_eq b₀).resolve_right hlen]

/-- The length of what decodes with nothing left is the one that its first byte gives. -/
theorem lengthOf_of_decode (hk : k = 2 ∨ k = 4) (h : decode p (Memory.bytes mem off k) = .ok (i, [])) :
    lengthOf (Memory.get mem off) = k := by
  obtain rfl | rfl := hk
  · exact (decode_rest h).symm
  · exact (decode_rest h).symm

theorem extendable_bytes (hk : k = 2 ∨ k = 4) : (Memory.bytes mem off k).take 2 = Memory.bytes mem off 2 := by
  obtain rfl | rfl := hk <;> rfl

/-- Poison in part of a range is poison in the range. -/
theorem State.poisonedAt_eq_none_of_le {pa n pa' n' : Nat} (h : s.poisonedAt pa n = none) (hlo : pa ≤ pa') (hhi : pa' + n' ≤ pa + n) :
    s.poisonedAt pa' n' = none := by
  simp only [State.poisonedAt, Option.map_eq_none_iff, List.find?_eq_none, touchesWord, decide_eq_true_eq] at h ⊢
  exact fun w hw => by
    have := h w hw
    omega

/-- Code bytes inside the limit and without poison that decode are fetched. -/
theorem fetchFrom_of_decode (hk : k = 2 ∨ k = 4) (hlimit : off + k ≤ limit) (hpoison : p = .strand → s.poisonedAt (base + off) k = none)
    (h : decode p (Memory.bytes mem (base + off) k) = .ok (i, [])) :
    fetchFrom s p mem base limit off = .instr i (extendable (ofBytesLE (Memory.bytes mem (base + off) 2))) := by
  have hlen := lengthOf_of_decode hk h
  have hhead : (Memory.bytes mem (base + off) 4).headD 0 = Memory.get mem (base + off) := rfl
  have hbytes : (if k = 4 then Memory.bytes mem (base + off) 4 else (Memory.bytes mem (base + off) 4).take 2) =
      Memory.bytes mem (base + off) k := by
    obtain rfl | rfl := hk <;> rfl
  have hwidth : (if k = 4 then 4 else 2) = k := by
    obtain rfl | rfl := hk <;> rfl
  have hsound : (if p = .strand then s.poisonedAt (base + off) k else none) = none := by
    split
    · exact hpoison ‹_›
    · rfl
  have hinside : ¬ (k = 4 ∧ limit ≤ off + 2) := by omega
  unfold fetchFrom
  rw [if_neg (by omega)]
  simp only [hhead, hlen, decide_eq_true_eq, Bool.and_eq_true, hinside, if_false, hwidth, hsound, hbytes]
  rw [fetched, h]
  simp only [extendable_bytes hk]

end OneFetch

/-! ### Prefixes and the instruction that they extend -/

/-- The state after a prefix. -/
def State.prefixed (s : State) (x : BitVec 27) : State := match execImmx x s with | .next t => t | _ => s

/-- Where a processor fetches: its decoder, the memory that holds its code, the code's base and its limit. -/
structure CodeSource where
  proc : Proc
  mem : List Host.Cell
  base : Nat
  limit : Nat

/-- The code of the processor that executes. -/
def State.code (s : State) : CodeSource :=
  match s.cur with
  | .strand c _ => ⟨.strand, s.mem, padBase c, 0x10000⟩
  | .unit u => ⟨.footing, (s.unit u).overlay, 0, 0x1000⟩
  | .none => ⟨.strand, [], 0, 0⟩

/-- The n bytes of the code of the processor that executes, at an offset from its PC. -/
def State.codeBytes (s : State) (off n : Nat) : List Byte := Memory.bytes s.code.mem (s.code.base + s.pc.toNat + off) n

section Prefixes

variable {s : State} {x : BitVec 27}

theorem State.code_limit_le (s : State) : s.code.limit ≤ 0x10000 := by
  unfold State.code
  split <;> simp

theorem fetch_eq (h : s.cur ≠ .none) : fetch s = fetchFrom s s.code.proc s.code.mem s.code.base s.code.limit s.pc.toNat := by
  cases hc : s.cur with
  | strand c n => simp only [fetch, State.code, hc]
  | unit u => simp only [fetch, State.code, hc]
  | none => exact absurd hc h

theorem execImmx_prefixed (h : s.cur ≠ .none) : execImmx x s = .next (s.prefixed x) := by
  cases hc : s.cur with
  | strand c n => simp only [State.prefixed, execImmx, hc]
  | unit u => simp only [State.prefixed, execImmx, hc]
  | none => exact absurd hc h

@[simp] theorem State.prefixed_cur : (s.prefixed x).cur = s.cur := by
  cases hc : s.cur with
  | strand c n => simp only [State.prefixed, execImmx, hc]; exact hc
  | unit u => simp only [State.prefixed, execImmx, hc]; exact hc
  | none => simp only [State.prefixed, execImmx, hc]

@[simp] theorem State.prefixed_poison : (s.prefixed x).poison = s.poison := by
  cases hc : s.cur with
  | strand c n => simp only [State.prefixed, execImmx, hc]; rfl
  | unit u => simp only [State.prefixed, execImmx, hc]; rfl
  | none => simp only [State.prefixed, execImmx, hc]

@[simp] theorem State.prefixed_code : (s.prefixed x).code = s.code := by
  cases hc : s.cur with
  | strand c n => simp only [State.code, State.prefixed_cur, hc]; simp only [State.prefixed, execImmx, hc]; rfl
  | unit u => simp only [State.code, State.prefixed_cur, hc]; simp only [State.prefixed, execImmx, hc, State.unit_modUnit_same]
  | none => simp only [State.prefixed, execImmx, hc]

theorem State.prefixed_imx (h : s.cur ≠ .none) : (s.prefixed x).imx = s.imx ++ [x] := by
  cases hc : s.cur with
  | strand c n =>
    simp only [State.imx, State.prefixed_cur, hc]
    simp only [State.prefixed, execImmx, hc, State.strand_modStrand_same]
  | unit u =>
    simp only [State.imx, State.prefixed_cur, hc]
    simp only [State.prefixed, execImmx, hc, State.unit_modUnit_same]
  | none => exact absurd hc h

theorem State.prefixed_pc (h : s.cur ≠ .none) : (s.prefixed x).pc = s.pc + 4 := by
  cases hc : s.cur with
  | strand c n =>
    simp only [State.pc, State.prefixed_cur, hc]
    simp only [State.prefixed, execImmx, hc, State.strand_modStrand_same]
  | unit u =>
    simp only [State.pc, State.prefixed_cur, hc]
    simp only [State.prefixed, execImmx, hc, State.unit_modUnit_same]
    exact BitVec.ofNat_add ..
  | none => exact absurd hc h

theorem State.prefixed_codeBytes (h : s.cur ≠ .none) (hpc : s.pc.toNat + 4 < 2 ^ 64) (off n : Nat) :
    (s.prefixed x).codeBytes off n = s.codeBytes (off + 4) n := by
  have htoNat : (s.pc + 4).toNat = s.pc.toNat + 4 := by
    rw [BitVec.toNat_add]
    exact Nat.mod_eq_of_lt hpc
  rw [State.codeBytes, State.codeBytes, State.prefixed_code, State.prefixed_pc h, htoNat]
  congr 1
  omega

/-- The processor fetches the instruction at PC. -/
theorem fetch_of_decode {k : Nat} {i : Instr} (h : s.cur ≠ .none) (hk : k = 2 ∨ k = 4) (hlimit : s.pc.toNat + k ≤ s.code.limit)
    (hpoison : s.code.proc = .strand → s.poisonedAt (s.code.base + s.pc.toNat) k = none)
    (hdecode : decode s.code.proc (s.codeBytes 0 k) = .ok (i, [])) :
    fetch s = .instr i (extendable (ofBytesLE (s.codeBytes 0 2))) :=
  (fetch_eq h).trans (fetchFrom_of_decode hk hlimit hpoison hdecode)

/-- With prefixes before it, the instruction at PC runs in the state that they leave. -/
theorem runInstr_prefixed {k : Nat} {i : Instr} (hk : k = 2 ∨ k = 4) (hi : ∀ x, i ≠ .immx x) :
    ∀ (xs : List (BitVec 27)) (s : State) (fuel : Nat), s.cur ≠ .none → xs.length < fuel →
      s.imx.length + xs.length ≤ 2 → s.pc.toNat + 4 * xs.length + k ≤ s.code.limit →
      (s.code.proc = .strand → s.poisonedAt (s.code.base + s.pc.toNat) (4 * xs.length + k) = none) →
      (∀ (j : Nat) x, xs[j]? = some x → decode s.code.proc (s.codeBytes (4 * j) 4) = .ok (.immx x, [])) →
      decode s.code.proc (s.codeBytes (4 * xs.length) k) = .ok (i, []) →
      (s.imx = [] ∧ xs = [] ∨ extendable (ofBytesLE (s.codeBytes (4 * xs.length) 2)) = true) →
      runInstr fuel s = exec i (xs.foldl State.prefixed s)
  | [], s, fuel + 1, hcur, _, _, hlimit, hpoison, _, hdecode, hext => by
    rw [runInstr, fetch_of_decode hcur hk (by simpa using hlimit) (by simpa using hpoison) hdecode]
    have hfits : ¬ ((!s.imx.isEmpty && !extendable (ofBytesLE (s.codeBytes 0 2))) = true) := by
      obtain ⟨hnil, -⟩ | hext := hext
      · simp [hnil]
      · simp only [List.length_nil, Nat.mul_zero] at hext
        simp [hext]
    cases i with
    | immx x => exact absurd rfl (hi x)
    | _ => exact if_neg hfits
  | x :: xs, s, fuel + 1, hcur, hfuel, himx, hlimit, hpoison, hprefix, hdecode, hext => by
    simp only [List.length_cons] at hfuel himx hlimit hpoison hdecode hext
    have hbound := s.code_limit_le
    have hbytes := State.prefixed_codeBytes (x := x) hcur (by omega)
    have htoNat : (s.prefixed x).pc.toNat = s.pc.toNat + 4 := by
      rw [State.prefixed_pc hcur, BitVec.toNat_add]
      exact Nat.mod_eq_of_lt (show s.pc.toNat + 4 < 2 ^ 64 by omega)
    have hfirst : fetch s = .instr (.immx x) (extendable (ofBytesLE (s.codeBytes 0 2))) :=
      fetch_of_decode hcur (.inr rfl) (by omega) (fun h => State.poisonedAt_eq_none_of_le (hpoison h) (by omega) (by omega))
        (hprefix 0 x rfl)
    have hrest : runInstr fuel (s.prefixed x) = exec i (xs.foldl State.prefixed (s.prefixed x)) := by
      refine runInstr_prefixed hk hi xs (s.prefixed x) fuel (by simpa using hcur) (by omega) ?_ ?_ ?_ ?_ ?_ (.inr ?_)
      · rw [State.prefixed_imx hcur, List.length_append, List.length_singleton]
        omega
      · rw [State.prefixed_code, htoNat]
        omega
      · intro hp
        rw [State.prefixed_code] at hp ⊢
        rw [htoNat, State.poisonedAt, State.prefixed_poison]
        exact State.poisonedAt_eq_none_of_le (hpoison hp) (by omega) (by omega)
      · intro j y hy
        rw [State.prefixed_code, hbytes]
        exact hprefix (j + 1) y hy
      · rw [State.prefixed_code, hbytes]
        exact hdecode
      · rw [hbytes]
        obtain ⟨-, hnil⟩ | hext := hext
        · exact absurd hnil (List.cons_ne_nil _ _)
        · exact hext
    rw [runInstr, hfirst]
    dsimp only
    rw [if_neg (by omega), execImmx_prefixed hcur]
    exact hrest

end Prefixes

/-! ### The turn -/

/-- What follows the run of a processor in its turn: followers' streams, the order of R371 and the watchdogs. -/
def endTurn (u : State) (a : Actor) : Result → Result
  | .next t => .next (watchLaunches (inOrder u (afterRun u a t)))
  | r => r

/-- A turn of the agenda. -/
theorem step_run {s : State} {a : Actor} {rest : List Turn} (h : s.agenda = .run a :: rest) :
    step s = endTurn { s with agenda := rest } a (runActor { s with agenda := rest } a) := by
  simp only [step, h, takeTurn, turn, takeRun]
  cases runActor { s with agenda := rest } a <;> rfl

/-- A strand that runs, waits for nothing and has no matrix trap to take runs the instruction where it stands or where its leader's stream
puts it. -/
theorem runStrand_runs {s : State} {c n : Nat} (hmode : (s.strand c n).mode = .running) (hwait : (s.strand c n).wait = .none)
    (hfollow : (s.strand c n).fol = 1 → ∃ e, (s.strand c n).folq.head? = some e ∧ e.kind ≠ .executed ∧ e.kind ≠ .ended)
    (hpre : (s.core c).preempted = false) (htrap : pendingMatrixTrap { s with cur := .strand c n } c n = none) :
    runStrand s c n = runInstr 3 (atPlace s (.strand c n)) := by
  have hstrand : ({ s with cur := .strand c n } : State).strand c n = s.strand c n := rfl
  have hcore : ({ s with cur := .strand c n } : State).core c = s.core c := rfl
  simp only [runStrand, atPlace, hstrand, hcore, hmode, hwait, hpre, htrap]
  by_cases hf : (s.strand c n).fol = 1
  · obtain ⟨⟨pc, next, kind⟩, he, hexecuted, hended⟩ := hfollow hf
    cases kind <;> simp_all
  · simp [hf]

/-- Settles O58: a turn fetches through `runInstr`, whose prefixes are kept one after the other. -/
theorem stepRunsDecoded : Obligations.StepRunsDecoded := by
  refine ⟨?_, ?_, ?_⟩
  · intro s c n k i xs rest hagenda u v pc code hmode hwait hfollow hpre htrap hk hlimit hpoison himx hprefix hdecode hi hext
    have hcur : v.cur = .strand c n := by
      simp only [v, atPlace]
      split <;> rfl
    have hmem : v.mem = s.mem ∧ v.poison = s.poison := by
      simp only [v, atPlace]
      split <;> exact ⟨rfl, rfl⟩
    obtain ⟨hmem, hpois⟩ := hmem
    have hpc : v.pc.toNat = pc := by simp only [State.pc, hcur, pc]
    have hcode : v.code = ⟨.strand, s.mem, padBase c, 0x10000⟩ := by simp only [State.code, hcur, hmem]
    have hbytes (off j : Nat) : v.codeBytes off j = code off j := by rw [State.codeBytes, hcode, hpc]
    have hvimx : v.imx = (v.strand c n).imx := by simp only [State.imx, hcur]
    have hactor : runActor u (.strand c n) = runInstr 3 v := runStrand_runs hmode hwait hfollow hpre htrap
    refine (step_run hagenda).trans (congrArg (endTurn u (.strand c n)) (hactor.trans ?_))
    refine runInstr_prefixed hk hi xs v 3 (by simp [hcur]) (by omega) (by rw [hvimx]; exact himx) (by rw [hpc, hcode]; exact hlimit) ?_ ?_ ?_ ?_
    · intro _
      rw [hpc, hcode, State.poisonedAt, hpois]
      exact hpoison
    · intro j x hx
      rw [hbytes, hcode]
      exact hprefix j x hx
    · rw [hbytes, hcode]
      exact hdecode
    · rw [hbytes, hvimx]
      exact hext
  · intro s j k i xs rest hagenda u v pc code hrun hpower hk hlimit himx hprefix hdecode hi hext
    have hcode : v.code = ⟨.footing, (s.unit j).overlay, 0, 0x1000⟩ := rfl
    have hbytes (off m : Nat) : v.codeBytes off m = code off m := by rw [State.codeBytes, hcode, Nat.zero_add]
    have hactor : runActor u (.unit j) = runInstr 3 v := if_pos ⟨hrun, hpower⟩
    refine (step_run hagenda).trans (congrArg (endTurn u (.unit j)) (hactor.trans ?_))
    have hthree : xs.length < 3 := by omega
    refine runInstr_prefixed hk hi xs v 3 (by simp [v]) hthree himx hlimit ?_ ?_ ?_ ?_
    · rw [hcode]
      intro hp
      cases hp
    · intro m x hx
      rw [hbytes, hcode]
      exact hprefix m x hx
    · rw [hbytes, hcode]
      exact hdecode
    · rw [hbytes]
      exact hext
  · intro s t i rest hagenda ht
    simp only [step, hagenda, takeTurn, turn, takeEvent]
    rw [ht]
    rfl

end Sys2Proof.Machine
end

section
/-! PROOFS. Work in the background: the translation buffers, the L2, the counts of corrected errors and the channels that a demand access
wakes. What it leaves is said once here, for every operation that translates or uses a line. -/

namespace Sys2Proof.Machine

/-- Two states that differ in translation buffers, slices, counts of errors, sleeping channels and free values alone. -/
structure Background (s t : State) : Prop where
  rest : ∃ single cores units hbms slices dies panels fresh, t = { s with
    single := single, cores := cores, units := units, hbms := hbms, slices := slices, dies := dies, panels := panels, fresh := fresh }
  core : ∀ c, ∃ tlb, t.core c = { s.core c with tlb := tlb }
  unit : ∀ u, (s.unit u).power = .awake → t.unit u = s.unit u
  fresh : s.fresh ≤ t.fresh

section Rules

variable {s t u : State}

theorem Background.refl : Background s s := ⟨⟨_, _, _, _, _, _, _, _, rfl⟩, fun _ => ⟨_, rfl⟩, fun _ _ => rfl, Nat.le_refl _⟩

theorem Background.trans (h : Background s t) (h' : Background t u) : Background s u := by
  refine ⟨?_, fun c => ?_, fun v hv => ?_, Nat.le_trans h.fresh h'.fresh⟩
  · obtain ⟨_, _, _, _, _, _, _, _, rfl⟩ := h.rest
    obtain ⟨_, _, _, _, _, _, _, _, rfl⟩ := h'.rest
    exact ⟨_, _, _, _, _, _, _, _, rfl⟩
  · obtain ⟨tlb, hc⟩ := h.core c
    obtain ⟨tlb', hc'⟩ := h'.core c
    exact ⟨tlb', by rw [hc', hc]⟩
  · have hsame := h.unit v hv
    rw [h'.unit v (by rw [hsame]; exact hv), hsame]

theorem Background.mem (h : Background s t) : t.mem = s.mem := by obtain ⟨_, _, _, _, _, _, _, _, rfl⟩ := h.rest; rfl
theorem Background.poison (h : Background s t) : t.poison = s.poison := by obtain ⟨_, _, _, _, _, _, _, _, rfl⟩ := h.rest; rfl
theorem Background.records (h : Background s t) : t.records = s.records := by obtain ⟨_, _, _, _, _, _, _, _, rfl⟩ := h.rest; rfl
theorem Background.host (h : Background s t) : t.host = s.host := by obtain ⟨_, _, _, _, _, _, _, _, rfl⟩ := h.rest; rfl
theorem Background.pkgs (h : Background s t) : t.pkgs = s.pkgs := by obtain ⟨_, _, _, _, _, _, _, _, rfl⟩ := h.rest; rfl
theorem Background.rlines (h : Background s t) : t.rlines = s.rlines := by obtain ⟨_, _, _, _, _, _, _, _, rfl⟩ := h.rest; rfl
theorem Background.launches (h : Background s t) : t.launches = s.launches := by obtain ⟨_, _, _, _, _, _, _, _, rfl⟩ := h.rest; rfl
theorem Background.accs (h : Background s t) : t.accs = s.accs := by obtain ⟨_, _, _, _, _, _, _, _, rfl⟩ := h.rest; rfl
theorem Background.mreqs (h : Background s t) : t.mreqs = s.mreqs := by obtain ⟨_, _, _, _, _, _, _, _, rfl⟩ := h.rest; rfl
theorem Background.mreps (h : Background s t) : t.mreps = s.mreps := by obtain ⟨_, _, _, _, _, _, _, _, rfl⟩ := h.rest; rfl
theorem Background.flits (h : Background s t) : t.flits = s.flits := by obtain ⟨_, _, _, _, _, _, _, _, rfl⟩ := h.rest; rfl
theorem Background.rets (h : Background s t) : t.rets = s.rets := by obtain ⟨_, _, _, _, _, _, _, _, rfl⟩ := h.rest; rfl
theorem Background.fwds (h : Background s t) : t.fwds = s.fwds := by obtain ⟨_, _, _, _, _, _, _, _, rfl⟩ := h.rest; rfl
theorem Background.bulks (h : Background s t) : t.bulks = s.bulks := by obtain ⟨_, _, _, _, _, _, _, _, rfl⟩ := h.rest; rfl
theorem Background.packets (h : Background s t) : t.packets = s.packets := by obtain ⟨_, _, _, _, _, _, _, _, rfl⟩ := h.rest; rfl
theorem Background.cycle (h : Background s t) : t.cycle = s.cycle := by obtain ⟨_, _, _, _, _, _, _, _, rfl⟩ := h.rest; rfl
theorem Background.cur (h : Background s t) : t.cur = s.cur := by obtain ⟨_, _, _, _, _, _, _, _, rfl⟩ := h.rest; rfl

/-- A core's registers, queues and strands stay as they are. -/
theorem Background.strand (h : Background s t) (c n : Nat) : t.strand c n = s.strand c n := by
  obtain ⟨tlb, hc⟩ := h.core c
  rw [State.strand, State.strand, hc]
  rfl

theorem Background.byteAt (h : Background s t) (pa : Nat) : t.byteAt pa = s.byteAt pa := by rw [State.byteAt, State.byteAt, h.mem]
theorem Background.read (h : Background s t) (pa n : Nat) : t.read pa n = s.read pa n := by rw [State.read, State.read, h.mem]
theorem Background.poisonedAt (h : Background s t) (pa n : Nat) : t.poisonedAt pa n = s.poisonedAt pa n := by
  rw [State.poisonedAt, State.poisonedAt, h.poison]

/-! ### Operations that work in the background -/

theorem Background.modSlice (k : Nat) (f : Slice → Slice) : Background s (s.modSlice k f) :=
  ⟨⟨_, _, _, _, _, _, _, _, rfl⟩, fun _ => ⟨_, rfl⟩, fun _ _ => rfl, Nat.le_refl _⟩
theorem Background.modDie (d : Nat) (f : Die → Die) : Background s (s.modDie d f) :=
  ⟨⟨_, _, _, _, _, _, _, _, rfl⟩, fun _ => ⟨_, rfl⟩, fun _ _ => rfl, Nat.le_refl _⟩
theorem Background.modPanel (p : Nat) (f : Panel → Panel) : Background s (s.modPanel p f) :=
  ⟨⟨_, _, _, _, _, _, _, _, rfl⟩, fun _ => ⟨_, rfl⟩, fun _ _ => rfl, Nat.le_refl _⟩
theorem Background.modHbm (k : Nat) (f : Stack → Stack) : Background s (s.modHbm k f) :=
  ⟨⟨_, _, _, _, _, _, _, _, rfl⟩, fun _ => ⟨_, rfl⟩, fun _ _ => rfl, Nat.le_refl _⟩
theorem Background.tickFresh : Background s s.tickFresh :=
  ⟨⟨_, _, _, _, _, _, _, _, rfl⟩, fun _ => ⟨_, rfl⟩, fun _ _ => rfl, Nat.le_succ _⟩
theorem Background.single (l : List Nat) : Background s { s with single := l } :=
  ⟨⟨_, _, _, _, _, _, _, _, rfl⟩, fun _ => ⟨_, rfl⟩, fun _ _ => rfl, Nat.le_refl _⟩
/-- A core takes another list of translations. -/
theorem Background.modTlb (c : Nat) (f : List TlbEnt → List TlbEnt) : Background s (s.modCore c (fun k => { k with tlb := f k.tlb })) := by
  refine ⟨⟨_, _, _, _, _, _, _, _, rfl⟩, fun c' => ?_, fun _ _ => rfl, Nat.le_refl _⟩
  by_cases h : c = c'
  · subst h
    exact ⟨_, State.core_modCore_same ..⟩
  · exact ⟨_, State.core_modCore_other _ _ h⟩
theorem Background.ite {p : Prop} [Decidable p] {a b : State} (ha : p → Background s a) (hb : ¬p → Background s b) :
    Background s (if p then a else b) := by
  split
  · exact ha ‹_›
  · exact hb ‹_›

theorem Background.wakeFor (pa : Nat) : Background s (wakeFor s pa) := by
  refine .ite (fun _ => .refl) fun hsleeps => ?_
  refine ⟨⟨_, _, _, _, _, _, _, _, rfl⟩, fun _ => ⟨_, rfl⟩, fun u hu => ?_, Nat.le_refl _⟩
  exact State.unit_modUnit_other _ _ fun h => hsleeps (h ▸ hu)

theorem Background.useLine (dom pa n : Nat) (write : Bool) : Background s (useLine s dom pa n write) := by
  unfold Machine.useLine
  dsimp only
  split
  · exact (Background.ite (fun _ => .wakeFor pa) fun _ => .refl).trans (.modSlice ..)
  · have hwoken : Background s (if (write && decide (64 ≤ n) && !((s.die (dieOfSlice (homeSlice pa))).ways dom).isEmpty) = true
        then s else Machine.wakeFor s pa) := .ite (fun _ => .refl) fun _ => .wakeFor pa
    split
    · exact hwoken.trans (.modSlice ..)
    · split
      · exact hwoken
      · exact (hwoken.trans (.modSlice ..)).trans .tickFresh
theorem Background.touchLine (dom pa n : Nat) (write : Bool) : Background s (touchLine s dom pa n write) :=
  (Background.modDie ..).trans (.useLine ..)
theorem Background.reachHbm (fo : Bool) (dom pa n : Nat) (write : Bool) : Background s (reachHbm s fo dom pa n write) :=
  .ite (fun _ => .wakeFor pa) fun _ => .touchLine ..
theorem Background.countCore (c n : Nat) : Background s (s.countCore c n) := .modPanel ..
theorem Background.correct (pa n : Nat) : Background s (s.correct pa n) := by
  refine .ite (fun _ => .refl) fun _ => (Background.single (s.single.filter (fun w => !touchesWord pa n w))).trans ?_
  exact .ite (fun _ => .countCore ..) fun _ => .ite (fun _ => .modSlice ..) fun _ => .countCore ..
theorem Background.correctRegs (rs : List Nat) : Background s (s.correctRegs rs) := by
  unfold State.correctRegs
  split
  · rename_i c n _
    have hfold : ∀ t, Background s t → Background s (rs.foldl (fun t r => t.correct (regAddr c (t.strand c n).frame r) 8) t) := by
      induction rs with
      | nil => exact fun t ht => ht
      | cons r rs ih => exact fun t ht => ih _ (ht.trans (.correct ..))
    exact hfold s .refl
  · exact .refl
theorem Background.reportPoisonIn (panel : Nat) (slice : Option Nat) (va : Nat) : Background s (reportPoisonIn s panel slice va) := by
  unfold Machine.reportPoisonIn
  split
  · exact (Background.modSlice ..).trans (.modPanel ..)
  · exact .modPanel ..
theorem Background.reportPoison (c va pa : Nat) : Background s (reportPoison s c va pa) := .reportPoisonIn ..

/-! ### Translation -/

theorem Background.readEntry (panel dom at_ : Nat) : Background s (readEntry s panel dom at_).1 := by
  unfold Machine.readEntry
  have htouched : Background s (if isHbm at_ = true then Machine.touchLine s dom at_ 8 false else s) :=
    .ite (fun _ => .touchLine ..) fun _ => .refl
  revert htouched
  generalize (if isHbm at_ = true then Machine.touchLine s dom at_ 8 false else s) = t
  intro htouched
  dsimp only
  split
  · exact htouched.trans (.reportPoisonIn ..)
  · exact htouched.trans (.correct ..)

theorem Background.walkFrom (panel d dom : Nat) (glob : Bool) (va level : Nat) :
    ∀ (s : State) (table : Nat), Background s (walkFrom panel d dom glob va level s table).1 := by
  induction level with
  | zero =>
    intro s table
    have hread := Background.readEntry (s := s) panel (if glob then 0 else dom) (table + va / 2 ^ (16 + 10 * 0) % 1024 * 8)
    unfold Machine.walkFrom
    revert hread
    rcases Machine.readEntry s _ _ _ with ⟨t, r | e⟩
    · exact id
    · dsimp only
      rcases entryKind t d dom glob 0 e with r | _ | next <;> exact id
  | succ level ih =>
    intro s table
    have hread := Background.readEntry (s := s) panel (if glob then 0 else dom) (table + va / 2 ^ (16 + 10 * (level + 1)) % 1024 * 8)
    unfold Machine.walkFrom
    revert hread
    rcases Machine.readEntry s _ _ _ with ⟨t, r | e⟩
    · exact id
    · dsimp only
      rcases entryKind t d dom glob (level + 1) e with r | _ | next
      · exact id
      · exact id
      · intro hread
        have hlower := hread.trans (ih t next)
        revert hlower
        dsimp only
        rcases Machine.walkFrom panel d dom glob va level t next with ⟨u, r | ⟨ptrs, l⟩⟩ <;> exact id

theorem Background.foldl {α : Type} {f : State → α → State} (hf : ∀ s x, Background s (f s x)) :
    ∀ (l : List α) (s : State), Background s (l.foldl f s)
  | [], _ => .refl
  | x :: l, s => (hf s x).trans (Background.foldl hf l (f s x))

theorem Background.dieWalk (panel d dom va : Nat) : Background s (dieWalk s panel d dom va).1 := by
  unfold Machine.dieWalk
  dsimp only
  split
  · exact .refl
  · rename_i level table _
    have hwalk := Background.walkFrom panel d dom (inGlobal va) va level s table
    revert hwalk
    rcases Machine.walkFrom panel d dom (inGlobal va) va level s table with ⟨t, r | ⟨ptrs, e, lv⟩⟩
    · exact id
    · exact fun hwalk => hwalk.trans (.foldl (fun _ _ => (Background.modDie ..).trans .tickFresh) _ _)
theorem Background.fillCore (c : Nat) (e : TlbEnt) : Background s (fillCore s c e) :=
  (Background.modTlb c (fun l => evict 64 (Config.victim s.fresh) l e)).trans .tickFresh
theorem Background.fillPanel (p : Nat) (e : TlbEnt) : Background s (fillPanel s p e) := (Background.modPanel ..).trans .tickFresh

theorem Background.translate (c dom va : Nat) : Background s (translate s c dom va).1 := by
  unfold Machine.translate
  split
  · exact .refl
  · split
    · exact .refl
    · split
      · exact .fillCore ..
      · have hwalk := Background.dieWalk (s := s) (panelKey c) (dieKey c) dom va
        revert hwalk
        rcases Machine.dieWalk s _ _ dom va with ⟨t, r | p⟩
        · exact id
        · exact fun hwalk => (hwalk.trans (.fillCore ..)).trans (.fillPanel ..)
theorem Background.translateFor (c dom va : Nat) (k : Use) : Background s (translateFor s c dom va k).1 := by
  have htranslate := Background.translate (s := s) c dom va
  unfold Machine.translateFor
  revert htranslate
  rcases Machine.translate s c dom va with ⟨t, r | p⟩
  · exact id
  · dsimp only
    cases useCheck k p.attr <;> exact id
theorem Background.hbmTranslate (k dom va : Nat) (use : Use) : Background s (hbmTranslate s k dom va use).1 := by
  have hcheck (t : State) (p : Place53) (ht : Background s t) : Background s (match useCheck use p.attr with
      | some cause => ((t, .error ⟨cause, 0⟩) : State × Except Refused Place53)
      | none => (t, .ok p)).1 := by
    cases useCheck use p.attr <;> exact ht
  unfold Machine.hbmTranslate
  dsimp only
  split
  · exact hcheck s ⟨paOf (k / 8) (0x6000000000 + (va - scratchWindow)), 0xD, 19⟩ .refl
  · split
    · exact hcheck _ _ .refl
    · have hwalk := Background.dieWalk (s := s) (diePanel (k / 8 * 2 + k % 8 / 4)) (k / 8 * 2 + k % 8 / 4) dom va
      revert hwalk
      rcases Machine.dieWalk s _ _ dom va with ⟨t, r | p⟩
      · exact id
      · exact fun hwalk => hcheck _ _ ((hwalk.trans (.modHbm ..)).trans .tickFresh)
theorem Background.portTranslate (d dom va : Nat) (use : Use) : Background s (portTranslate s d dom va use).1 := by
  unfold Machine.portTranslate
  split
  · split <;> exact .refl
  · have hwalk := Background.dieWalk (s := s) (diePanel d) d dom va
    revert hwalk
    rcases Machine.dieWalk s _ _ dom va with ⟨t, r | p⟩
    · exact id
    · dsimp only
      cases useCheck use p.attr <;> exact id

theorem Background.checkWants (c n : Nat) (k : Use) (op : AccOp) (sync : Bool) (ws : List Want) :
    ∀ s, Background s (checkWants s c n k op sync ws).1 := by
  induction ws with
  | nil => exact fun _ => .refl
  | cons w ws ih =>
    intro s
    unfold Machine.checkWants
    split
    · exact .refl
    · have htranslate := Background.translateFor (s := s) c (s.strandDomain c w.va) w.va k
      revert htranslate
      rcases Machine.translateFor s c _ w.va k with ⟨t, r | p⟩
      · exact id
      · intro htranslate
        dsimp only
        split
        · exact htranslate
        · split
          · exact htranslate
          · have hrest := htranslate.trans (ih t)
            revert hrest
            rcases Machine.checkWants t c n k op sync ws with ⟨u, e | ps⟩ <;> exact id

end Rules

/-- Checks that pass leave the rest of the state as it is. -/
theorem State.passes.background {s t : State} {c n : Nat} {k : Use} {op : AccOp} {sync : Bool} {ws : List Want} {ps : List Piece}
    (h : s.passes c n k op sync ws t ps) : Background s t := by
  have hchecks := Background.checkWants c n k op sync ws s
  rwa [show checkWants s c n k op sync ws = (t, .ok ps) from h] at hchecks

end Sys2Proof.Machine
end

section
/-! PROOFS. Loads, stores, atomics and fences as they issue (chapter 12): what the shared form of memory instructions answers, what putting an
access into flight writes, and the statements about them. -/

open Sys2Proof

namespace Sys2Proof.Machine

/-! ### The shared forms -/

section Forms

variable {s t u : State} {c n len : Nat} {g : Fin 8} {reads writes : List Nat} {use : Use} {op : AccOp} {sync : Bool} {sc : Scope}
  {o : Order} {dest : AccDest} {ws : List Want} {ps : List Piece}

theorem State.strandReady.memOp {k : Nat → Nat → State → State} (h : s.strandReady c n g reads writes) :
    memOp g reads writes s k = .next (k c n (s.correctRegs reads)) := by
  rw [Machine.memOp, onStrand_strand h.runs, guarded_true h.guard, if_neg (by simp [h.written]), needing_ready h.read h.sound]

/-- Pieces that pass their checks are put into flight. -/
theorem State.passes.issue (h : s.passes c n use op sync ws u ps) :
    issue s c n len use op sync sc o dest ws = launchAcc u c n len op sync sc o dest ps := by
  rw [Machine.issue, show checkWants s c n use op sync ws = (u, .ok ps) from h]

/-- A memory instruction of a strand whose pieces pass their checks. -/
theorem State.strandReady.memOp_issue {f : State → List Want} (h : s.strandReady c n g reads writes)
    (hask : (s.correctRegs reads).passes c n use op sync (f (s.correctRegs reads)) u ps) :
    Machine.memOp g reads writes s (fun c n t => Machine.issue t c n len use op sync sc o dest (f t)) =
      .next (launchAcc u c n len op sync sc o dest ps) := by
  rw [h.memOp, hask.issue]

/-- A load of a strand whose piece passes its checks. -/
theorem State.strandReady.loadForm {k d a : Nat} {signed : Bool} {ea : State → Nat} (h : s.strandReady c n g [a] [d])
    (hask : (s.correctRegs [a]).passes c n .load .load false [⟨ea (s.correctRegs [a]), k, 0, 0, 0⟩] u ps) :
    Machine.loadForm g len k signed d a ea s = .next (launchAcc u c n len .load false .strand .none (.w d k signed) ps) := by
  rw [Machine.loadForm, h.runs]
  exact h.memOp_issue hask

/-- A store of a strand whose piece passes its checks. -/
theorem State.strandReady.storeForm {k d a : Nat} {ea : State → Nat} (h : s.strandReady c n g [a, d] [])
    (hask : (s.correctRegs [a, d]).passes c n .store .store false
      [⟨ea (s.correctRegs [a, d]), k, ((s.correctRegs [a, d]).w d).toNat % 2 ^ (8 * k), 0, 0⟩] u ps) :
    Machine.storeForm g len k d a ea s = .next (launchAcc u c n len .store false .strand .none .none ps) := by
  rw [Machine.storeForm, h.runs]
  exact h.memOp_issue hask

theorem exec_ld (o : BitVec 10) (z : Fin 4) (d a : Fin 32) :
    exec (.ld g o z d a) s = Machine.loadForm g 4 (2 ^ z.val) true d a (fun s => formAddr s a o (2 ^ z.val)) s := rfl
theorem exec_st (o : BitVec 10) (z : Fin 4) (d a : Fin 32) :
    exec (.st g o z d a) s = Machine.storeForm g 4 (2 ^ z.val) d a (fun s => formAddr s a o (2 ^ z.val)) s := rfl
theorem exec_ld64C (i : Fin 32) (p q : Fin 8) : exec (.ld64C i p q) s =
    Machine.loadForm 0 2 8 true (8 + p.val) (8 + q.val) (fun s => effAddr (s.w (8 + q.val)) (8 * i.val : Nat)) s := rfl
theorem exec_ld32C (i : Fin 32) (p q : Fin 8) : exec (.ld32C i p q) s =
    Machine.loadForm 0 2 4 true (8 + p.val) (8 + q.val) (fun s => effAddr (s.w (8 + q.val)) (4 * i.val : Nat)) s := rfl
theorem exec_st64C (i : Fin 32) (p q : Fin 8) : exec (.st64C i p q) s =
    Machine.storeForm 0 2 8 (8 + p.val) (8 + q.val) (fun s => effAddr (s.w (8 + q.val)) (8 * i.val : Nat)) s := rfl
theorem exec_st32C (i : Fin 32) (p q : Fin 8) : exec (.st32C i p q) s =
    Machine.storeForm 0 2 4 (8 + p.val) (8 + q.val) (fun s => effAddr (s.w (8 + q.val)) (4 * i.val : Nat)) s := rfl
theorem execLdn_strand {o : BitVec 10} {z : Fin 3} {d a : Fin 32} (h : s.cur = .strand c n) :
    exec (.ldn g o z d a) s = Machine.loadForm g 4 (2 ^ z.val) false d a (fun s => formAddr s a o (2 ^ z.val)) s := by
  rw [show exec (.ldn g o z d a) s = execLdn g o z d a s from rfl, execLdn, h]
  rfl

end Forms

/-- Settles O9: every load is `memOp` with its access. -/
theorem loadsIssue : Obligations.LoadsIssue := by
  intro s c n g o i z y sc d a p q u ps t v ea ask run
  refine ⟨fun h => ?_, fun h => ?_⟩
  · have hone : s.strandReady c n g [a] [d] := h.mono (List.Subset.refl _) (by simp)
    exact ⟨fun hask => (exec_ld ..).trans (hone.loadForm hask), fun hask => (execLdn_strand h.runs).trans (hone.loadForm hask),
      fun hask => h.memOp_issue hask, fun hask => hone.memOp_issue hask⟩
  · have hone : s.strandReady c n (0 : Fin 8) [8 + q.val] [8 + p.val] := h
    exact ⟨fun hask => (exec_ld64C ..).trans (hone.loadForm hask), fun hask => (exec_ld32C ..).trans (hone.loadForm hask)⟩

/-- Settles O10: every store is `memOp` with the bytes that it stores. -/
theorem storesIssue : Obligations.StoresIssue := by
  intro s c n g o i z sc d a p q u ps t x y v ea ask run low
  refine ⟨fun h => ?_, fun h => ?_⟩
  · have htwo : s.strandReady c n g [a, d] [] := h.mono (by simp) (List.Subset.refl _)
    have hone : s.strandReady c n g [a] [] := h.mono (by simp) (List.Subset.refl _)
    exact ⟨fun hask => (exec_st ..).trans (htwo.storeForm hask), fun hask => h.memOp_issue hask,
      fun hask => htwo.memOp_issue hask, fun hask => hone.memOp_issue hask⟩
  · have htwo : s.strandReady c n (0 : Fin 8) [8 + q.val, 8 + p.val] [] := h
    exact ⟨fun hask => (exec_st64C ..).trans (htwo.storeForm hask), fun hask => (exec_st32C ..).trans (htwo.storeForm hask)⟩

/-- Settles O11: every atomic is `atomicForm` with its handler number; ATCAS reads w(d) too. -/
theorem atomicsIssue : Obligations.AtomicsIssue := by
  intro s c n g o sc d a b u ps h t x ask run
  have htwo : s.strandReady c n g [a, b] [d] := h.mono (by simp) (List.Subset.refl _)
  have hform (m k : Nat) (hm : m ≠ 11) (hask : ask m k t 0) : atomicForm g m k o sc d a b s = run m k := by
    simp only [atomicForm, hm, if_false]
    exact htwo.memOp_issue hask
  exact ⟨hform 2 8 (by decide), hform 3 8 (by decide), hform 4 8 (by decide), hform 5 8 (by decide), hform 6 8 (by decide),
    hform 7 8 (by decide), hform 8 8 (by decide), hform 9 8 (by decide), hform 10 8 (by decide), fun hask => h.memOp_issue hask,
    hform 12 8 (by decide), hform 13 4 (by decide)⟩

/-! ### What putting an access into flight writes -/

section InFlight

variable {s : State} {c n len : Nat} {op : AccOp} {sync : Bool} {sc : Scope} {o : Order} {dest : AccDest} {ps : List Piece}

/-- The access that an instruction puts into flight (R224). -/
def accOf (s : State) (c n len : Nat) (op : AccOp) (sync : Bool) (sc : Scope) (o : Order) (dest : AccDest) (ps : List Piece) : Acc :=
  { id := s.fresh, core := c, strand := n, act := (s.strand c n).act, dom := s.strandDomain c ((ps.head?.map (·.va)).getD 0), op := op,
    pieces := ps, sync := sync, scope := sc, ord := o, blocking := holdsStrand s c op sync dest ps, len := len,
    relMark := (s.strand c n).relMark, relSys := (s.strand c n).relSys, dest := dest, frame := (s.strand c n).frame,
    pc := (s.strand c n).pc - word (4 * (s.strand c n).imx.length), refused := none, seq := s.fresh }

/-- The state with an access in flight. -/
def State.withAcc (s : State) (a : Acc) : State := { s with accs := s.accs ++ [a], fresh := s.fresh + 1 }

theorem launchAcc_eq (h : (s.core c).replay = none) : launchAcc s c n len op sync sc o dest ps =
    if holdsStrand s c op sync dest ps then
      (s.withAcc (accOf s c n len op sync sc o dest ps)).modStrand c n (fun t => { t with wait := .access s.fresh })
    else ((s.withAcc (accOf s c n len op sync sc o dest ps)).modStrand c n (fun t => markBusy t dest true)).advance len := by
  unfold launchAcc
  simp only [h]
  rfl

/-- Marking a load's registers changes the busy sets alone. -/
theorem markBusy_eq (t : Strand) (d : AccDest) (on : Bool) : ∃ w v, markBusy t d on = { t with busyW := w, busyV := v } := by
  unfold markBusy
  dsimp only
  split <;> exact ⟨_, _, rfl⟩

/-- A load of a w register marks it. -/
theorem markBusy_busyW (t : Strand) {r k : Nat} (signed : Bool) (hr : r < 32) : (markBusy t (.w r k signed) true).busyW.getLsbD r = true := by
  rw [show (markBusy t (.w r k signed) true).busyW = t.busyW ||| BitVec.ofNat 32 (2 ^ r) from rfl, BitVec.getLsbD_or, BitVec.getLsbD_ofNat,
    Nat.testBit_two_pow_self]
  simp [hr]

/-- Settles O12: the held access and the one that retires. -/
theorem accessInFlight : Obligations.AccessInFlight := by
  intro s c n len op sync sc o dest ps hcur hreplay t
  have ht : t = _ := launchAcc_eq hreplay
  refine ⟨accOf s c n len op sync sc o dest ps, ?_⟩
  by_cases hheld : holdsStrand s c op sync dest ps = true
  · rw [if_pos hheld] at ht
    rw [ht]
    refine ⟨rfl, rfl, rfl, rfl, rfl, rfl, rfl, rfl, rfl, rfl, fun _ => ?_, fun hfree => ?_⟩
    · rw [State.strand_modStrand_same]
      exact ⟨rfl, rfl⟩
    · exact absurd (hheld.symm.trans hfree) (by decide)
  · have hstill : ((s.withAcc (accOf s c n len op sync sc o dest ps)).modStrand c n (fun t => markBusy t dest true)).cur = .strand c n := hcur
    rw [if_neg hheld, State.advance, State.jump_strand hstill] at ht
    obtain ⟨w, v, hbusy⟩ := markBusy_eq (s.strand c n) dest true
    have hstrand : (s.withAcc (accOf s c n len op sync sc o dest ps)).strand c n = s.strand c n := rfl
    rw [ht]
    refine ⟨rfl, rfl, rfl, rfl, rfl, rfl, rfl, rfl, rfl, rfl, fun hholds => absurd hholds hheld, fun _ => ⟨?_, fun r k signed hd hr => ?_⟩⟩
    · rw [State.strand_modStrand_same, State.pc]
      simp only [hstill, State.strand_modStrand_same, hstrand, hbusy]
      rfl
    · subst hd
      rw [State.waitsAt, State.strand_modStrand_same, State.strand_modStrand_same]
      simp [markBusy_busyW _ signed hr]

end InFlight

/-! ### Failed checks -/

section Failures

variable {s t : State} {c n len : Nat} {use : Use} {op : AccOp} {sync : Bool} {sc : Scope} {o : Order} {dest : AccDest} {w : Want}

theorem accessFails_of_ne {cause kind va : Nat} (h : cause ≠ 0x0A) : accessFails s c n cause kind va = s.trapWith cause 0 kind (word va) := by
  rw [accessFails, bankPending, decide_eq_false h, Bool.false_and, if_neg (by decide)]

theorem checkWants_misaligned (h : w.va % w.n ≠ 0) (ws : List Want) :
    checkWants s c n use op sync (w :: ws) = (s, .error (0x06, 0, w.va)) := by
  rw [checkWants, if_pos h]

theorem checkWants_refused {r : Refused} (h : w.va % w.n = 0) (ht : translateFor s c (s.strandDomain c w.va) w.va use = (t, .error r))
    (ws : List Want) : checkWants s c n use op sync (w :: ws) = (t, .error (r.cause, r.kind, w.va)) := by
  rw [checkWants, if_neg (by simp [h]), ht]

end Failures

/-- Settles O16: the first check that fails names the cause. -/
theorem accessTraps : Obligations.AccessTraps := by
  intro s c n len u op sync sc o dest w t r
  refine ⟨fun h => ?_, fun h ht hcause => ?_⟩
  · rw [issue, checkWants_misaligned h]
    exact accessFails_of_ne (by decide)
  · rw [issue, checkWants_refused h ht]
    exact accessFails_of_ne hcause

/-! ### PFM and the fences -/

/-- Memory, the processor and every strand stay as they are. -/
structure SameStrands (s t : State) : Prop where
  mem : t.mem = s.mem
  cur : t.cur = s.cur
  strand : ∀ c n, t.strand c n = s.strand c n

section Fences

variable {s t u : State} {c n : Nat}

theorem SameStrands.refl : SameStrands s s := ⟨rfl, rfl, fun _ _ => rfl⟩
theorem SameStrands.trans (h : SameStrands s t) (h' : SameStrands t u) : SameStrands s u :=
  ⟨h'.mem.trans h.mem, h'.cur.trans h.cur, fun c n => (h'.strand c n).trans (h.strand c n)⟩
theorem Background.sameStrands (h : Background s t) : SameStrands s t := ⟨h.mem, h.cur, h.strand⟩

/-- A line enters the remote partition: only the partition and a free value change. -/
theorem State.addRline_sameStrands {r : RLine} (h : s.addRline r = some t) : SameStrands s t := by
  unfold State.addRline at h
  split at h
  · cases h
    exact ⟨rfl, rfl, fun _ _ => rfl⟩
  · split at h
    · exact nomatch h
    · cases h
      split <;> exact ⟨rfl, rfl, fun _ _ => rfl⟩

theorem fillRemote_sameStrands (g dom line : Nat) : SameStrands s (fillRemote s g dom line).1 := by
  have hread : Background s ((reachHbm s false dom (line * 64) 64 false).correct (line * 64) 64) := (Background.reachHbm ..).trans (.correct ..)
  unfold fillRemote
  dsimp only
  split
  · exact hread.sameStrands.trans (State.addRline_sameStrands ‹_›)
  · exact hread.sameStrands

theorem prefetchRemote_sameStrands (pa : Nat) : SameStrands s (prefetchRemote s c pa) := by
  unfold prefetchRemote
  dsimp only
  split
  · exact .refl
  · exact fillRemote_sameStrands ..

/-- What PFM may bring near (R60, R227). -/
def prefetchPiece (c : Nat) (s : State) (p : Piece) : State :=
  if p.place = .l2 then touchLine s (s.core c).domain p.pa 64 false else if p.place = .rpart then prefetchRemote s c p.pa else s

theorem prefetchPiece_sameStrands (ps : List Piece) : ∀ s, SameStrands s (ps.foldl (prefetchPiece c) s) := by
  induction ps with
  | nil => exact fun _ => .refl
  | cons p ps ih =>
    intro s
    refine SameStrands.trans ?_ (ih (prefetchPiece c s p))
    unfold prefetchPiece
    split
    · exact (Background.touchLine ..).sameStrands
    · split
      · exact prefetchRemote_sameStrands _
      · exact .refl

theorem execPfm_passes {g : Fin 8} {a : Fin 32} {ps : List Piece} (h : s.strandReady c n g [a] [])
    (hask : (s.correctRegs [a]).passes c n .load .load false [⟨effAddr ((s.correctRegs [a]).w a) 0, 1, 0, 0, 0⟩] u ps) :
    exec (.pfm g a) s = .next ((ps.foldl (prefetchPiece c) u).advance 4) := by
  refine h.memOp.trans ?_
  rw [show checkWants (s.correctRegs [↑a]) c n .load .load false _ = (u, .ok ps) from hask]
  rfl

/-- A strand that advances keeps memory, and its PC moves on. -/
theorem SameStrands.advance (h : SameStrands s t) (hcur : s.cur = .strand c n) (len : Nat) :
    (t.advance len).mem = s.mem ∧ ((t.advance len).strand c n).pc = (s.strand c n).pc + word len := by
  have hcur' : t.cur = .strand c n := h.cur.trans hcur
  refine ⟨?_, ?_⟩
  · rw [State.advance, State.jump_strand hcur', State.modStrand, State.modCore_mem, h.mem]
  · rw [State.advance, State.jump_pc hcur', State.pc, hcur']
    simp only [h.strand]

/-- A release fence marks the strand (R228). -/
def fenceMarked (s : State) (c n : Nat) (o : Order) (sc : Scope) : State :=
  if o.rel then s.modStrand c n (fun t => { t with relMark := s.fresh, relSys := t.relSys || decide (sc = .system) }) else s
/-- The state after a fence that may pass, before PC moves on (R228). -/
def fenced (s : State) (c n : Nat) (o : Order) (sc : Scope) : State :=
  if o.acq && decide (sc = .system) then (fenceMarked s c n o sc).invalidateRemote (corePkg c) else fenceMarked s c n o sc

theorem fenced_sameStrands (o : Order) (sc : Scope) : SameStrands (fenceMarked s c n o sc) (fenced s c n o sc) := by
  unfold fenced
  split
  · exact ⟨rfl, rfl, fun _ _ => rfl⟩
  · exact .refl

theorem fenceMarked_strand (o : Order) (sc : Scope) : ∃ mark sys, (o.rel = true → mark = s.fresh) ∧
    (fenceMarked s c n o sc).strand c n = { s.strand c n with relMark := mark, relSys := sys } := by
  unfold fenceMarked
  split
  · exact ⟨_, _, fun _ => rfl, State.strand_modStrand_same ..⟩
  · exact ⟨_, _, fun h => absurd h ‹_›, rfl⟩

theorem fenceMarked_mem (o : Order) (sc : Scope) : (fenceMarked s c n o sc).mem = s.mem ∧ (fenceMarked s c n o sc).cur = s.cur := by
  unfold fenceMarked
  split <;> exact ⟨rfl, rfl⟩

theorem execFence_passes {g : Fin 8} {o : Order} {sc : Scope} (hcur : s.cur = .strand c n) (hguard : s.predicate g = true)
    (hloads : loadsOutstanding s c n = false) (hcmds : (commandsBefore s c (s.strand c n).act s.fresh).any (·.accesses) = false) :
    exec (.fence g o sc) s = .next ((fenced s c n o sc).advance 4) := by
  rw [show exec (.fence g o sc) s = execFence g o sc s from rfl, execFence, onStrand_strand hcur, guarded_true hguard, if_neg (by simp [hloads]),
    if_neg (by simp only [hcmds, Bool.and_false, Bool.false_eq_true, not_false_eq_true])]
  rfl

end Fences

/-- Settles O17: PFM, FENCE and FENCEP each pass their conditions. -/
theorem fences : Obligations.Fences := by
  intro s c n g d a o sc u ps h hloads hcmds t x ea
  refine ⟨fun hask => ?_, ?_, ?_⟩
  · have hsame : SameStrands s (ps.foldl (prefetchPiece c) u) :=
      (((Background.correctRegs [↑a]).trans hask.background).sameStrands).trans (prefetchPiece_sameStrands ps u)
    obtain ⟨hmem, hpc⟩ := hsame.advance h.runs 4
    exact ⟨_, execPfm_passes (h.mono (List.Subset.refl _) (by simp)) hask, hmem, hpc⟩
  · obtain ⟨mark, sys, hmark, hstrand⟩ := fenceMarked_strand (s := s) (c := c) (n := n) o sc
    obtain ⟨hmem, hcur⟩ := fenceMarked_mem (s := s) (c := c) (n := n) o sc
    have hsame := fenced_sameStrands (s := s) (c := c) (n := n) o sc
    have hruns : (fenced s c n o sc).cur = .strand c n := (hsame.cur.trans hcur).trans h.runs
    refine ⟨_, execFence_passes h.runs h.guard hloads hcmds, ?_⟩
    rw [State.advance, State.jump_strand hruns, State.strand_modStrand_same, hsame.strand, hstrand]
    refine ⟨?_, hsame.mem.trans hmem, hmark⟩
    rw [State.pc, hruns]
    simp only [hsame.strand, hstrand]
    rfl
  · intro hdone hask v count
    have hexec : exec (.fencep g d a) s = .next (if ps.any (fun p => decide (p.place = .pad)) then
          launchAcc v c n 4 .store false .strand .none (.fencep d (t.strand c n).sticky) ps
        else launchAcc (v.setW d (BitVec.ofNat 64 count)) c n 4 .store false .strand .none .none ps) := by
      refine h.memOp.trans ?_
      rw [if_neg (by simp [hdone, t])]
      have hchecks : checkWants (s.correctRegs [↑a]) c n .store .store false
          ((List.range 32).map (fun i => ⟨(ea + 64 * i) % 2 ^ 56, 64, x / 2 ^ (512 * i) % 2 ^ 512, 0, i⟩)) = (u, .ok ps) := hask
      dsimp only
      rw [hchecks]
      rfl
    rw [hexec]
    refine ⟨fun hnone => ?_, fun hsome => ?_⟩
    · rw [if_neg]
      simpa using hnone
    · rw [if_pos]
      simpa using hsome

end Sys2Proof.Machine
end

section
/-! PROOFS. Pieces of an access performed at their home (chapters 3, 4, 7 and 12), and the reply that completes a load. -/

open Sys2Proof

namespace Sys2Proof.Machine

/-! ### An access at its home -/

section AtHome

variable {s t : State} {a : Acc} {p : Piece}

/-- The state in which an admitted access is performed: its line is used, errors that it reads are corrected, and a synchronisation access
is recorded (R68, R78, R341). -/
def servedAt (s : State) (a : Acc) (p : Piece) : State :=
  let s := if inPad p.pa then s else reachHbm s p.fo a.dom p.pa p.n (decide (a.op ≠ .load))
  let s := if decide (a.op ≠ .store) then s.correct p.pa p.n else s
  if a.sync then s.setRecord p.pa a.scope (partyOf a.core a.strand) else s

/-- What an access performed at its place does there and answers (R223). -/
def effectOf (s : State) (a : Acc) (p : Piece) (old : Nat) : State × Except (Nat × Nat) Nat :=
  let put (s : State) (v : Nat) : State := if inPad p.pa then padWrite s false p.pa p.n v else s.write p.pa p.n v
  match a.op with
  | .load => (s.tickFresh, .ok old)
  | .store => (if p.cmp = 1 then (put s p.data).clearRecord p.pa else put s p.data, .ok 0)
  | .atomic h =>
    match atomicNew h old p.data p.cmp with
    | some v => (put s v, .ok old)
    | none => (s, .ok old)

/-- What an access reads at its place: through the port of a scratchpad, or the bytes of HBM. -/
def oldAt (s : State) (a : Acc) (p : Piece) : Nat :=
  let s := if inPad p.pa then s else reachHbm s p.fo a.dom p.pa p.n (decide (a.op ≠ .load))
  let s := if decide (a.op ≠ .store) then s.correct p.pa p.n else s
  if inPad p.pa then padRead s false p.pa p.n else s.read p.pa p.n

theorem Background.reached (s : State) (a : Acc) (p : Piece) :
    Background s (if inPad p.pa then s else Machine.reachHbm s p.fo a.dom p.pa p.n (decide (a.op ≠ .load))) :=
  .ite (fun _ => .refl) fun _ => .reachHbm ..

theorem Background.corrected (s : State) (a : Acc) (p : Piece) :
    Background s (if decide (a.op ≠ .store) then
      (if inPad p.pa then s else Machine.reachHbm s p.fo a.dom p.pa p.n (decide (a.op ≠ .load))).correct p.pa p.n
      else if inPad p.pa then s else Machine.reachHbm s p.fo a.dom p.pa p.n (decide (a.op ≠ .load))) :=
  (Background.reached s a p).trans (.ite (fun _ => .correct ..) fun _ => .refl)

/-- The checks at a place, and the effect there. -/
theorem performAt_eq (s : State) (a : Acc) (p : Piece) : performAt s a p = match portRefuses s a p with
    | some e => (s, .error e)
    | none =>
      if a.sync && !s.admits p.pa a.scope (partyOf a.core a.strand) then (s, .error (0x0C, p.va))
      else
        match (if decide (a.op ≠ .store) then
          (if inPad p.pa then s else reachHbm s p.fo a.dom p.pa p.n (decide (a.op ≠ .load))).poisonMet false p.pa p.n else none) with
        | some at_ => (reportPoison (if inPad p.pa then s else reachHbm s p.fo a.dom p.pa p.n (decide (a.op ≠ .load))) a.core
            (p.va + (at_ - p.pa)) p.pa, .error (0x1B, p.va + (at_ - p.pa)))
        | none => effectOf (servedAt s a p) a p (oldAt s a p) := rfl

/-- Poison is met in HBM as the bytes are poisoned. -/
theorem State.poisonMet_hbm {pa n : Nat} (h : inPad pa = false) (head : Bool) : s.poisonMet head pa n = s.poisonedAt pa n := by
  rw [State.poisonMet, h, Bool.false_and, if_neg (by decide)]

/-- An access that the port and the scope checker let through and that meets no poison has its effect. -/
theorem performAt_admitted (hport : portRefuses s a p = none)
    (hadmit : a.sync = true → s.admits p.pa a.scope (partyOf a.core a.strand) = true)
    (hpoison : a.op ≠ .store → s.poisonMet false p.pa p.n = none) : performAt s a p = effectOf (servedAt s a p) a p (oldAt s a p) := by
  have hgate : (a.sync && !s.admits p.pa a.scope (partyOf a.core a.strand)) = false := by
    cases hsync : a.sync
    · rfl
    · rw [hadmit hsync]
      rfl
  have hmeets : (if decide (a.op ≠ .store) = true then
      (if inPad p.pa then s else reachHbm s p.fo a.dom p.pa p.n (decide (a.op ≠ .load))).poisonMet false p.pa p.n else none) = none := by
    split
    · rename_i hop
      have hsound := hpoison (by simpa using hop)
      split
      · exact hsound
      · rename_i hhbm
        have hhbm : inPad p.pa = false := by simpa using hhbm
        rw [State.poisonMet_hbm hhbm] at hsound ⊢
        rw [(Background.reachHbm ..).poisonedAt, hsound]
    · rfl
  simp only [performAt_eq, hport, hgate, hmeets, Bool.false_eq_true, if_false]

/-- The answer of an access that has its effect is a value. -/
theorem effectOf_ok (s : State) (a : Acc) (p : Piece) (old : Nat) : ∃ x, (effectOf s a p old).2 = .ok x ∧ (a.op = .load → x = old) := by
  unfold effectOf
  dsimp only
  split
  · exact ⟨old, rfl, fun _ => rfl⟩
  · rename_i hop
    exact ⟨0, rfl, fun h => nomatch hop.symm.trans h⟩
  · split <;> exact ⟨old, rfl, fun _ => rfl⟩

theorem servedAt_mem : (servedAt s a p).mem = s.mem := by
  have hcorrected := (Background.corrected s a p).mem
  unfold servedAt
  dsimp only
  split <;> exact hcorrected

theorem oldAt_hbm (h : inPad p.pa = false) : oldAt s a p = s.read p.pa p.n := by
  have hcorrected := (Background.corrected s a p).read p.pa p.n
  rw [h] at hcorrected
  rw [oldAt, h]
  exact hcorrected

/-- An access to a place that is no scratchpad is checked by no port. -/
theorem portRefuses_of_place (h : p.place ≠ .pad) : portRefuses s a p = none := by
  have habsent : a.atPorts.contains p = false := by
    rw [List.contains_eq_mem, decide_eq_false_iff_not, Acc.atPorts, List.mem_filter]
    simp [h]
  rw [portRefuses, habsent]
  rfl

/-- In HBM the access leaves every byte outside its own. -/
theorem effectOf_byteAt_other (h : inPad p.pa = false) (old : Nat) {x : Nat} (hx : x < p.pa ∨ p.pa + p.n ≤ x) :
    (effectOf s a p old).1.byteAt x = s.byteAt x := by
  have hwrite (v : Nat) : (s.write p.pa p.n v).byteAt x = s.byteAt x := Memory.get_writeN_other _ _ _ _ hx
  simp only [effectOf, h, Bool.false_eq_true, if_false]
  split
  · rfl
  · split <;> exact hwrite _
  · split
    · exact hwrite _
    · rfl

end AtHome

/-- Settles O14: an admitted access in HBM is `effectOf` on the bytes that stand there. -/
theorem accessEffect : Obligations.AccessEffect := by
  intro s a p hhbm hplace hadmit hpoison t
  have hperform : performAt s a p = effectOf (servedAt s a p) a p (s.read p.pa p.n) := by
    rw [performAt_admitted (portRefuses_of_place hplace) hadmit (by rwa [State.poisonMet_hbm hhbm]), oldAt_hbm hhbm]
  have hother (x : Nat) (hx : x < p.pa ∨ p.pa + p.n ≤ x) : t.byteAt x = s.byteAt x := by
    rw [show t = _ from congrArg Prod.fst hperform, effectOf_byteAt_other hhbm _ hx, State.byteAt, servedAt_mem, State.byteAt]
  refine ⟨fun hop => ?_, fun hop => ⟨?_, ?_, hother⟩, fun h hop => ⟨?_, fun v hv => ?_, fun hnone => ?_, hother⟩⟩
  · simp only [t, hperform, effectOf, hop]
    exact ⟨trivial, servedAt_mem⟩
  · simp only [hperform, effectOf, hop]
  · simp only [t, hperform, effectOf, hop, hhbm, Bool.false_eq_true, if_false]
    split <;> exact State.read_write ..
  · simp only [hperform, effectOf, hop]
    split <;> rfl
  · simp only [t, hperform, effectOf, hop, hv, hhbm, Bool.false_eq_true, if_false]
    exact State.read_write ..
  · simp only [t, hperform, effectOf, hop, hnone]
    exact servedAt_mem

/-! ### The accesses in flight while a piece is performed -/

section InFlight

variable {s t : State} {a : Acc} {p : Piece} {r i : Nat}

theorem setSticky_accs (c n act peer : Nat) : (setSticky s c n act peer).accs = s.accs := rfl

theorem foldl_accs {α : Type} {f : State → α → State} (hf : ∀ s x, (f s x).accs = s.accs) (l : List α) :
    ∀ s : State, (l.foldl f s).accs = s.accs := by
  induction l with
  | nil => exact fun _ => rfl
  | cons x l ih => exact fun s => (ih (f s x)).trans (hf s x)

theorem writeBackBytes_accs (r : RLine) : (writeBackBytes s r).accs = s.accs := by
  have hbytes := foldl_accs (f := fun (s : State) i => if r.dirty.getLsbD i then
      { s with mem := Memory.set s.mem (r.line * 64 + i) (BitVec.ofNat 8 (r.data.toNat / 2 ^ (8 * i))) } else s)
    (fun s i => by split <;> rfl) (List.range 64)
    (reachHbm s false r.dom (r.line * 64) (if r.dirty = BitVec.allOnes 64 then 64 else 1) true)
  unfold writeBackBytes
  dsimp only
  split <;> exact hbytes.trans (Background.reachHbm ..).accs

theorem writeBackLine_accs (g line : Nat) : (s.writeBackLine g line).accs = s.accs := by
  unfold State.writeBackLine
  split
  · rfl
  · split
    · rfl
    · split
      · refine (writeBackBytes_accs _).trans ?_
        split <;> rfl
      · exact (foldl_accs (fun s (w : Nat × Nat × Nat) => setSticky_accs (s := s) w.1 w.2.1 w.2.2 (paPkg (line * 64))) _ _).trans rfl

theorem writeBackAll_accs (g : Nat) : (s.writeBackAll g).accs = s.accs := foldl_accs (fun _ _ => writeBackLine_accs ..) _ s

/-- A release before an access changes of the accesses in flight only whether a release is due. -/
theorem releaseFor_accs : ∃ f : Acc → Bool, (releaseFor s a).accs = s.accs.map (fun x => { x with relSys := f x }) := by
  have hkeep : s.accs = s.accs.map (fun x => { x with relSys := x.relSys }) := (List.map_id s.accs).symm
  unfold releaseFor releaseRemote
  split
  · refine ⟨fun x => if x.core = a.core ∧ x.strand = a.strand ∧ x.act = ((s.writeBackAll (corePkg a.core)).strand a.core a.strand).act then
      x.relSys && decide (a.bound < x.relMark) else x.relSys, ?_⟩
    dsimp only
    refine congrArg₂ List.map ?_ (writeBackAll_accs (s := s) (corePkg a.core))
    funext x
    split <;> rfl
  · exact ⟨fun x => x.relSys, hkeep⟩

theorem releaseFor_acc? (h : s.acc? r = some a) : ∃ rel, (releaseFor s a).acc? r = some { a with relSys := rel } := by
  obtain ⟨f, hf⟩ := releaseFor_accs (s := s) (a := a)
  refine ⟨f a, ?_⟩
  rw [State.acc?, hf, List.find?_map]
  change (s.accs.find? (fun x => decide (x.id = r))).map _ = _
  rw [show s.accs.find? (fun x => decide (x.id = r)) = some a from h]
  rfl

theorem padWrite_accs (head : Bool) (pa n v : Nat) : (padWrite s head pa n v).accs = s.accs := by
  unfold padWrite
  split <;> rfl

theorem effectOf_accs (old : Nat) : (effectOf s a p old).1.accs = s.accs := by
  have hput (v : Nat) : (if inPad p.pa then padWrite s false p.pa p.n v else s.write p.pa p.n v).accs = s.accs := by
    split
    · exact padWrite_accs ..
    · rfl
  unfold effectOf
  dsimp only
  split
  · rfl
  · split
    · exact hput _
    · exact hput _
  · split
    · exact hput _
    · rfl

/-- Performing a piece at its home changes no access in flight. -/
theorem performAt_accs : (performAt s a p).1.accs = s.accs := by
  rw [performAt_eq]
  split
  · rfl
  · split
    · rfl
    · split
      · exact (Background.reportPoison ..).accs.trans (Background.reached s a p).accs
      · refine (effectOf_accs _).trans ?_
        have hcorrected := (Background.corrected s a p).accs
        unfold servedAt
        dsimp only
        split <;> exact hcorrected

theorem acc?_setAcc {b : Acc} (h : s.acc? r = some a) (hb : b.id = a.id) : (s.setAcc b).acc? r = some b := by
  have hr : a.id = r := by simpa using List.find?_some h
  have hkey (x : Acc) : (if x.id = b.id then b else x).id = x.id := by
    split
    · rename_i hx
      exact hx.symm
    · rfl
  rw [State.acc?, State.setAcc, List.find?_map]
  simp only [Function.comp_def, hkey]
  rw [show s.accs.find? (fun x => decide (x.id = r)) = some a from h, Option.map_some, if_pos hb.symm]

/-- A piece that may be performed now is performed, at its place alone. -/
theorem performPiece_ready {place : Place} (ha : s.acc? r = some a) (hp : a.pieces[i]? = some p) (hplace : p.place = place)
    (hready : pieceReady s a i p = true) (hchannel : channelReady s a.dom a.seq p = true) :
    performPiece s place r i = setPiece (performAt (releaseFor s a) a p).1 r i p (performAt (releaseFor s a) a p).2 := by
  simp only [performPiece, ha, hp, hplace, hready, hchannel, decide_true, Bool.and_self, if_true]

/-- After a piece is performed its access has the other pieces as before and this one in the same place. -/
theorem acc?_setPiece {b : Acc} (hb : s.acc? r = some b) (hp : b.pieces[i]? = some p) (x : Except (Nat × Nat) Nat) :
    ∃ b' q, (setPiece s r i p x).acc? r = some b' ∧ b'.pieces[i]? = some q ∧ q.place = p.place := by
  have hi : i < b.pieces.length := (List.getElem?_eq_some_iff.1 hp).1
  cases x with
  | ok x =>
    refine ⟨{ b with pieces := b.pieces.set i { p with got := x, done := true } }, { p with got := x, done := true }, ?_, ?_, rfl⟩
    · simp only [setPiece, hb]
      exact acc?_setAcc hb rfl
    · exact List.getElem?_set_self hi
  | error e =>
    refine ⟨{ b with refused := some (e.1, 0, e.2) }, p, ?_, hp, rfl⟩
    simp only [setPiece, hb]
    exact acc?_setAcc hb rfl

theorem performRpart_elsewhere {b : Acc} (hb : s.acc? r = some b) (hp : b.pieces[i]? = some p) (h : p.place ≠ .rpart) :
    performRpart s r i = s := by
  simp only [performRpart, hb, hp, h, decide_false, Bool.false_and, Bool.false_eq_true, if_false]

theorem pieceReady_refused (h : pieceReady s a i p = true) : a.refused = none := by
  simp only [pieceReady, Bool.and_eq_true] at h
  simpa using h.1.1.2

/-- The access in the state in which its piece has been performed. -/
theorem acc?_performAt (ha : s.acc? r = some a) : ∃ rel, (performAt (releaseFor s a) a p).1.acc? r = some { a with relSys := rel } := by
  obtain ⟨rel, hrel⟩ := releaseFor_acc? ha
  exact ⟨rel, by rw [State.acc?, performAt_accs]; exact hrel⟩

/-- One piece of L2_ACCESS, FO_ACCESS and SCRATCHPAD_ACCESS. -/
theorem execL2Access_one : exec (.l2Access r i 1) s = .next (performRpart (performPiece s .l2 r i) r i) := by
  rw [show exec (.l2Access r i 1) s = execL2Access r i 1 s from rfl]
  rfl
theorem execFoAccess_one : exec (.foAccess r i 1) s = .next (performPiece s .fo r i) := by
  rw [show exec (.foAccess r i 1) s = execFoAccess r i 1 s from rfl]
  rfl
theorem execScratchpadAccess_one : exec (.scratchpadAccess r i 1) s = .next (performPiece s .pad r i) := by
  rw [show exec (.scratchpadAccess r i 1) s = execScratchpadAccess r i 1 s from rfl]
  rfl

/-- A piece that has its effect is done, and what a load of HBM gets are the bytes that stand there. -/
theorem setPiece_done (ha : s.acc? r = some a) (hp : a.pieces[i]? = some p) (hrefused : a.refused = none)
    (hport : portRefuses (releaseFor s a) a p = none)
    (hadmit : a.sync = true → (releaseFor s a).admits p.pa a.scope (partyOf a.core a.strand) = true)
    (hpoison : a.op ≠ .store → (releaseFor s a).poisonMet false p.pa p.n = none) :
    ∃ x b, (setPiece (performAt (releaseFor s a) a p).1 r i p (performAt (releaseFor s a) a p).2).acc? r = some b ∧
      b.pieces[i]? = some { p with got := x, done := true } ∧ b.refused = none ∧
      (a.op = .load → inPad p.pa = false → x = (releaseFor s a).read p.pa p.n) := by
  obtain ⟨x, hx, hload⟩ := effectOf_ok (servedAt (releaseFor s a) a p) a p (oldAt (releaseFor s a) a p)
  obtain ⟨rel, hacc⟩ := acc?_performAt (p := p) ha
  have hi : i < a.pieces.length := (List.getElem?_eq_some_iff.1 hp).1
  rw [← performAt_admitted hport hadmit hpoison] at hx
  refine ⟨x, { a with relSys := rel, pieces := a.pieces.set i { p with got := x, done := true } }, ?_, List.getElem?_set_self hi, hrefused, ?_⟩
  · simp only [hx, setPiece, hacc]
    exact acc?_setAcc hacc rfl
  · intro hop hhbm
    rw [hload hop, oldAt_hbm hhbm]

end InFlight

/-- Settles O13: the three events perform the piece by `performPiece`, and PREFETCH uses the line. -/
theorem piecesArePerformed : Obligations.PiecesArePerformed := by
  refine ⟨?_, ?_⟩
  · intro s r i a p ha hp hready hchannel v u runs
    have hruns {e : Instr} (h : exec e s = .next (setPiece u.1 r i p u.2)) : runs e := by
      refine ⟨h, fun hport hadmit hpoison => ?_⟩
      obtain ⟨x, b, hb, hpiece, hrefused, hload⟩ := setPiece_done ha hp (pieceReady_refused hready) hport hadmit hpoison
      exact ⟨_, x, b, h, hb, hpiece, hrefused, hload⟩
    refine ⟨fun hplace => hruns ?_, fun hplace => hruns ?_, fun hplace => hruns ?_⟩
    · rw [execScratchpadAccess_one, performPiece_ready ha hp hplace hready hchannel]
    · rw [execFoAccess_one, performPiece_ready ha hp hplace hready hchannel]
    · rw [execL2Access_one, performPiece_ready ha hp hplace hready hchannel]
      obtain ⟨rel, hacc⟩ := acc?_performAt (p := p) ha
      obtain ⟨b, q, hb, hq, hsame⟩ := acc?_setPiece hacc hp (performAt (releaseFor s a) a p).2
      rw [performRpart_elsewhere hb hq (by rw [hsame, hplace]; decide)]
  · intro s g pa x dom hhbm hpkg htrained
    rw [show exec (.prefetch g pa) s = execPrefetch g pa s from rfl, execPrefetch, htrained]
    exact whenever_true (by simp [hhbm, hpkg])

/-! ### The reply to a load -/

section Replies

variable {s : State} {a : Acc} {p : Piece} {r : Nat}

/-- Pieces that are done are not performed again with the reply. -/
theorem performControl_done (ha : s.acc? r = some a) (hdone : a.performed = true) : performControl s r = s := by
  have hpiece (i : Nat) : controlPiece s r i = s := by
    simp only [controlPiece, ha]
    split
    · rfl
    · next p hp =>
      have hp : p.done = true := List.all_eq_true.1 hdone p (List.mem_of_getElem? hp)
      simp only [pieceReady, hp, Bool.not_true, Bool.false_and, Bool.and_false, Bool.false_eq_true, if_false]
  have hfold (l : List Nat) : l.foldl (fun s i => controlPiece s r i) s = s := by
    induction l with
    | nil => rfl
    | cons i l ih => rw [List.foldl_cons, hpiece, ih]
  rw [performControl, ha]
  exact hfold _

theorem lostReplies_own (hplace : ∀ p ∈ a.pieces, p.place ≠ .remote) : lostReplies s a = [] := by
  rw [lostReplies, List.filter_eq_nil_iff]
  intro i _
  split
  · next p hp => simp [hplace p (List.mem_of_getElem? hp)]
  · exact Bool.false_ne_true

/-- The state after the reply to an access has taken it off, and a SYSTEM acquire has dropped the package's clean remote bytes. -/
def replied (s : State) (a : Acc) (r : Nat) : State :=
  if a.ord.acq && decide (a.scope = .system) && a.refused.isNone then (s.dropAcc r).invalidateRemote (corePkg a.core) else s.dropAcc r

theorem replied_sameStrands : SameStrands s (replied s a r) := by
  unfold replied
  split <;> exact ⟨rfl, rfl, fun _ _ => rfl⟩

/-- The reply to an access that was performed on the own package completes it. -/
theorem execLoadReply_completes (ha : s.acc? r = some a) (hperformed : a.performed = true) (hplace : ∀ p ∈ a.pieces, p.place ≠ .remote)
    (hrefused : a.refused = none) (hrsp : rspStopped s a.core = false) (hact : (s.strand a.core a.strand).act = a.act)
    (hmode : (s.strand a.core a.strand).mode ≠ .free) : exec (.loadReply r) s = .next (completeAcc (replied s a r) a) := by
  have hheld : a.repliesHeld s = false := by simp [Acc.repliesHeld, hrsp]
  have hlive : decide ((s.strand a.core a.strand).act = a.act ∧ (s.strand a.core a.strand).mode ≠ .free) = true := by
    simp [hact, hmode]
  have hkept : (s.acc? r).getD a = a := by rw [ha]; rfl
  rw [show exec (.loadReply r) s = execLoadReply r s from rfl, execLoadReply]
  simp only [performControl_done ha hperformed, ha, hperformed, hheld, hlive, hrefused, lostReplies_own hplace, loseReplies,
    List.foldl_nil, Option.getD_some]
  cases a.blocking <;> simp [replied, hrefused]

end Replies

/-- Settles O15: the reply writes the frame word, and then retires the held load or frees its register. -/
theorem loadReplies : Obligations.LoadReplies := by
  intro s a r d k signed p ha hp hdone hplace hrefused hdest _ hrsp hact hmode
  have hsame : SameStrands s (replied s a r) := replied_sameStrands
  have hgot : (a.pieces[0]?.map (·.got)).getD 0 = p.got := by simp [hp]
  have hperformed : a.performed = true := by simp [Acc.performed, hp, hdone]
  have hvalue : (if signed then BitVec.ofInt 64 (signedOf (8 * k) p.got) else BitVec.ofNat 64 (p.got % 2 ^ (8 * k))) =
      loadValue k signed p.got := rfl
  let written : State := (replied s a r).write (regAddr a.core a.frame d) 8 (loadValue k signed p.got).toNat
  have hwritten : writeDest (replied s a r) a = written := by
    simp only [writeDest, hdest, hgot]
    rfl
  have hcomplete : completeAcc (replied s a r) a = if a.blocking then
      written.modStrand a.core a.strand (fun t => { t with pc := t.pc + word a.len, wait := .none, imx := [] })
      else written.modStrand a.core a.strand (fun t => markBusy t a.dest false) := by
    simp only [completeAcc, hrefused, hdest, Option.isSome_none, Bool.false_eq_true, if_false]
    rw [hwritten]
  have hstrand : written.strand a.core a.strand = s.strand a.core a.strand := hsame.strand ..
  have hread (f : Strand → Strand) : (written.modStrand a.core a.strand f).read (regAddr a.core a.frame d) 8 =
      (loadValue k signed p.got).toNat :=
    (State.read_write ..).trans (Nat.mod_eq_of_lt (BitVec.isLt _))
  have hbytes (f : Strand → Strand) (x : Nat) (hx : x < regAddr a.core a.frame d ∨ regAddr a.core a.frame d + 8 ≤ x) :
      (written.modStrand a.core a.strand f).byteAt x = s.byteAt x :=
    (Memory.get_writeN_other _ _ _ _ hx).trans (congrArg (Memory.get · x) hsame.mem)
  refine ⟨_, execLoadReply_completes ha hperformed (by simp [hp, hplace]) hrefused hrsp hact hmode, ?_⟩
  rw [hvalue, hcomplete]
  cases hheld : a.blocking with
  | true =>
    rw [if_pos rfl]
    refine ⟨hread _, hbytes _, fun _ => ?_, fun h => nomatch h⟩
    rw [State.strand_modStrand_same, hstrand]
    exact ⟨rfl, rfl⟩
  | false =>
    rw [if_neg (by decide)]
    refine ⟨hread _, hbytes _, fun h => (nomatch h), fun _ => ?_⟩
    rw [State.strand_modStrand_same, hstrand, hdest]
    exact ⟨rfl, rfl⟩

end Sys2Proof.Machine
end

section
/-! PROOFS. Mortar instructions, what their requests do at an object's home, and the replies (chapters 5 and 12). -/

open Sys2Proof

namespace Sys2Proof.Machine

/-! ### Requests -/

section Requests

variable {s u w : State} {c n op d v a : Nat} {g : Fin 8} {o : Order} {sc : Scope} {reads writes : List Nat} {vecs : BitVec 16}
  {p : Place53} {x : MortarArg}

@[simp] theorem State.correctRegs_w (s : State) (rs : List Nat) (r : Nat) : (s.correctRegs rs).w r = s.w r := by
  obtain ⟨e, p, k, h⟩ := State.correctRegs_eq s rs
  rw [h]
  rfl

/-- A mortar instruction at an aligned address whose page and operand pass their checks. -/
theorem State.strandReady.mortarForm {arg : Nat → Nat → State → State × Except (Nat × Nat × Nat) MortarArg}
    (h : s.strandReady c n g (a :: reads) writes) (hvec : (s.strand c n).busyV = 0) (haudit : (s.strand c n).audit = false)
    (haligned : effAddr (s.w a) 0 % 64 = 0)
    (hplace : translateFor (s.correctRegs (a :: reads)) c (s.core c).domain (effAddr (s.w a) 0) .mortar = (u, .ok p))
    (harg : arg c n u = (w, .ok x)) :
    mortarForm g op o sc d v a reads writes vecs arg s = .next (sendMortar w c n op o sc p.pa (effAddr (s.w a) 0) d v x) := by
  have hback : Background (s.correctRegs (a :: reads)) u := by
    have htranslate := Background.translateFor (s := s.correctRegs (a :: reads)) c (s.core c).domain (effAddr (s.w a) 0) .mortar
    rwa [hplace] at htranslate
  have hkept : (u.strand c n).audit = false := by rw [hback.strand, State.correctRegs_strand, haudit]
  have hfree : ¬ ((0 : BitVec 16) &&& vecs ≠ 0) := by simp
  rw [Machine.mortarForm, h.memOp]
  simp only [State.correctRegs_strand, State.correctRegs_core, State.correctRegs_w, hvec, hfree, ne_eq, not_true_eq_false, if_false,
    haligned, hplace, hkept, Bool.false_eq_true, harg]

/-- An operand that needs no check of its own. -/
theorem State.strandReady.mortarForm_plain {f : State → MortarArg} (h : s.strandReady c n g (a :: reads) writes)
    (hvec : (s.strand c n).busyV = 0) (haudit : (s.strand c n).audit = false) (haligned : effAddr (s.w a) 0 % 64 = 0)
    (hplace : translateFor (s.correctRegs (a :: reads)) c (s.core c).domain (effAddr (s.w a) 0) .mortar = (u, .ok p)) :
    Machine.mortarForm g op o sc d v a reads writes vecs (fun _ _ s => (s, .ok (f s))) s =
      .next (sendMortar u c n op o sc p.pa (effAddr (s.w a) 0) d v (f u)) :=
  h.mortarForm hvec haudit haligned hplace rfl

end Requests

/-- Settles O18: every mortar instruction is `mortarForm` with its code and operand, and what it sends is `sendMortar`. -/
theorem mortarRequests : Obligations.MortarRequests := by
  refine ⟨?_, ?_⟩
  · intro s c n g o sc d a b x h hvec haudit ea haligned sends none whole half slot
    have hone {ws : List Nat} (hw : ws ⊆ [d.val, d.val + 1, d.val + 2]) : s.strandReady c n g [a] ws := h.mono (by simp) hw
    have htwo {ws : List Nat} (hw : ws ⊆ [d.val, d.val + 1, d.val + 2]) : s.strandReady c n g [a, b] ws := h.mono (by simp) hw
    have hlen {ws : List Nat} (hw : ws ⊆ [d.val, d.val + 1, d.val + 2]) : s.strandReady c n g [a, d] ws := h.mono (by simp) hw
    have hpair : [d.val, d.val + 1] ⊆ [d.val, d.val + 1, d.val + 2] := by simp
    have sends_one {i : Instr} {op r v : Nat} {ws : List Nat} {vecs : BitVec 16} (hw : ws ⊆ [d.val, d.val + 1, d.val + 2])
        (hi : exec i s = mortarForm g op o sc r v a [] ws vecs (plainArg (fun _ => 0)) s) : sends i [a] op r v none :=
      fun u p hplace => hi.trans ((hone hw).mortarForm_plain hvec haudit haligned hplace)
    have sends_pair {i : Instr} {op : Nat} {f : State → Word} (hi : exec i s = pairForm g op o sc d a [b] f s) :
        sends i [a, b] op d 0 (fun u => wordArg (f u)) :=
      fun u p hplace => hi.trans ((htwo hpair).mortarForm_plain hvec haudit haligned hplace)
    have sends_slot {i : Instr} {op : Nat} (hi : exec i s = mortarForm g op o sc d 0 a [d] [d, d.val + 1] (vecBit x) (enqArg d x) s) :
        sends i [a, d] op d 0 slot :=
      fun u p hplace => hi.trans ((hlen hpair).mortarForm_plain hvec haudit haligned hplace)
    refine ⟨fun u p w y hplace harg => (hone hpair).mortarForm hvec haudit haligned hplace harg, ?_⟩
    exact ⟨sends_one (by simp) rfl, sends_pair rfl, sends_pair rfl, sends_pair rfl, sends_pair rfl, sends_one (by simp) rfl,
      sends_pair rfl, sends_pair rfl, sends_pair rfl, sends_one hpair rfl, sends_one hpair rfl, sends_one hpair rfl,
      sends_slot rfl, sends_slot rfl, sends_one hpair rfl, sends_one hpair rfl, sends_pair rfl, sends_one hpair rfl,
      sends_one hpair rfl, sends_one hpair rfl, sends_one hpair rfl, sends_pair rfl, sends_one hpair rfl, sends_one hpair rfl,
      sends_one hpair rfl⟩
  · intro s c n op o sc pa ea d v x t
    refine ⟨_, rfl, rfl, rfl, rfl, rfl, rfl, rfl, ?_, ?_, rfl⟩
    · exact congrArg Strand.wait (State.strand_modStrand_same ..)
    · exact (congrArg Strand.pc (State.strand_modStrand_same ..)).trans rfl

/-! ### Operations at the home -/

/-- What an operation comes to at its home (R84, R96, R97). -/
def answerAt (s : State) (r : MReq) : MRes → State
  | .cause s cause => failAt s r cause
  | .same status r1 bytes => sameAt s r status r1 bytes
  | .done s o status r1 r2 bytes => finishAt s r o status r1 r2 bytes
  | .park o ticket =>
    match freeWait s r.line with
    | none => failAt s r 0x0E
    | some idx => enlistAt s r o ticket idx

section Operations

variable {s : State} {r op type : Nat} {q : MReq} {f : State → MReq → MObj → MRes} {m : MRes} {o : MObj}

/-- A request that no check of its line stops is performed. -/
theorem atHome_passes (hadmit : q.frees = true ∨ (homeState s q).admits q.line q.scope q.party = true)
    (hpoison : q.frees = true ∨ (homeState s q).poisonedAt q.line 64 = none)
    (htype : ¬ (q.op ≠ 0 ∧ (objType (objAt (homeState s q) q.line) = 0 ∨ 5 < objType (objAt (homeState s q) q.line) ∨
      type ≠ 0 ∧ objType (objAt (homeState s q) q.line) ≠ type)))
    (hf : f (lineState (homeState s q) q) q (objAt (homeState s q) q.line) = m) :
    atHome s q type f = answerAt (lineState (homeState s q) q) q m := by
  have hscope : (!q.frees && !(homeState s q).admits q.line q.scope q.party) = false := by
    obtain h | h := hadmit <;> simp [h]
  have hsound : (!q.frees && ((homeState s q).poisonedAt q.line 64).isSome) = false := by
    obtain h | h := hpoison <;> simp [h]
  unfold atHome
  simp only [hscope, hsound, htype, Bool.false_eq_true, if_false, hf]
  cases m <;> rfl

theorem State.homeReady.answers (h : s.homeReady r op type q)
    (hf : f (lineState (homeState s q) q) q (objAt (homeState s q) q.line) = m) :
    mortarEvent r op type f s = .next (answerAt (lineState (homeState s q) q) q m) := by
  obtain ⟨hreq, hready, -, hadmit, hpoison, hlow, hhigh, htype⟩ := h
  rw [mortarEvent, hreq]
  refine (whenever_true hready).trans (congrArg _ (atHome_passes (.inr hadmit) (.inr hpoison) ?_ hf))
  rintro ⟨-, h⟩
  omega

/-- The step of the opcode table that performs a request. -/
theorem State.homeReady.exec {i : Instr} (h : s.homeReady r op type q) (hi : exec i s = mortarEvent r op type f s)
    (hf : f (lineState (homeState s q) q) q (objAt (homeState s q) q.line) = m) :
    Machine.exec i s = .next (answerAt (lineState (homeState s q) q) q m) :=
  hi.trans (h.answers hf)

theorem State.homeReady.done {i : Instr} {v : State} {status bytes : Nat} {r1 r2 : Word} (h : s.homeReady r op type q)
    (hi : Machine.exec i s = mortarEvent r op type f s)
    (hf : f (lineState (homeState s q) q) q (objAt (homeState s q) q.line) = .done v o status r1 r2 bytes) :
    Machine.exec i s = .next (finishAt v q o status r1 r2 bytes) := by
  rw [h.exec hi hf, answerAt]

theorem State.homeReady.same {i : Instr} {status bytes : Nat} {r1 : Word} (h : s.homeReady r op type q)
    (hi : Machine.exec i s = mortarEvent r op type f s)
    (hf : f (lineState (homeState s q) q) q (objAt (homeState s q) q.line) = .same status r1 bytes) :
    Machine.exec i s = .next (sameAt (lineState (homeState s q) q) q status r1 bytes) := by
  rw [h.exec hi hf, answerAt]

theorem State.homeReady.parks {i : Instr} {ticket idx : Nat} (h : s.homeReady r op type q)
    (hi : Machine.exec i s = mortarEvent r op type f s)
    (hf : f (lineState (homeState s q) q) q (objAt (homeState s q) q.line) = .park o ticket)
    (hidx : freeWait (lineState (homeState s q) q) q.line = some idx) :
    Machine.exec i s = .next (enlistAt (lineState (homeState s q) q) q o ticket idx) := by
  rw [h.exec hi hf, answerAt, hidx]

/-- The code of a request that is ready at its home. -/
theorem State.homeReady.op_eq (h : s.homeReady r op type q) : q.op = op := by
  have hfound := List.find?_some h.1
  simp only [Bool.and_eq_true, decide_eq_true_eq] at hfound
  exact hfound.1.2

theorem State.homeReady.type_pos (h : s.homeReady r op type q) : 1 ≤ objType (objAt (homeState s q) q.line) := h.2.2.2.2.2.1
theorem State.homeReady.not_frees (h : s.homeReady r op type q) : q.frees = false := h.2.2.1

theorem word_toNat (x : Word) : word x.toNat = x := BitVec.ofNat_toNat ..

/-! ### Fields of an object -/

/-- A field depends on the bytes up to its own alone. -/
theorem hodField_eq_mod (h : Nat) (off k : Nat) : hodField h off k = h % 2 ^ (8 * (off + k)) / 2 ^ (8 * off) := by
  rw [hodField, Nat.mul_add, Nat.pow_add, Nat.mod_mul_right_div_self]

theorem hodField_setHodField_same (h off k x : Nat) : hodField (setHodField h off k x) off k = x % 2 ^ (8 * k) := by
  have hlow : h % 2 ^ (8 * off) < 2 ^ (8 * off) := Nat.mod_lt _ (Nat.two_pow_pos _)
  have hsplit : setHodField h off k x =
      2 ^ (8 * off) * (2 ^ (8 * k) * (h / 2 ^ (8 * (off + k))) + x % 2 ^ (8 * k)) + h % 2 ^ (8 * off) := by
    rw [setHodField, Nat.mul_add 8, Nat.pow_add]
    ring
  rw [hodField, hsplit, Nat.mul_add_div (Nat.two_pow_pos _), Nat.div_eq_of_lt hlow, Nat.add_zero, Nat.mul_add_mod, Nat.mod_mod]

/-- A field below one that is replaced keeps its value. -/
theorem hodField_setHodField_below (h x : Nat) {off k off' k' : Nat} (hle : off' + k' ≤ off) :
    hodField (setHodField h off k x) off' k' = hodField h off' k' := by
  have hmod : setHodField h off k x % 2 ^ (8 * off) = h % 2 ^ (8 * off) := by
    have hsplit : setHodField h off k x =
        2 ^ (8 * off) * (2 ^ (8 * k) * (h / 2 ^ (8 * (off + k))) + x % 2 ^ (8 * k)) + h % 2 ^ (8 * off) := by
      rw [setHodField, Nat.mul_add 8, Nat.pow_add]
      ring
    rw [hsplit, Nat.mul_add_mod, Nat.mod_mod]
  have hdvd : 2 ^ (8 * (off' + k')) ∣ 2 ^ (8 * off) := Nat.pow_dvd_pow 2 (by omega)
  rw [hodField_eq_mod, hodField_eq_mod, ← Nat.mod_mod_of_dvd _ hdvd, hmod, Nat.mod_mod_of_dvd _ hdvd]

/-- A field above one that is replaced keeps its value. -/
theorem hodField_setHodField_above (h x : Nat) {off k off' k' : Nat} (hle : off + k ≤ off') :
    hodField (setHodField h off k x) off' k' = hodField h off' k' := by
  have hlow : x % 2 ^ (8 * k) * 2 ^ (8 * off) + h % 2 ^ (8 * off) < 2 ^ (8 * (off + k)) := by
    have hfield : x % 2 ^ (8 * k) + 1 ≤ 2 ^ (8 * k) := Nat.mod_lt _ (Nat.two_pow_pos _)
    have hrest : h % 2 ^ (8 * off) < 2 ^ (8 * off) := Nat.mod_lt _ (Nat.two_pow_pos _)
    have hscaled := Nat.mul_le_mul_right (2 ^ (8 * off)) hfield
    rw [Nat.mul_add, Nat.pow_add, Nat.mul_comm (2 ^ (8 * off))]
    rw [Nat.add_mul, Nat.one_mul] at hscaled
    omega
  have hupper : setHodField h off k x / 2 ^ (8 * (off + k)) = h / 2 ^ (8 * (off + k)) := by
    rw [setHodField, Nat.add_assoc, Nat.mul_comm, Nat.mul_add_div (Nat.two_pow_pos _), Nat.div_eq_of_lt hlow, Nat.add_zero]
  have hexp : 2 ^ (8 * off') = 2 ^ (8 * (off + k)) * 2 ^ (8 * (off' - (off + k))) := by
    rw [← Nat.pow_add]
    congr 1
    omega
  rw [hodField, hodField, hexp, ← Nat.div_div_eq_div_mul, ← Nat.div_div_eq_div_mul, hupper]

theorem ctrValue_eq (o : MObj) : ctrValue o = BitVec.ofNat 64 (hodField o 8 8) := rfl

/-- With the last arrival the phase that was current has passed (R92). -/
theorem passed_next_phase (o : MObj) (pending : Nat) :
    passed (setHodField (setHodField o 16 4 pending) 8 4 (barPhase o + 1)) (barPhase o) = true := by
  have hphase : barPhase o < 2 ^ 32 := Nat.mod_lt _ (by decide)
  have hnext : barPhase (setHodField (setHodField o 16 4 pending) 8 4 (barPhase o + 1)) = (barPhase o + 1) % 2 ^ 32 :=
    hodField_setHodField_same ..
  rw [passed, hnext, idxSub]
  generalize barPhase o = phase at hphase
  simp only [decide_eq_true_eq]
  omega

/-- While arrivals are missing the current phase has not passed (R92). -/
theorem not_passed_same_phase (o : MObj) (pending : Nat) : passed (setHodField o 16 4 pending) (barPhase o) = false := by
  have hphase : barPhase o < 2 ^ 32 := Nat.mod_lt _ (by decide)
  have hsame : barPhase (setHodField o 16 4 pending) = barPhase o := hodField_setHodField_below _ _ (by decide)
  rw [passed, hsame, idxSub]
  generalize barPhase o = phase at hphase
  simp only [decide_eq_false_iff_not]
  omega

theorem arrive_zero (o : MObj) : arrive o 0 = .error 0x07 := rfl
theorem arrive_over {k : Nat} (hpos : 0 < k) (h : hodField o 16 4 < k) : arrive o k = .error 0x06 := by
  rw [arrive, if_neg (by omega), if_pos h]
theorem arrive_last {k : Nat} (hpos : 0 < k) (h : k = hodField o 16 4) :
    arrive o k = .ok (setHodField (setHodField o 16 4 (hodField o 12 4)) 8 4 (barPhase o + 1)) := by
  rw [arrive, if_neg (by omega), if_neg (by omega), if_pos h.symm]
theorem arrive_more {k : Nat} (hpos : 0 < k) (h : k < hodField o 16 4) : arrive o k = .ok (setHodField o 16 4 (hodField o 16 4 - k)) := by
  rw [arrive, if_neg (by omega), if_neg (by omega), if_neg (by omega)]

theorem selected_zero : selected 0 = some (fun _ => true) := rfl
theorem selected_core {x : Word} (hx : bit x.toNat 0 = true) (hrest : fieldOf x 39 1 = 0) : selected x = some (fun e =>
    decide (fieldOf e.req.ident 63 50 = fieldOf x 63 50 ∧ fieldOf e.req.ident 49 40 = fieldOf x 49 40 ∧ fieldOf e.req.ident 39 36 ≠ 4)) := by
  have hne : x ≠ 0 := by
    rintro rfl
    exact absurd hx (by decide)
  rw [selected, if_neg hne, if_pos (by simp [hx, hrest])]
  rfl
theorem selected_out {x : Word} (hx : x ≠ 0) (h : bit x.toNat 0 = false ∨ fieldOf x 39 1 ≠ 0) : selected x = none := by
  rw [selected, if_neg hx, if_neg]
  obtain h | h := h <;> simp [h]

theorem mortarCancel_some {u : State} {p : WaitEnt → Bool} (h : selected q.arg = some p) : mortarCancel u q o =
    .done (renumber (((waitsOn u q.line).filter p).foldl (fun s e => wake s e 0x04 0 0 0) u) q.line o).1
      (renumber (((waitsOn u q.line).filter p).foldl (fun s e => wake s e 0x04 0 0 0) u) q.line o).2 0
      (word ((waitsOn u q.line).filter p).length) 0 0 := by
  rw [mortarCancel, h]
  rfl

/-- Taking a ticket leaves the one that is served (R93). -/
theorem lockServing_taken (o : MObj) (t : Nat) : lockServing (setHodField o 8 4 t) = lockServing o :=
  hodField_setHodField_above _ _ (by decide)
theorem lockAcquire_free {u : State} (h : lockNext o = lockServing o) :
    lockAcquire u q o = okay u (setHodField (setHodField o 8 4 (lockNext o + 1)) 16 8 q.ident.toNat) 0 := by
  rw [lockAcquire]
  simp only [lockServing_taken]
  exact if_pos h
theorem lockAcquire_held {u : State} (h : lockNext o ≠ lockServing o) :
    lockAcquire u q o = .park (setHodField o 8 4 (lockNext o + 1)) (lockNext o) := by
  rw [lockAcquire]
  simp only [lockServing_taken]
  exact if_neg h

/-- An operation whose result is a word. -/
theorem okay_word (u : State) (o : MObj) (x : Word) : okay u o x.toNat = .done u o 0 x 0 0 := by rw [okay, word_toNat]

/-- The ticket that a release serves next (R93). -/
theorem lockServing_next (o : MObj) : lockServing (setHodField o 12 4 (lockServing o + 1)) = (lockServing o + 1) % 2 ^ 32 :=
  hodField_setHodField_same ..

end Operations

/-! ### The steps of the opcode table -/

section Steps

variable (r : Nat) (s : State)

theorem exec_mortarInit : exec (.mortarInit r) s = mortarEvent r 0x00 0 mortarInit s := rfl
theorem exec_mortarRead : exec (.mortarRead r) s = mortarEvent r 0x01 0 mortarRead s := rfl
theorem exec_mortarCancel : exec (.mortarCancel r) s = mortarEvent r 0x02 0 mortarCancel s := rfl
theorem exec_ctrAdd : exec (.ctrAdd r) s =
    mortarEvent r 0x10 1 (fun s r o => okay s (setHodField o 8 8 (ctrValue o + r.arg).toNat) 0) s := rfl
theorem exec_ctrFadd : exec (.ctrFadd r) s =
    mortarEvent r 0x11 1 (fun s r o => okay s (setHodField o 8 8 (ctrValue o + r.arg).toNat) (ctrValue o).toNat) s := rfl
theorem exec_ctrWait : exec (.ctrWait r) s =
    mortarEvent r 0x12 1 (fun s r o => if (ctrValue o).slt r.arg then .park o 0 else okay s o (ctrValue o).toNat) s := rfl
theorem exec_ctrChunk : exec (.ctrChunk r) s = mortarEvent r 0x13 1 (fun s _ o =>
    match nextChunk o with
    | none => .same 0x03 (ctrValue o) 0
    | some (start, len) => .done s (setHodField o 8 8 (start + len)) 0 (word start) (word len) 0) s := rfl
theorem exec_barArrive : exec (.barArrive r) s = mortarEvent r 0x20 2 (fun s r o =>
    match arrive o r.arg.toNat with | .error e => refuse e | .ok o' => okay s o' (barPhase o)) s := rfl
theorem exec_barAwait : exec (.barAwait r) s = mortarEvent r 0x21 2 (fun s r o =>
    match arrive o r.arg.toNat with
    | .error e => refuse e
    | .ok o' => if passed o' (barPhase o) then okay s o' (barPhase o) else .park o' (barPhase o)) s := rfl
theorem exec_barWaitp : exec (.barWaitp r) s = mortarEvent r 0x22 2 (fun s r o =>
    if passed o r.arg.toNat then okay s o (barPhase o) else .park o r.arg.toNat) s := rfl
theorem exec_lockAcq : exec (.lockAcq r) s = mortarEvent r 0x30 3 lockAcquire s := rfl
theorem exec_lockTry : exec (.lockTry r) s = mortarEvent r 0x31 3 (fun s r o =>
    if lockNext o = lockServing o then okay s (setHodField (setHodField o 8 4 (lockNext o + 1)) 16 8 r.ident.toNat) 0
    else refuse 0x01) s := rfl
theorem exec_lockRel : exec (.lockRel r) s = mortarEvent r 0x32 3 lockRelease s := rfl
theorem exec_condWait : exec (.condWait r) s = mortarEvent r 0x50 5 (fun _ _ o => .park o 0) s := rfl
theorem exec_condSig : exec (.condSig r) s = mortarEvent r 0x51 5 (fun s r o =>
    let l := (waitsOn s r.line).take 1; okay (moveWaiters s l o) o l.length) s := rfl
theorem exec_condBcast : exec (.condBcast r) s = mortarEvent r 0x52 5 (fun s r o =>
    let l := waitsOn s r.line; okay (moveWaiters s l o) o l.length) s := rfl

end Steps

section Clauses

variable {s u : State} {r : Nat} {q : MReq} {o : MObj}

theorem mortarInit_taken (hsize : q.data % 256 ≠ 0) (h : objType o ≠ 0) : mortarInit u q o = refuse 0x08 := by
  rw [mortarInit, if_neg hsize, if_pos h]
theorem mortarInit_freed (hsize : q.data % 256 = 0) (h : waitsOn u q.line = []) : mortarInit u q o = okay u 0 0 := by
  rw [mortarInit, if_pos hsize, h]
  rfl
theorem mortarInit_waited (hsize : q.data % 256 = 0) (h : waitsOn u q.line ≠ []) : mortarInit u q o = refuse 0x08 := by
  rw [mortarInit, if_pos hsize, if_neg (by simpa using h)]
theorem mortarInit_made {o' : MObj} (hsize : q.data % 256 ≠ 0) (h : objType o = 0) (hinit : initObj u q = some o') :
    mortarInit u q o = okay u o' 0 := by
  rw [mortarInit, if_neg hsize, if_neg (by simp [h]), hinit]
theorem mortarInit_bad (hsize : q.data % 256 ≠ 0) (h : objType o = 0) (hinit : initObj u q = none) : mortarInit u q o = refuse 0x07 := by
  rw [mortarInit, if_neg hsize, if_neg (by simp [h]), hinit]

theorem mortarCancel_none (h : selected q.arg = none) : mortarCancel u q o = refuse 0x07 := by
  rw [mortarCancel, h]

theorem lockRelease_free (h : lockNext o = lockServing o) : lockRelease u q o = refuse 0x05 := by
  rw [lockRelease, if_pos h]
theorem lockRelease_last (h : lockNext o ≠ lockServing o) (hnone : waitsOn u q.line = []) :
    lockRelease u q o = okay u (setHodField (setHodField o 12 4 (lockServing o + 1)) 16 8 0) 0 := by
  rw [lockRelease, if_neg h, hnone]
  rfl
theorem lockRelease_next {e : WaitEnt} (h : lockNext o ≠ lockServing o)
    (he : (waitsOn u q.line).find? (fun e => decide (e.ticket = (lockServing o + 1) % 2 ^ 32)) = some e) :
    lockRelease u q o = okay (wake u e 0 0 0 0) (setHodField (setHodField o 12 4 (lockServing o + 1)) 16 8 e.req.ident.toNat) 0 := by
  rw [lockRelease, if_neg h]
  simp only [lockServing_next]
  rw [he]

end Clauses

/-- Settles O19: each operation's function on the object that stands at the line. -/
theorem mortarOperations : Obligations.MortarOperations := by
  refine ⟨?_, ?_⟩
  · intro s r q u o done same parks value phase pending count next serving num
    have hslt : (ctrValue o).slt q.arg = decide (value.toInt < q.arg.toInt) := rfl
    refine ⟨fun h => ?_, fun h => h.same (exec_mortarRead r s) rfl, fun h harg => ?_, fun h hbit hrest => ?_, fun h harg hout => ?_,
      fun h => h.done (exec_ctrAdd r s) rfl, fun h => ?_, fun h hle => ?_, fun h hlt idx hidx => ?_, fun h hnone => ?_,
      fun at_ len h hsome => ?_, ?_⟩
    · have hsize : q.data % 256 ≠ 0 := fun hz => by
        have hfrees := h.not_frees
        simp [MReq.frees, h.op_eq, hz] at hfrees
      exact h.same (exec_mortarInit r s) (mortarInit_taken hsize (Nat.ne_of_gt h.type_pos))
    · have hall : (waitsOn u q.line).filter (fun _ => true) = waitsOn u q.line := List.filter_true _
      have hcancel := mortarCancel_some (u := u) (o := o) (show selected q.arg = some (fun _ => true) by rw [harg, selected_zero])
      rw [hall] at hcancel
      exact h.done (exec_mortarCancel r s) hcancel
    · exact h.done (exec_mortarCancel r s) (mortarCancel_some (selected_core hbit hrest))
    · exact h.same (exec_mortarCancel r s) (mortarCancel_none (selected_out harg hout))
    · exact h.done (exec_ctrFadd r s) (okay_word ..)
    · exact h.done (exec_ctrWait r s) ((if_neg (by rw [hslt]; simpa using hle)).trans (okay_word ..))
    · exact h.parks (exec_ctrWait r s) (if_pos (by rw [hslt]; simpa using hlt)) hidx
    · exact h.same (exec_ctrChunk r s) (by rw [hnone]; rfl)
    · exact h.done (exec_ctrChunk r s) (by rw [hsome]; rfl)
    · refine ⟨fun h hpos hlt => ?_, fun h hpos heq => ?_, fun h hzero => ?_, fun h hpos hlt => ?_, fun h hzero => ?_,
        fun h hpos hlt => ?_, fun h hpos heq => ?_, fun h hpos hlt idx hidx => ?_, ?_⟩
      · exact h.done (exec_barArrive r s) (by rw [arrive_more hpos hlt]; rfl)
      · exact h.done (exec_barArrive r s) (by rw [arrive_last hpos heq]; rfl)
      · exact h.same (exec_barArrive r s) (by rw [show q.arg.toNat = 0 from hzero, arrive_zero]; rfl)
      · exact h.same (exec_barArrive r s) (by rw [arrive_over hpos hlt]; rfl)
      · exact h.same (exec_barAwait r s) (by rw [show q.arg.toNat = 0 from hzero, arrive_zero]; rfl)
      · exact h.same (exec_barAwait r s) (by rw [arrive_over hpos hlt]; rfl)
      · refine h.done (exec_barAwait r s) ?_
        rw [arrive_last hpos heq]
        exact if_pos (passed_next_phase ..)
      · refine h.parks (exec_barAwait r s) ?_ hidx
        rw [arrive_more hpos hlt]
        exact if_neg (by rw [not_passed_same_phase]; decide)
      · refine ⟨fun h hpassed => h.done (exec_barWaitp r s) (if_pos hpassed),
          fun h hpassed idx hidx => h.parks (exec_barWaitp r s) (if_neg (by rw [show passed _ _ = false from hpassed]; decide)) hidx,
          fun h heq => h.done (exec_lockAcq r s) (lockAcquire_free heq),
          fun h hne idx hidx => h.parks (exec_lockAcq r s) (lockAcquire_held hne) hidx,
          fun h heq => h.done (exec_lockTry r s) (if_pos heq), fun h hne => h.same (exec_lockTry r s) (if_neg hne),
          fun h heq => h.same (exec_lockRel r s) (lockRelease_free heq),
          fun h hne hnone => h.done (exec_lockRel r s) (lockRelease_last hne hnone),
          fun e h hne he => h.done (exec_lockRel r s) (lockRelease_next hne he),
          fun h idx hidx => h.parks (exec_condWait r s) rfl hidx,
          fun h => h.done (exec_condSig r s) rfl, fun h => h.done (exec_condBcast r s) rfl⟩
  · intro s r q hreq hready hop u
    have hevent {m : MRes} (hadmit : q.frees = true ∨ (homeState s q).admits q.line q.scope q.party = true)
        (hpoison : q.frees = true ∨ (homeState s q).poisonedAt q.line 64 = none)
        (hf : mortarInit u q (objAt (homeState s q) q.line) = m) : exec (.mortarInit r) s = .next (answerAt u q m) := by
      rw [exec_mortarInit, mortarEvent, hreq]
      exact (whenever_true hready).trans (congrArg _ (atHome_passes hadmit hpoison (fun h => h.1 hop) hf))
    have hfrees (hsize : q.data % 256 = 0) : q.frees = true := by simp [MReq.frees, hop, hsize]
    have hmade {o : MObj} (hadmit : q.frees = true ∨ (homeState s q).admits q.line q.scope q.party = true)
        (hpoison : q.frees = true ∨ (homeState s q).poisonedAt q.line 64 = none) (hf : mortarInit u q (objAt (homeState s q) q.line) = okay u o 0) :
        exec (.mortarInit r) s = .next (finishAt u q o 0 0 0 0) := by
      rw [hevent hadmit hpoison hf, okay, answerAt]
      rfl
    have hrefused {status : Nat} (hadmit : q.frees = true ∨ (homeState s q).admits q.line q.scope q.party = true)
        (hpoison : q.frees = true ∨ (homeState s q).poisonedAt q.line 64 = none) (hf : mortarInit u q (objAt (homeState s q) q.line) = refuse status) :
        exec (.mortarInit r) s = .next (sameAt u q status 0 0) := by
      rw [hevent hadmit hpoison hf, refuse, answerAt]
    exact ⟨fun hsize hnone => hmade (.inl (hfrees hsize)) (.inl (hfrees hsize)) (mortarInit_freed hsize hnone),
      fun hsize hsome => hrefused (.inl (hfrees hsize)) (.inl (hfrees hsize)) (mortarInit_waited hsize hsome),
      fun hsize hadmit hpoison htype => ⟨fun o hinit => hmade (.inr hadmit) (.inr hpoison) (mortarInit_made hsize htype hinit),
        fun hinit => hrefused (.inr hadmit) (.inr hpoison) (mortarInit_bad hsize htype hinit)⟩⟩

end Sys2Proof.Machine
end

section
/-! PROOFS. Bounded queues, the wake-ups of counters, and the replies of mortar requests (chapter 5). -/

open Sys2Proof

namespace Sys2Proof.Machine

/-! ### Bounded queues -/

/-- What QUE_COMMIT does to the object. -/
def queCommitOp (s : State) (r : MReq) (o : MObj) : MRes :=
  if idxSub r.arg.toNat (queTail o) < idxSub (queResv o) (queTail o) && !bit (hodField o 32 8) (idxSub r.arg.toNat (queTail o)) then
    okay s (queCommitted o r.arg.toNat) 0
  else refuse 0x07

/-- What QUE_FREE does to the object. -/
def queFreeOp (s : State) (r : MReq) (o : MObj) : MRes :=
  if idxSub r.arg.toNat (queHead o) < idxSub (queClaim o) (queHead o) && !bit (hodField o 40 8) (idxSub r.arg.toNat (queHead o)) then
    okay s (queFreed o r.arg.toNat) 0
  else refuse 0x07

section Steps

variable (r : Nat) (s : State)

theorem exec_queEnq : exec (.queEnq r) s = mortarEvent r 0x40 4 (queEnqueue false) s := rfl
theorem exec_queTenq : exec (.queTenq r) s = mortarEvent r 0x41 4 (queEnqueue true) s := rfl
theorem exec_queEnqr : exec (.queEnqr r) s = mortarEvent r 0x42 4 (queReserve false) s := rfl
theorem exec_queTenqr : exec (.queTenqr r) s = mortarEvent r 0x43 4 (queReserve true) s := rfl
theorem exec_queCommit : exec (.queCommit r) s = mortarEvent r 0x44 4 queCommitOp s := rfl
theorem exec_queDeq : exec (.queDeq r) s = mortarEvent r 0x45 4 (queDequeue false) s := rfl
theorem exec_queTdeq : exec (.queTdeq r) s = mortarEvent r 0x46 4 (queDequeue true) s := rfl
theorem exec_queDeqr : exec (.queDeqr r) s = mortarEvent r 0x47 4 (queClaimOne false) s := rfl
theorem exec_queTdeqr : exec (.queTdeqr r) s = mortarEvent r 0x48 4 (queClaimOne true) s := rfl
theorem exec_queFree : exec (.queFree r) s = mortarEvent r 0x49 4 queFreeOp s := rfl

end Steps

section Queues

variable {u v : State} {q : MReq} {o o' : MObj} {bytes i : Nat}

theorem queEnqueue_room (try_ : Bool) (hpos : 0 < q.arg.toNat) (hlen : q.arg.toNat ≤ moved o) (h : hasRoom o = true) :
    queEnqueue try_ u q o = okay (enqueue u q.dom q.line o q.arg.toNat q.data).1 (enqueue u q.dom q.line o q.arg.toNat q.data).2 0 := by
  rw [queEnqueue]
  dsimp only
  rw [if_neg (by omega), if_pos h]
theorem queEnqueue_full (try_ : Bool) (hpos : 0 < q.arg.toNat) (hlen : q.arg.toNat ≤ moved o) (h : hasRoom o = false) :
    queEnqueue try_ u q o = if try_ then refuse 0x02 else .park o 0 := by
  rw [queEnqueue]
  dsimp only
  rw [if_neg (by omega), if_neg (by simp [h])]
theorem queEnqueue_bad (try_ : Bool) (h : q.arg.toNat = 0 ∨ moved o < q.arg.toNat) : queEnqueue try_ u q o = refuse 0x07 := if_pos h
theorem queReserve_room (try_ : Bool) (h : hasRoom o = true) :
    queReserve try_ u q o = okay u (setHodField o 26 4 (queResv o + 1)) (queResv o) := if_pos h
theorem queReserve_full (try_ : Bool) (h : hasRoom o = false) : queReserve try_ u q o = if try_ then refuse 0x02 else .park o 0 :=
  if_neg (by simp [h])
theorem queDequeue_work (try_ : Bool) (h : hasWork o = true) (hd : dequeue u q o = (v, some (o', bytes, i))) :
    queDequeue try_ u q o = .done v o' 0 (word i) 0 bytes := by
  rw [queDequeue, if_pos h, hd]
theorem queDequeue_empty (try_ : Bool) (h : hasWork o = false) : queDequeue try_ u q o = if try_ then refuse 0x03 else .park o 0 :=
  if_neg (by simp [h])
theorem queClaimOne_work (try_ : Bool) (h : hasWork o = true) :
    queClaimOne try_ u q o = okay u (setHodField o 18 4 (queClaim o + 1)) (queClaim o) := if_pos h
theorem queClaimOne_empty (try_ : Bool) (h : hasWork o = false) : queClaimOne try_ u q o = if try_ then refuse 0x03 else .park o 0 :=
  if_neg (by simp [h])
theorem queCommitOp_ok (h : idxSub q.arg.toNat (queTail o) < idxSub (queResv o) (queTail o))
    (hfree : bit (hodField o 32 8) (idxSub q.arg.toNat (queTail o)) = false) : queCommitOp u q o = okay u (queCommitted o q.arg.toNat) 0 :=
  if_pos (by simp [h, hfree])
theorem queCommitOp_bad (h : idxSub (queResv o) (queTail o) ≤ idxSub q.arg.toNat (queTail o) ∨
    bit (hodField o 32 8) (idxSub q.arg.toNat (queTail o)) = true) : queCommitOp u q o = refuse 0x07 := by
  refine if_neg ?_
  obtain h | h := h
  · simp [Nat.not_lt.2 h]
  · simp [h]
theorem queFreeOp_ok (h : idxSub q.arg.toNat (queHead o) < idxSub (queClaim o) (queHead o))
    (hfree : bit (hodField o 40 8) (idxSub q.arg.toNat (queHead o)) = false) : queFreeOp u q o = okay u (queFreed o q.arg.toNat) 0 :=
  if_pos (by simp [h, hfree])
theorem queFreeOp_bad (h : idxSub (queClaim o) (queHead o) ≤ idxSub q.arg.toNat (queHead o) ∨
    bit (hodField o 40 8) (idxSub q.arg.toNat (queHead o)) = true) : queFreeOp u q o = refuse 0x07 := by
  refine if_neg ?_
  obtain h | h := h
  · simp [Nat.not_lt.2 h]
  · simp [h]

end Queues

/-- Settles O20: each queue operation's function on the object that stands at the line. -/
theorem queueOperations : Obligations.QueueOperations := by
  intro s r q u o len done same parks e in_ out
  refine ⟨fun hpos hlen hroom => ⟨fun h => ?_, fun h => ?_⟩, fun hpos hlen hroom => ⟨fun h idx hidx => ?_, fun h => ?_⟩,
    fun hbad => ⟨fun h => ?_, fun h => ?_⟩, fun hroom => ⟨fun h idx hidx => ?_, fun h => ?_⟩, fun h hbad => ?_,
    fun hroom => ⟨fun h => ?_, fun h => ?_⟩, fun h hlt hfree => ?_, fun v o' bytes i hwork hd => ⟨fun h => ?_, fun h => ?_⟩,
    fun hwork => ⟨fun h idx hidx => ?_, fun h => ?_, fun h idx hidx => ?_, fun h => ?_⟩, fun h hbad => ?_,
    fun hwork => ⟨fun h => ?_, fun h => ?_⟩, fun h hlt hfree => ?_⟩
  · exact h.done (exec_queEnq r s) (queEnqueue_room false hpos hlen hroom)
  · exact h.done (exec_queTenq r s) (queEnqueue_room true hpos hlen hroom)
  · exact h.parks (exec_queEnq r s) (queEnqueue_full false hpos hlen hroom) hidx
  · exact h.same (exec_queTenq r s) (queEnqueue_full true hpos hlen hroom)
  · exact h.same (exec_queEnq r s) (queEnqueue_bad false hbad)
  · exact h.same (exec_queTenq r s) (queEnqueue_bad true hbad)
  · exact h.parks (exec_queEnqr r s) (queReserve_full false hroom) hidx
  · exact h.same (exec_queTenqr r s) (queReserve_full true hroom)
  · exact h.same (exec_queCommit r s) (queCommitOp_bad hbad)
  · exact h.done (exec_queEnqr r s) (queReserve_room false hroom)
  · exact h.done (exec_queTenqr r s) (queReserve_room true hroom)
  · exact h.done (exec_queCommit r s) (queCommitOp_ok hlt hfree)
  · exact h.done (exec_queDeq r s) (queDequeue_work false hwork hd)
  · exact h.done (exec_queTdeq r s) (queDequeue_work true hwork hd)
  · exact h.parks (exec_queDeq r s) (queDequeue_empty false hwork) hidx
  · exact h.same (exec_queTdeq r s) (queDequeue_empty true hwork)
  · exact h.parks (exec_queDeqr r s) (queClaimOne_empty false hwork) hidx
  · exact h.same (exec_queTdeqr r s) (queClaimOne_empty true hwork)
  · exact h.same (exec_queFree r s) (queFreeOp_bad hbad)
  · exact h.done (exec_queDeqr r s) (queClaimOne_work false hwork)
  · exact h.done (exec_queTdeqr r s) (queClaimOne_work true hwork)
  · exact h.done (exec_queFree r s) (queFreeOp_ok hlt hfree)

/-! ### Wait lists -/

section WaitLists

variable {s t : State} {q : MReq} {e x : WaitEnt} {line status : Nat} {r1 : Word}

/-- The entries of every slice's wait list stay where they are. -/
structure SameWaits (s t : State) : Prop where
  slice (k : Nat) : (t.slice k).waits = (s.slice k).waits

theorem SameWaits.refl (s : State) : SameWaits s s := ⟨fun _ => rfl⟩
theorem SameWaits.trans {u : State} (h : SameWaits s t) (h' : SameWaits t u) : SameWaits s u := ⟨fun k => (h'.slice k).trans (h.slice k)⟩
theorem SameWaits.waitsOn (h : SameWaits s t) (line : Nat) : waitsOn t line = waitsOn s line := by
  rw [Machine.waitsOn, Machine.waitsOn, h.slice]
theorem SameWaits.of_slices (h : t.slices = s.slices) : SameWaits s t := ⟨fun k => by rw [State.slice, State.slice, h]⟩

theorem SameWaits.modSlice (k : Nat) (f : Slice → Slice) (h : (f (s.slice k)).waits = (s.slice k).waits) : SameWaits s (s.modSlice k f) := by
  refine ⟨fun j => ?_⟩
  by_cases hj : k = j
  · subst hj
    rw [State.slice_modSlice_same, h]
  · rw [State.slice_modSlice_other _ _ hj]

theorem SameWaits.ite {p : Prop} [Decidable p] {a b : State} (ha : SameWaits s a) (hb : SameWaits s b) : SameWaits s (if p then a else b) := by
  split
  · exact ha
  · exact hb

theorem SameWaits.wakeFor (pa : Nat) : SameWaits s (Machine.wakeFor s pa) := by
  unfold Machine.wakeFor
  split
  · exact .refl s
  · exact .of_slices rfl

theorem SameWaits.useLine (dom pa n : Nat) (write : Bool) : SameWaits s (Machine.useLine s dom pa n write) := by
  have hmiss : SameWaits s (if write && decide (64 ≤ n) && !((s.die (dieOfSlice (homeSlice pa))).ways dom).isEmpty then s else Machine.wakeFor s pa) :=
    .ite (.refl s) (.wakeFor pa)
  unfold Machine.useLine
  dsimp only
  split
  · exact SameWaits.trans (.ite (.wakeFor pa) (.refl s)) (.modSlice _ _ rfl)
  · split
    · exact hmiss.trans (.modSlice _ _ rfl)
    · split
      · exact hmiss
      · refine hmiss.trans (SameWaits.trans (.modSlice (homeSlice pa) _ ?_) (.of_slices (State.tickFresh_slices ..)))
        rfl

theorem SameWaits.touchLine (dom pa n : Nat) (write : Bool) : SameWaits s (Machine.touchLine s dom pa n write) := by
  have htrain : SameWaits s (trainOn s dom pa) := .of_slices (State.modDie_slices ..)
  exact htrain.trans (.useLine dom pa n write)

theorem SameWaits.putOverflow (dom line : Nat) (l : List WaitEnt) : ∀ s, SameWaits s (Machine.putOverflow s dom line l) := by
  induction l with
  | nil => exact .refl
  | cons e l ih =>
    intro s
    unfold Machine.putOverflow
    dsimp only
    exact SameWaits.trans (.ite (.refl s) ((SameWaits.touchLine ..).trans (.of_slices (State.writeBytes_slices ..)))) (ih _)

theorem SameWaits.putObj (dom line : Nat) (o : MObj) : SameWaits s (Machine.putObj s dom line o) :=
  ((SameWaits.touchLine dom line 64 true).trans (.putOverflow dom line _ _)).trans (.of_slices (State.write_slices ..))

theorem putOverflow_mreps (dom line : Nat) (l : List WaitEnt) : ∀ s, (putOverflow s dom line l).mreps = s.mreps := by
  induction l with
  | nil => exact fun _ => rfl
  | cons e l ih =>
    intro s
    unfold putOverflow
    dsimp only
    refine (ih _).trans ?_
    split
    · rfl
    · rw [State.writeBytes_mreps]
      exact (Background.touchLine ..).mreps

theorem putObj_mreps (dom line : Nat) (o : MObj) : (putObj s dom line o).mreps = s.mreps :=
  (State.write_mreps ..).trans ((putOverflow_mreps dom line _ _).trans (Background.touchLine ..).mreps)

/-- A request that is taken off its list is the one entry that leaves. -/
theorem waitsOn_wake (he : e.req.line = line) :
    waitsOn (wake s e status r1 0 0) line = (waitsOn s line).filter (fun x => decide (x ≠ e)) := by
  have hslice (u : State) (k : Nat) : (reply u e.req e.req.shown status r1 0 0 0 true).slice k = u.slice k := rfl
  rw [waitsOn, wake, hslice, he, State.slice_modSlice_same, waitsOn, List.filter_filter, List.filter_filter]
  congr 1
  funext x
  exact Bool.and_comm ..

theorem wake_mreps (bytes cause : Nat) : (wake s e status r1 bytes cause).mreps = s.mreps ++
    [⟨e.req.id, e.req.iss, e.req.shown, status, r1, 0, bytes, cause, true, e.req.scope, e.req.ord, e.req.line, paPkg e.req.line,
      e.req.launch⟩] := rfl

/-- Waking a list of requests of a line takes exactly these off its list. -/
theorem mem_waitsOn_wakes (l : List WaitEnt) : ∀ s, (∀ e ∈ l, e.req.line = line) →
    (x ∈ waitsOn (l.foldl (fun s e => wake s e status r1 0 0) s) line ↔ x ∈ waitsOn s line ∧ x ∉ l) := by
  induction l with
  | nil => simp
  | cons e l ih =>
    intro s hl
    rw [List.foldl_cons, ih _ (fun e he => hl e (List.mem_cons_of_mem _ he)), waitsOn_wake (hl e List.mem_cons_self), List.mem_filter,
      List.mem_cons]
    simp only [decide_eq_true_eq, not_or, and_assoc]

/-- Each request that is woken gets its reply, and no reply is lost. -/
theorem mem_mreps_wakes (l : List WaitEnt) : ∀ s, (∀ p ∈ s.mreps, p ∈ (l.foldl (fun s e => wake s e status r1 0 0) s).mreps) ∧
    ∀ e ∈ l, ∃ p ∈ (l.foldl (fun s e => wake s e status r1 0 0) s).mreps, p.id = e.req.id ∧ p.status = status ∧ p.r1 = r1 ∧ p.wake = true := by
  induction l with
  | nil => exact fun s => ⟨fun _ h => h, fun _ h => nomatch h⟩
  | cons e l ih =>
    intro s
    obtain ⟨hkept, hwoken⟩ := ih (wake s e status r1 0 0)
    refine ⟨fun p hp => hkept p ?_, fun x hx => ?_⟩
    · rw [wake_mreps]
      exact List.mem_append_left _ hp
    · obtain rfl | hx := List.mem_cons.1 hx
      · have hin := wake_mreps (s := s) (e := x) (status := status) (r1 := r1) 0 0 ▸ List.mem_append_right _ (List.mem_singleton_self _)
        exact ⟨_, hkept _ hin, rfl, rfl, rfl, rfl⟩
      · exact hwoken x hx

theorem line_of_mem_waitsOn (h : x ∈ waitsOn s line) : x.req.line = line := by
  rw [waitsOn, List.mem_filter] at h
  simpa using h.2

/-- The state after an operation's reply has left and before the waiting requests are looked at. -/
def answered (s : State) (q : MReq) (status : Nat) (r1 : Word) : State :=
  reply (if q.frees && decide (status = 0) then s.clearRecord q.line else s.setRecord q.line q.scope q.party) q q.shown status r1 0 0 0 false

theorem answered_sameWaits : SameWaits s (answered s q status r1) := by
  have hrecord : SameWaits s (if q.frees && decide (status = 0) then s.clearRecord q.line else s.setRecord q.line q.scope q.party) :=
    .ite (.of_slices rfl) (.of_slices rfl)
  exact hrecord.trans (.of_slices rfl)

/-- The requests that a counter's value wakes. -/
def counterReady (s : State) (q : MReq) (o : MObj) : List WaitEnt :=
  (waitsOn s q.line).filter (fun e => !(ctrValue o).slt e.req.arg)

theorem finishAt_counter {o : MObj} (h : objType o = 1) : finishAt s q o status r1 0 0 =
    putObj ((counterReady s q o).foldl (fun s e => wake s e 0 (ctrValue o) 0 0) (answered s q status r1)) q.dom q.line o := by
  have hwaits := (answered_sameWaits (s := s) (q := q) (status := status) (r1 := r1)).waitsOn q.line
  unfold finishAt settle
  dsimp only
  rw [h, counterReady, ← hwaits]
  rfl

theorem mem_counterReady {o : MObj} : e ∈ counterReady s q o ↔ e ∈ waitsOn s q.line ∧ e.req.arg.toInt ≤ (ctrValue o).toInt := by
  rw [counterReady, List.mem_filter]
  simp [BitVec.slt]

end WaitLists

/-- Settles O21: after the reply the processor wakes `counterReady`, and no other entry leaves the list. -/
theorem counterWakes : Obligations.CounterWakes := by
  intro s q o status r1 htype t value
  have ht : t = _ := finishAt_counter htype
  have hlines : ∀ e ∈ counterReady s q o, e.req.line = q.line := fun e he => line_of_mem_waitsOn (mem_counterReady.1 he).1
  have hwaits (e : WaitEnt) : e ∈ waitsOn t q.line ↔ e ∈ waitsOn s q.line ∧ e ∉ counterReady s q o := by
    rw [ht, (SameWaits.putObj ..).waitsOn, mem_waitsOn_wakes _ _ hlines, answered_sameWaits.waitsOn]
  obtain ⟨hkept, hwoken⟩ := mem_mreps_wakes (status := 0) (r1 := ctrValue o) (counterReady s q o) (answered s q status r1)
  refine ⟨?_, fun e he hle => ⟨fun hin => ?_, ?_⟩, fun e he hlt => (hwaits e).2 ⟨he, fun hready => ?_⟩⟩
  · rw [ht, putObj_mreps]
    exact ⟨_, hkept _ (List.mem_append_right _ (List.mem_singleton_self _)), rfl, rfl, rfl, rfl⟩
  · exact ((hwaits e).1 hin).2 (mem_counterReady.2 ⟨he, hle⟩)
  · rw [ht, putObj_mreps]
    exact hwoken e (mem_counterReady.2 ⟨he, hle⟩)
  · exact absurd (mem_counterReady.1 hready).2 (Int.not_le.2 hlt)

end Sys2Proof.Machine
end

section
/-! PROOFS. The replies of mortar requests, and requests that do not reach an object (chapter 5). -/

open Sys2Proof

namespace Sys2Proof.Machine

/-! ### A reply at its strand -/

section Replies

variable {s u : State} {c n d v r ea : Nat} {p : MRep}

/-- The sticky bit of a lost or refused reply (R102). -/
def flagReply (s : State) (c n : Nat) (p : MRep) : State :=
  if p.status = 0x09 ∨ p.status = 0x0A ∨ p.status = 0x0B then setSticky s c n (s.strand c n).act p.peer else s
/-- The invalidation of an acquire at SYSTEM scope (R85). -/
def acquireReply (s : State) (c : Nat) (p : MRep) : State :=
  if decide (p.scope = .system) && decide (p.status ≠ 0x04) && (p.wake || p.ord.acq) then s.invalidateRemote (corePkg c) else s

/-- A reply from the own package completes the instruction that waits for it. -/
theorem completeMortar_waiting (hiss : p.iss.strandOf = some (c, n)) (hwait : (s.strand c n).wait = .mortar p.id d v ea)
    (hrun : (s.strand c n).mode ≠ .free) (hpkg : paPkg p.line = corePkg c) :
    completeMortar s p = if p.cause ≠ 0 then trapStrand (flagReply s c n p) c n p.cause 0 0 (word ea)
      else (writeMortar (acquireReply (flagReply s c n p) c p) c n d v p).modStrand c n
        (fun t => { t with pc := t.pc + 4, wait := .none, imx := [] }) := by
  unfold completeMortar
  simp only [hiss, hwait, hpkg]
  simp [hrun, flagReply, acquireReply]

theorem flagReply_mem : (flagReply s c n p).mem = s.mem := by
  unfold flagReply
  split <;> rfl
theorem acquireReply_mem : (acquireReply s c p).mem = s.mem := by
  unfold acquireReply
  split <;> rfl
theorem acquireReply_strand : (acquireReply s c p).strand c n = s.strand c n := by
  unfold acquireReply
  split <;> rfl

theorem flagReply_strand : ((flagReply s c n p).strand c n).frame = (s.strand c n).frame ∧ ((flagReply s c n p).strand c n).pc = (s.strand c n).pc := by
  unfold flagReply setSticky
  split
  · rw [State.strand_modStrand_same]
    split <;> exact ⟨rfl, rfl⟩
  · exact ⟨rfl, rfl⟩

theorem setWAt_strand (x : Word) (c' n' : Nat) : (u.setWAt c n r x).strand c' n' = u.strand c' n' := rfl

theorem writeMortar_pc : ((writeMortar u c n d v p).strand c n).pc = (u.strand c n).pc := by
  have hvec (t : Strand) (x : VWord) : (t.setVec v x).pc = t.pc := rfl
  unfold writeMortar
  simp only [apply_ite (fun x : State => (x.strand c n).pc), State.strand_modStrand_same, hvec, setWAt_strand, ite_self]

theorem writeMortar_image (hop : p.op = 0x01) (hstatus : p.status = 0) :
    writeMortar u c n d v p = u.modStrand c n (fun t => t.setVec v (BitVec.ofNat 2048 p.bytes)) := by
  unfold writeMortar
  simp [hop, hstatus]

/-- The words that a reply writes, before the third of MCTR.CHUNK. -/
def replyPair (s : State) (c n d : Nat) (p : MRep) : State := (s.setWAt c n d (word p.status)).setWAt c n (d + 1) p.r1

theorem writeMortar_mem (hop : p.op ≠ 0x01) : (writeMortar u c n d v p).mem =
    if p.op = 0x13 then ((replyPair u c n d p).setWAt c n (d + 2) p.r2).mem else (replyPair u c n d p).mem := by
  unfold writeMortar replyPair
  simp only [hop, if_false, apply_ite State.mem, State.modStrand_mem, ite_self]

theorem setWAt_get_other (x : Word) {a : Nat} (h : a < regAddr c (u.strand c n).frame r ∨ regAddr c (u.strand c n).frame r + 8 ≤ a) :
    Memory.get (u.setWAt c n r x).mem a = Memory.get u.mem a := Memory.get_writeN_other _ _ _ _ h
theorem setWAt_readN_other (x : Word) {a k : Nat} (h : a + k ≤ regAddr c (u.strand c n).frame r ∨ regAddr c (u.strand c n).frame r + 8 ≤ a) :
    Memory.readN (u.setWAt c n r x).mem a k = Memory.readN u.mem a k := Memory.readN_writeN_other _ _ h
theorem setWAt_readN_same (x : Word) : Memory.readN (u.setWAt c n r x).mem (regAddr c (u.strand c n).frame r) 8 = x.toNat := by
  refine (Memory.readN_writeN 8 _ _ _).trans (Nat.mod_eq_of_lt ?_)
  exact x.isLt

theorem regAddr_succ (c f d i : Nat) : regAddr c f (d + i) = regAddr c f d + 8 * i := by
  unfold regAddr
  omega

theorem replyPair_reads : Memory.readN (replyPair u c n d p).mem (regAddr c (u.strand c n).frame d) 8 = (word p.status).toNat ∧
    Memory.readN (replyPair u c n d p).mem (regAddr c (u.strand c n).frame d + 8) 8 = p.r1.toNat := by
  unfold replyPair
  have hnext := regAddr_succ c (u.strand c n).frame d 1
  constructor
  · rw [setWAt_readN_other, setWAt_readN_same]
    rw [setWAt_strand]
    omega
  · rw [show regAddr c (u.strand c n).frame d + 8 = regAddr c ((u.setWAt c n d (word p.status)).strand c n).frame (d + 1) by
      rw [setWAt_strand]; omega]
    exact setWAt_readN_same _

theorem replyPair_get {a : Nat} (h : a < regAddr c (u.strand c n).frame d ∨ regAddr c (u.strand c n).frame d + 16 ≤ a) :
    Memory.get (replyPair u c n d p).mem a = Memory.get u.mem a := by
  unfold replyPair
  have hnext := regAddr_succ c (u.strand c n).frame d 1
  rw [setWAt_get_other, setWAt_get_other]
  · omega
  · rw [setWAt_strand]
    omega

/-- What a reply writes to the frame: status and result, for MCTR.CHUNK a third word, and nothing else. -/
theorem writeMortar_words (hop : p.op ≠ 0x01) (hstatus : p.status < 256) :
    (writeMortar u c n d v p).read (regAddr c (u.strand c n).frame d) 8 = p.status ∧
    (writeMortar u c n d v p).read (regAddr c (u.strand c n).frame d + 8) 8 = p.r1.toNat ∧
    (p.op = 0x13 → (writeMortar u c n d v p).read (regAddr c (u.strand c n).frame d + 16) 8 = p.r2.toNat) ∧
    ∀ x, (x < regAddr c (u.strand c n).frame d ∨ regAddr c (u.strand c n).frame d + (if p.op = 0x13 then 24 else 16) ≤ x) →
      (writeMortar u c n d v p).byteAt x = u.byteAt x := by
  have hword : (word p.status).toNat = p.status := by
    rw [word, BitVec.toNat_ofNat]
    omega
  obtain ⟨hfirst, hsecond⟩ := replyPair_reads (u := u) (c := c) (n := n) (d := d) (p := p)
  have hthird := regAddr_succ c (u.strand c n).frame d 2
  unfold State.read State.byteAt
  rw [writeMortar_mem hop]
  split
  · have hframe : (replyPair u c n d p).strand c n = u.strand c n := rfl
    refine ⟨?_, ?_, fun _ => ?_, fun x hx => ?_⟩
    · rw [setWAt_readN_other, hfirst, hword]
      rw [hframe]
      omega
    · rw [setWAt_readN_other, hsecond]
      rw [hframe]
      omega
    · rw [show regAddr c (u.strand c n).frame d + 16 = regAddr c ((replyPair u c n d p).strand c n).frame (d + 2) by rw [hframe]; omega]
      exact setWAt_readN_same _
    · rw [setWAt_get_other, replyPair_get]
      · omega
      · rw [hframe]
        omega
  · exact ⟨hfirst.trans hword, hsecond, fun h => absurd h ‹_›, fun x hx => replyPair_get hx⟩

end Replies

/-! ### The waiters of a condition -/

section Waiters

variable {s : State} {e : WaitEnt} {cond waiter : Nat}

theorem takeWaiter_listed (h : (waitsOn s cond).find? (fun e => decide (e.req.id = waiter)) = some e) :
    takeWaiter s cond waiter =
      (s.modSlice (homeSlice cond) (fun k => { k with waits := k.waits.filter (fun x => decide (x ≠ e)) }), some e.req) := by
  rw [takeWaiter, h]

theorem not_mem_waitsOn_filter :
    e ∉ waitsOn (s.modSlice (homeSlice cond) (fun k => { k with waits := k.waits.filter (fun x => decide (x ≠ e)) })) cond := by
  rw [waitsOn, State.slice_modSlice_same]
  simp

end Waiters

/-- What the reply of the LOCK.REL of a COND.WAIT does at the condition. -/
def releaseReplied (s : State) (p : MRep) : Result :=
  match p.iss with
  | .condRel cond waiter =>
    let lost := decide (paPkg p.line ≠ paPkg cond) && s.linkDown (paPkg p.line) (paPkg cond)
    let status := if lost then 0x0A else p.status
    if status = 0 ∧ (p.cause = 0 ∨ lost) then .next s
    else
      match takeWaiter s cond waiter with
      | (s, none) => .next s
      | (s, some q) =>
        let s := if p.cause = 0x0C ∧ ¬lost then endWaiter s cond q 0 0x0C 0
          else endWaiter s cond q (if p.cause ≠ 0 ∧ ¬lost then 0x05 else status) 0 (paPkg p.line)
        .next (putObj s q.dom cond (objAt s cond))
  | _ => .next s

theorem execCondReleaseReply_eq {s : State} {r : Nat} {p : MRep}
    (hfind : s.mreps.find? (fun p => decide (p.id = r) && (match p.iss with | .condRel _ _ => true | _ => false)) = some p) :
    exec (.condReleaseReply r) s = releaseReplied (s.dropRep p) p := by
  have hexec : exec (.condReleaseReply r) s = execCondReleaseReply r s := rfl
  rw [hexec, execCondReleaseReply]
  split
  · next hnone => exact absurd (hnone.symm.trans hfind) (by simp)
  · next p' hsome =>
    obtain rfl : p' = p := Option.some.inj (hsome.symm.trans hfind)
    rfl

/-- The reply of a LOCK.REL that a COND.WAIT sent, at the condition. -/
theorem execCondReleaseReply_waiter (s : State) (r cond waiter : Nat) (p : MRep) (e : WaitEnt)
    (hfind : s.mreps.find? (fun p => decide (p.id = r) && (match p.iss with | .condRel _ _ => true | _ => false)) = some p)
    (hiss : p.iss = .condRel cond waiter) (hlisted : (waitsOn s cond).find? (fun e => decide (e.req.id = waiter)) = some e)
    (hpkg : paPkg p.line = paPkg cond) (hcause : p.cause = 0) :
    (p.status = 0 → exec (.condReleaseReply r) s = .next (s.dropRep p)) ∧
    (p.status ≠ 0 → ∃ t, exec (.condReleaseReply r) s = .next t ∧ e ∉ waitsOn t cond ∧
      ∃ x ∈ t.mreps, x.id = waiter ∧ x.iss = e.req.iss ∧ x.op = 0x50 ∧ x.status = p.status ∧ x.cause = 0 ∧ x.wake = true) := by
  rw [execCondReleaseReply_eq hfind, releaseReplied]
  have hid : e.req.id = waiter := by simpa using List.find?_some hlisted
  have hdropped : (waitsOn (s.dropRep p) cond).find? (fun e => decide (e.req.id = waiter)) = some e := hlisted
  simp only [hiss, hpkg, hcause, takeWaiter_listed hdropped]
  refine ⟨fun hstatus => by simp [hstatus], fun hstatus => ?_⟩
  rw [if_neg (by simp [hstatus])]
  refine ⟨_, rfl, ?_, ?_⟩
  · rw [(SameWaits.putObj ..).waitsOn]
    exact not_mem_waitsOn_filter
  · rw [putObj_mreps]
    refine ⟨_, List.mem_append_right _ (List.mem_singleton_self _), hid, rfl, rfl, ?_, rfl, rfl⟩
    simp

/-! ### Requests that do not reach an object -/

theorem execMortarUnsupported_eq {s : State} {r : Nat} {q : MReq}
    (hfind : s.mreqs.find? (fun q => decide (q.id = r) && !mortarCodes.contains q.op) = some q) (hready : q.ready s = true) :
    exec (.mortarUnsupported r) s = .next (if (homeState s q).admits q.line q.scope q.party then
      reply (homeState s q) q q.op 0x09 0 0 0 0 false else failAt (homeState s q) q 0x0C) := by
  have hexec : exec (.mortarUnsupported r) s = execMortarUnsupported r s := rfl
  rw [hexec, execMortarUnsupported, hfind]
  exact whenever_true hready

section Remote

variable {s : State} {r : Nat} {q : MReq}

/-- What the home's port does to a request from another package whose link is up. -/
def arriveRemote (u : State) (q : MReq) : State :=
  if !portAdmits u q.chargedTo.1 q.dom q.from_ q.line 64 true then reply (u.dropReq q) q q.shown 0x0B 0 0 0 0 false
  else if !q.frees && !u.admits q.line q.scope q.party then failAt (u.dropReq q) q 0x0C
  else if u.lacks q.from_ (paPkg q.line) q.feature then reply (u.dropReq q) q q.shown 0x09 0 0 0 0 false
  else { u with mreqs := u.mreqs.map (fun x => if x = q then { x with admitted := true } else x) }

theorem execRemoteMortar_eq (hfind : s.mreqs.find? (fun q => decide (q.id = r)) = some q) (hnew : q.admitted = false)
    (hfrom : paPkg q.line ≠ q.from_) (hordered : q.ordered s = true)
    (hlink : (releaseRemote s q.chargedTo.1 q.chargedTo.2 q.mark q.relSys).linkDown q.from_ (paPkg q.line) = false) :
    exec (.remoteMortar r) s = .next (arriveRemote (releaseRemote s q.chargedTo.1 q.chargedTo.2 q.mark q.relSys) q) := by
  have hexec : exec (.remoteMortar r) s = execRemoteMortar r s := rfl
  rw [hexec, execRemoteMortar, hfind]
  simp only [hnew, hfrom, hordered, hlink, arriveRemote]
  generalize releaseRemote s q.chargedTo.1 q.chargedTo.2 q.mark q.relSys = u
  simp only [decide_false, Bool.or_false, Bool.not_true, Bool.false_eq_true, if_false]
  split
  · rfl
  · split
    · rfl
    · split <;> rfl

end Remote

/-- Settles O22: the reply at its strand, at the list of a condition, a moved waiter, and the requests that do not reach an object. -/
theorem mortarReplies : Obligations.MortarReplies := by
  refine ⟨⟨?_, execCondReleaseReply_waiter, ?_⟩, fun s r q hid => ⟨execMortarUnsupported_eq, ?_⟩⟩
  · intro s r c n d v ea p hfind hid hiss hwait hrun hpkg hstatus hpre hlaunch hstop hdivert at_ len
    have hexec : exec (if p.wake then .wakeUp r else .mortarReply r) s = .next (completeMortar (s.dropRep p) p) := by
      have hhome : p.home s c = true := decide_eq_true hlaunch
      cases hwake : p.wake with
      | true =>
        have hx : exec (.wakeUp r) s = execWakeUp r s := rfl
        rw [if_pos rfl, hx, execWakeUp, hfind]
        simp [hiss, hwake, hdivert hwake, hhome, hpre, hstop]
      | false =>
        have hx : exec (.mortarReply r) s = execMortarReply r s := rfl
        rw [if_neg Bool.false_ne_true, hx, execMortarReply, hfind]
        simp only [hiss]
        exact whenever_true (by simp [hwake, hpre, hhome, hstop])
    subst hid
    have hcomplete := completeMortar_waiting (s := s.dropRep p) hiss hwait hrun hpkg
    let u := acquireReply (flagReply (s.dropRep p) c n p) c p
    have hmem : u.mem = s.mem := acquireReply_mem.trans flagReply_mem
    obtain ⟨hframe, hpc⟩ := flagReply_strand (s := s.dropRep p) (c := c) (n := n) (p := p)
    have hstrand : u.strand c n = (flagReply (s.dropRep p) c n p).strand c n := acquireReply_strand
    refine ⟨_, hexec, fun hcause => ?_, fun hcause hop hzero => ?_, fun hcause hop => ?_, fun hcause hzero => ?_⟩
    · rw [hcomplete, if_neg (not_not_intro hcause), State.strand_modStrand_same]
      refine ⟨?_, rfl⟩
      rw [writeMortar_pc, acquireReply_strand, hpc]
      rfl
    · rw [hcomplete, if_neg (not_not_intro hcause), writeMortar_image hop hzero, State.strand_modStrand_same]
      refine ⟨hmem, ?_⟩
      rw [State.strand_modStrand_same]
      exact Table.get_set_same ..
    · have hwords := writeMortar_words (u := u) (c := c) (n := n) (d := d) (v := v) hop hstatus
      have hat : regAddr c (u.strand c n).frame d = at_ := by rw [hstrand, hframe]; rfl
      rw [hat] at hwords
      rw [hcomplete, if_neg (not_not_intro hcause)]
      obtain ⟨hfirst, hsecond, hthird, hother⟩ := hwords
      exact ⟨hfirst, hsecond, hthird, fun x hx => (hother x hx).trans (congrArg (Memory.get · x) hmem)⟩
    · rw [hcomplete, if_pos hcause, flagReply, if_neg (by omega)]
      rfl
  · intro s r q hreq hop hready u v o hadmit hpoison htype hfree
    have hexec : exec (.condReacquire r) s = execCondReacquire r s := rfl
    rw [hexec, execCondReacquire, hreq]
    refine (whenever_true hready).trans (congrArg _ ?_)
    refine atHome_passes (m := okay _ _ 0) (.inr hadmit) (.inr hpoison) ?_ (lockAcquire_free hfree)
    rintro ⟨-, h⟩
    change objType o = 0 ∨ 5 < objType o ∨ 3 ≠ 0 ∧ objType o ≠ 3 at h
    omega
  · intro hfind hnew hfrom hordered u hlink
    have hexec := execRemoteMortar_eq hfind hnew hfrom hordered hlink
    have hscope (h : q.frees = true ∨ u.admits q.line q.scope q.party = true) : (!q.frees && !u.admits q.line q.scope q.party) = false := by
      obtain h | h := h <;> simp [h]
    refine ⟨fun hport hadmit hlacks => ?_, fun hport hadmit hlacks => ?_, fun hport => ?_⟩
    all_goals rw [hexec, arriveRemote]
    · simp [hport, hscope hadmit, hlacks, u]
    · simp [hport, hscope hadmit, hlacks, u]
    · simp [hport, u]

end Sys2Proof.Machine
end

section
/-! PROOFS. Copy instructions and the steps of a copy engine (chapters 6 and 12). -/

open Sys2Proof

namespace Sys2Proof.Machine

/-! ### Copy instructions -/

section Instructions

variable {s t : State} {c n op : Nat} {g k : Fin 8} {a d : Fin 32} {accepted full : Nat → Nat → State → State}

/-- The state in which a copy instruction meets its queue: its registers have been read. -/
def copyRead (s : State) (a : Nat) : State := s.correctRegs [a, a + 1, a + 2, a + 3]
/-- A release fence before the request is complete when the request is accepted (R228). -/
def copyReleased (t : State) (c n : Nat) : State := releaseRemote t c n (t.strand c n).relMark (t.strand c n).relSys

theorem State.strandReady.copyForm (h : s.strandReady c n g [a, a.val + 1, a.val + 2, a.val + 3] [d]) :
    copyForm g op a accepted full s = .next
      (let t := copyRead s a
       match copyRefused t c op (t.strand c n).audit (t.w a) (t.w (a.val + 2)) (t.w (a.val + 3)) with
       | some cause => t.trap cause 0 0
       | none =>
         if 2 ≤ (t.core c).copy.q.length then full c n t
         else if !performedBelow t c n (t.strand c n).relMark then t
         else
           let u := copyReleased t c n
           (accepted c n (queueCopy u c n (u.w a) (u.w (a.val + 1)) (u.w (a.val + 2)) (u.w (a.val + 3)))).advance 4) := by
  rw [Machine.copyForm, (h.mono (fun _ hr => hr) (List.nil_subset _)).memOp]
  rfl

/-- With room in the queue and the strand's earlier accesses performed, an accepted request is queued. -/
theorem State.strandReady.copyForm_room (h : s.strandReady c n g [a, a.val + 1, a.val + 2, a.val + 3] [d])
    (hroom : ((copyRead s a).core c).copy.q.length < 2)
    (hdone : performedBelow (copyRead s a) c n ((copyRead s a).strand c n).relMark = true)
    (haccept : copyRefused (copyRead s a) c op ((copyRead s a).strand c n).audit ((copyRead s a).w a) ((copyRead s a).w (a.val + 2))
      ((copyRead s a).w (a.val + 3)) = none) :
    Machine.copyForm g op a accepted full s = .next
      (let u := copyReleased (copyRead s a) c n
       (accepted c n (queueCopy u c n (u.w a) (u.w (a.val + 1)) (u.w (a.val + 2)) (u.w (a.val + 3)))).advance 4) := by
  rw [h.copyForm]
  simp only [haccept, hdone]
  rw [if_neg (Nat.not_le.2 hroom)]
  rfl

/-- With the queue full, an accepted request does what its instruction says. -/
theorem State.strandReady.copyForm_full (h : s.strandReady c n g [a, a.val + 1, a.val + 2, a.val + 3] [d])
    (hfull : 2 ≤ ((copyRead s a).core c).copy.q.length)
    (haccept : copyRefused (copyRead s a) c op ((copyRead s a).strand c n).audit ((copyRead s a).w a) ((copyRead s a).w (a.val + 2))
      ((copyRead s a).w (a.val + 3)) = none) :
    Machine.copyForm g op a accepted full s = .next (full c n (copyRead s a)) := by
  rw [h.copyForm]
  simp only [haccept]
  rw [if_pos hfull]

variable (g k d a)

theorem exec_cpy (s : State) : exec (.cpy g a) s = copyForm g 1 a (fun _ _ s => s) (fun _ _ s => s) s := rfl
theorem exec_cpx (s : State) : exec (.cpx g a) s = copyForm g 2 a (fun _ _ s => s) (fun _ _ s => s) s := rfl
theorem exec_cpynb (s : State) :
    exec (.cpynb g k a) s = copyForm g 1 a (fun _ _ s => s.setK k 0) (fun _ _ s => (s.setK k 1).advance 4) s := rfl
theorem exec_cpq (d : Fin 32) (s : State) :
    exec (.cpq g d) s = strandOp g 4 [] [d.val] (fun c _ s => .ok (s.setW d (copyStatus (s.core c).copy))) s := rfl
theorem exec_cpqTag (d a : Fin 32) (s : State) : exec (.cpqTag g d a) s = strandOp g 4 [a.val] [d.val] (fun c _ s =>
    .ok ((s.setW d (if (s.core c).copy.aborts.getLsbD ((s.w a).toNat % 256) then 1 else 0)).modCore c (fun k =>
      { k with copy := { (s.core c).copy with
        aborts := (s.core c).copy.aborts &&& ~~~(BitVec.ofNat 256 (2 ^ ((s.w a).toNat % 256))) } }))) s := rfl

end Instructions

/-- Settles O23: with room a request is queued, with a full queue it waits or, for CPYNB, answers 1. -/
theorem copyInstructions : Obligations.CopyInstructions := by
  intro s c n g k d a h t u v tag accepts queued
  refine ⟨fun hroom hdone => ⟨fun hok => ?_, fun hok => ?_, fun hok => ?_⟩, fun hfull => ⟨fun hok => ?_, fun hok => ?_, fun hok => ?_⟩, ?_, ?_⟩
  · exact (exec_cpy g a s).trans (h.copyForm_room hroom hdone hok)
  · exact (exec_cpynb g k a s).trans (h.copyForm_room hroom hdone hok)
  · exact (exec_cpx g a s).trans (h.copyForm_room hroom hdone hok)
  · exact (exec_cpynb g k a s).trans (h.copyForm_full hfull hok)
  · exact (exec_cpy g a s).trans (h.copyForm_full hfull hok)
  · exact (exec_cpx g a s).trans (h.copyForm_full hfull hok)
  · exact (exec_cpq g d s).trans ((h.mono (List.nil_subset _) (fun _ hr => hr)).strandOp_noReads rfl)
  · have hread : [a.val] ⊆ [a.val, a.val + 1, a.val + 2, a.val + 3] := List.cons_subset_cons _ (List.nil_subset _)
    exact (exec_cpqTag g d a s).trans ((h.mono hread (fun _ hr => hr)).strandOp_ok rfl)

/-! ### Memory that a list of bytes is written to -/

theorem Memory.writeBytes_append (l l' : List Byte) : ∀ (m : List Host.Cell) (a : Nat),
    Memory.writeBytes m a (l ++ l') = Memory.writeBytes (Memory.writeBytes m a l) (a + l.length) l' := by
  induction l with
  | nil => exact fun _ _ => rfl
  | cons b l ih =>
    intro m a
    rw [List.cons_append, Memory.writeBytes, ih, Memory.writeBytes, List.length_cons, Nat.add_right_comm, Nat.add_assoc]

theorem Memory.writeN_ofBytesLE (l : List Byte) : ∀ (m : List Host.Cell) (a : Nat),
    Memory.writeN m a l.length (ofBytesLE l) = Memory.writeBytes m a l := by
  induction l with
  | nil => exact fun _ _ => rfl
  | cons b l ih =>
    intro m a
    have hb := b.isLt
    have hlow : (b.toNat + 256 * ofBytesLE l) % 256 = b.toNat := by omega
    have hhigh : (b.toNat + 256 * ofBytesLE l) / 256 = ofBytesLE l := by omega
    rw [List.length_cons, ofBytesLE, Memory.writeN, hlow, hhigh, ih, Memory.writeBytes, BitVec.ofNat_toNat, BitVec.setWidth_eq]

theorem Memory.bytes_writeBytes (l : List Byte) : ∀ (m : List Host.Cell) (a : Nat),
    Memory.bytes (Memory.writeBytes m a l) a l.length = l := by
  induction l with
  | nil => exact fun _ _ => rfl
  | cons b l ih =>
    intro m a
    rw [List.length_cons, Memory.writeBytes, Memory.bytes, ih, Memory.get_writeBytes_other l (a + 1) a (by omega), Memory.get_set_same]

/-! ### Bursts to HBM of the own package -/

section Bursts

variable {s : State} {a : Agent} {p : Place53} {l : List Byte}

/-- A byte of HBM of a package lies in no scratchpad and in no register range. -/
theorem hbm_of_between {pa last at_ : Nat} (hlast : isHbm last = true) (hpkg : paPkg pa = paPkg last) (hpa : pa < 2 ^ 53) (hlow : pa ≤ at_)
    (hhigh : at_ ≤ last) : isHbm at_ = true ∧ paPkg at_ = paPkg last ∧ at_ < 2 ^ 53 := by
  rw [isHbm, decide_eq_true_eq] at hlast ⊢
  simp only [paLocal, paPkg] at hlast hpkg ⊢
  have hat : at_ / 2 ^ 39 = last / 2 ^ 39 := by omega
  refine ⟨?_, hat, ?_⟩
  · omega
  · omega

theorem inPad_of_hbm {pa : Nat} (h : isHbm pa = true) (hpa : pa < 2 ^ 53) : inPad pa = false := by
  simp only [inPad, isPad, isHbm, decide_eq_true_eq, Bool.or_eq_false_iff, decide_eq_false_iff_not] at *
  omega
theorem inControl_of_hbm {pa : Nat} (h : isHbm pa = true) : inControl pa = false := by
  simp only [inControl, isHbm, decide_eq_true_eq, decide_eq_false_iff_not] at *
  omega

/-- A plain write to HBM of the own package, outside a replay, is performed at once. -/
theorem farWrite_hbm (n v : Nat) (hreplay : (s.core a.core).replay = none) (hown : paPkg p.pa = corePkg a.core) (hhbm : isHbm p.pa = true)
    (hpa : p.pa < 2 ^ 53) :
    farWrite s a p n v = ((reachHbm s (attrFO p.attr) a.dom p.pa n true).write p.pa n v, none) := by
  have hplace : ownPlace a.core p.pa = true := by simp [ownPlace, hown]
  rw [farWrite]
  simp only [hreplay, hplace, localWrite, inPad_of_hbm hhbm hpa, inControl_of_hbm hhbm]
  rfl

theorem Background.replay {t : State} (h : Background s t) (c : Nat) : (t.core c).replay = (s.core c).replay := by
  obtain ⟨tlb, hc⟩ := h.core c
  rw [hc]

/-- A burst to HBM of the own package writes its bytes there. -/
theorem burstWrite_hbm (fuel : Nat) : ∀ (s : State) (p : Place53) (l : List Byte), (s.core a.core).replay = none →
    paPkg p.pa = corePkg a.core → paPkg (p.pa + l.length) = corePkg a.core → isHbm (p.pa + l.length) = true → p.pa < 2 ^ 53 →
    l.length = 0 ∨ p.pa % 64 + l.length ≤ 64 * fuel →
    (burstWrite s a fuel p l).2 = none ∧ (burstWrite s a fuel p l).1.mem = Memory.writeBytes s.mem p.pa l := by
  induction fuel with
  | zero =>
    intro s p l _ _ _ _ _ hfuel
    obtain rfl : l = [] := List.eq_nil_of_length_eq_zero (by omega)
    exact ⟨rfl, rfl⟩
  | succ fuel ih =>
    intro s p l hreplay hown hend hhbm hpa hfuel
    rw [burstWrite]
    obtain hnil | hcons := List.eq_nil_or_concat' l |>.imp id (fun h => (by rintro rfl; obtain ⟨_, _, h⟩ := h; simp at h : l ≠ []))
    · subst hnil
      exact ⟨rfl, rfl⟩
    · have hlen : 0 < l.length := List.length_pos_of_ne_nil hcons
      obtain ⟨hstart, -, -⟩ := hbm_of_between hhbm (hown.trans hend.symm) hpa (Nat.le_refl p.pa) (Nat.le_add_right _ _)
      have hk : Nat.min l.length (64 - p.pa % 64) ≤ l.length := Nat.min_le_left ..
      have hstep : l.length ≤ Nat.min l.length (64 - p.pa % 64) ∨ (p.pa + Nat.min l.length (64 - p.pa % 64)) % 64 = 0 := by
        rcases Nat.le_total l.length (64 - p.pa % 64) with h | h
        · exact .inl (Nat.le_of_eq (Nat.min_eq_left h).symm)
        · right
          rw [show Nat.min l.length (64 - p.pa % 64) = 64 - p.pa % 64 from Nat.min_eq_right h]
          omega
      have hpos : 0 < Nat.min l.length (64 - p.pa % 64) ∧ (p.pa % 64 + Nat.min l.length (64 - p.pa % 64) = 64 ∨
          Nat.min l.length (64 - p.pa % 64) = l.length) := by
        rcases Nat.le_total l.length (64 - p.pa % 64) with h | h
        · rw [show Nat.min l.length (64 - p.pa % 64) = l.length from Nat.min_eq_left h]
          omega
        · rw [show Nat.min l.length (64 - p.pa % 64) = 64 - p.pa % 64 from Nat.min_eq_right h]
          omega
      revert hk hstep hpos
      generalize Nat.min l.length (64 - p.pa % 64) = k
      intro hk hstep hpos
      obtain ⟨-, hnext, hsmall⟩ := hbm_of_between (at_ := p.pa + k) hhbm (hown.trans hend.symm) hpa (by omega) (by omega)
      have hreach := Background.reachHbm (s := s) (attrFO p.attr) a.dom p.pa k true
      have htake : (l.take k).length = k := List.length_take_of_le hk
      have hdrop : (l.drop k).length = l.length - k := List.length_drop ..
      have hrest : p.pa + k + (l.length - k) = p.pa + l.length := by omega
      simp only [List.isEmpty_iff, hcons, if_false, farWrite_hbm k _ hreplay hown hstart hpa]
      obtain ⟨hok, hmem⟩ := ih ((reachHbm s (attrFO p.attr) a.dom p.pa k true).write p.pa k (ofBytesLE (l.take k))) { p with pa := p.pa + k }
        (l.drop k) ((hreach.replay a.core).trans hreplay) (hnext.trans hend) (by rw [hdrop]; exact hrest ▸ hend) (by rw [hdrop]; exact hrest ▸ hhbm)
        hsmall (by rw [hdrop]; dsimp only; omega)
      refine ⟨hok, hmem.trans ?_⟩
      rw [State.write_mem, hreach.mem]
      have hsplit := Memory.writeBytes_append (l.take k) (l.drop k) s.mem p.pa
      rw [List.take_append_drop, htake, ← Memory.writeN_ofBytesLE (l.take k), htake] at hsplit
      exact hsplit.symm

end Bursts

/-! ### The engine -/

section Engine

variable {s : State} {c : Nat} {q : CopyReq}

theorem execCopyBurst_running (hq : s.activeCopy c = some q) (hrun : q.phase = .running) (hlive : q.paused = false) (hkept : q.aborted = false)
    (hhome : q.inflight = 0) : exec (.copyBurst c) s = .next
      (if q.isExchange then (if q.paired then exchangeOut s c q else s)
      else
        match q.plan s c with
        | .error _ => s
        | .ok p =>
          match q.buf with
          | some l => burstOut s c q p l
          | none => if q.cursor < q.len then burstIn s c q p else s) := by
  have hexec : exec (.copyBurst c) s = execCopyBurst c s := rfl
  rw [hexec, execCopyBurst, hq]
  exact whenever_true (by simp [hrun, hlive, hkept, hhome])

theorem execCopyBurst_reads {p : CopyPlan} (hq : s.activeCopy c = some q) (hrun : q.phase = .running) (hlive : q.paused = false)
    (hkept : q.aborted = false) (hhome : q.inflight = 0) (hcopy : q.isExchange = false) (hplan : q.plan s c = .ok p) (hbuf : q.buf = none)
    (hleft : q.cursor < q.len) : exec (.copyBurst c) s = .next (burstIn s c q p) := by
  rw [execCopyBurst_running hq hrun hlive hkept hhome]
  simp [hcopy, hplan, hbuf, hleft]

/-- A burst that is read and written at the engine's own package. -/
theorem burstIn_own {p : CopyPlan} {s1 s2 s3 s4 : State} {pl pd : Place53} {data out : List Byte} (hfrom : q.fromHost = false)
    (hsrc : translateFor s c (s.core c).domain ((fieldOf q.w1 55 0 + q.cursor) % 2 ^ 56) .load = (s1, .ok pl)) (hown : ownPlace c pl.pa = true)
    (hfo : foOpen s1 (s.core c).domain pl = true) (hpass : burstRefused s1 (s.agent c) pl.pa (burstLen q p) false = none)
    (hread : burstRead s1 (s.agent c) 70 pl (burstLen q p) = (s2, .ok data)) (hconv : p.apply s2 c data = some out)
    (hdst : translateFor s2 c (s2.core c).domain ((fieldOf q.w2 55 0 + q.cursor / p.sizes.1 * p.sizes.2) % 2 ^ 56) .store = (s3, .ok pd))
    (hown' : ownPlace c pd.pa = true) (hfo' : foOpen s3 (s2.core c).domain pd = true) (hheld : burstHeld s3 pd out = false)
    (hpass' : burstRefused s3 (s2.agent c) pd.pa out.length true = none) (hwrite : burstWrite s3 (s2.agent c) 70 pd out = (s4, none)) :
    burstIn s c q p = s4.setCopy c { q with buf := none, cursor := q.cursor + data.length, written := q.written + out.length } := by
  have hagent (s : State) : (s.agent c).dom = (s.core c).domain := rfl
  unfold burstIn
  simp only [hfrom, hagent, hsrc, hown, hfo, hpass, hread, Bool.not_true, Bool.and_false, Bool.false_and, Bool.false_eq_true, if_false]
  unfold burstOut
  simp only [hconv, hagent, hdst, hown', hfo', hheld, hpass', hwrite, Bool.not_true, Bool.and_false, Bool.false_and, Bool.or_false,
    Bool.false_eq_true, if_false]

/-- Two exchanges that match become a pair. -/
theorem execCpxPairing_pairs {r : CopyReq} (hq : s.activeCopy c = some q) (hrun : q.phase = .running) (hlive : q.paused = false)
    (hkept : q.aborted = false) (hex : q.isExchange = true) (hnew : q.paired = false)
    (hfeature : s.lacks (corePkg c) (corePkg (partnerOf c q.w2)) 7 = false)
    (hwithin : exWithin q.w2 = true → sameArea s c (partnerOf c q.w2) = true)
    (hacross : exWithin q.w2 = false → (Table.get [] (s.die (dieKey c)).pkgset (s.core c).domain).contains (corePkg (partnerOf c q.w2)) = true)
    (hended : (s.core (partnerOf c q.w2)).copy.ended = []) (hr : s.activeCopy (partnerOf c q.w2) = some r) (hrex : r.isExchange = true)
    (hrrun : r.phase = .running) (hord : r.ordinal = q.ordinal) (hback : partnerOf (partnerOf c q.w2) r.w2 = c) (hrnew : r.paired = false)
    (hrlive : r.paused = false) (hrkept : r.aborted = false) (hmatch : matching c (partnerOf c q.w2) q r = true) :
    exec (.cpxPairing c) s = .next ((s.setCopy c { q with paired := true }).setCopy (partnerOf c q.w2) { r with paired := true }) := by
  have hexec : exec (.cpxPairing c) s = execCpxPairing c s := rfl
  rw [hexec, execCpxPairing, hq]
  refine (whenever_true (by simp [hex, hrun, hnew, hlive, hkept])).trans (congrArg _ ?_)
  have hthere : (if exWithin q.w2 then sameArea s c (partnerOf c q.w2)
      else (Table.get [] (s.die (dieKey c)).pkgset (s.core c).domain).contains (corePkg (partnerOf c q.w2))) = true := by
    split
    · next h => exact hwithin h
    · next h => exact hacross (Bool.not_eq_true _ ▸ h)
  simp only [hthere, hfeature, hended, hr]
  simp [hrex, hrrun, hord, hback, hrnew, hrlive, hrkept, hmatch]

theorem matching_of_eq {p : Nat} {r : CopyReq} (hw2 : q.w2 = r.w2) (hlen : q.len = r.len)
    (hwithin : exWithin q.w2 = true → fieldOf q.w1 55 0 + coreIdx p * 0x80000 = fieldOf r.w1 55 0 + coreIdx c * 0x80000)
    (hacross : exWithin q.w2 = false → fieldOf q.w1 55 0 = fieldOf r.w1 55 0) : matching c p q r = true := by
  rw [matching, Bool.and_eq_true]
  refine ⟨decide_eq_true ⟨hw2, hlen⟩, ?_⟩
  split
  · next h => exact decide_eq_true (hwithin h)
  · next h => exact decide_eq_true (hacross (Bool.not_eq_true _ ▸ h))

theorem execCopyComplete_finished (hq : s.activeCopy c = some q) (hrun : q.phase = .running) (hfin : q.finished c = true) :
    exec (.copyComplete c) s = .next (if (s.core c).replay.isSome then popCopy (recordCopy s c q) c
      else if bit (cmodeOf q.w0) 0 then copyArrive (recordCopy s c q) c q else afterArrive (recordCopy s c q) c q) := by
  have hexec : exec (.copyComplete c) s = execCopyComplete c s := rfl
  have hreplay : ((recordCopy s c q).core c).replay = (s.core c).replay := by
    rw [recordCopy, State.modCopy, State.core_modCore_same]
  rw [hexec, execCopyComplete, hq]
  simp only [hrun]
  refine (whenever_true hfin).trans ?_
  simp only [hreplay]

end Engine

/-- The steps on the request at the head of a core's queue. -/
theorem execCopySteps (s : State) (c : Nat) (q : CopyReq) (hq : s.activeCopy c = some q) :
    (q.phase = .queued → performedBelow s c q.strand q.mark = true → q.clear s c = true →
      let r := { q with phase := .running }
      let u := s.setCopy c r
      (activationRefused u c r = none → exec (.copyActivate c) s = .next u) ∧
      (∀ cause, activationRefused u c r = some cause →
        exec (.copyActivate c) s = .next (abortCopy (reportCopy u c r cause 0 0 (fieldOf r.w1 55 0)) c r))) ∧
    (q.phase = .messaging → 0 < (s.core c).copy.allow →
      exec (.copyCompletionMessage c) s = .next (popCopy ((s.modCopy c (fun e => { e with allow := e.allow - 1 })).post c 0 (copyMessage c q)
        (some (.copy c q.strand)) false none 0 0) c)) := by
  constructor
  · intro hphase hdone hclear r u
    have hexec : exec (.copyActivate c) s = execCopyActivate c s := rfl
    rw [hexec, execCopyActivate, hq]
    refine ⟨fun h => ?_, fun cause h => ?_⟩
    · refine (whenever_true (by simp [hphase, hdone, hclear])).trans (congrArg _ ?_)
      simp only [show activationRefused (s.setCopy c { q with phase := .running }) c { q with phase := .running } = none from h, r, u]
    · refine (whenever_true (by simp [hphase, hdone, hclear])).trans (congrArg _ ?_)
      simp only [show activationRefused (s.setCopy c { q with phase := .running }) c { q with phase := .running } = some cause from h, r, u]
  · intro hphase hallow
    have hexec : exec (.copyCompletionMessage c) s = execCopyCompletionMessage c s := rfl
    rw [hexec, execCopyCompletionMessage, hq]
    exact whenever_true (by simp [hphase, hallow])

/-- A packet of the foreman for a copy engine. -/
theorem execCopyPackets (s : State) (r : Nat) (p : Packet) (hp : s.packet? r = some p) (hsfn : p.sfn = 0x19) (hkind : fieldOf p.target 39 36 = 1) :
    (∀ c q, pausedCopy s p = some (c, q) →
      (p.action = 0 → exec (.copyResume r) s = .next (ackPacket (s.setCopy c { q with paused := false }) p 0)) ∧
      (p.action = 1 → exec (.copyAbort r) s = .next (ackPacket (abortCopy s c q) p 0))) ∧
    (pausedCopy s p = none →
      (p.action = 0 → exec (.copyResume r) s = .next (ackPacket s p 1)) ∧ (p.action = 1 → exec (.copyAbort r) s = .next (ackPacket s p 1))) := by
  have hresume (h : p.action = 0) : exec (.copyResume r) s = .next (match pausedCopy s p with
      | none => ackPacket s p 1
      | some (c, q) => ackPacket (s.setCopy c { q with paused := false }) p 0) := by
    have hexec : exec (.copyResume r) s = execCopyResume r s := rfl
    rw [hexec, execCopyResume, hp]
    exact whenever_true (by simp [forCopy, hsfn, hkind, h])
  have habort (h : p.action = 1) : exec (.copyAbort r) s = .next (match pausedCopy s p with
      | none => ackPacket s p 1
      | some (c, q) => ackPacket (abortCopy s c q) p 0) := by
    have hexec : exec (.copyAbort r) s = execCopyAbort r s := rfl
    rw [hexec, execCopyAbort, hp]
    exact whenever_true (by simp [forCopy, hsfn, hkind, h])
  refine ⟨fun c q hpaused => ⟨fun h => ?_, fun h => ?_⟩, fun hpaused => ⟨fun h => ?_, fun h => ?_⟩⟩
  · rw [hresume h, hpaused]
  · rw [habort h, hpaused]
  · rw [hresume h, hpaused]
  · rw [habort h, hpaused]

/-- Settles O24: the engine's functions behind each step, the bytes of a burst, and what a completion records. -/
theorem copyEngineSteps : Obligations.CopyEngineSteps := by
  refine ⟨⟨fun s c q hq => ⟨(execCopySteps s c q hq).1, fun hrun hlive hkept hhome => ⟨?_, ?_, ?_, ?_⟩, fun hrun hfin hreplay => ?_,
    fun hrun hfin hreplay => ?_, (execCopySteps s c q hq).2⟩, execCopyPackets⟩, ?_, ?_⟩
  · intro p hcopy hplan hbuf hleft
    exact execCopyBurst_reads hq hrun hlive hkept hhome hcopy hplan hbuf hleft
  · intro hex hpaired
    rw [execCopyBurst_running hq hrun hlive hkept hhome]
    simp [hex, hpaired]
  · intro p s1 s2 s3 s4 pl pd data out hcopy hplan hbuf hleft hfrom src dst hsrc hown hfo hpass hread hconv hdst hown' hfo' hheld hpass' hwrite
    rw [execCopyBurst_reads hq hrun hlive hkept hhome hcopy hplan hbuf hleft,
      burstIn_own hfrom hsrc hown hfo hpass hread hconv hdst hown' hfo' hheld hpass' hwrite]
  · intro r hex hnew hfeature hwithin hacross hended hr hrex hrrun hord hback hrnew hrlive hrkept hw2 hlen hva hva'
    exact execCpxPairing_pairs hq hrun hlive hkept hex hnew hfeature hwithin hacross hended hr hrex hrrun hord hback hrnew hrlive hrkept
      (matching_of_eq hw2 hlen hva hva')
  · rw [execCopyComplete_finished hq hrun hfin, if_pos (Option.isSome_iff_ne_none.2 hreplay)]
  · rw [execCopyComplete_finished hq hrun hfin, hreplay]
    rfl
  · intro s a p l hhbm hhbm' hreplay hown hend hpa hlen
    obtain ⟨hok, hmem⟩ := burstWrite_hbm (a := a) 70 s p l hreplay hown hend hhbm' hpa (.inr (by omega))
    refine ⟨hok, ?_, fun x hx => ?_⟩
    · rw [State.readBytes, hmem, Memory.bytes_writeBytes]
    · rw [State.byteAt, hmem, Memory.get_writeBytes_other l p.pa x hx]
      rfl
  · intro s c q e f
    have hf : f = _ := congrArg Core.copy (State.core_modCore_same s c _)
    refine ⟨by rw [hf], by rw [hf], by rw [hf], fun i hi => ?_⟩
    rw [show f.aborts = if q.aborted then e.aborts ||| BitVec.ofNat 256 (2 ^ q.tag) else e.aborts by rw [hf]]
    cases h : q.aborted with
    | false => simp
    | true => simp only [if_true, Bool.true_and, BitVec.getLsbD_or, BitVec.getLsbD_ofNat, Nat.testBit_two_pow, hi, decide_true, eq_comm]

end Sys2Proof.Machine
end

section
/-! PROOFS. Vector instructions that stay in registers (chapters 9 and 14). -/

open Sys2Proof

namespace Sys2Proof.Machine

/-! ### The strand that executes -/

section Strands

variable {s : State} {c n d r len : Nat}

theorem State.strand_modMe (h : s.cur = .strand c n) (f : Strand → Strand) : (s.modMe f).strand c n = f (s.strand c n) := by
  rw [State.modMe, h]
  exact State.strand_modStrand_same ..
theorem State.modMe_cur (f : Strand → Strand) : (s.modMe f).cur = s.cur := rfl
theorem State.modMe_mem (f : Strand → Strand) : (s.modMe f).mem = s.mem := rfl

theorem State.advance_strand (h : s.cur = .strand c n) :
    s.advance len = s.modMe (fun t => { t with pc := s.pc + word len, imx := [], wait := .none, deadline := none }) := by
  rw [State.advance, State.jump_strand h, State.modMe, h]
  rfl
theorem State.pc_of_strand (h : s.cur = .strand c n) : s.pc = (s.strand c n).pc := by rw [State.pc, h]
theorem State.advance_mem (h : s.cur = .strand c n) : (s.advance len).mem = s.mem := by rw [State.advance_strand h, State.modMe_mem]
theorem State.advance_pc (h : s.cur = .strand c n) : ((s.advance len).strand c n).pc = s.pc + word len := by
  rw [State.advance_strand h, State.strand_modMe h]
theorem State.k_advance (h : s.cur = .strand c n) : (s.advance len).k r = s.k r := by
  rw [State.advance_strand h, State.k, State.me_modMe]
  rfl
theorem State.v_advance (h : s.cur = .strand c n) : (s.advance len).v r = s.v r := by
  rw [State.advance_strand h, State.v, State.me_modMe]
  rfl
theorem State.k_orFlags (f : Nat) : (s.orFlags f).k r = s.k r := by
  rw [State.orFlags, State.k, State.me_modMe]
  rfl
theorem State.v_orFlags (f : Nat) : (s.orFlags f).v r = s.v r := by
  rw [State.orFlags, State.v, State.me_modMe]
  rfl

/-- An instruction that writes a v register and flags retires with PC past its bytes. -/
theorem State.setV_retires (h : s.cur = .strand c n) (x : VWord) (f : Nat) :
    ((((s.setV d x).orFlags f).advance 4).strand c n).pc = (s.strand c n).pc + 4 := by
  have hcur : ((s.setV d x).orFlags f).cur = .strand c n := h
  rw [State.advance_pc hcur, State.pc_of_strand hcur, State.orFlags, State.strand_modMe (s := s.setV d x) h, State.setV, State.strand_modMe h]
  rfl
/-- An instruction that writes a k register and flags retires with PC past its bytes. -/
theorem State.setK_retires (h : s.cur = .strand c n) (x : Word) (f : Nat) :
    ((((s.setK d x).orFlags f).advance 4).strand c n).pc = (s.strand c n).pc + 4 := by
  have hmask (t : Strand) : (t.setMask d x).pc = t.pc := by
    rw [Strand.setMask]
    split <;> rfl
  have hcur : ((s.setK d x).orFlags f).cur = .strand c n := h
  rw [State.advance_pc hcur, State.pc_of_strand hcur, State.orFlags, State.strand_modMe (s := s.setK d x) h, State.setK, State.strand_modMe h]
  exact congrArg (· + word 4) (hmask _)
theorem State.k_setK_retired (h : s.cur = .strand c n) (x : Word) (f : Nat) :
    (((s.setK d x).orFlags f).advance len).k d = if d = 0 then BitVec.allOnes 64 else x := by
  have hcur : ((s.setK d x).orFlags f).cur = .strand c n := h
  rw [State.k_advance hcur, State.k_orFlags, State.k_setK]
theorem State.v_setV_retired (h : s.cur = .strand c n) (x : VWord) (f : Nat) : (((s.setV d x).orFlags f).advance len).v d = x := by
  have hcur : ((s.setV d x).orFlags f).cur = .strand c n := h
  rw [State.v_advance hcur, State.v_orFlags, State.v_setV]

end Strands

/-! ### Lanes -/

section Lanes

variable {l : List Nat} {e : Nat}

/-- The number that a list of lanes makes. -/
def lanesNat (e : Nat) (l : List Nat) : Nat := l.foldr (fun x acc => x % 2 ^ (8 * e) + 2 ^ (8 * e) * acc) 0

theorem lanesNat_lt (l : List Nat) : lanesNat e l < 2 ^ (8 * e * l.length) := by
  induction l with
  | nil => exact Nat.one_pos
  | cons x l ih =>
    have hx : x % 2 ^ (8 * e) < 2 ^ (8 * e) := Nat.mod_lt _ (Nat.two_pow_pos _)
    rw [List.length_cons, Nat.mul_succ, Nat.add_comm, Nat.pow_add]
    have hmul : 2 ^ (8 * e) * (lanesNat e l + 1) ≤ 2 ^ (8 * e) * 2 ^ (8 * e * l.length) := Nat.mul_le_mul_left _ ih
    rw [Nat.mul_succ] at hmul
    exact Nat.lt_of_lt_of_le (by rw [lanesNat, List.foldr_cons, ← lanesNat]; omega) hmul

theorem lanesNat_lane (l : List Nat) : ∀ j, lanesNat e l / 2 ^ (8 * e * j) % 2 ^ (8 * e) = l.getD j 0 % 2 ^ (8 * e) := by
  induction l with
  | nil => simp [lanesNat]
  | cons x l ih =>
    have hstep : lanesNat e (x :: l) = x % 2 ^ (8 * e) + 2 ^ (8 * e) * lanesNat e l := rfl
    have hx : x % 2 ^ (8 * e) < 2 ^ (8 * e) := Nat.mod_lt _ (Nat.two_pow_pos _)
    intro j
    cases j with
    | zero => rw [hstep, Nat.mul_zero, Nat.pow_zero, Nat.div_one, Nat.add_mul_mod_self_left, Nat.mod_mod, List.getD_cons_zero]
    | succ j =>
      rw [hstep, Nat.mul_succ, Nat.add_comm (8 * e * j), Nat.pow_add, ← Nat.div_div_eq_div_mul, Nat.add_mul_div_left _ _ (Nat.two_pow_pos _),
        Nat.div_eq_of_lt hx, Nat.zero_add, ih, List.getD_cons_succ]

/-- A lane of a vector that is given by its lanes. -/
theorem lane_ofLanes (hfit : e * l.length ≤ 256) (j : Nat) : lane (ofLanes e l) e j = l.getD j 0 % 2 ^ (8 * e) := by
  have hlt : lanesNat e l < 2 ^ 2048 := Nat.lt_of_lt_of_le (lanesNat_lt l) (Nat.pow_le_pow_right (by decide) (by rw [Nat.mul_assoc]; omega))
  rw [lane, show (ofLanes e l).toNat = lanesNat e l % 2 ^ 2048 from BitVec.toNat_ofNat .., Nat.mod_eq_of_lt hlt, lanesNat_lane]

theorem lane_lt (v : VWord) (e j : Nat) : lane v e j < 2 ^ (8 * e) := Nat.mod_lt _ (Nat.two_pow_pos _)

theorem getD_map_range {f : Nat → Nat} {n j : Nat} (h : j < n) : ((List.range n).map f).getD j 0 = f j := by
  rw [List.getD_eq_getElem?_getD, List.getElem?_map, List.getElem?_range h]
  rfl

theorem lane_lanewise {t : Fmt} {old : VWord} {k : Word} {f : Nat → Nat × Nat} {j : Nat} (hfit : t.size * t.lanes = 256) (h : j < t.lanes) :
    lane (lanewise old t.size t.lanes k f).1 t.size j =
      if laneOn k t.size j = true then (f j).1 % 2 ^ (8 * t.size) else lane old t.size j := by
  rw [lanewise]
  simp only [List.map_map]
  rw [lane_ofLanes (by simp [hfit]), getD_map_range h, Function.comp_apply]
  split
  · rfl
  · exact Nat.mod_eq_of_lt (lane_lt ..)

end Lanes

/-! ### Forms of vector instructions -/

section Forms

variable {s : State} {c n len d a b : Nat} {g : Fin 8} {t : Fmt} {vs reads writes : List Nat}

/-- The result of an element-wise instruction: the lanes, their flags, and PC moves on. -/
def putLanes (s : State) (len : Nat) (t : Fmt) (d g : Nat) (f : Nat → Nat × Nat) : Result :=
  .next (((s.setV d (lanewise (s.v d) t.size t.lanes (s.k g) f).1).orFlags (lanewise (s.v d) t.size t.lanes (s.k g) f).2).advance len)

theorem vecBusy_of_ready (h : s.vectorsReady c n vs) : vecBusy s c n vs = false := by
  rw [vecBusy, List.any_eq_false]
  exact fun r hr => by simp [h r hr]
theorem State.vectorsReady.mono {vs' : List Nat} (h : s.vectorsReady c n vs) (hsub : vs' ⊆ vs) : s.vectorsReady c n vs' :=
  fun r hr => h r (hsub hr)

theorem vecForm_ready {k : Nat → Nat → State → State} (hcur : s.cur = .strand c n) (hvec : s.vectorsReady c n vs)
    (hwrites : s.waitsFor writes = false) (hreads : s.waitsFor reads = false) (hsound : s.badReg reads = none) :
    vecForm vs reads writes s k = .next (k c n (s.correctRegs reads)) := by
  rw [vecForm, onStrand_strand hcur, if_neg (by simp [vecBusy_of_ready hvec, hwrites]), needing_ready hreads hsound]

theorem State.waitsFor_nil : s.waitsFor [] = false := by
  rw [State.waitsFor]
  split <;> rfl
theorem State.badReg_nil : s.badReg [] = none := by
  rw [State.badReg]
  split <;> rfl

theorem vecForm_noRegs {k : Nat → Nat → State → State} (hcur : s.cur = .strand c n) (hvec : s.vectorsReady c n vs) :
    vecForm vs [] [] s k = .next (k c n s) := by
  rw [vecForm_ready hcur hvec State.waitsFor_nil State.waitsFor_nil State.badReg_nil, State.correctRegs_nil]

theorem laneOp_ready {f : State → Nat → Nat × Nat} (hcur : s.cur = .strand c n) (hvec : s.vectorsReady c n (d :: vs))
    (hreads : s.waitsFor reads = false) (hsound : s.badReg reads = none) :
    laneOp g len t d vs reads f s = putLanes (s.correctRegs reads) len t d g (f (s.correctRegs reads)) := by
  rw [laneOp, vecForm_ready hcur hvec State.waitsFor_nil hreads hsound]
  rfl
theorem laneOp_noRegs {f : State → Nat → Nat × Nat} (hcur : s.cur = .strand c n) (hvec : s.vectorsReady c n (d :: vs)) :
    laneOp g len t d vs [] f s = putLanes s len t d g (f s) := by
  rw [laneOp_ready hcur hvec State.waitsFor_nil State.badReg_nil, State.correctRegs_nil]

theorem vecRR_ready {f : State → Nat → Nat → Nat × Nat} (hcur : s.cur = .strand c n) (hvec : s.vectorsReady c n [d, a, b]) :
    vecRR g len t d a b f s = putLanes s len t d g (fun j => f s (lane (s.v a) t.size j) (lane (s.v b) t.size j)) :=
  laneOp_noRegs hcur hvec
theorem vecR_ready {f : State → Nat → Nat × Nat} (hcur : s.cur = .strand c n) (hvec : s.vectorsReady c n [d, a]) :
    vecR g len t d a f s = putLanes s len t d g (fun j => f s (lane (s.v a) t.size j)) :=
  laneOp_noRegs hcur hvec

theorem shiftLanes_ready (f : Nat → Nat → Nat → Nat) (hcur : s.cur = .strand c n) (hvec : s.vectorsReady c n [d, a, b]) :
    shiftLanes g t d a b f s = putLanes s 4 t d g (fun j =>
      (f (8 * t.size) (lane (s.v a) t.size j) (lane (s.v b) t.size j % (8 * t.size)), 0)) :=
  vecRR_ready (f := fun _ x y => (f (8 * t.size) x (y % (8 * t.size)), 0)) hcur hvec

/-- A lane of VFMA or VFMS. -/
def fmaLane (s : State) (t : Fmt) (d a b : Nat) (neg : Bool) (j : Nat) : Nat × Nat :=
  let x := (fpOf t).decode (lane (s.v a) t.size j)
  let r := fmaVal s.mode (if neg then x.flip else x) ((fpOf t).decode (lane (s.v b) t.size j)) ((fpOf t).decode (lane (s.v d) t.size j))
  let y := (fpOf t).rnd s.mode r.1
  (y.1, r.2 ||| y.2)

theorem roundedPair (r : Val × Nat) (round : Val → Nat × Nat) :
    (let (v, fl) := r; let (x, fl') := round v; (x, fl ||| fl')) = ((round r.1).1, r.2 ||| (round r.1).2) := rfl

theorem vecFma_ready {neg : Bool} (hcur : s.cur = .strand c n) (hvec : s.vectorsReady c n [d, a, b]) :
    vecFma g t d a b neg s = putLanes s 4 t d g (fmaLane s t d a b neg) := by
  rw [vecFma, laneOp_noRegs hcur hvec]
  refine congrArg (putLanes s 4 t d g) (funext fun j => ?_)
  exact roundedPair (fmaVal s.mode (if neg then ((fpOf t).decode (lane (s.v a) t.size j)).flip else (fpOf t).decode (lane (s.v a) t.size j))
    ((fpOf t).decode (lane (s.v b) t.size j)) ((fpOf t).decode (lane (s.v d) t.size j))) ((fpOf t).rnd s.mode)

end Forms

/-- Settles O25: each instruction is its form's lane function on the operands' lanes. -/
theorem vectorArithmetic : Obligations.VectorArithmetic := by
  intro s c n g t d a b p q hcur m put two one val w fma
  refine ⟨fun h => ?_, fun h => ?_⟩
  · have h2 : s.vectorsReady c n [d.val, a.val] := h.mono (by simp)

    exact ⟨vecRR_ready hcur h, vecRR_ready hcur h, vecRR_ready hcur h, vecFma_ready hcur h, vecFma_ready hcur h, vecRR_ready hcur h,
      vecRR_ready hcur h, vecRR_ready hcur h, vecR_ready hcur h2, vecR_ready hcur h2, vecR_ready hcur h2, vecR_ready hcur h2,
      vecR_ready hcur h2, vecR_ready hcur h2, vecR_ready hcur h2, vecR_ready (f := fun _ x => (x, 0)) hcur h2,
      vecRR_ready (f := fun _ x y => (x &&& y, 0)) hcur h, vecRR_ready (f := fun _ x y => (x ||| y, 0)) hcur h,
      vecRR_ready (f := fun _ x y => (x ^^^ y, 0)) hcur h, shiftLanes_ready (fun _ x k => x * 2 ^ k) hcur h,
      shiftLanes_ready (fun _ x k => x / 2 ^ k) hcur h, shiftLanes_ready (fun w x k => intBits w (signedOf w x / 2 ^ k)) hcur h,
      shiftLanes_ready (fun w x k => x * 2 ^ k % 2 ^ w + x / 2 ^ (w - k)) hcur h,
      vecRR_ready (f := fun s x y => complexMul s.mode x y none) hcur h, laneOp_noRegs (f := fun s j =>
        complexMul s.mode (lane (s.v a) 8 j) (lane (s.v b) 8 j) (some (lane (s.v d) 8 j))) hcur h⟩
  · have h1 : s.vectorsReady c n [p.val] := h.mono (by simp)
    have h3 : s.vectorsReady c n [p.val, p.val, q.val] := h.mono (by simp)
    exact ⟨vecRR_ready hcur h3, vecRR_ready hcur h3, vecRR_ready hcur h3, vecR_ready (f := fun _ x => (x, 0)) hcur h,
      laneOp_noRegs (f := fun _ _ => (0, 0)) hcur h1⟩

/-! ### Masks and tables of lanes -/

/-- The number whose bits a predicate gives. -/
def bitsWhere (p : Nat → Bool) (n : Nat) : Nat := (List.range n).foldl (fun x i => if p i then x + 2 ^ i else x) 0

theorem bitsWhere_succ (p : Nat → Bool) (n : Nat) : bitsWhere p (n + 1) = if p n then bitsWhere p n + 2 ^ n else bitsWhere p n := by
  rw [bitsWhere, List.range_succ, List.foldl_append]
  rfl
theorem bitsWhere_lt (p : Nat → Bool) (n : Nat) : bitsWhere p n < 2 ^ n := by
  induction n with
  | zero => exact Nat.one_pos
  | succ n ih =>
    rw [bitsWhere_succ, Nat.pow_succ]
    split <;> omega
theorem testBit_bitsWhere (p : Nat → Bool) (n i : Nat) (hi : i < n) : (bitsWhere p n).testBit i = p i := by
  induction n with
  | zero => omega
  | succ n ih =>
    have hlt := bitsWhere_lt p n
    rw [bitsWhere_succ]
    obtain hlast | hbelow := Nat.eq_or_lt_of_le (Nat.le_of_lt_succ hi)
    · subst hlast
      split
      · next h => rw [Nat.add_comm, Nat.testBit_two_pow_add_eq, Nat.testBit_lt_two_pow hlt, h]; rfl
      · next h => rw [Nat.testBit_lt_two_pow hlt, eq_false_of_ne_true h]
    · split
      · rw [Nat.add_comm, Nat.testBit_two_pow_add_gt hbelow, ih hbelow]
      · exact ih hbelow

/-- The code that VENC8 puts at a lane. -/
theorem find?_lane {α : Type} {l : List Nat} {base j : Nat} {f : Nat → α} :
    (l.map (fun j => (base + j, f j))).find? (fun e => decide (e.1 = base + j)) = if j ∈ l then some (base + j, f j) else none := by
  induction l with
  | nil => rfl
  | cons x l ih =>
    rw [List.map_cons, List.find?_cons]
    by_cases hx : x = j
    · subst hx
      simp
    · rw [decide_eq_false (by dsimp only; omega), ih]
      simp [Ne.symm hx]

section Instructions

variable {s : State} {c n : Nat} {g k : Fin 8} {t : Fmt} {d a b : Fin 16}

theorem word_getLsbD {x i : Nat} (hi : i < 64) : (word x).getLsbD i = x.testBit i := by
  rw [word, BitVec.getLsbD_ofNat, decide_eq_true hi, Bool.true_and]

/-- A bit of the mask that VCMP writes. -/
def compareBit (s : State) (g : Nat) (cond : Cond) (t : Fmt) (k a b i : Nat) : Bool :=
  let at_ (j : Nat) : Bool × Nat := laneCond cond t (lane (s.v a) t.size j) (lane (s.v b) t.size j)
  if (s.k g).getLsbD (if t.size = 8 then i / 2 * 2 else i) then
    if 4 ≤ t.size then (at_ (i * 4 / t.size)).1 else (List.range (4 / t.size)).all (fun j => (at_ (i * (4 / t.size) + j)).1)
  else (s.k k).getLsbD i
/-- The mask that VCMP writes. -/
def compareMask (s : State) (g : Nat) (cond : Cond) (t : Fmt) (k a b : Nat) : Nat := bitsWhere (compareBit s g cond t k a b) 64
/-- The flags that VCMP sets. -/
def compareFlags (s : State) (g : Nat) (cond : Cond) (t : Fmt) (a b : Nat) : Nat :=
  ((List.range t.lanes).filter (fun j => laneOn (s.k g) t.size j)).foldl
    (fun f j => f ||| (laneCond cond t (lane (s.v a) t.size j) (lane (s.v b) t.size j)).2) 0

theorem execVcmp_ready {cond : Cond} (hcur : s.cur = .strand c n) (hvec : s.vectorsReady c n [a, b]) : exec (.vcmp g cond t k a b) s =
    .next (((s.setK k (word (compareMask s g cond t k a b))).orFlags (compareFlags s g cond t a b)).advance 4) := by
  have hexec : exec (.vcmp g cond t k a b) s = execVcmp g cond t k a b s := rfl
  rw [hexec, execVcmp, vecForm_noRegs hcur hvec, compareMask, bitsWhere, compareFlags]
  unfold compareBit
  simp only [apply_ite (BitVec.getLsbD (s.k g))]

theorem execVdec8_ready {z : Fin 3} {h : Fin 8} (hcur : s.cur = .strand c n) (hvec : s.vectorsReady c n [d, a])
    (hcodes : ∀ j, j < t.lanes → laneOn (s.k g) t.size j = true →
      ((s.tableOf c (k8Of z)).get (lane (s.v a) 1 (t.lanes * h.val + j))).isSome = true) :
    exec (.vdec8 g t z h d a) s = putLanes s 4 t d g (fun j =>
      (convertElem s.mode (s.tableOf c (k8Of z)) (k8Of z) t (lane (s.v a) 1 (t.lanes * h.val + j))).getD (0, 0)) := by
  have hexec : exec (.vdec8 g t z h d a) s = execVdec8 g t z h d a s := rfl
  have hnone : ((List.range t.lanes).filter (fun j => laneOn (s.k g) t.size j)).find? (fun j =>
      ((s.tableOf c (k8Of z)).get (lane (s.v a) 1 (t.lanes * h.val + j))).isNone) = none := by
    rw [List.find?_eq_none]
    intro j hj
    obtain ⟨hin, hon⟩ := List.mem_filter.1 hj
    simp [Option.isSome_iff_ne_none.1 (hcodes j (List.mem_range.1 hin) hon)]
  rw [hexec, execVdec8, vecForm_noRegs hcur hvec]
  simp only [hnone]
  rfl

/-- The codes that VENC8 computes, by lane of v(d), with their flags. -/
def encodedLanes (s : State) (c g : Nat) (t : Fmt) (z : Fin 3) (h a : Nat) : List (Nat × (Nat × Nat) × Nat) :=
  ((List.range t.lanes).filter (fun j => laneOn (s.k g) t.size j)).map (fun j => (t.lanes * h + j,
    (s.tableOf c (k8Of z)).encode ((fpOf t).decode (lane (s.v a) t.size j)), snanFlag [(fpOf t).decode (lane (s.v a) t.size j)]))
/-- The vector that VENC8 writes. -/
def encodedVector (s : State) (d : Nat) (r : List (Nat × (Nat × Nat) × Nat)) : VWord :=
  ofLanes 1 ((List.range 256).map (fun i =>
    match r.find? (fun e => decide (e.1 = i)) with | some e => e.2.1.1 | none => lane (s.v d) 1 i))

theorem execVenc8_ready {z : Fin 3} {h : Fin 8} (hcur : s.cur = .strand c n) (hvec : s.vectorsReady c n [d, a])
    (henc : (s.tableOf c (k8Of z)).enc = true) : exec (.venc8 g t z h d a) s =
      .next (((s.setV d (encodedVector s d (encodedLanes s c g t z h a))).orFlags
        ((encodedLanes s c g t z h a).foldl (fun f e => f ||| e.2.1.2 ||| e.2.2) 0)).advance 4) := by
  have hexec : exec (.venc8 g t z h d a) s = execVenc8 g t z h d a s := rfl
  rw [hexec, execVenc8, vecForm_noRegs hcur hvec]
  simp only [henc, Bool.not_true, Bool.false_and, Bool.false_eq_true, if_false]
  rfl

theorem lane_encoded {z : Fin 3} {h d a j : Nat} (hj : j < t.lanes) (hfit : t.lanes * h + j < 256) :
    lane (encodedVector s d (encodedLanes s c g t z h a)) 1 (t.lanes * h + j) =
      if laneOn (s.k g) t.size j = true then ((s.tableOf c (k8Of z)).encode ((fpOf t).decode (lane (s.v a) t.size j))).1 % 256
      else lane (s.v d) 1 (t.lanes * h + j) := by
  rw [encodedVector, lane_ofLanes (by simp), getD_map_range hfit, encodedLanes, find?_lane]
  simp only [List.mem_filter, List.mem_range, hj, true_and]
  by_cases hon : laneOn (s.k g) t.size j = true
  · simp only [if_pos hon]
    rfl
  · simp only [if_neg hon]
    exact Nat.mod_eq_of_lt (lane_lt ..)

theorem execTblld_ready {x : Fin 13} (hcur : s.cur = .strand c n) (hg : s.predicate g = true)
    (hbusy : ∀ i, i < 4 → (s.strand c n).busyV.getLsbD (x.val + i) = false) (htable : tableInUse s c = false)
    (hflight : bytesInFlight s c n (padBase c + 0x15400) 1024 = false) :
    exec (.tblld g (x.castLE (by decide))) s = .next ((writeTable s c ((List.range 256).map (fun i =>
      tableEntry (lane (s.v (x.val + i / 64)) 4 (i % 64))))).advance 4) := by
  have hexec : exec (.tblld g (x.castLE (by decide))) s = execTblld g (x.castLE (by decide)) s := rfl
  have hvec : vecBusy s c n [x.val, x.val + 1, x.val + 2, x.val + 3] = false :=
    vecBusy_of_ready (fun r hr => by
      simp only [List.mem_cons, List.not_mem_nil, or_false] at hr
      obtain rfl | rfl | rfl | rfl := hr
      · exact hbusy 0 (by decide)
      · exact hbusy 1 (by decide)
      · exact hbusy 2 (by decide)
      · exact hbusy 3 (by decide))
  rw [hexec, execTblld, onStrand_strand hcur, guarded_true hg]
  simp only [Fin.val_castLE, hvec, htable, hflight]
  rfl

theorem execVext_ready {q r : Fin 32} (hcur : s.cur = .strand c n) (hg : s.predicate g = true) (hvec : s.vectorsReady c n [a])
    (hwrites : s.waitsFor [q.val] = false) (hreads : s.waitsFor [r.val] = false) (hsound : s.badReg [r.val] = none) :
    exec (.vext g t q a r) s = .next
      (((s.correctRegs [r]).setW q (laneWord t (lane ((s.correctRegs [r]).v a) t.size (((s.correctRegs [r]).w r).toNat % t.lanes)))).advance 4) := by
  have hexec : exec (.vext g t q a r) s = execVext g t q a r s := rfl
  rw [hexec, execVext, onStrand_strand hcur, guarded_true hg, vecForm_ready hcur hvec hwrites hreads hsound]

theorem execVred_ready {q : Fin 32} {o : RedOp} (hcur : s.cur = .strand c n) (hvec : s.vectorsReady c n [a])
    (hwrites : s.waitsFor [q.val] = false) : exec (.vred g o t q a) s =
      (let red := redTree o t s.mode t.lanes.log2
        ((List.range t.lanes).map (fun j => if laneOn (s.k g) t.size j then some (lane (s.v a) t.size j) else none))
      .next (((s.setW q (laneWord t (red.1.getD (redIdentity o t)))).orFlags red.2).advance 4)) := by
  have hexec : exec (.vred g o t q a) s = execVred g o t q a s := rfl
  rw [hexec, execVred, vecForm_ready hcur hvec hwrites State.waitsFor_nil State.badReg_nil, State.correctRegs_nil]

theorem execVscan_ready {o : RedOp} (hcur : s.cur = .strand c n) (hvec : s.vectorsReady c n [d, a]) : exec (.vscan g o t d a) s =
    (let sc := scanLanes o t s.mode none
      ((List.range t.lanes).map (fun j => if laneOn (s.k g) t.size j then some (lane (s.v a) t.size j) else none))
    .next (((s.setV d (ofLanes t.size ((List.range t.lanes).map (fun j => ((sc.1[j]?).getD none).getD (lane (s.v d) t.size j))))).orFlags
      sc.2).advance 4)) := by
  have hexec : exec (.vscan g o t d a) s = execVscan g o t d a s := rfl
  rw [hexec, execVscan, vecForm_noRegs hcur hvec]

end Instructions

/-- Settles O26: the forms of each instruction, the lanes that VENC8 and VCMP write, and the lanes of an element-wise result. -/
theorem vectorMoves : Obligations.VectorMoves := by
  refine ⟨?_, ?_⟩
  · intro s c n g k cond t u o z h d a b r q x hready hvec m sr sb put on at_ chosen red sc tbl code
    have hcur := hready.runs
    have hr : s.waitsFor [r.val] = false := State.waitsFor_of_subset (List.cons_subset_cons _ (List.nil_subset _)) hready.read
    have hrs : s.badReg [r.val] = none := State.badReg_of_subset (List.cons_subset_cons _ (List.nil_subset _)) hready.sound
    have hda : s.vectorsReady c n [d.val, a.val] := hvec.mono (by simp)
    have hab : s.vectorsReady c n [a.val, b.val] := hvec.mono (by simp)
    have hd : s.vectorsReady c n [d.val] := hvec.mono (by simp)
    have ha : s.vectorsReady c n [a.val] := hvec.mono (by simp)
    refine ⟨?_, laneOp_noRegs hcur hda, fun hcodes => ?_, fun henc => ?_, fun hg htable hflight hbusy => ?_, laneOp_noRegs hcur hvec,
      laneOp_ready hcur hda hr hrs, laneOp_ready hcur hd hr hrs, fun hg => ?_, laneOp_ready hcur hd hready.read hready.sound,
      laneOp_noRegs hcur hvec, laneOp_noRegs hcur hd, ?_, ?_⟩
    · refine ⟨_, execVcmp_ready hcur hab, State.setK_retires hcur _ _, State.advance_mem hcur, fun hk hsize i hi hon => ?_⟩
      have hk' : k.val ≠ 0 := Fin.val_ne_of_ne hk
      rw [State.k_setK_retired hcur, if_neg hk', word_getLsbD hi, compareMask, testBit_bitsWhere _ _ _ hi, compareBit]
      simp only [hon, hsize, if_true]
      rfl
    · exact execVdec8_ready hcur hda hcodes
    · refine ⟨_, execVenc8_ready hcur hda henc, State.setV_retires hcur _ _, fun j hj hfit => ?_⟩
      rw [State.v_setV_retired hcur]
      exact lane_encoded hj hfit
    · exact execTblld_ready hcur hg hbusy htable hflight
    · exact execVext_ready hcur hg ha hready.written hr hrs
    · exact execVred_ready hcur ha hready.written
    · exact execVscan_ready hcur hda
  · intro s c n t d k f hcur hfit r u
    have hu : u.v d = r.1 := (State.v_orFlags ..).trans (State.v_setV ..)
    refine ⟨fun j hj hon => ?_, fun j hj hoff => ?_, fun i hi => ?_, rfl⟩
    · rw [hu, lane_lanewise hfit hj, if_pos hon]
    · rw [hu, lane_lanewise hfit hj, if_neg (by simp [hoff])]
    · exact (State.v_orFlags ..).trans (State.v_setV_other s hi _)

end Sys2Proof.Machine
end

section
/-! PROOFS. Vector loads and stores, VSAVE and VLOAD (chapter 14). -/

open Sys2Proof

namespace Sys2Proof.Machine

/-! ### Elements into flight -/

section Issue

variable {s u : State} {c n len d : Nat} {t : Fmt} {p : VPlan} {ps : List Piece} {scales : List Nat}

/-- A vector access whose plan passes: the pieces and the scales that it goes on with. -/
def vecIssue (u : State) (c n len : Nat) (t : Fmt) (d : Nat) (store : Bool) (p : VPlan) (ps : List Piece) (scales : List Nat) : State :=
  let scaleOf (i : Nat) : Nat := scales[i]?.getD 127
  if store then
    let raw (q : Piece) : Nat := lane (u.v d) t.size q.lane
    let out (i : Nat) (q : Piece) : Nat × Nat :=
      if p.scaled then
        let v := (fpOf t).decode (raw q)
        let (x, f) := (fpOf t).rnd u.mode (v.scale (127 - (scaleOf i : Int)))
        (x, f ||| snanFlag [v])
      else (raw q, 0)
    let r := (ps.zipIdx).map (fun q => (({ q.1 with data := (out q.2 q.1).1 } : Piece), (out q.2 q.1).2))
    let f := r.foldl (fun f q => f ||| q.2) 0
    if holdsStrand u c .store false .none ps then launchAcc u c n len .store false .strand .none (.flags f) (r.map (·.1))
    else launchAcc (u.orFlags f) c n len .store false .strand .none .none (r.map (·.1))
  else
    let perLane := (List.range t.lanes).map (fun j =>
      match p.elems.findIdx? (fun e => decide (e.lane = j)) with | some i => scaleOf i | none => 127)
    launchAcc u c n len .load false .strand .none (.v d t perLane p.scaled p.zeros) ps

/-- What a vector load or store asks of its address checks. -/
def vecUse (store : Bool) : Use := if store then .store else .load
/-- The operation of a vector load or store. -/
def vecOp (store : Bool) : AccOp := if store then .store else .load

theorem vecAccess_passes {store : Bool} (h : s.vectorPasses c n t (vecUse store) (vecOp store) p u ps scales) :
    vecAccess s c n len t d store p = vecIssue u c n len t d store p ps scales := by
  obtain ⟨hends, hflight, x, hpass, hscales⟩ := h
  have hbyte : (p.scaled && p.elems.any (fun e => byteInFlight s c n e.scale)) = false := by
    cases hscaled : p.scaled with
    | false => rfl
    | true => simpa [List.any_eq_false] using hflight hscaled
  have hcheck : checkWants s c n (vecUse store) (vecOp store) false (p.elems.map (fun e => ⟨e.va, t.size, 0, 0, e.lane⟩)) = (x, .ok ps) := hpass
  unfold vecAccess
  rw [if_neg (by simp [hbyte])]
  unfold vecUse vecOp at hcheck
  simp only [hcheck, hends, hscales]
  rfl

/-- The data and the flags of an element that a store writes. -/
def storedLane (u : State) (t : Fmt) (d : Nat) (scaled : Bool) (scales : List Nat) (q : Piece × Nat) : Nat × Nat :=
  let y := lane (u.v d) t.size q.1.lane
  let v := (fpOf t).decode y
  let z := (fpOf t).rnd u.mode (v.scale (127 - ((scales[q.2]?.getD 127 : Nat) : Int)))
  if scaled then (z.1, z.2 ||| snanFlag [v]) else (y, 0)
/-- The pieces of a store with their data. -/
def storedPieces (u : State) (t : Fmt) (d : Nat) (scaled : Bool) (ps : List Piece) (scales : List Nat) : List Piece :=
  ps.zipIdx.map (fun q => { q.1 with data := (storedLane u t d scaled scales q).1 })
/-- The flags of a store. -/
def storedFlags (u : State) (t : Fmt) (d : Nat) (scaled : Bool) (ps : List Piece) (scales : List Nat) : Nat :=
  ps.zipIdx.foldl (fun f q => f ||| (storedLane u t d scaled scales q).2) 0

theorem vecIssue_store : vecIssue u c n len t d true p ps scales =
    if holdsStrand u c .store false .none ps then
      launchAcc u c n len .store false .strand .none (.flags (storedFlags u t d p.scaled ps scales)) (storedPieces u t d p.scaled ps scales)
    else launchAcc (u.orFlags (storedFlags u t d p.scaled ps scales)) c n len .store false .strand .none .none
      (storedPieces u t d p.scaled ps scales) := by
  simp only [vecIssue, if_true, List.foldl_map, List.map_map]
  rfl

end Issue

/-! ### Forms of vector accesses -/

section Forms

variable {s : State} {c n len d : Nat} {g : Fin 8} {t : Fmt} {vs reads : List Nat} {base : State → Word} {addr : State → Nat → Nat}
  {store scaled : Bool}

/-- The elements of a vector access through a register. -/
def regPlan (s : State) (c n g : Nat) (t : Fmt) (base : Word) (scaled : Bool) (addr : Nat → Nat) : VPlan :=
  ⟨((List.range t.lanes).filter (fun j => laneOn (s.k g) t.size j)).map (fun j =>
    ⟨j, addr j % 2 ^ 56, ((s.strand c n).scb.toNat + j / 2 ^ (fieldOf base 63 56 % 8 + 2)) % 2 ^ 56⟩), none, [], scaled⟩

theorem vecMem_ready (h : s.strandReady c n 0 reads []) (hvec : s.vectorsReady c n (d :: vs))
    (htag : tagCheck (fieldOf (base (s.correctRegs reads)) 63 56) t ((s.correctRegs reads).strand c n).scb.toNat = .ok scaled) :
    vecMem g len t store d vs reads base addr s = .next (vecAccess (s.correctRegs reads) c n len t d store
      (regPlan (s.correctRegs reads) c n g t (base (s.correctRegs reads)) scaled (addr (s.correctRegs reads)))) := by
  rw [vecMem, vecForm_ready h.runs hvec State.waitsFor_nil h.read h.sound]
  simp only [htag]
  rfl

theorem tileMem_ready {m b : Nat} (h : s.strandReady c n 0 [b] []) (hvec : s.vectorsReady c n [d])
    (hvalid : tmValid ((s.correctRegs [b]).tmap c m) = true)
    (hrow : ((s.correctRegs [b]).w b).toNat < tmTrows ((s.correctRegs [b]).tmap c m)) (hcols : tmTcols ((s.correctRegs [b]).tmap c m) ≤ t.lanes)
    (hstride : tmStride ((s.correctRegs [b]).tmap c m) % t.size = 0)
    (htag : tagCheck (tmTag ((s.correctRegs [b]).tmap c m)) t (tmScales ((s.correctRegs [b]).tmap c m)) = .ok scaled) :
    tileMem g t store d m b s = .next (vecAccess (s.correctRegs [b]) c n 4 t d store
      (tilePlan ((s.correctRegs [b]).tmap c m) t.size ((s.correctRegs [b]).w b).toNat scaled
        ((List.range t.lanes).filter (fun j => laneOn ((s.correctRegs [b]).k g) t.size j)))) := by
  rw [tileMem, vecForm_ready h.runs hvec State.waitsFor_nil h.read h.sound]
  simp only [htag]
  rw [if_neg]
  simp only [hvalid, Bool.not_true, Bool.false_eq_true, false_or, not_or]
  omega

/-- An instruction that is a vector load puts its elements into flight. -/
theorem loads_of_access {i : Instr} {x : State} {p : VPlan} (h : exec i s = .next (vecAccess x c n len t d false p)) (u : State) (ps : List Piece)
    (scales : List Nat) (hpass : x.vectorPasses c n t .load .load p u ps scales) :
    exec i s = .next (launchAcc u c n len .load false .strand .none (.v d t ((List.range t.lanes).map (fun j =>
      match p.elems.findIdx? (fun e => decide (e.lane = j)) with
        | some i => scales[i]?.getD 127
        | none => 127)) p.scaled p.zeros) ps) := by
  rw [h, vecAccess_passes (store := false) hpass]
  rfl

/-- An instruction that is a vector store puts its elements into flight with their data. -/
theorem stores_of_access {i : Instr} {x : State} {p : VPlan} (h : exec i s = .next (vecAccess x c n len t d true p)) (u : State) (ps : List Piece)
    (scales : List Nat) (hpass : x.vectorPasses c n t .store .store p u ps scales) :
    (holdsStrand u c .store false .none ps = false → exec i s = .next (launchAcc (u.orFlags (storedFlags u t d p.scaled ps scales)) c n len .store
      false .strand .none .none (storedPieces u t d p.scaled ps scales))) ∧
    (holdsStrand u c .store false .none ps = true → exec i s = .next (launchAcc u c n len .store false .strand .none
      (.flags (storedFlags u t d p.scaled ps scales)) (storedPieces u t d p.scaled ps scales))) := by
  rw [h, vecAccess_passes (store := true) hpass, vecIssue_store]
  exact ⟨fun hh => by simp [hh], fun hh => by simp [hh]⟩

end Forms

section Instructions

variable (s : State) (g : Fin 8) (o : BitVec 8) (i : Fin 32) (t : Fmt) (d b m : Fin 16) (a r : Fin 32) (p q : Fin 8)

theorem exec_vld : exec (.vld g o t d a) s = vecMem g 4 t false d [] [a] (fun s => s.w a) (fun s j => formAddr s a o 256 + j * t.size) s := rfl
theorem exec_vst : exec (.vst g o t d a) s = vecMem g 4 t true d [] [a] (fun s => s.w a) (fun s j => formAddr s a o 256 + j * t.size) s := rfl
theorem exec_vlds : exec (.vlds g t d a r) s =
    vecMem g 4 t false d [] [a.val, r.val] (fun s => s.w a) (fun s j => offsetVa (effAddr (s.w a) 0) (j * (s.w r).toInt)) s := rfl
theorem exec_vsts : exec (.vsts g t d a r) s =
    vecMem g 4 t true d [] [a.val, r.val] (fun s => s.w a) (fun s j => offsetVa (effAddr (s.w a) 0) (j * (s.w r).toInt)) s := rfl
theorem exec_vldx : exec (.vldx g t d a b) s = vecMem g 4 t false d [b.val] [a.val] (fun s => s.w a) (fun s j => indexVa s t a b j) s := rfl
theorem exec_vstx : exec (.vstx g t d a b) s = vecMem g 4 t true d [b.val] [a.val] (fun s => s.w a) (fun s j => indexVa s t a b j) s := rfl
theorem exec_vldt : exec (.vldt g t d m r) s = tileMem g t false d m r s := rfl
theorem exec_vstt : exec (.vstt g t d m r) s = tileMem g t true d m r s := rfl
theorem exec_vldC : exec (.vldC i p q) s = vecMem 0 2 .fp32 false p [] [8 + q.val] (fun s => s.w (8 + q.val))
    (fun s j => effAddr (s.w (8 + q.val)) (256 * i.val : Nat) + j * 4) s := rfl
theorem exec_vstC : exec (.vstC i p q) s = vecMem 0 2 .fp32 true p [] [8 + q.val] (fun s => s.w (8 + q.val))
    (fun s j => effAddr (s.w (8 + q.val)) (256 * i.val : Nat) + j * 4) s := rfl
theorem exec_vsave (cnt : Fin 16) : exec (.vsave g cnt d a) s = regMem g (cnt.val + 1) d a false s := rfl
theorem exec_vload (cnt : Fin 16) : exec (.vload g cnt d a) s = regMem g (cnt.val + 1) d a true s := rfl

end Instructions

/-! ### Whole registers -/

section Registers

variable {s u : State} {c n cnt d a k : Nat} {g : Fin 8} {load : Bool} {ps : List Piece}

theorem regMem_ready (h : s.strandReady c n g [a] []) (hvec : s.vectorsReady c n ((List.range cnt).map (d + ·)))
    (halign : effAddr ((s.correctRegs [a]).w a) 0 % 256 = 0) :
    regMem g cnt d a load s = .next
      (let t := s.correctRegs [a]
       let first := (s.strand c n).vresume.toNat
       if cnt ≤ first then (t.modMe (fun t => { t with vresume := 0 })).advance 4
       else
         let (s, ps, k, e) := regPieces t c n (effAddr (t.w a) 0) d load ((List.range (cnt - first)).map (first + ·))
         let op := if load then AccOp.load else AccOp.store
         match e with
         | none => launchAcc (s.modMe (fun t => { t with vresume := 0 })) c n 4 op false .strand .none (.regs d first cnt load none) ps
         | some (cause, kind, va) =>
           if bankPending s c n cause va then s
           else if k = 0 then s.trapWith 0x1D cause kind (word va)
           else launchAcc s c n 4 op false .strand .none (.regs d first (first + k) load (some (cause, kind, va))) ps) := by
  rw [regMem, onStrand_strand h.runs, guarded_true h.guard, vecForm_ready h.runs hvec State.waitsFor_nil h.read h.sound]
  rw [if_neg (not_not_intro halign), State.correctRegs_strand] <;> rfl

theorem regMem_done (h : s.strandReady c n g [a] []) (hvec : s.vectorsReady c n ((List.range cnt).map (d + ·)))
    (halign : effAddr ((s.correctRegs [a]).w a) 0 % 256 = 0) (hfirst : cnt ≤ (s.strand c n).vresume.toNat) :
    regMem g cnt d a load s = .next (((s.correctRegs [a]).modMe (fun t => { t with vresume := 0 })).advance 4) := by
  rw [regMem_ready h hvec halign]
  exact congrArg _ (if_pos hfirst)

theorem regMem_passes (h : s.strandReady c n g [a] []) (hvec : s.vectorsReady c n ((List.range cnt).map (d + ·)))
    (halign : effAddr ((s.correctRegs [a]).w a) 0 % 256 = 0) (hfirst : (s.strand c n).vresume.toNat < cnt)
    (hpieces : regPieces (s.correctRegs [a]) c n (effAddr ((s.correctRegs [a]).w a) 0) d load
      ((List.range (cnt - (s.strand c n).vresume.toNat)).map ((s.strand c n).vresume.toNat + ·)) = (u, ps, k, none)) :
    regMem g cnt d a load s = .next (launchAcc (u.modMe (fun t => { t with vresume := 0 })) c n 4 (if load then .load else .store) false .strand .none
      (.regs d (s.strand c n).vresume.toNat cnt load none) ps) := by
  rw [regMem_ready h hvec halign]
  refine congrArg _ ((if_neg (Nat.not_le.2 hfirst)).trans ?_)
  simp only [hpieces]

end Registers

/-! ### Replies -/

section Replies

variable {s : State} {a : Acc} {c n : Nat}

theorem saveAlso_running {i : Nat} {v : Word} (h : (s.core c).preempted = false) : saveAlso s c n i v = s := if_neg (by simp [h])
theorem saveVecAlso_running {r : Nat} {x : VWord} (h : (s.core c).preempted = false) : saveVecAlso s c n r x = s := if_neg (by simp [h])

theorem preempted_modStrand {f : Strand → Strand} : ((s.modStrand c n f).core c).preempted = (s.core c).preempted := by
  rw [State.modStrand, State.core_modCore_same]
  rfl

/-- A vector load of a core that runs writes v(d) and the flags. -/
theorem writeDest_v {d : Nat} {t : Fmt} {scales zeros : List Nat} {scaled : Bool} (hdest : a.dest = .v d t scales scaled zeros)
    (hrun : (s.core a.core).preempted = false) :
    writeDest s a = s.modStrand a.core a.strand (fun y =>
      let r := vectorResult (modeOf (s.strand a.core a.strand).fctl) ((s.strand a.core a.strand).vec d) t a.pieces scales scaled zeros
      { y.setVec d r.1 with fflags := y.fflags ||| word r.2 }) := by
  simp only [writeDest, hdest]
  rw [saveVecAlso_running (preempted_modStrand.trans hrun), saveAlso_running (preempted_modStrand.trans hrun)]

/-- The words that a reply brings for register i of VLOAD. -/
def loadedReg (a : Acc) (i : Nat) : VWord := ofLanes 8 ((List.range 32).map (fun j => (a.pieces[32 * i + j]?.map (·.got)).getD 0))
/-- A state with the registers from base on written from the reply's words. -/
def writeRegs (s : State) (a : Acc) (base k : Nat) : State :=
  (List.range k).foldl (fun s i => s.modStrand a.core a.strand (fun t => t.setVec (base + i) (loadedReg a i))) s

theorem writeRegs_succ (base k : Nat) : writeRegs s a base (k + 1) =
    (writeRegs s a base k).modStrand a.core a.strand (fun t => t.setVec (base + k) (loadedReg a k)) := by
  rw [writeRegs, List.range_succ, List.foldl_append]
  rfl

/-- Writing whole registers changes nothing but these. -/
theorem writeRegs_spec (base k : Nat) : (writeRegs s a base k).mem = s.mem ∧
    ((writeRegs s a base k).core a.core).preempted = (s.core a.core).preempted ∧
    ((writeRegs s a base k).strand a.core a.strand).pc = (s.strand a.core a.strand).pc ∧
    ∀ i, i < k → ((writeRegs s a base k).strand a.core a.strand).vec (base + i) = loadedReg a i := by
  induction k with
  | zero => exact ⟨rfl, rfl, rfl, fun i hi => absurd hi (Nat.not_lt_zero i)⟩
  | succ k ih =>
    obtain ⟨hmem, hcore, hpc, hvec⟩ := ih
    rw [writeRegs_succ]
    refine ⟨hmem, preempted_modStrand.trans hcore, ?_, fun i hi => ?_⟩
    · rw [State.strand_modStrand_same]
      exact hpc
    · rw [State.strand_modStrand_same]
      obtain rfl | hlt := Nat.eq_or_lt_of_le (Nat.le_of_lt_succ hi)
      · exact Table.get_set_same ..
      · exact (Table.get_set_other _ _ _ (by omega)).trans (hvec i hlt)

theorem writeDest_regs {d first count : Nat} (hdest : a.dest = .regs d first count true none) (hrun : (s.core a.core).preempted = false) :
    writeDest s a = (writeRegs s a (d + first) (count - first)).modStrand a.core a.strand (fun t => { t with vresume := 0 }) := by
  obtain ⟨-, hcore, -, -⟩ := writeRegs_spec (s := s) (a := a) (d + first) (count - first)
  simp only [writeDest, hdest]
  exact saveAlso_running (preempted_modStrand.trans (hcore.trans hrun))

theorem lane_loadedReg (a : Acc) (i j : Nat) (hj : j < 32) :
    lane (loadedReg a i) 8 j = ((a.pieces[32 * i + j]?.map (·.got)).getD 0) % 2 ^ 64 := by
  rw [loadedReg, lane_ofLanes (by simp), getD_map_range hj]

end Replies

/-! ### The lanes of a load -/

section Result

variable {m : RMode} {old : VWord} {t : Fmt} {ps : List Piece} {scales zeros : List Nat}

/-- The value of a lane that an unscaled load leaves. -/
def loadedLane (old : VWord) (t : Fmt) (ps : List Piece) (zeros : List Nat) (j : Nat) : Nat :=
  match ps.find? (fun p => decide (p.lane = j)) with
  | some p => p.got
  | none => if zeros.contains j then 0 else lane old t.size j

theorem size_mul_lanes (t : Fmt) : t.size * t.lanes = 256 := by cases t <;> rfl

theorem vectorResult_unscaled : (vectorResult m old t ps scales false zeros).1 = ofLanes t.size ((List.range t.lanes).map (loadedLane old t ps zeros)) := by
  have hfold (l : List Nat) : ∀ acc : List Nat × Nat, (l.foldl (fun (acc : List Nat × Nat) j =>
      match ps.find? (fun p => decide (p.lane = j)) with
      | some p => (acc.1 ++ [p.got], acc.2)
      | none => if zeros.contains j then (acc.1 ++ [0], acc.2) else (acc.1 ++ [lane old t.size j], acc.2)) acc).1 =
      acc.1 ++ l.map (loadedLane old t ps zeros) := by
    induction l with
    | nil => simp
    | cons j l ih =>
      intro acc
      rw [List.foldl_cons, ih, List.map_cons, List.append_cons acc.1 (loadedLane old t ps zeros j), loadedLane]
      refine congrArg (· ++ l.map (loadedLane old t ps zeros)) ?_
      cases ps.find? (fun p => decide (p.lane = j)) with
      | some p => rfl
      | none =>
        dsimp only
        split <;> rfl
  simp only [vectorResult, Bool.false_eq_true, if_false]
  exact congrArg _ ((hfold _ _).trans (List.nil_append _))

end Result

/-- Settles O27: each form's elements, whole registers from VRESUME on, and the two replies. -/
theorem vectorMemory : Obligations.VectorMemory := by
  refine ⟨?_, ?_, ?_, ?_⟩
  · intro s c n g o i t d b m a r p q one two row short plan sound at0 map tile loads stores
    refine ⟨fun h hvec scaled => ?_, fun h hvec scaled hs => ?_⟩
    · have hd : s.vectorsReady c n [d.val] := hvec.mono (by simp)
      have ha : s.strandReady c n 0 [a.val] [] := h.mono (List.cons_subset_cons _ (List.nil_subset _)) (fun _ hr => hr)
      have hr : s.strandReady c n 0 [r.val] [] := h.mono (List.subset_cons_self ..) (fun _ hr => hr)
      refine ⟨fun hs => ⟨?_, ?_⟩, fun hs => ⟨?_, ?_⟩, fun hs => ⟨?_, ?_⟩, fun hvalid hrow hcols hstride htag => ⟨?_, ?_⟩⟩
      · exact loads_of_access ((exec_vld s g o t d a).trans (vecMem_ready ha hd hs))
      · exact stores_of_access ((exec_vst s g o t d a).trans (vecMem_ready ha hd hs))
      · exact loads_of_access ((exec_vlds s g t d a r).trans (vecMem_ready h hd hs))
      · exact stores_of_access ((exec_vsts s g t d a r).trans (vecMem_ready h hd hs))
      · exact loads_of_access ((exec_vldx s g t d b a).trans (vecMem_ready ha hvec hs))
      · exact stores_of_access ((exec_vstx s g t d b a).trans (vecMem_ready ha hvec hs))
      · exact loads_of_access ((exec_vldt s g t d m r).trans (tileMem_ready hr hd hvalid hrow hcols hstride htag))
      · exact stores_of_access ((exec_vstt s g t d m r).trans (tileMem_ready hr hd hvalid hrow hcols hstride htag))
    · exact ⟨loads_of_access ((exec_vldC s i p q).trans (vecMem_ready h hvec hs)),
        stores_of_access ((exec_vstC s i p q).trans (vecMem_ready h hvec hs))⟩
  · intro s u v c n g cnt d a ps qs j k t ea first count h hvec halign
    refine ⟨fun hdone => ⟨?_, ?_⟩, fun hleft => ⟨fun hp => ?_, fun hq => ?_⟩⟩
    · exact (exec_vsave s g d a cnt).trans (regMem_done h hvec halign hdone)
    · exact (exec_vload s g d a cnt).trans (regMem_done h hvec halign hdone)
    · exact (exec_vsave s g d a cnt).trans (regMem_passes h hvec halign hleft hp)
    · exact (exec_vload s g d a cnt).trans (regMem_passes h hvec halign hleft hq)
  · intro s a r d ha hperf hplace hrefused hrsp hord hact hmode hrun old
    have hexec := execLoadReply_completes ha hperf hplace hrefused hrsp hact hmode
    have hsame : SameStrands s (replied s a r) := replied_sameStrands
    have hreplied : replied s a r = s.dropAcc r := by simp [replied, hord, Order.acq]
    have hrun' : ((replied s a r).core a.core).preempted = false := by rw [hreplied]; exact hrun
    have hstrand : (replied s a r).strand a.core a.strand = old := hsame.strand ..
    refine ⟨fun t scales scaled zeros hdest => ⟨_, hexec, ?_⟩, fun first count hdest hblock => ⟨_, hexec, ?_⟩⟩
    · have hcomplete : completeAcc (replied s a r) a = (if a.blocking then
          (writeDest (replied s a r) a).modStrand a.core a.strand (fun t => { t with pc := t.pc + word a.len, wait := .none, imx := [] })
          else (writeDest (replied s a r) a).modStrand a.core a.strand (fun t => markBusy t a.dest false)) := by
        simp only [completeAcc, hrefused, hdest, Option.isSome_none, Bool.false_eq_true, if_false]
      rw [hcomplete, writeDest_v hdest hrun', hstrand]
      cases hheld : a.blocking with
      | true =>
        rw [if_pos rfl]
        refine ⟨hsame.mem, ?_, fun i hi => ?_, fun _ => ?_, fun h => nomatch h⟩
        all_goals rw [State.strand_modStrand_same, State.strand_modStrand_same, hstrand]
        · exact Table.get_set_same ..
        · exact Table.get_set_other _ _ _ hi.symm
        · exact ⟨rfl, rfl⟩
      | false =>
        rw [if_neg (by decide), hdest]
        refine ⟨hsame.mem, ?_, fun i hi => ?_, fun h => (nomatch h), fun _ => ?_⟩
        all_goals rw [State.strand_modStrand_same, State.strand_modStrand_same, hstrand]
        · exact Table.get_set_same ..
        · exact Table.get_set_other _ _ _ hi.symm
        · rfl
    · obtain ⟨hmem, -, hpc, hvec⟩ := writeRegs_spec (s := replied s a r) (a := a) (d + first) (count - first)
      have hcomplete : completeAcc (replied s a r) a = (writeDest (replied s a r) a).modStrand a.core a.strand
          (fun t => { t with pc := t.pc + word a.len, wait := .none, imx := [] }) := by
        simp only [completeAcc, hrefused, hdest, hblock, Option.isSome_none, Bool.false_eq_true, if_false, if_true]
      rw [hcomplete, writeDest_regs hdest hrun']
      refine ⟨hmem.trans hsame.mem, ?_, ?_, ?_, fun i hi j hj => ?_⟩
      all_goals rw [State.strand_modStrand_same, State.strand_modStrand_same]
      · exact congrArg (· + word a.len) (hpc.trans (congrArg Strand.pc hstrand))
      · rw [← lane_loadedReg a i j hj, ← hvec i hi]
        rfl
  · intro m old t ps scales zeros j hj
    rw [vectorResult_unscaled, lane_ofLanes (by simp [size_mul_lanes]), getD_map_range hj, loadedLane]
    cases ps.find? (fun p => decide (p.lane = j)) with
    | some p => rfl
    | none =>
      dsimp only
      split
      · exact Nat.zero_mod _
      · exact Nat.mod_eq_of_lt (lane_lt ..)

end Sys2Proof.Machine
end

section
/-! PROOFS. Matrix instructions and the steps of matrix commands (chapters 7 and 15). -/

open Sys2Proof

namespace Sys2Proof.Machine

/-! ### Issue -/

section Issue

variable {s : State} {c n : Nat} {g : Fin 8} {m : MCmd} {map : Option Nat}

/-- The formats of an operation are gated on a narrow package (R131). -/
def MOp.multiplies : MOp → Bool
  | .setst | .mma | .mmag | .mrot | .mrotBuf => true
  | _ => false
/-- The map that a command takes: of an MMAG on a bond, only the head's (R288). -/
def commandMap (s : State) (c : Nat) (m : MCmd) (map : Option Nat) : Option Nat :=
  if m.op = .mmag && (s.core c).bond.isSome && !isCourseHead s c then none else map
/-- A command as it is queued, with copies of its map and of FCTL. -/
def filledCmd (s : State) (c n : Nat) (m : MCmd) (map : Option Nat) : MCmd :=
  { m with
    id := s.fresh, strand := n, act := (s.strand c n).act, actseq := (s.strand c n).actseq, pc := s.firstPc, audit := (s.strand c n).audit,
    claim := (s.strand c n).claim, map := (map.map (fun i => BitVec.ofNat 512 (s.tmap c i))).getD 0, fctl := (s.strand c n).fctl }

/-- A command that its checks accept, with room and no tile of an earlier activation, is queued. -/
theorem matrixForm_queues (hcur : s.cur = .strand c n) (hg : s.predicate g = true)
    (hgate : m.op.multiplies = true → m.t.isGated = false ∨ (s.pkg (corePkg c)).narrow = false) (hroom : (s.core c).mq.length < 8)
    (hheld : ∀ x ∈ (s.core c).mq, x.act = (s.strand c n).act) (hport : m.op = .setst → bankAwaited s c m.d = false)
    (hok : matrixRefused s c n (filledCmd s c n m (commandMap s c m map)) (commandMap s c m map) = none) :
    matrixForm g m map s = .next (((s.modCore c (fun k =>
      { k with mq := k.mq ++ [filledCmd s c n m (commandMap s c m map)] })).tickFresh).advance 4) := by
  have hgated : ((match m.op with | .setst | .mma | .mmag | .mrot | .mrotBuf => m.t.isGated | _ => false) && (s.pkg (corePkg c)).narrow) = false := by
    cases hop : m.op
    case setst | mma | mmag | mrot | mrotBuf =>
      obtain h | h := hgate (by rw [hop]; rfl)
      · simp [h]
      · simp [h]
    all_goals rfl
  have hfree : ((s.core c).mq.any (fun x => decide (x.act ≠ (s.strand c n).act) && x.usesTile && bit (s.strand c n).claim x.d)) = false := by
    rw [List.any_eq_false]
    exact fun x hx => by simp [hheld x hx]

  rw [matrixForm, onStrand_strand hcur]
  dsimp only
  refine (if_neg (fun h => Bool.false_ne_true (hgated.symm.trans h))).trans ?_
  rw [guarded_true hg]
  have hnone := hok
  unfold filledCmd commandMap at hnone
  simp only [hnone]
  refine (if_neg ?_).trans rfl
  simp only [hfree, not_or]
  refine ⟨by omega, by decide, fun h => ?_⟩
  exact Bool.false_ne_true ((hport h.1).symm.trans h.2)

/-- A gated format on a narrow package is illegal. -/
theorem matrixForm_gated (hcur : s.cur = .strand c n) (hop : m.op.multiplies = true) (hgate : m.t.isGated = true)
    (hnarrow : (s.pkg (corePkg c)).narrow = true) : matrixForm g m map s = .next (s.trap 0x01 0x04 s.firstPc) := by
  have hgated : ((match m.op with | .setst | .mma | .mmag | .mrot | .mrotBuf => m.t.isGated | _ => false) && (s.pkg (corePkg c)).narrow) = true := by
    revert hop
    cases m.op <;> simp [MOp.multiplies, hgate, hnarrow]
  rw [matrixForm, onStrand_strand hcur]
  exact if_pos hgated

end Issue

section Instructions

variable (s : State) (g : Fin 8) (t : Fmt) (x : Bool) (cnt slot a : Fin 16) (k : Fin 2) (d : Fin 4) (mode : AccMode)

theorem exec_setst : exec (.setst g t x cnt k a) s = matrixForm g (matrixCmd .setst t k (cnt.val + 1) x (accModeOf t)) (some a.val) s := rfl
theorem exec_relst : exec (.relst g k) s = matrixForm g (matrixCmd .relst .untyped k 0 false .none) none s := rfl
theorem exec_aclr : exec (.aclr g d) s = matrixForm g (matrixCmd .aclr .untyped d 0 false .none) none s := rfl
theorem exec_ast : exec (.ast g t a d) s = matrixForm g (matrixCmd .ast t d 0 false .none) (some a.val) s := rfl
theorem exec_ald : exec (.ald g t mode d a) s = matrixForm g (matrixCmd .ald t d 0 false mode) (some a.val) s := rfl
theorem exec_mma : exec (.mma g t slot d a) s = matrixForm g (matrixCmd .mma t d slot false (accModeOf t)) (some a.val) s := rfl
theorem exec_mmag : exec (.mmag g t slot d a) s = matrixForm g (matrixCmd .mmag t d slot false (accModeOf t)) (some a.val) s := rfl
theorem exec_mrot : exec (.mrot g t slot d a) s = matrixForm g (matrixCmd .mrot t d slot false (accModeOf t)) (some a.val) s := rfl
theorem exec_mrotBuf : exec (.mrotBuf g t slot d) s = matrixForm g (matrixCmd .mrotBuf t d slot false (accModeOf t)) none s := rfl

end Instructions

/-- Settles O28: each instruction is `matrixForm` of its command. -/
theorem matrixIssue : Obligations.MatrixIssue := by
  intro s c n g t x cnt slot a k d mode hcur y filled queues mmagMap
  constructor
  · intro hg hroom hheld hgate

    refine ⟨fun hport hok => ?_, fun hok => ?_, fun hok => ?_, fun hok => ?_, fun hok => ?_, fun hok => ?_, fun hok => ?_, fun hok => ?_,
      fun hok => ?_⟩
    · exact (exec_setst ..).trans (matrixForm_queues hcur hg (fun _ => hgate) hroom hheld (fun _ => hport) hok)
    · exact (exec_relst ..).trans (matrixForm_queues hcur hg nofun hroom hheld nofun hok)
    · exact (exec_aclr ..).trans (matrixForm_queues hcur hg nofun hroom hheld nofun hok)
    · exact (exec_ast ..).trans (matrixForm_queues hcur hg nofun hroom hheld nofun hok)
    · exact (exec_ald ..).trans (matrixForm_queues hcur hg nofun hroom hheld nofun hok)
    · exact (exec_mma ..).trans (matrixForm_queues hcur hg (fun _ => hgate) hroom hheld nofun hok)
    · exact (exec_mmag ..).trans (matrixForm_queues hcur hg (fun _ => hgate) hroom hheld nofun hok)
    · exact (exec_mrot ..).trans (matrixForm_queues hcur hg (fun _ => hgate) hroom hheld nofun hok)
    · exact (exec_mrotBuf ..).trans (matrixForm_queues hcur hg (fun _ => hgate) hroom hheld nofun hok)
  · intro hgate hnarrow
    exact ⟨(exec_setst ..).trans (matrixForm_gated hcur rfl hgate hnarrow), (exec_mma ..).trans (matrixForm_gated hcur rfl hgate hnarrow),
      (exec_mmag ..).trans (matrixForm_gated hcur rfl hgate hnarrow), (exec_mrot ..).trans (matrixForm_gated hcur rfl hgate hnarrow),
      (exec_mrotBuf ..).trans (matrixForm_gated hcur rfl hgate hnarrow)⟩

/-! ### One slot or row in each step -/

section Steps

variable {s u : State} {c : Nat} {m : MCmd}

/-- A bank that a SETST fires (R125). -/
def firedBank (b : Bank) (m : MCmd) (st : Table Nat) : Bank :=
  { b with state := .fired, fmt := m.t, n := m.n, held := st, poison := 0, single := [], staged := [] }

theorem execSetstFill_step {l : List (Option (Nat × Nat))} {st : Table Nat} (hhead : matrixHead s c (fun o => decide (o = .setst)) = some m)
    (hopen : spansOpen s c (tileSpans m.map.toNat m.t.size (tileOrigin m.map.toNat m.across (accDim m.mode) m.row).1
      (tileOrigin m.map.toNat m.across (accDim m.mode) m.row).2 (accDim m.mode) (accDim m.mode)) = true)
    (helems : mapElems s c m false ((List.range (accDim m.mode * accDim m.mode)).map (fun q =>
      ((tileOrigin m.map.toNat m.across (accDim m.mode) m.row).1 + q / accDim m.mode,
        (tileOrigin m.map.toNat m.across (accDim m.mode) m.row).2 + q % accDim m.mode))) = (u, .ok l))
    (hstage : stageTile (cmdTable u c m.t) m.t (m.row * 4096) l ((u.core c).bank m.d).staged = some st) :
    exec (.setstFill c) s = .next (if m.row + 1 < m.n then
      setHead (u.modCore c (fun k => { k with banks := Table.modify .init k.banks m.d (fun b => { b with staged := st }) })) c
        { m with row := m.row + 1 }
      else commandDone (u.modCore c (fun k => { k with banks := Table.set k.banks m.d (firedBank ((u.core c).bank m.d) m st) })) c m) := by
  have hexec : exec (.setstFill c) s = execSetstFill c s := rfl
  rw [hexec, execSetstFill, hhead]
  dsimp only
  rw [if_neg (by rw [hopen]; decide), helems]
  dsimp only
  rw [hstage]
  dsimp only
  split <;> rfl

theorem execMmaExecute_step {l : List (Option (Nat × Nat))} {a : List MElem} (hhead : matrixHead s c (fun o => decide (o = .mma)) = some m)
    (hopen : rowOpen s c m m.row (accDim m.mode) = true) (hok : multiplyRefused (s.core c) m = none)
    (hread : readRow (takeMode s c m) c m m.row = (u, .ok (l, a))) :
    exec (.mmaExecute c) s = .next (if m.row + 1 < tmTrows m.map.toNat then rowDone (multiplyRow u c m m.row a) c m (m.row + 1)
      else commandDone (multiplyRow u c m m.row a) c m) := by
  have hexec : exec (.mmaExecute c) s = execMmaExecute c s := rfl
  rw [hexec, execMmaExecute, hhead]
  dsimp only
  rw [if_neg (by rw [hopen]; decide), hok]
  dsimp only
  rw [hread]

/-- The columns of a row that an AST writes, where none of them is a fault. -/
theorem astColumns {inside : Nat → Bool} {n : Nat} {zpad : Bool} (h : (∀ j, j < n → inside j = true) ∨ zpad = true) :
    (List.range n).filter (fun j => inside j || !zpad) = (List.range n).filter inside := by
  refine List.filter_congr fun j hj => ?_
  obtain h | h := h
  · simp [h j (List.mem_range.1 hj)]
  · simp [h]

/-- The elements that an AST writes of a row, with their flags. -/
def astOuts (x : Tile) (m : MCmd) (cols : List Nat) : List (Nat × Nat) :=
  cols.map (fun j => readOut (modeOf m.fctl) x.mode m.t
    (Memory.readN x.data (accBytes x.mode * (accDim x.mode * m.row + j)) (accBytes x.mode)))
/-- The columns of a row inside the matrix. -/
def astCols (m : MCmd) : List Nat :=
  (List.range (tmTcols m.map.toNat)).filter (fun j => tmInside m.map.toNat (tmRow0 m.map.toNat + m.row) (tmCol0 m.map.toNat + j))

theorem execAstExecute_step {ps : List (Place53 × Nat)} (hhead : matrixHead s c (fun o => decide (o = .ast)) = some m)
    (hmode : astAccepts ((s.core c).tile m.d).mode m.t = true) (hrows : tmTrows m.map.toNat ≤ accDim ((s.core c).tile m.d).mode)
    (hcols : tmTcols m.map.toNat ≤ accDim ((s.core c).tile m.d).mode) (hopen : rowOpen s c m m.row (tmTcols m.map.toNat) = true)
    (hinside : (∀ j, j < tmTcols m.map.toNat → tmInside m.map.toNat (tmRow0 m.map.toNat + m.row) (tmCol0 m.map.toNat + j) = true) ∨
      tmZpad m.map.toNat = true)
    (hplaces : rowPlaces s c m (((astCols m).map (fun j => tmAddr m.map.toNat m.t.size (tmRow0 m.map.toNat + m.row) (tmCol0 m.map.toNat + j))).zip
      ((astOuts ((s.core c).tile m.d) m (astCols m)).map (·.1))) = (u, .ok ps)) :
    exec (.astExecute c) s = .next
      (let x := (s.core c).tile m.d
       let w := ps.foldl (fun s p => elemWrite s c m p.1 p.2) (behindFence u c m)
       let fl := (astOuts x m (astCols m)).foldl (fun f o => f ||| o.2) m.flags
       if m.row + 1 < tmTrows m.map.toNat then rowDone w c { m with flags := fl } (m.row + 1)
       else
         let all := fl ||| (if x.nv then flagNV else 0) ||| (if x.ovf then flagOF else 0) ||| (if x.sat then flagSAT else 0)
         let z := w.modStrand c (flagStrand w c m) (fun t => { t with fflags := t.fflags ||| word all })
         commandDone (saveAlso z c (flagStrand w c m) 3 (z.strand c (flagStrand w c m)).fflags) c m) := by
  have hexec : exec (.astExecute c) s = execAstExecute c s := rfl
  have hfilter := astColumns (zpad := tmZpad m.map.toNat) hinside
  have hnone : (astCols m).any (fun j => !tmInside m.map.toNat (tmRow0 m.map.toNat + m.row) (tmCol0 m.map.toNat + j)) = false := by
    rw [List.any_eq_false]
    intro j hj
    simp [(List.mem_filter.1 hj).2]
  rw [hexec, execAstExecute, hhead]
  dsimp only
  rw [if_neg (by rw [hmode]; decide), if_neg (by omega), if_neg (by rw [hopen]; decide), hfilter]
  unfold astOuts astCols at hplaces ⊢
  unfold astCols at hnone
  rw [if_neg (by rw [hnone]; decide), hplaces]
  dsimp only
  split <;> rfl

/-- A tile after a row of an ALD (R292). -/
def loadedTile (x : Tile) (m : MCmd) (l : List (Option (Nat × Nat))) : Tile :=
  { x with data := (l.zipIdx).foldl (fun dt p => Memory.writeN dt (accBytes m.mode * (accDim m.mode * m.row + p.2)) (accBytes m.mode)
      (loadIn m.mode m.t ((p.1.map (·.1)).getD 0))) x.data }

theorem execAldExecute_step {v : State} {l : List (Option (Nat × Nat))} (hhead : matrixHead s c (fun o => decide (o = .ald)) = some m)
    (hv : v = if ((s.core c).tile m.d).mode = m.mode then s else s.setTile c m.d { Tile.init with mode := m.mode })
    (hrows : tmTrows m.map.toNat ≤ accDim m.mode) (hcols : tmTcols m.map.toNat ≤ accDim m.mode)
    (hopen : rowOpen v c m m.row (tmTcols m.map.toNat) = true)
    (helems : mapElems v c m false ((List.range (tmTcols m.map.toNat)).map (fun j => (tmRow0 m.map.toNat + m.row, tmCol0 m.map.toNat + j))) =
      (u, .ok l)) :
    exec (.aldExecute c) s = .next
      (let w := u.setTile c m.d (loadedTile ((u.core c).tile m.d) m l)
       if m.row + 1 < tmTrows m.map.toNat then rowDone w c m (m.row + 1) else commandDone w c m) := by
  have hexec : exec (.aldExecute c) s = execAldExecute c s := rfl
  rw [hexec, execAldExecute, hhead]
  dsimp only
  rw [← hv, if_neg (by omega), if_neg (by rw [hopen]; decide), helems]
  rfl

end Steps

/-- A RELST at the head of a running queue. -/
theorem execRelstDrain_step {s : State} {c : Nat} {m : MCmd} (hhead : matrixHead s c (fun o => decide (o = .relst)) = some m) :
    (((s.core c).bank m.d).state = .fired → ∃ t, exec (.relstDrain c) s = .next t ∧ ((t.core c).bank m.d).state = .draining ∧
      ((t.core c).bank m.d).drainEnd = s.cycle + 64 ∧ (t.core c).mq = (s.core c).mq ∧ t.mem = s.mem) ∧
    (((s.core c).bank m.d).state = .ordinary → exec (.relstDrain c) s = .next (commandDone s c m)) := by
  have hexec : exec (.relstDrain c) s = execRelstDrain c s := rfl
  rw [hexec, execRelstDrain, hhead]
  dsimp only
  refine ⟨fun h => ?_, fun h => ?_⟩
  · rw [h]
    refine ⟨_, rfl, ?_⟩
    rw [State.core_modCore_same, Core.bank, Table.get_set_same]
    exact ⟨rfl, rfl, rfl, rfl⟩
  · rw [h]

/-- Settles O29: the step of each command at the head of a running queue. -/
theorem matrixSteps : Obligations.MatrixSteps := by
  intro s c m map dim origin
  refine ⟨?_, execRelstDrain_step, fun hhead => ?_, fun hhead hopen hok u l a hread => execMmaExecute_step hhead hopen hok hread, ?_, ?_⟩
  · intro hhead hopen u l st helems hstage fired
    have hstep := execSetstFill_step hhead hopen helems hstage
    exact ⟨fun h => hstep.trans (congrArg _ (if_pos h)), fun h => hstep.trans (congrArg _ (if_neg (Nat.not_lt.2 h)))⟩
  · have hexec : exec (.aclrExecute c) s = execAclrExecute c s := rfl
    rw [hexec, execAclrExecute, hhead]
  · intro hhead tile d inside cols outs hmode hrows hcols hopen hinside u ps hplaces w f all z
    have hstep := execAstExecute_step hhead hmode hrows hcols hopen hinside hplaces
    exact ⟨fun h => hstep.trans (congrArg _ (if_pos h)), fun h => hstep.trans (congrArg _ (if_neg (Nat.not_lt.2 h)))⟩
  · intro hhead v hrows hcols hopen u l helems x w
    exact execAldExecute_step hhead rfl hrows hcols hopen helems

end Sys2Proof.Machine
end

section
/-! PROOFS. The end of a bank's draining (chapter 7). -/

open Sys2Proof

namespace Sys2Proof.Machine

/-! ### Memory that is cleared -/

theorem Memory.get_clear (a n : Nat) (m : List Host.Cell) (x : Nat) :
    Memory.get (Memory.clear m a n) x = if x < a ∨ a + n ≤ x then Memory.get m x else Memory.blank x := by
  induction m with
  | nil => exact (ite_self _).symm
  | cons e m ih =>
    rw [Memory.clear, List.filter_cons]
    change Memory.get (if _ then e :: Memory.clear m a n else Memory.clear m a n) x = _
    by_cases he : e.1 < a ∨ a + n ≤ e.1
    · rw [if_pos (decide_eq_true he), Memory.get, Memory.get, ih]
      by_cases hx : e.1 = x
      · subst hx
        simp [he]
      · simp only [if_neg hx]
    · rw [if_neg (by simp [he]), ih, Memory.get]
      by_cases hx : e.1 = x
      · subst hx
        simp [he]
      · simp only [if_neg hx]

/-! ### The end of a drain -/

/-- The state in which a bank has been zeroed. -/
def drained (s : State) (c b : Nat) : State :=
  (s.zeroRange (padBase c + 0x40000 + b * 0x20000) 0x20000).modCore c (fun k => { k with banks := Table.set k.banks b .init })

theorem execBankDrainEnd_idle {s : State} {c b : Nat} (hstate : ((s.core c).bank b).state = .draining)
    (hend : ((s.core c).bank b).drainEnd ≤ s.cycle) (hidle : (s.core c).mq = []) : exec (.bankDrainEnd c b) s = .next (drained s c b) := by
  have hexec : exec (.bankDrainEnd c b) s = execBankDrainEnd c b s := rfl
  rw [hexec, execBankDrainEnd]
  refine (whenever_true (by simp [hstate, hend])).trans ?_
  simp only [hidle]
  rfl

/-- A byte of a drained bank reads as one that has never been written. -/
theorem drained_byteAt (s : State) (c b : Nat) {x : Nat} (hlow : padBase c + 0x40000 + b * 0x20000 ≤ x)
    (hhigh : x < padBase c + 0x60000 + b * 0x20000) : (drained s c b).byteAt x = Memory.blank x :=
  (Memory.get_clear _ _ s.mem x).trans (if_neg (by omega))

/-- The bank number whose 128 KiB, counted on from core 0's bank 0, are the start of the overflow area of package 1's first die. -/
def overflowBank : Nat := 0x27FFBE
/-- A machine after reset in which that bank of core 0 drains. -/
def drainingReset : State :=
  State.reset.modCore 0 (fun k => { k with banks := Table.set k.banks overflowBank { Bank.init with state := .draining } })

theorem drainingReset_bank : ((drainingReset.core 0).bank overflowBank) = { Bank.init with state := .draining } := by
  rw [drainingReset, State.core_modCore_same, Core.bank, Table.get_set_same]

/-- Refutes O30: the first clause speaks of every bank number. The bytes of bank 0x27FFBE of core 0 are those of the overflow area of another
package's HBM, where a byte of NEXTE that is cleared reads as 0xFF (R98), not as 0. -/
theorem not_matrixJoints : ¬ Obligations.MatrixJoints := by
  rintro ⟨hdrain, -⟩
  have hstate : ((drainingReset.core 0).bank overflowBank).state = .draining := congrArg Bank.state drainingReset_bank
  have hend : ((drainingReset.core 0).bank overflowBank).drainEnd ≤ drainingReset.cycle :=
    (congrArg Bank.drainEnd drainingReset_bank).le.trans (Nat.zero_le _)
  obtain ⟨t, hexec, -, hzero, -⟩ := hdrain drainingReset 0 overflowBank hstate hend
  have hidle : (drainingReset.core 0).mq = [] := by
    rw [drainingReset, State.core_modCore_same]
    rfl
  obtain rfl : drained drainingReset 0 overflowBank = t := by
    rw [execBankDrainEnd_idle hstate hend hidle] at hexec
    exact Host.Outcome.next.inj hexec
  have hblank : Memory.blank (padBase 0 + 0x40000 + overflowBank * 0x20000 + 18) = 0xFF := by decide
  have hbyte := hzero (padBase 0 + 0x40000 + overflowBank * 0x20000 + 18) (Nat.le_add_right _ _) (by decide)
  rw [drained_byteAt _ _ _ (Nat.le_add_right _ _) (by decide), hblank] at hbyte
  exact absurd hbyte (by decide)

end Sys2Proof.Machine
end

section
/-! PROOFS. Footing commands and reductions from strands, and the instructions of a footing core (chapters 3 and 15). -/

open Sys2Proof

namespace Sys2Proof.Machine

/-! ### Issue -/

section Issue

variable {s t v w y : State} {c n : Nat} {g : Fin 8} {d a b : Fin 32} {reads : List Nat} {op : UOp} {p q : Place53} {x : Nat}

/-- A footing instruction of a strand that is not audited. -/
theorem State.strandReady.footForm {k : Nat → Nat → State → State} (h : s.strandReady c n g reads [d]) (haudit : (s.strand c n).audit = false) :
    footForm g d reads s k = .next (k c n (s.correctRegs reads)) := by
  rw [Machine.footForm, h.memOp, State.correctRegs_strand, haudit]
  rfl

/-- The command that a strand sends to a footing unit. -/
def sentCmd (t : State) (c n d a b : Nat) (op : UOp) : UCmd :=
  { op := op, core := c, strand := n, frame := (t.strand c n).frame, reg := d, launch := (t.core c).launch, domain := (t.core c).domain,
    a := t.w a, b := t.w b, seq := t.fresh }

theorem unitCommand_room {d a b : Nat} (h : (t.unit (corePkg c * 512 + (t.w b).toNat % 512)).q.length < 8) :
    unitCommand op d a b c n t = ((markPending (t.modUnit (corePkg c * 512 + (t.w b).toNat % 512)
      (fun u => { u with q := u.q ++ [sentCmd t c n d a b op] })) c n d).tickFresh).advance 4 := by
  rw [unitCommand]
  exact if_neg (Nat.not_le.2 h)
theorem unitCommand_full {d a b : Nat} (h : 8 ≤ (t.unit (corePkg c * 512 + (t.w b).toNat % 512)).q.length) : unitCommand op d a b c n t = t := by
  rw [unitCommand]
  exact if_pos h

/-- The reduction that a strand sends to a stack. -/
def sentFred (y : State) (c n d dom block : Nat) : Fred :=
  { core := c, strand := n, act := (y.strand c n).act, frame := (y.strand c n).frame, reg := d, launch := (y.core c).launch,
    domain := dom, block := block, words := [], phase := .check, next := 0, parked := none }

theorem execFred_queues (h : s.strandReady c n g [a] [d]) (haudit : (s.strand c n).audit = false)
    (halign : effAddr ((s.correctRegs [a]).w a) 0 % 64 = 0)
    (hblock : translateFor (s.correctRegs [a]) c (s.core c).domain (effAddr ((s.correctRegs [a]).w a) 0) .load = (v, .ok p))
    (hown : ownPlace c p.pa = true) (hready : loadReady v c n (p.pa + 16) 8 = true) (hfo : foOpen v (s.core c).domain p = true)
    (hread : localRead v (v.agent c) { p with pa := p.pa + 16 } 8 = (w, .ok x))
    (hdest : translate w c (s.core c).domain (x % 2 ^ 56) = (y, .ok q)) (hown' : ownPlace c q.pa = true) (hhbm : isHbm q.pa = true)
    (hroom : (y.hbm (unitOfPa q.pa / 64)).q.length < 16) :
    exec (.fred g d a) s = .next ((markPending (y.modHbm (unitOfPa q.pa / 64) (fun h =>
      { h with q := h.q ++ [sentFred y c n d (s.core c).domain (effAddr ((s.correctRegs [a]).w a) 0)] })) c n d).advance 4) := by
  have hexec : exec (.fred g d a) s = execFred g d a s := rfl
  rw [hexec, execFred, h.footForm haudit]
  simp only [State.correctRegs_core, hblock, hown, hready, hfo, hread, hdest, hown', hhbm]
  rw [if_neg (not_not_intro halign)]
  simp only [Bool.not_true, Bool.or_false, Bool.false_eq_true, if_false]
  rw [if_neg (Nat.not_le.2 hroom)]
  rfl

theorem execFred_remote (h : s.strandReady c n g [a] [d]) (haudit : (s.strand c n).audit = false)
    (halign : effAddr ((s.correctRegs [a]).w a) 0 % 64 = 0)
    (hblock : translateFor (s.correctRegs [a]) c (s.core c).domain (effAddr ((s.correctRegs [a]).w a) 0) .load = (v, .ok p))
    (hown : ownPlace c p.pa = false) : exec (.fred g d a) s = .next ((v.setW d (failReply 0x06 0)).advance 4) := by
  have hexec : exec (.fred g d a) s = execFred g d a s := rfl
  rw [hexec, execFred, h.footForm haudit]
  simp only [State.correctRegs_core, hblock, hown]
  rw [if_neg (not_not_intro halign)]
  rfl

variable (g d a b)

theorem exec_floado (s : State) : exec (.floado g d a b) s = footForm g d [a.val, b.val] s fun c n s =>
    if effAddr (s.w a) 0 % 4096 ≠ 0 then s.trap 0x06 0 (word (effAddr (s.w a) 0)) else unitCommand .floado d a b c n s := rfl
theorem exec_fstart (s : State) :
    exec (.fstart g d a b) s = footForm g d [a.val, b.val] s fun c n s => unitCommand .fstart d a b c n s := rfl
theorem exec_fcmd (s : State) : exec (.fcmd g d a b) s = footForm g d [a.val, b.val] s fun c n s => unitCommand .fcmd d a b c n s := rfl

end Issue

/-- Settles O31: the commands of a unit with and without room, and a FRED by the place of its block. -/
theorem footingIssue : Obligations.FootingIssue := by
  intro s c n g d a b h haudit t x u cmd sent ea dom
  have ha : s.strandReady c n g [a.val] [d.val] := h.mono (List.cons_subset_cons _ (List.nil_subset _)) (fun _ hr => hr)
  refine ⟨fun hroom => ⟨fun halign => ?_, ?_, ?_⟩, fun hfull => ⟨?_, ?_⟩, ?_, ?_⟩
  · rw [exec_floado, h.footForm haudit, if_neg (not_not_intro halign), unitCommand_room hroom]
    rfl
  · rw [exec_fstart, h.footForm haudit, unitCommand_room hroom]
    rfl
  · rw [exec_fcmd, h.footForm haudit, unitCommand_room hroom]
    rfl
  · rw [exec_fstart, h.footForm haudit, unitCommand_full hfull]
  · rw [exec_fcmd, h.footForm haudit, unitCommand_full hfull]
  · intro v p w x y q halign hblock hown hready hfo hread hdest hown' hhbm hroom f
    exact execFred_queues ha haudit halign hblock hown hready hfo hread hdest hown' hhbm hroom
  · intro v p halign hblock hown
    exact execFred_remote ha haudit halign hblock hown

/-! ### The unit that executes -/

section Units

variable {s : State} {u : Nat} {k : Nat → State → Result}

theorem onUnit_unit (h : s.unitRuns u) : onUnit s k = k u s := by
  rw [onUnit, show s.cur = .unit u from h]

/-- A unit whose command has ended is otherwise as it was. -/
theorem State.unit_endCommand (s : State) (u : Nat) (v : Word) : (s.endCommand u v).unit u = { s.unit u with cmd := none } := by
  rw [State.endCommand]
  cases hcmd : (s.unit u).cmd with
  | none => exact congrArg (fun c => { s.unit u with cmd := c }) hcmd
  | some cmd => exact State.unit_modUnit_same s u (fun t => { t with cmd := none })

/-- A change of a unit counts only where it stands. -/
theorem State.modUnit_congr {f g : Unit → Unit} (h : f (s.unit u) = g (s.unit u)) : s.modUnit u f = s.modUnit u g := by
  rw [State.modUnit, State.modUnit, h]

/-- A footing core's fault leaves memory, lanes and flags. -/
theorem State.footFault_spec (s : State) (u detail : Nat) : (s.footFault u detail).mem = s.mem ∧
    ((s.footFault u detail).unit u).lanes = (s.unit u).lanes ∧ ((s.footFault u detail).unit u).flags = (s.unit u).flags := by
  rw [State.footFault, State.unit_modUnit_same, State.unit_endCommand]
  refine ⟨?_, rfl, rfl⟩
  rw [State.modUnit_mem, State.endCommand]
  cases (s.unit u).cmd <;> rfl

/-- Moving on leaves memory, lanes and flags of a footing core. -/
theorem State.unit_advance_spec (h : s.unitRuns u) (len : Nat) : (s.advance len).mem = s.mem ∧
    ((s.advance len).unit u).lanes = (s.unit u).lanes ∧ ((s.advance len).unit u).flags = (s.unit u).flags := by
  rw [State.advance, State.jump, show s.cur = .unit u from h]
  dsimp only
  split
  · rw [State.unit_modUnit_same]
    exact ⟨rfl, rfl, rfl⟩
  · exact State.footFault_spec ..

end Units

/-! ### Accumulating -/

section Lanes

variable {s v : State} {u b x : Nat} {n d a : Fin 16}

/-- The lanes of a bank and its flags after 64 elements of e bytes. -/
def accumulated (t : Unit) (n e : Nat) (f : FpFmt) (x : Nat) : Table (BitVec 40) × Nat :=
  (List.range 64).foldl (fun acc l =>
    let y := accumulate (Table.get 0 acc.1 (n * 64 + l)) ((flushed f).decode (x / 2 ^ (8 * e * l) % 2 ^ (8 * e)))
    (Table.set acc.1 (n * 64 + l) y.1, acc.2 ||| y.2)) (t.lanes, Table.get 0 t.flags n)
/-- The core that a unit's faults of memory are reported for. -/
def unitAsker (s : State) (u : Nat) : Nat := ((s.unit u).owner.map (·.2)).getD (foremanOf (u / 512 * 8))

theorem accForm_reads {e limit : Nat} {f : FpFmt} (h : s.unitRuns u) (hb : (s.unit u).blockOf n = some b) (hlimit : (s.w a).toNat < limit)
    (hread : dieRead s (unitAsker s u) 0 (blockPa u b + 64 * e * (s.w a).toNat) (64 * e) = (v, .ok x)) :
    accForm e limit f n a s = .next ((v.modUnit u (fun t =>
      { t with lanes := (accumulated (s.unit u) n e f x).1, flags := Table.set t.flags n (accumulated (s.unit u) n e f x).2 })).advance 4) := by
  rw [accForm, onUnit_unit h]
  unfold unitAsker at hread
  simp only [hb, hread]
  rw [if_neg (Nat.not_le.2 hlimit)]
  rfl

theorem accForm_closed {e limit : Nat} {f : FpFmt} (h : s.unitRuns u) (hb : (s.unit u).blockOf n = none) :
    accForm e limit f n a s = .next (s.footFault u 0x08) := by
  rw [accForm, onUnit_unit h]
  simp only [hb]

/-- The read-outs of a bank's lanes with their flags. -/
def laneOuts (t : Unit) (n : Nat) : List (Nat × Nat) := (List.range 64).map (fun l => laneOut (t.lane n l))
/-- The flags of a bank after a read-out. -/
def outFlags (t : Unit) (n : Nat) : Nat := (laneOuts t n).foldl (fun f o => f ||| o.2) (Table.get 0 t.flags n)

theorem execFrdo_writes (h : s.unitRuns u) (hb : (s.unit u).blockOf n = some b) (hlimit : (s.w a).toNat < 16) :
    exec (.frdo n d a) s = .next (((((wakeFor s (blockPa u b)).write (blockPa u b + 256 * (s.w a).toNat) 256
      ((laneOuts (s.unit u) n).foldr (fun o x => o.1 + 2 ^ 32 * x) 0)).modUnit u
        (fun t => { t with flags := Table.set t.flags n (outFlags (s.unit u) n) })).setW d (word (outFlags (s.unit u) n))).advance 4) := by
  have hexec : exec (.frdo n d a) s = execFrdo n d a s := rfl
  rw [hexec, execFrdo, onUnit_unit h]
  simp only [hb]
  rw [if_neg (Nat.not_le.2 hlimit)]
  rfl

theorem execFrdo_closed (h : s.unitRuns u) (hb : (s.unit u).blockOf n = none) : exec (.frdo n d a) s = .next (s.footFault u 0x08) := by
  have hexec : exec (.frdo n d a) s = execFrdo n d a s := rfl
  rw [hexec, execFrdo, onUnit_unit h]
  simp only [hb]

theorem Table.get_filter {α : Type} (z : α) (p : Nat → Bool) (t : Table α) (i : Nat) :
    Table.get z (t.filter (fun l => p l.1)) i = if p i then Table.get z t i else z := by
  induction t with
  | nil => exact (ite_self _).symm
  | cons e t ih =>
    obtain ⟨k, x⟩ := e
    rw [List.filter_cons]
    by_cases hk : k = i
    · subst hk
      cases hp : p k <;> simp [ih, hp, Table.get]
    · split <;> simp [ih, Table.get, hk]

theorem execFclra_spec (h : s.unitRuns u) : ∃ v, exec (.fclra n) s = .next v ∧ v.mem = s.mem ∧
    (∀ i l : Nat, l < 64 → (v.unit u).lane i l = if i = n.val then 0 else (s.unit u).lane i l) ∧
    ∀ i, Table.get 0 (v.unit u).flags i = if i = n.val then 0 else Table.get 0 (s.unit u).flags i := by
  have hexec : exec (.fclra n) s = execFclra n s := rfl
  rw [hexec, execFclra, onUnit_unit h]
  refine ⟨_, rfl, ?_⟩
  obtain ⟨hmem, hlanes, hflags⟩ := State.unit_advance_spec (s := s.modUnit u (fun t =>
    { t with lanes := t.lanes.filter (fun l => decide (l.1 / 64 ≠ n.val)), flags := Table.erase t.flags n })) h 4
  rw [State.unit_modUnit_same] at hlanes hflags
  refine ⟨hmem, fun i l hl => ?_, fun i => ?_⟩
  · have hkey : (i * 64 + l) / 64 = i := by omega
    rw [Unit.lane, hlanes]
    refine (Table.get_filter 0 (fun k => decide (k / 64 ≠ n.val)) _ _).trans ?_
    rw [hkey]
    by_cases hi : i = n.val <;> simp [hi, Unit.lane]
  · rw [hflags]
    refine (Table.get_filter 0 (fun k => decide (k ≠ n.val)) _ _).trans ?_
    by_cases hi : i = n.val <;> simp [hi]

end Lanes

/-! ### Blocks and the end of a command -/

section Commands

variable {s : State} {u : Nat} {n d a : Fin 16} {cmd : UCmd}

/-- A grant of a unit covers a block of a bank. -/
theorem granted_iff {t : Unit} {x : Nat} : t.grants.any (fun r => decide (r.1 ≤ x ∧ x < r.1 + r.2)) = true ↔
    ∃ r ∈ t.grants, r.1 ≤ x ∧ x < r.1 + r.2 := by
  simp [List.any_eq_true]

theorem execFopen_eq (h : s.unitRuns u) : exec (.fopen n a) s =
    if 12287 < (s.w a).toNat ∨
      !(s.unit u).grants.any (fun r => decide (r.1 ≤ (s.w a).toNat * 16 + n.val ∧ (s.w a).toNat * 16 + n.val < r.1 + r.2)) ∨
      !(((s.unit u).cmd.map (fun c => bit c.banks n)).getD false) then .next (s.footFault u 0x08)
    else .next ((s.modUnit u (fun t => { t with openBlk := Table.set t.openBlk n (some (s.w a).toNat) })).advance 4) := by
  have hexec : exec (.fopen n a) s = execFopen n a s := rfl
  rw [hexec, execFopen, onUnit_unit h]

/-- FWAITC answers the command and waits at its own PC. -/
theorem execFwaitc_spec (h : s.unitRuns u) (hcmd : (s.unit u).cmd = some cmd) (hstop : (s.unit u).stopping = none) :
    ∃ v, exec (.fwaitc d) s = .next v ∧ (v.unit u).run = .waiting ∧ (v.unit u).cmd = none ∧ (v.unit u).pc = (s.unit u).pc ∧
      (v.unit u).openBlk = [] ∧ ∃ f ∈ v.freplies, f.core = cmd.core ∧ f.frame = cmd.frame ∧ f.reg = cmd.reg ∧ f.value = (s.unit u).reply := by
  have hexec : exec (.fwaitc d) s = execFwaitc d s := rfl
  have hunit : ((s.endCommand u (s.unit u).reply).modUnit u (fun t => { t with run := .waiting, openBlk := [], imx := [] })).unit u =
      { s.unit u with cmd := none, run := .waiting, openBlk := [], imx := [] } := by
    rw [State.unit_modUnit_same, State.unit_endCommand]
  rw [hexec, execFwaitc, onUnit_unit h]
  refine ⟨_, rfl, ?_⟩
  rw [finishStop, hunit]
  simp only [hstop]
  refine ⟨by rw [hunit], by rw [hunit], by rw [hunit], by rw [hunit], ?_⟩
  rw [State.endCommand, hcmd]
  exact ⟨_, List.mem_append_right _ (List.mem_singleton_self _), rfl, rfl, rfl, rfl⟩

theorem dataAccess_inside {ea k : Nat} {f : State → State} (halign : ea % k = 0) (hend : ea + k ≤ 0x800) : dataAccess s u ea k f = f s := by
  rw [dataAccess, if_neg (not_not_intro halign), if_neg (Nat.not_lt.2 hend)]
theorem dataAccess_beyond {ea k : Nat} {f : State → State} (halign : ea % k = 0) (hend : 0x800 < ea + k) :
    dataAccess s u ea k f = s.footFault u 0x08 := by
  rw [dataAccess, if_neg (not_not_intro halign), if_pos hend]
theorem dataAccess_misaligned {ea k : Nat} {f : State → State} (halign : ea % k ≠ 0) : dataAccess s u ea k f = s.footFault u 0x06 :=
  if_pos halign

end Commands

section DataMemory

variable {s : State} {u : Nat} (g : Fin 8) (o : BitVec 10) (z : Fin 4) (d a : Fin 32)

theorem exec_ld_unit (h : s.unitRuns u) : exec (.ld g o z d a) s = .next (dataAccess s u (formAddr s a o (2 ^ z.val)) (2 ^ z.val) fun s =>
    (s.setW d (loadValue (2 ^ z.val) true (Memory.readN (s.unit u).data (formAddr s a o (2 ^ z.val)) (2 ^ z.val)))).advance 4) := by
  have hexec : exec (.ld g o z d a) s = loadForm g 4 (2 ^ z.val) true d a (fun s => formAddr s a o (2 ^ z.val)) s := rfl
  rw [hexec, loadForm, show s.cur = .unit u from h]
theorem exec_st_unit (h : s.unitRuns u) : exec (.st g o z d a) s = .next (dataAccess s u (formAddr s a o (2 ^ z.val)) (2 ^ z.val) fun s =>
    (s.modUnit u (fun t =>
      { t with data := Memory.writeN t.data (formAddr s a o (2 ^ z.val)) (2 ^ z.val) (s.w d).toNat })).advance 4) := by
  have hexec : exec (.st g o z d a) s = storeForm g 4 (2 ^ z.val) d a (fun s => formAddr s a o (2 ^ z.val)) s := rfl
  rw [hexec, storeForm, show s.cur = .unit u from h]

end DataMemory

/-- Settles O32: each instruction of a footing core, and its data memory by alignment and range. -/
theorem footingCore : Obligations.FootingCore := by
  constructor
  · intro s u n d a h t w halt granted asker lanesOf
    refine ⟨fun cmd hw hgrant hcmd hbit => ?_, fun hw => ?_, fun hgrant => ?_, fun hb => ⟨accForm_closed h hb, accForm_closed h hb, execFrdo_closed h hb⟩,
      fun b v x hb hw hread => accForm_reads h hb hw hread, fun b v x hb hw hread => accForm_reads h hb hw hread,
      fun b hb hw => execFrdo_writes h hb hw, execFclra_spec h, fun hcmd => ?_, fun cmd hcmd hstop => execFwaitc_spec h hcmd hstop⟩
    · have hgrant' := granted_iff.2 hgrant
      rw [execFopen_eq h, if_neg]
      rw [show (s.unit u).grants.any _ = true from hgrant', show (s.unit u).cmd = some cmd from hcmd]
      simp only [Option.map_some, Option.getD_some, hbit]
      exact fun hbad => by simpa using Nat.not_lt.2 hw (hbad.resolve_right (by decide))
    · exact (execFopen_eq h).trans (if_pos (.inl hw))
    · refine (execFopen_eq h).trans (if_pos (.inr (.inl ?_)))
      rw [Bool.not_eq_true']
      exact Bool.eq_false_iff.2 fun hany => hgrant (granted_iff.1 hany)
    · have hexec : exec (.freply a) s = execFreply a s := rfl
      rw [hexec, execFreply, onUnit_unit h]
      refine congrArg (fun x : State => Host.Outcome.next (x.advance 4)) ?_
      exact State.modUnit_congr (congrArg (fun v => { s.unit u with reply := v }) (if_pos hcmd))
  · intro s u g o z d a h ea k
    refine ⟨fun halign hend => ⟨?_, ?_⟩, fun halign hend => ⟨?_, ?_⟩, fun halign => ⟨?_, ?_⟩⟩
    · exact (exec_ld_unit g o z d a h).trans (congrArg _ (dataAccess_inside halign hend))
    · exact (exec_st_unit g o z d a h).trans (congrArg _ (dataAccess_inside halign hend))
    · exact (exec_ld_unit g o z d a h).trans (congrArg _ (dataAccess_beyond halign hend))
    · exact (exec_st_unit g o z d a h).trans (congrArg _ (dataAccess_beyond halign hend))
    · exact (exec_ld_unit g o z d a h).trans (congrArg _ (dataAccess_misaligned halign))
    · exact (exec_st_unit g o z d a h).trans (congrArg _ (dataAccess_misaligned halign))

end Sys2Proof.Machine
end

section
/-! PROOFS. Commands at the head of a footing unit, the reduction engines, and the power states of a pseudo-channel (chapters 2 and 3). -/

open Sys2Proof

namespace Sys2Proof.Machine

/-! ### Commands at the head of a unit's queue (R48, R49, R296) -/

section Heads

variable {s v w : State} {u : Nat} {cmd : UCmd} {p : Place53} {x : Nat}

theorem floadoCommand_denied (h : unitHead s u .floado = some cmd) (hdenied : unitDenied s u cmd = true) :
    exec (.floadoCommand u) s = .next (replyCommand (dropCommand s u) cmd (failReply 0x02 0)) := by
  have hexec : exec (.floadoCommand u) s = execFloadoCommand u s := rfl
  rw [hexec, execFloadoCommand, h]
  exact if_pos hdenied

theorem floadoCommand_loads (h : unitHead s u .floado = some cmd) (hdenied : unitDenied s u cmd = false)
    (hplace : hbmTranslate s (u / 64) cmd.domain (effAddr cmd.a 0) .foLoad = (v, .ok p))
    (hopen : bankOpen v (attrFO p.attr) cmd.domain p.pa cmd.seq = true) (hread : dieRead v cmd.core (effAddr cmd.a 0) p.pa 4096 = (w, .ok x)) :
    exec (.floadoCommand u) s = .next (replyCommand
      (dropCommand (w.modUnit u (fun t => { t with overlay := Memory.writeN [] 0 4096 x, run := .halted, imx := [] })) u) cmd 0) := by
  have hexec : exec (.floadoCommand u) s = execFloadoCommand u s := rfl
  rw [hexec, execFloadoCommand, h]
  simp only [hdenied, hplace, hopen, hread]
  rfl

theorem fstartCommand_denied (h : unitHead s u .fstart = some cmd) (hdenied : unitDenied s u cmd = true) :
    exec (.fstartCommand u) s = .next (replyCommand (dropCommand s u) cmd (failReply 0x02 0)) := by
  have hexec : exec (.fstartCommand u) s = execFstartCommand u s := rfl
  rw [hexec, execFstartCommand, h]
  exact if_pos hdenied

theorem fstartCommand_starts (h : unitHead s u .fstart = some cmd) (hdenied : unitDenied s u cmd = false) (heven : cmd.a.toNat % 2 = 0) :
    exec (.fstartCommand u) s = .next ((dropCommand s u).modUnit u (fun t =>
      { t with openBlk := [], pc := cmd.a.toNat % 0x1000, run := .running, cmd := some cmd, reply := 0, imx := [] })) := by
  have hexec : exec (.fstartCommand u) s = execFstartCommand u s := rfl
  rw [hexec, execFstartCommand, h]
  simp only [hdenied, heven]
  rfl

theorem fstartCommand_odd (h : unitHead s u .fstart = some cmd) (hdenied : unitDenied s u cmd = false) (hodd : cmd.a.toNat % 2 = 1) :
    exec (.fstartCommand u) s = .next (replyCommand ((dropCommand s u).modUnit u (fun t =>
      { t with run := .halted, status := 0x06, openBlk := [], imx := [] })) cmd (failReply 0x03 0x06)) := by
  have hexec : exec (.fstartCommand u) s = execFstartCommand u s := rfl
  rw [hexec, execFstartCommand, h]
  simp only [hdenied, hodd]
  rfl

theorem fcmdCommand_denied (h : unitHead s u .fcmd = some cmd) (hdenied : unitDenied s u cmd = true) :
    exec (.fcmdCommand u) s = .next (replyCommand (dropCommand s u) cmd (failReply 0x02 0)) := by
  have hexec : exec (.fcmdCommand u) s = execFcmdCommand u s := rfl
  rw [hexec, execFcmdCommand, h]
  exact if_pos hdenied

theorem fcmdCommand_entitled (h : unitHead s u .fcmd = some cmd) (hdenied : unitDenied s u cmd = false) :
    ((s.unit u).run = .waiting → exec (.fcmdCommand u) s = .next (completeWait (dropCommand s u) u cmd)) ∧
    ((s.unit u).run = .halted → exec (.fcmdCommand u) s = .next (replyCommand (dropCommand s u) cmd (failReply 0x04 0))) := by
  have hexec : exec (.fcmdCommand u) s = execFcmdCommand u s := rfl
  rw [hexec, execFcmdCommand, h]
  constructor <;> intro hrun <;> simp only [hdenied, hrun] <;> rfl

end Heads

/-! ### Replies and packets (R37, R51, R52) -/

section Replies

variable {s : State} {r : Nat} {p : Packet} {f : FReply}

theorem releaseFrame_mem (s : State) (c f : Nat) : (releaseFrame s c f).mem = s.mem := by
  rw [releaseFrame]
  split <;> rfl
theorem releaseFrame_pend (s : State) (c f : Nat) : ((releaseFrame s c f).core c).pend = (s.core c).pend := by
  rw [releaseFrame]
  split
  · rfl
  · rw [State.core_modCore_same]

/-- The state after a reply of a unit has written its frame word and cleared its mark. -/
def footReplied (s : State) (r : Nat) (f : FReply) : State :=
  (({ s with freplies := s.freplies.filter (fun x => decide (x.id ≠ r)) } : State).write (regAddr f.core f.frame f.reg) 8 f.value.toNat).modCore f.core
    (fun k => { k with pend := Table.modify 0 k.pend f.frame (fun m => m &&& ~~~(BitVec.ofNat 32 (2 ^ f.reg))) })

theorem footReplied_mem : (footReplied s r f).mem = Memory.writeN s.mem (regAddr f.core f.frame f.reg) 8 f.value.toNat := rfl

theorem footingReply_writes (h : s.freplies.find? (fun f => decide (f.id = r)) = some f) (hlaunch : (s.core f.core).launch = f.launch)
    (hroom : rspStopped s f.core = false) : exec (.footingReply r) s = .next (releaseFrame (footReplied s r f) f.core f.frame) := by
  have hexec : exec (.footingReply r) s = execFootingReply r s := rfl
  rw [hexec, execFootingReply, h]
  dsimp only
  rw [if_neg (not_not_intro hlaunch), if_neg (by rw [hroom]; exact Bool.false_ne_true)]
  rfl

/-- The bit of a mark that is cleared is clear. -/
theorem BitVec.getLsbD_clearBit (m : BitVec 32) {i : Nat} (h : i < 32) : (m &&& ~~~(BitVec.ofNat 32 (2 ^ i))).getLsbD i = false := by
  rw [BitVec.getLsbD_and, BitVec.getLsbD_not, BitVec.getLsbD_ofNat]
  simp [h, Nat.testBit_two_pow_self]

theorem footReplied_pend (h : f.reg < 32) : (Table.get 0 ((footReplied s r f).core f.core).pend f.frame).getLsbD f.reg = false := by
  rw [footReplied, State.core_modCore_same, Table.get_modify_same]
  exact BitVec.getLsbD_clearBit _ h

theorem footingReply_spec (h : s.freplies.find? (fun f => decide (f.id = r)) = some f) (hlaunch : (s.core f.core).launch = f.launch)
    (hroom : rspStopped s f.core = false) (hreg : f.reg < 32) :
    ∃ t, exec (.footingReply r) s = .next t ∧ t.read (regAddr f.core f.frame f.reg) 8 = f.value.toNat ∧
      (Table.get 0 (t.core f.core).pend f.frame).getLsbD f.reg = false ∧
      (∀ x, (x < regAddr f.core f.frame f.reg ∨ regAddr f.core f.frame f.reg + 8 ≤ x) → t.byteAt x = s.byteAt x) := by
  refine ⟨_, footingReply_writes h hlaunch hroom, ?_, ?_, fun x hx => ?_⟩
  · have hread := State.read_write s (regAddr f.core f.frame f.reg) 8 f.value.toNat
    rw [State.read] at hread ⊢
    rw [releaseFrame_mem, footReplied_mem]
    exact hread.trans (Nat.mod_eq_of_lt f.value.isLt)
  · rw [releaseFrame_pend]
    exact footReplied_pend hreg
  · rw [State.byteAt, State.byteAt, releaseFrame_mem, footReplied_mem]
    exact Memory.get_writeN_other 8 _ _ _ hx

/-- The packet is for a unit's or an engine's kind and this action. -/
theorem forKind_of {kind action : Nat} (hsfn : p.sfn = 0x19) (hkind : fieldOf p.target 39 36 = kind) (haction : p.action = action) :
    forKind p kind action = true := decide_eq_true ⟨hsfn, hkind, haction⟩

theorem footingCommandResume_eq (h : s.packet? r = some p) (hkind : forKind p 5 0 = true) : exec (.footingCommandResume r) s =
    .next (if (s.unit (packetUnit p)).parked.isSome then ackPacket (s.modUnit (packetUnit p) (fun t => { t with parked := none })) p 0
      else ackPacket s p 1) := by
  have hexec : exec (.footingCommandResume r) s = execFootingCommandResume r s := rfl
  rw [hexec, execFootingCommandResume, h]
  exact whenever_true hkind

theorem footingCommandAbort_eq (h : s.packet? r = some p) (hkind : forKind p 5 1 = true) : exec (.footingCommandAbort r) s =
    .next (if (s.unit (packetUnit p)).parked.isSome then ackPacket (abortUnit s (packetUnit p)) p 0 else ackPacket s p 1) := by
  have hexec : exec (.footingCommandAbort r) s = execFootingCommandAbort r s := rfl
  rw [hexec, execFootingCommandAbort, h]
  exact whenever_true hkind

end Replies

/-- Settles O33: the heads of a unit's queue, the reply, and the foreman's packets. -/
theorem footingCommands : Obligations.FootingCommands := by
  refine ⟨fun s u cmd => ⟨fun h => ⟨floadoCommand_denied h, fun hd v p w x => floadoCommand_loads h hd⟩,
    fun h => ⟨fstartCommand_denied h, fstartCommand_starts h, fstartCommand_odd h⟩,
    fun h => ⟨fcmdCommand_denied h, fun hd => (fcmdCommand_entitled h hd).1, fun hd => (fcmdCommand_entitled h hd).2⟩⟩,
    fun s r f => footingReply_spec, ?_⟩
  intro s r p h hsfn hkind u
  refine ⟨fun hparked => ⟨fun ha => ?_, fun ha => ?_⟩, fun hparked => ⟨fun ha => ?_, fun ha => ?_⟩⟩
  · rw [footingCommandResume_eq h (forKind_of hsfn hkind ha), if_pos hparked]
  · rw [footingCommandAbort_eq h (forKind_of hsfn hkind ha), if_pos hparked]
  · rw [footingCommandResume_eq h (forKind_of hsfn hkind ha), hparked]
    rfl
  · rw [footingCommandAbort_eq h (forKind_of hsfn hkind ha), hparked]
    rfl

/-! ### The reduction engine (R55–R59) -/

section Freds

variable {s v w : State} {k x : Nat} {f : Fred} {p q : Place53}

/-- A FRED with the words of its block, which passed from its check to its chunks. -/
def Fred.checked (f : Fred) (x : Nat) : Fred :=
  { f with words := (List.range 8).map (fun i => BitVec.ofNat 64 (x / 2 ^ (64 * i))), phase := .chunks }

theorem fredCheck_reads (h : fredHead s k = some f) (hparked : f.parked = none) (hphase : f.phase = .check)
    (hplace : hbmTranslate s k f.domain f.block .foLoad = (v, .ok p)) (hown : paPkg p.pa = k / 8) (hopen : foOpen v f.domain p = true)
    (hread : dieRead v f.core f.block p.pa 64 = (w, .ok x)) :
    (fredOffences (f.checked x) = [] → exec (.fredCheck k) s = .next (setFred w k (f.checked x))) ∧
    ∀ i l, fredOffences (f.checked x) = i :: l → exec (.fredCheck k) s = .next (endFred w k (f.checked x) (failReply 0x05 i)) := by
  have hexec : exec (.fredCheck k) s = execFredCheck k s := rfl
  rw [hexec, execFredCheck, h]
  dsimp only
  rw [if_neg (by simp [hphase, hparked])]
  simp only [hplace, hread, word]
  rw [if_neg (not_not_intro hown), if_neg (by simp [hopen])]
  unfold Fred.checked
  exact ⟨fun hnone => by rw [hnone]; rfl, fun i l hsome => by rw [hsome]; rfl⟩

/-- The places of a chunk: its sources, then its destination. -/
def chunkUses (f : Fred) : List (Nat × Use) :=
  ((List.range (f.nm1 + 1)).map (fun i => f.source i f.next)).map (fun va => (va, Use.foLoad)) ++ [(f.dest f.next, .foStore)]

theorem fredChunk_writes {ps : List Place53} {xs : List Nat} (h : fredHead s k = some f) (hparked : f.parked = none) (hphase : f.phase = .chunks)
    (hplaces : chunkPlaces s k f.domain (chunkUses f) = (v, .ok ps)) (hopen : ∀ p ∈ ps, foOpen v f.domain p = true)
    (hread : readAll v f.core (Nat.min 64 (f.len - f.next) * (if f.sbf then 2 else 4))
      ((ps.take (f.nm1 + 1)).zip ((List.range (f.nm1 + 1)).map (fun i => f.source i f.next))) = (w, .ok xs)) (hlast : ps.getLast? = some q) :
    let n := Nat.min 64 (f.len - f.next)
    let se := if f.sbf then 2 else 4
    let de := if f.dbf then 2 else 4
    let outs := (List.range n).map (fun j => reduceElem f.sbf f.dbf (xs.map (fun x => x / 2 ^ (8 * se * j) % 2 ^ (8 * se))))
    let r : Fred := { f with next := f.next + n }
    exec (.fredChunk k) s = .next (setFred ((wakeFor w q.pa).write q.pa (n * de) (outs.foldr (fun o x => o + 2 ^ (8 * de) * x) 0)) k
      (if f.len ≤ f.next + n then { r with phase := .completing } else r)) := by
  intro n se de outs r
  have hexec : exec (.fredChunk k) s = execFredChunk k s := rfl
  rw [hexec, execFredChunk, h]
  unfold chunkUses at hplaces
  dsimp only
  rw [if_neg (by simp [hphase, hparked])]
  simp only [hplaces]
  rw [if_neg (by simpa using hopen)]
  simp only [hread, hlast]
  rfl

variable {rec : State}

theorem flagOpen_of (hplace : hbmTranslate s k f.domain (f.word 3 % 2 ^ 56) .foStore = (v, .ok p)) : flagOpen s k f = foOpen v f.domain p := by
  rw [flagOpen, hplace]

/-- The state in which a CMODE 1 flag is written: at SYSTEM scope every dirty line has gone back. -/
def flagState (v : State) (k : Nat) (f : Fred) (pa : Nat) : State :=
  (if Scope.ofCode (bits (f.word 0) 18 16) = .system then v.writeBackAll (k / 8) else v).dropCopy (k / 8) pa

theorem fredFlag_hbm (hplace : hbmTranslate s k f.domain (f.word 3 % 2 ^ 56) .foStore = (v, .ok p)) (hown : paPkg p.pa = k / 8)
    (hhbm : inPad p.pa = false) (hadmits : v.admits p.pa (Scope.ofCode (bits (f.word 0) 18 16)) (partyOf f.core f.strand) = true) :
    fredFlag s k f = ((reachHbm ((flagState v k f p.pa).setRecord p.pa (Scope.ofCode (bits (f.word 0) 18 16)) (partyOf f.core f.strand))
      (attrFO p.attr) f.domain p.pa 8 true).write p.pa 8 (f.word 4), none) := by
  rw [fredFlag, hplace]
  simp only [hown, hhbm, hadmits, ne_eq, not_true_eq_false, decide_false, Bool.false_and]
  rfl

/-- A FRED whose completion is at the head and not parked. -/
theorem fredCompletion_completing (h : fredHead s k = some f) (hparked : f.parked = none) (hphase : f.phase = .completing) :
    exec (.fredCompletion k) s =
      if f.cmode = 1 then
        if !flagOpen s k f then .next s
        else match fredFlag s k f with
          | (s, none) => .next (endFred s k f 0)
          | (s, some (cause, kind, status)) => .next (parkFred s k f cause kind (f.word 3 % 2 ^ 56) status)
      else if f.cmode = 2 then .next (fredArrive s k f) else .next (endFred s k f 0) := by
  have hexec : exec (.fredCompletion k) s = execFredCompletion k s := rfl
  rw [hexec, execFredCompletion, h]
  simp only [hparked, hphase] <;> rfl

theorem fredCompletion_arrived {id : Nat} {m : MRep} (h : fredHead s k = some f) (hparked : f.parked = none) (hphase : f.phase = .arriving id)
    (hfind : s.mreps.find? (fun p => decide (p.id = id ∧ p.iss = .fred k f.core f.strand)) = some m) :
    exec (.fredCompletion k) s = .next (fredArrived s k f m) := by
  have hexec : exec (.fredCompletion k) s = execFredCompletion k s := rfl
  rw [hexec, execFredCompletion, h]
  simp only [hparked, hphase, hfind]
  rfl

/-- A route is read in the packages' tables alone. -/
theorem State.route_congr {s t : State} (h : t.pkgs = s.pkgs) (fuel : Nat) : ∀ g dst, t.route fuel g dst = s.route fuel g dst := by
  have hpkg (g : Nat) : t.pkg g = s.pkg g := by rw [State.pkg, State.pkg, h]
  induction fuel with
  | zero => intro g dst; rfl
  | succ fuel ih =>
    intro g dst
    unfold State.route State.routePort State.neighbour
    simp only [hpkg, ih]
/-- Whether a package can be reached is read in the packages alone. -/
theorem State.linkDown_congr {s t : State} (h : t.pkgs = s.pkgs) (g dst : Nat) : t.linkDown g dst = s.linkDown g dst := by
  have hpkg (g : Nat) : t.pkg g = s.pkg g := by rw [State.pkg, State.pkg, h]
  rw [State.linkDown, State.linkDown, State.route_congr h, State.answers, State.answers, hpkg]
  unfold State.port
  simp only [hpkg]

theorem fredArrived_ok {m : MRep} (hstatus : m.status = 0) (hcause : m.cause = 0)
    (hlink : paPkg m.line = k / 8 ∨ s.linkDown (paPkg m.line) (k / 8) = false) :
    fredArrived s k f m = endFred { s with mreps := s.mreps.filter (fun x => decide (x ≠ m)) } k f 0 := by
  have hlost : (decide (paPkg m.line ≠ k / 8) && s.linkDown (paPkg m.line) (k / 8)) = false := by
    rcases hlink with hown | hup
    · simp [hown]
    · simp [hup]
  have hlost' : (decide (paPkg m.line ≠ k / 8) && ({ s with mreps := s.mreps.filter (fun x => decide (x ≠ m)) } : State).linkDown
    (paPkg m.line) (k / 8)) = false := by
    rw [State.linkDown_congr (s := s) (t := { s with mreps := s.mreps.filter (fun x => decide (x ≠ m)) }) rfl]
    exact hlost
  rw [fredArrived]
  simp only [hlost', hstatus, hcause]
  rfl

end Freds

section Packets

variable {s : State} {r : Nat} {p : Packet} {f : Fred}

theorem fredResume_parked (h : s.packet? r = some p) (hkind : forKind p 3 0 = true) (hhead : fredHead s (packetStack p) = some f)
    (hparked : f.parked.isSome = true) :
    exec (.fredResume r) s = .next (ackPacket (setFred s (packetStack p) { f with parked := none }) p 0) := by
  have hexec : exec (.fredResume r) s = execFredResume r s := rfl
  rw [hexec, execFredResume, h]
  refine (whenever_true hkind).trans (congrArg _ ?_)
  simp only [hhead]
  exact if_pos hparked

theorem fredAbort_parked (h : s.packet? r = some p) (hkind : forKind p 3 1 = true) (hhead : fredHead s (packetStack p) = some f)
    (hparked : f.parked.isSome = true) :
    exec (.fredAbort r) s = .next (ackPacket (endFred s (packetStack p) f (failReply 0x01 0)) p 0) := by
  have hexec : exec (.fredAbort r) s = execFredAbort r s := rfl
  rw [hexec, execFredAbort, h]
  refine (whenever_true hkind).trans (congrArg _ ?_)
  simp only [hhead]
  exact if_pos hparked

end Packets

section Walks

variable {s v : State} {k dom va : Nat} {p : Place53}

/-- A base die's miss takes the place that its walker found into its TLB, whatever the use then says. -/
theorem hbmTranslate_miss (u : Use) (hwindow : inWindow va = false) (hmiss : ∀ e ∈ (s.hbm k).tlb, e.serves dom va = false)
    (hwalk : dieWalk s (diePanel (k / 8 * 2 + k % 8 / 4)) (k / 8 * 2 + k % 8 / 4) dom va = (v, .ok p)) :
    (hbmTranslate s k dom va u).1 =
      (v.modHbm k (fun b => { b with tlb := evict 256 (Config.victim v.fresh) b.tlb (p.entry dom va) })).tickFresh := by
  have hfind : (s.hbm k).tlb.find? (fun t => t.serves dom va) = none :=
    List.find?_eq_none.2 fun e he => by rw [hmiss e he]; exact Bool.false_ne_true
  rw [hbmTranslate, if_neg (by rw [hwindow]; exact Bool.false_ne_true)]
  simp only [hfind, hwalk]
  cases useCheck u p.attr <;> rfl

theorem baseDie_asks (h : (∃ f ∈ (s.hbm k).q, f.domain = dom) ∨ ∃ i, i < 64 ∧ ∃ m ∈ (s.unit (k * 64 + i)).q, m.domain = dom) :
    ((s.hbm k).q.any (fun f => decide (f.domain = dom)) ||
      (List.range 64).any (fun i => (s.unit (k * 64 + i)).q.any (fun c => decide (c.domain = dom)))) = true := by
  simpa [List.any_eq_true] using h

theorem baseDieTranslation_fills
    (hasked : (∃ f ∈ (s.hbm k).q, f.domain = dom) ∨ ∃ i, i < 64 ∧ ∃ m ∈ (s.unit (k * 64 + i)).q, m.domain = dom) (hwindow : inWindow va = false)
    (hmiss : ∀ e ∈ (s.hbm k).tlb, e.serves dom va = false)
    (hwalk : dieWalk s (diePanel (k / 8 * 2 + k % 8 / 4)) (k / 8 * 2 + k % 8 / 4) dom va = (v, .ok p)) :
    exec (.baseDieTranslation k dom va) s =
      .next (v.modHbm k (fun b => { b with tlb := evict 256 (Config.victim v.fresh) b.tlb (p.entry dom va) })).tickFresh := by
  have hexec : exec (.baseDieTranslation k dom va) s = execBaseDieTranslation k dom va s := rfl
  rw [hexec, execBaseDieTranslation]
  refine (whenever_true ?_).trans (congrArg _ (hbmTranslate_miss .load hwindow hmiss hwalk))
  rw [baseDie_asks hasked, hwindow]
  rfl

end Walks

/-- Settles O34: the FRED at the head by its phase, the foreman's packets, and the walk of the base die. -/
theorem fredSteps : Obligations.FredSteps := by
  refine ⟨fun s k f h hparked => ⟨?_, ?_, ?_, ?_⟩, ?_, ?_⟩
  · intro hphase v p w x hplace hown hopen hread
    exact fredCheck_reads h hparked hphase hplace hown hopen hread
  · intro hphase n se de vas v ps w xs q hplaces hopen hread hlast
    exact fredChunk_writes h hparked hphase hplaces hopen hread hlast
  · intro hphase
    rw [fredCompletion_completing h hparked hphase]
    refine ⟨fun hmode => ?_, ?_, fun hmode => ?_⟩
    · rw [hmode]
      rfl
    · intro v p hmode hplace hown hpad sc x hadmits hopen
      rw [if_pos hmode, flagOpen_of hplace, hopen, fredFlag_hbm hplace hown hpad hadmits]
      rfl
    · rw [hmode]
      rfl
  · intro id p hphase hfind hstatus hcause hlink
    rw [fredCompletion_arrived h hparked hphase hfind, fredArrived_ok hstatus hcause hlink]
  · intro s r p f h hsfn hkind hhead hparked
    exact ⟨fun ha => fredResume_parked h (forKind_of hsfn hkind ha) hhead hparked,
      fun ha => fredAbort_parked h (forKind_of hsfn hkind ha) hhead hparked⟩
  · intro s v k dom va p hasked hwindow hmiss hwalk
    exact baseDieTranslation_fills hasked hwindow hmiss hwalk

/-! ### Power states (R63–R65, R392) -/

section Power

variable {s : State} {g : Nat} {m : Msg}

/-- A POWER request with an action that the step answers and no reserved bit. -/
theorem powerRequest_answers {actions : List Nat} {f : State → Nat → Bool → Nat → State} (h : sysHead s (g * 8) 0x40 = some m)
    (hanswers : s.answers g = true) (hreserved : fieldOf m.w0 63 12 = 0) (hact : actions.contains (fieldOf m.w0 10 9) = true)
    (hthree : fieldOf m.w0 10 9 ≠ 3) : powerRequest g actions f s =
      .next (f (dropSys s (g * 8)) (g * 512 + fieldOf m.w0 8 0) (bit m.w0.toNat 11) (fieldOf m.w1 55 0)) := by
  rw [powerRequest, hanswers, if_pos rfl, h]
  dsimp only
  rw [if_neg (by rw [hact]; decide), if_neg (by simp [hthree, hreserved])]

variable {p : FPower} {u va : Nat} {forced : Bool}

/-- A channel that is in that state already, or that is not live, goes into it. -/
theorem lowerPower_done (h : unitLive s u = false ∨ (s.unit u).power = p) :
    lowerPower p g s u forced va = foremanStore (s.modUnit u (fun t => { t with power := p })) (g * 8) va 0 := by
  rw [lowerPower]
  refine if_pos ?_
  rcases h with h | h
  · exact .inr (by rw [h]; rfl)
  · exact .inl h

/-- A unit that is live and in another state is not lowered at once. -/
theorem not_lowered (hlive : unitLive s u = true) (hpower : (s.unit u).power ≠ p) : ¬ ((s.unit u).power = p ∨ (!unitLive s u) = true) := by
  simp [hlive, hpower]

theorem lowerPower_live (hlive : unitLive s u = true) (hpower : (s.unit u).power ≠ p) :
    lowerPower p g s u false va = foremanStore s (g * 8) va 1 := by
  rw [lowerPower]
  exact (if_neg (not_lowered hlive hpower)).trans (if_pos rfl)

/-- The state in which a forced request waits with those before it. -/
def stopAsked (s : State) (u va : Nat) (p : FPower) : State :=
  s.modUnit u (fun t => { t with stopping := some (((s.unit u).stopping.getD (s.cycle, [])).1,
    ((s.unit u).stopping.getD (s.cycle, [])).2 ++ [(p, va)]) })

theorem lowerPower_forced (hlive : unitLive s u = true) (hpower : (s.unit u).power ≠ p) : lowerPower p g s u true va =
    if (s.unit u).run = .running ∧ (s.unit u).power = .awake then stopAsked s u va p else finishStop (stopAsked s u va p) u := by
  rw [lowerPower]
  exact (if_neg (not_lowered hlive hpower)).trans (if_neg Bool.false_ne_true)

theorem channelWake_spec (h : (s.unit u).power ≠ .awake) : ∃ t, exec (.channelWake u) s = .next t ∧ (t.unit u).power = .awake ∧ t.mem = s.mem ∧
    ∀ x, (s.unit u).save = some x → (t.unit u).data = x.data ∧ (t.unit u).overlay = x.overlay ∧ (t.unit u).pc = x.pc ∧
      (t.unit u).lanes = x.lanes ∧ (t.unit u).flags = x.flags := by
  have hexec : exec (.channelWake u) s = whenever (decide ((s.unit u).power ≠ .awake)) s (fun s => wakeUnit s u) := rfl
  refine ⟨_, hexec.trans (whenever_true (decide_eq_true h)), ?_⟩
  rw [wakeUnit, State.unit_modUnit_same, State.modUnit_mem]
  refine ⟨?_, rfl, fun x hx => ?_⟩
  · cases (s.unit u).save <;> rfl
  · rw [hx]
    exact ⟨rfl, rfl, rfl, rfl, rfl⟩

theorem footingStopTimeout_stops {since : Nat} {l : List (FPower × Nat)} (h : (s.unit u).stopping = some (since, l)) (hdue : since + 65536 ≤ s.cycle) :
    exec (.footingStopTimeout u) s = .next (finishStop s u) := by
  have hexec : exec (.footingStopTimeout u) s = execFootingStopTimeout u s := rfl
  rw [hexec, execFootingStopTimeout, h]
  exact whenever_true (decide_eq_true hdue)

end Power

/-- Settles O35: a POWER request by its action and the channel's state, the wake, and the time-out of a forced stop. -/
theorem powerStates : Obligations.PowerStates := by
  refine ⟨?_, fun s u => ⟨channelWake_spec, fun since l => footingStopTimeout_stops⟩⟩
  intro s g m h hanswers hreserved act u va v lowered asked waits
  have hdown (hact : act = 0) : exec (.powerDown g) s = .next (lowerPower .down g v u (bit m.w0.toNat 11) va) :=
    powerRequest_answers h hanswers hreserved (by rw [show fieldOf m.w0 10 9 = 0 from hact]; rfl) (by rw [show fieldOf m.w0 10 9 = 0 from hact]; decide)
  have hrefresh (hact : act = 1) : exec (.selfRefresh g) s = .next (lowerPower .refresh g v u (bit m.w0.toNat 11) va) :=
    powerRequest_answers h hanswers hreserved (by rw [show fieldOf m.w0 10 9 = 1 from hact]; rfl) (by rw [show fieldOf m.w0 10 9 = 1 from hact]; decide)
  refine ⟨fun hact hp => ?_, fun hact hp => ?_, fun hlive hforced => ⟨fun hact hp => ?_, fun hact hp => ?_⟩,
    fun hlive hforced hrun hawake => ⟨fun hact => ?_, fun hact => ?_⟩, fun hlive hforced hrun => ⟨fun hact hp => ?_, fun hact hp => ?_⟩,
    fun hpower hact => ?_⟩
  · rw [hdown hact, lowerPower_done hp]
  · rw [hrefresh hact, lowerPower_done hp]
  · rw [hdown hact, hforced, lowerPower_live hlive hp]
  · rw [hrefresh hact, hforced, lowerPower_live hlive hp]
  · rw [hdown hact, hforced, lowerPower_forced hlive (by rw [hawake]; decide), if_pos ⟨hrun, hawake⟩]
    rfl
  · rw [hrefresh hact, hforced, lowerPower_forced hlive (by rw [hawake]; decide), if_pos ⟨hrun, hawake⟩]
    rfl
  · rw [hdown hact, hforced, lowerPower_forced hlive hp, if_neg (by simp [hrun])]
    rfl
  · rw [hrefresh hact, hforced, lowerPower_forced hlive hp, if_neg (by simp [hrun])]
    rfl
  · have hexec : exec (.powerExit g) s =
      powerRequest g [2] (fun s u _ va => foremanStore (if (s.unit u).power = .awake then s else wakeUnit s u) (g * 8) va 0) s := rfl
    rw [hexec, powerRequest_answers h hanswers hreserved (by rw [show fieldOf m.w0 10 9 = 2 from hact]; rfl)
      (by rw [show fieldOf m.w0 10 9 = 2 from hact]; decide)]
    exact congrArg (fun x => Host.Outcome.next (foremanStore x (g * 8) va 0)) (if_neg hpower)

end Sys2Proof.Machine
end

section
/-! PROOFS. Branches, calls and loops, and the ends and traps of an activation (chapter 16). -/

open Sys2Proof

namespace Sys2Proof.Machine

/-! ### Branches and calls (R312, R313) -/

section Flow

variable {s : State} {g : Fin 8} {len a : Nat}

theorem branchForm_taken {k : Nat} {f : Bool} {o : BitVec k} (hc : s.cur ≠ .none) (h : s.predicate g = !f) :
    branchForm g f len o s = .next (s.jump (target s o)) := by
  rw [branchForm, onProcessor_runs hc, if_pos h]
theorem branchForm_passed {k : Nat} {f : Bool} {o : BitVec k} (hc : s.cur ≠ .none) (h : s.predicate g = f) :
    branchForm g f len o s = .next (s.advance len) := by
  rw [branchForm, onProcessor_runs hc, if_neg (by rw [h]; cases f <;> decide)]

theorem State.ready.loop {t : State → Word} (h : s.ready g [a] []) :
    loopForm g len a t s = .next (if (s.correctRegs [a]).w a - 1 ≠ 0 then
        ((s.correctRegs [a]).setW a ((s.correctRegs [a]).w a - 1)).jump (t (s.correctRegs [a]))
      else ((s.correctRegs [a]).setW a ((s.correctRegs [a]).w a - 1)).advance len) := by
  rw [loopForm, onProcessor_runs h.runs, guarded_true h.guard, needing_ready h.read h.sound]

/-- A loop register that does not come to 0 branches. -/
theorem State.ready.loop_taken {t : State → Word} (h : s.ready g [a] []) (hx : (s.correctRegs [a]).w a - 1 ≠ 0) :
    loopForm g len a t s = .next (((s.correctRegs [a]).setW a ((s.correctRegs [a]).w a - 1)).jump (t (s.correctRegs [a]))) := by
  rw [h.loop, if_pos hx]
theorem State.ready.loop_ends {t : State → Word} (h : s.ready g [a] []) (hx : (s.correctRegs [a]).w a - 1 = 0) :
    loopForm g len a t s = .next (((s.correctRegs [a]).setW a 0).advance len) := by
  rw [h.loop, if_neg (not_not_intro hx), hx]

theorem jumpTo_even {k : State → State} {x : Word} (hx : x.toNat % 2 = 0) : jumpTo s x k = (k s).jump x := by
  rw [jumpTo, if_neg]
  rw [BitVec.getLsbD, Nat.testBit_zero, hx]
  decide
theorem jumpTo_odd {c n : Nat} {k : State → State} {x : Word} (hc : s.cur = .strand c n) (hx : x.toNat % 2 = 1) :
    jumpTo s x k = s.trap 0x06 0 x := by
  rw [jumpTo, if_pos, hc]
  rw [BitVec.getLsbD, Nat.testBit_zero, hx]
  decide

theorem State.ready.jumpForm (h : s.ready g [a] []) :
    jumpForm g len a s = .next (jumpTo (s.correctRegs [a]) ((s.correctRegs [a]).w a) id) := by
  rw [Machine.jumpForm, onProcessor_runs h.runs, guarded_true h.guard, needing_ready h.read h.sound]

theorem State.ready.execCall {o : BitVec 16} {d : Fin 32} (h : s.ready g [] [d.val]) :
    exec (.call g o d) s = .next ((s.setW d (s.pc + 4)).jump (target s o)) := by
  have hexec : exec (.call g o d) s = Machine.execCall g o d s := rfl
  rw [hexec, Machine.execCall, onProcessor_runs h.runs, guarded_true h.guard, if_neg (by simp [h.written])]

theorem State.ready.execCalli {d a : Fin 32} (h : s.ready g [a.val] [d.val]) :
    exec (.calli g d a) s =
      .next (jumpTo (s.correctRegs [a.val]) ((s.correctRegs [a.val]).w a) (fun s => s.setW d (s.pc + 4))) := by
  have hexec : exec (.calli g d a) s = Machine.execCalli g d a s := rfl
  rw [hexec, Machine.execCalli, onProcessor_runs h.runs, guarded_true h.guard, if_neg (by simp [h.written]), needing_ready h.read h.sound]

/-- A prefix is one more of the instruction that follows. -/
theorem execImmx_spec {c n : Nat} (x : BitVec 27) (hc : s.cur = .strand c n) : ∃ v, exec (.immx x) s = .next v ∧ v.imx = s.imx ++ [x] ∧
    v.pc = s.pc + 4 ∧ v.firstPc = s.firstPc ∧ v.mem = s.mem := by
  have hexec : exec (.immx x) s = execImmx x s := rfl
  rw [hexec, execImmx, hc]
  refine ⟨_, rfl, ?_⟩
  have hcur : (s.modStrand c n (fun t => { t with imx := t.imx ++ [x], pc := t.pc + 4 })).cur = .strand c n := hc
  have himx : (s.modStrand c n (fun t => { t with imx := t.imx ++ [x], pc := t.pc + 4 })).imx = s.imx ++ [x] := by
    rw [State.imx, State.imx, hcur, hc]
    dsimp only
    rw [State.strand_modStrand_same]
  have hpc : (s.modStrand c n (fun t => { t with imx := t.imx ++ [x], pc := t.pc + 4 })).pc = s.pc + 4 := by
    rw [State.pc, State.pc, hcur, hc]
    dsimp only
    rw [State.strand_modStrand_same]
  refine ⟨himx, hpc, ?_, rfl⟩
  rw [State.firstPc, State.firstPc, himx, hpc, List.length_append, List.length_singleton, word, word]
  generalize s.imx.length = k
  rw [show 4 * (k + 1) = 4 * k + 4 by omega, BitVec.ofNat_add]
  exact add_sub_add_right_eq_sub ..

end Flow

/-- Settles O36: each form by its predicate, its count or its address. -/
theorem branches : Obligations.Branches := by
  intro s g f o b i u d a p x hc t q dest
  have hnop : exec .nop s = onProcessor s (fun s => .next (s.advance 4)) := rfl
  have hnopC : exec .nopC s = onProcessor s (fun s => .next (s.advance 2)) := rfl
  refine ⟨branchForm_taken hc, branchForm_passed hc, branchForm_taken hc (State.predicate_zero s), hnop.trans (onProcessor_runs hc),
    hnopC.trans (onProcessor_runs hc), fun h => h.execCall, fun h => ?_, fun h => ?_, fun c n hcur => execImmx_spec x hcur⟩
  · have ha : s.ready g [a.val] [] := h.mono (fun _ hr => hr) (List.nil_subset _)
    refine ⟨fun hx => ha.loop_taken hx, fun hx => ha.loop_ends hx, fun hx => ⟨?_, ?_, ?_⟩, fun c n hcur hx => ⟨?_, ?_, ?_⟩⟩
    · rw [h.execCalli, jumpTo_even hx]
    · exact ha.jumpForm.trans (congrArg _ (jumpTo_even hx))
    · exact ha.jumpForm.trans (congrArg _ (jumpTo_even hx))
    · rw [h.execCalli, jumpTo_odd ((State.correctRegs_cur ..).trans hcur) hx]
    · exact ha.jumpForm.trans (congrArg _ (jumpTo_odd ((State.correctRegs_cur ..).trans hcur) hx))
    · exact ha.jumpForm.trans (congrArg _ (jumpTo_odd ((State.correctRegs_cur ..).trans hcur) hx))
  · exact ⟨fun hx => h.loop_taken hx, fun hx => h.loop_ends hx, fun hx => h.jumpForm.trans (congrArg _ (jumpTo_even hx))⟩

/-! ### Ends and requested traps (R314, R315, R321, R322) -/

section Ends

variable {s : State} {c n : Nat} {g : Fin 8} {len : Nat}

theorem endForm_ends (hcur : s.cur = .strand c n) (hg : s.predicate g = true) (hend : mayEnd s c n = true) :
    endForm g len s = .next (endNow s c n) := by
  rw [endForm, onStrand_strand hcur, guarded_true hg, if_pos hend]

theorem yieldForm_leaves {u : State} (hcur : s.cur = .strand c n) (hg : s.predicate g = true) (haudit : (s.strand c n).audit = false)
    (hallow : (s.strand c n).allow = 8) (harsp : (s.strand c n).arsp = 2) (hloads : loadsOutstanding s c n = false)
    (haccept : accept s c 0 (contMsg s c n) 0 (.cont (contOf (s.strand c n) n len)) 0 0 = (u, true)) :
    yieldForm g len s = .next (u.modStrand c n (fun t =>
      { t with mode := .free, wait := .none, imx := [], deadline := none, claim := 0, serial := false, rres := false, fol := 0,
               folq := [], followed := false, hod := none, built := [] })) := by
  have hhome : allowancesHome (s.strand c n) = true := decide_eq_true ⟨hallow, harsp⟩
  rw [yieldForm, onStrand_strand hcur, guarded_true hg]
  simp only [haudit, hhome, hloads, haccept]
  rfl

theorem breakForm_traps (hcur : s.cur = .strand c n) (hg : s.predicate g = true) :
    breakForm g len s = .next (s.trapAfter 0x1C 0 0 len) := by
  rw [breakForm, onStrand_strand hcur, guarded_true hg]

theorem State.strandReady.requestTrap {cause : Nat} {a : Fin 32} (h : s.strandReady c n g [a.val] []) : requestTrap g cause a s =
    .next ((s.correctRegs [a.val]).trapAfter cause (((s.correctRegs [a.val]).w a).toNat % 256) ((s.correctRegs [a.val]).w a) 4) := by
  rw [Machine.requestTrap, onStrand_strand h.runs, guarded_true h.guard, needing_ready h.read h.sound]
  exact congrArg (fun x => Host.Outcome.next (State.trapAfter _ cause x _ 4)) (congrArg (· % 256) (Nat.div_one _))

theorem State.strandReady.rte {a : Fin 32} {j : Nat} (h : s.strandReady c n g [a.val] [])
    (hcls : ((s.correctRegs [a.val]).strand c n).cls = 63)
    (hj : parkedStrand (s.correctRegs [a.val]) c ((s.correctRegs [a.val]).strand c n).m.w3 = some j)
    (hend : mayEnd (s.correctRegs [a.val]) c n = true) : exec (.rte g a) s =
      .next (endNow (if ((s.correctRegs [a.val]).w a).getLsbD 0 then endActivation (s.correctRegs [a.val]) c j
        else resumeStrand (s.correctRegs [a.val]) c j) c n) := by
  have hexec : exec (.rte g a) s = execRte g a s := rfl
  rw [hexec, execRte, onStrand_strand h.runs, guarded_true h.guard, needing_ready h.read h.sound]
  simp only [hcls, hj, hend, if_true]
  rfl

theorem State.strandReady.rte_other {a : Fin 32} (h : s.strandReady c n g [a.val] [])
    (hcls : ((s.correctRegs [a.val]).strand c n).cls ≠ 63) : exec (.rte g a) s = .next ((s.correctRegs [a.val]).trap 0x08 0 0) := by
  have hexec : exec (.rte g a) s = execRte g a s := rfl
  rw [hexec, execRte, onStrand_strand h.runs, guarded_true h.guard, needing_ready h.read h.sound, if_neg hcls]

end Ends

/-- Settles O37: each way in which an activation ends, yields or traps on its own. -/
theorem endingAndTraps : Obligations.EndingAndTraps := by
  intro s c n g a h t strand gone
  have h0 : s.predicate (0 : Fin 8) = true := State.predicate_zero s
  have hc : s.cur ≠ .none := by rw [h.runs]; exact Actor.noConfusion
  have hillegal (detail : Nat) : exec (.illegalInstruction detail) s = onProcessor s (fun s => .next (s.trap 0x01 detail s.firstPc)) := rfl
  refine ⟨fun hend => ⟨endForm_ends h.runs h.guard hend, endForm_ends h.runs h0 hend⟩, fun haudit hallow harsp hloads => ⟨?_, ?_⟩,
    breakForm_traps h.runs h.guard, breakForm_traps h.runs h0, h.requestTrap, h.requestTrap, fun detail => (hillegal detail).trans (onProcessor_runs hc), fun addr => ?_,
    fun j hcls hj hend => ⟨fun hbit => ?_, fun hbit => ?_⟩, h.rte_other⟩
  · exact fun u haccept => yieldForm_leaves h.runs h.guard haudit hallow harsp hloads haccept
  · exact fun u haccept => yieldForm_leaves h.runs h0 haudit hallow harsp hloads haccept
  · have hexec : exec (.fetchFault addr) s = execFetchFault addr s := rfl
    rw [hexec, execFetchFault, onProcessor_runs hc, h.runs]
  · rw [h.rte hcls hj hend, show ((s.correctRegs [a.val]).w a).getLsbD 0 = false from hbit]
    rfl
  · rw [h.rte hcls hj hend, show ((s.correctRegs [a.val]).w a).getLsbD 0 = true from hbit]
    rfl

end Sys2Proof.Machine
end

section
/-! PROOFS. What messages, spills and engines' accesses leave of the strands: everything but the sticky bits of the packages that a store did
not reach (R73, R102, R224). -/

open Sys2Proof

namespace Sys2Proof.Machine

/-- Every strand is as it was, but for its sticky bits. -/
structure SameRegisters (s t : State) : Prop where
  strand : ∀ c n, ∃ l, t.strand c n = { s.strand c n with sticky := l }

section Rules

variable {s t u : State}

theorem SameRegisters.refl : SameRegisters s s := ⟨fun _ _ => ⟨_, rfl⟩⟩
theorem SameRegisters.trans (h : SameRegisters s t) (h' : SameRegisters t u) : SameRegisters s u := by
  refine ⟨fun c n => ?_⟩
  obtain ⟨l, hl⟩ := h.strand c n
  obtain ⟨l', hl'⟩ := h'.strand c n
  exact ⟨l', by rw [hl', hl]⟩
theorem SameRegisters.of_strand (h : ∀ c n, t.strand c n = s.strand c n) : SameRegisters s t := ⟨fun c n => ⟨_, h c n⟩⟩
/-- An operation that touches no core. -/
theorem SameRegisters.of_cores (h : t.cores = s.cores) : SameRegisters s t :=
  .of_strand fun c n => by rw [State.strand, State.strand, State.core, State.core, h]
theorem Background.sameRegisters (h : Background s t) : SameRegisters s t := .of_strand h.strand
theorem SameStrands.sameRegisters (h : SameStrands s t) : SameRegisters s t := .of_strand h.strand
theorem SameRegisters.ite {p : Prop} [Decidable p] {a b : State} (ha : SameRegisters s a) (hb : SameRegisters s b) :
    SameRegisters s (if p then a else b) := by
  split
  · exact ha
  · exact hb
theorem SameRegisters.foldl {α : Type} {f : State → α → State} (hf : ∀ s x, SameRegisters s (f s x)) :
    ∀ (l : List α) (s : State), SameRegisters s (l.foldl f s)
  | [], _ => .refl
  | x :: l, s => (hf s x).trans (SameRegisters.foldl hf l (f s x))

/-- The answer of an operation that may refuse, by its branches. -/
theorem SameRegisters.of_ite {p : Prop} [Decidable p] {a b : Option State} (ha : a = some t → SameRegisters s t)
    (hb : b = some t → SameRegisters s t) : (if p then a else b) = some t → SameRegisters s t := by
  split
  · exact ha
  · exact hb
theorem SameRegisters.of_some (h : SameRegisters s u) (hu : some u = some t) : SameRegisters s t := Option.some.inj hu ▸ h

/-- A change of a core that touches no strand. -/
theorem SameRegisters.modCore (c : Nat) (f : Core → Core) (hf : ∀ k n, (f k).strand n = k.strand n) : SameRegisters s (s.modCore c f) := by
  refine .of_strand fun c' n => ?_
  rw [State.strand, State.strand]
  by_cases h : c = c'
  · subst h
    rw [State.core_modCore_same, hf]
  · rw [State.core_modCore_other _ _ h]

theorem SameRegisters.setSticky (c n act peer : Nat) : SameRegisters s (setSticky s c n act peer) := by
  refine ⟨fun c' n' => ?_⟩
  by_cases h : c = c' ∧ n = n'
  · obtain ⟨rfl, rfl⟩ := h
    rw [Machine.setSticky, State.strand_modStrand_same]
    split <;> exact ⟨_, rfl⟩
  · rw [Machine.setSticky, State.strand_modStrand_other]
    · exact ⟨_, rfl⟩
    · exact not_and_or.1 h

/-! ### Lines of other packages, and control space -/

/-- One dirty byte of a line goes back to its home. -/
def writeBackByte (r : RLine) (s : State) (i : Nat) : State :=
  if r.dirty.getLsbD i then { s with mem := Memory.set s.mem (r.line * 64 + i) (BitVec.ofNat 8 (r.data.toNat / 2 ^ (8 * i))) } else s
theorem SameRegisters.writeBackByte (r : RLine) (i : Nat) : SameRegisters s (writeBackByte r s i) := .ite (.of_cores rfl) .refl
theorem SameRegisters.clearRecord (pa : Nat) : SameRegisters s (s.clearRecord pa) := .of_cores rfl
theorem SameRegisters.setRline (r : RLine) : SameRegisters s (s.setRline r) := .of_cores rfl
theorem SameRegisters.dropRline (g line : Nat) : SameRegisters s (s.dropRline g line) := .of_cores rfl
theorem SameRegisters.countRemote (g line n : Nat) : SameRegisters s (s.countRemote g line n) := .of_cores rfl
theorem SameRegisters.modPanel (p : Nat) (f : Panel → Panel) : SameRegisters s (s.modPanel p f) := .of_cores rfl
theorem SameRegisters.modPkg (g : Nat) (f : Pkg → Pkg) : SameRegisters s (s.modPkg g f) := .of_cores rfl
theorem SameRegisters.modDie (d : Nat) (f : Die → Die) : SameRegisters s (s.modDie d f) := .of_cores rfl
theorem SameRegisters.modLaunch (l : Nat) (f : Launch → Launch) : SameRegisters s (s.modLaunch l f) := .of_cores rfl

theorem SameRegisters.writeBackBytes (r : RLine) : SameRegisters s (writeBackBytes s r) := by
  unfold Machine.writeBackBytes
  have hreach : SameRegisters s (reachHbm s false r.dom (r.line * 64) (if r.dirty = BitVec.allOnes 64 then 64 else 1) true) :=
    (Background.reachHbm ..).sameRegisters
  have hbytes (s : State) : SameRegisters s ((List.range 64).foldl (Machine.writeBackByte r) s) :=
    .foldl (fun s i => .writeBackByte (s := s) r i) (List.range 64) s
  have hwords (s : State) (l m : List Nat) : SameRegisters s (if r.zeroed then ({ s with poison := l, single := m } : State).clearRecord (r.line * 64)
      else { s with poison := l, single := m }) := .ite (.of_cores rfl) (.of_cores rfl)
  exact hreach.trans ((hbytes _).trans (hwords ..))

theorem SameRegisters.writeBackLine (g line : Nat) : SameRegisters s (s.writeBackLine g line) := by
  unfold State.writeBackLine
  split
  · exact .refl
  · rename_i r _
    dsimp only
    split
    · exact .refl
    · split
      · refine SameRegisters.trans ?_ ((SameRegisters.writeBackBytes r).trans (.setRline _))
        exact .ite .refl (.countRemote ..)
      · exact (SameRegisters.setRline _).trans
          (.foldl (fun (s : State) (w : Nat × Nat × Nat) => SameRegisters.setSticky (s := s) w.1 w.2.1 w.2.2 (paPkg (line * 64))) _ _)
theorem SameRegisters.writeBackAll (g : Nat) : SameRegisters s (s.writeBackAll g) :=
  .foldl (fun s l => SameRegisters.writeBackLine (s := s) g l) _ _
theorem SameRegisters.dropCopy (g pa : Nat) : SameRegisters s (s.dropCopy g pa) := (SameRegisters.writeBackLine ..).trans (.dropRline ..)

theorem SameRegisters.setRemsz (d n : Nat) : SameRegisters s (setRemsz s d n) := by
  unfold Machine.setRemsz
  dsimp only
  refine SameRegisters.trans ?_ (.modDie ..)
  have hleave (l : List Nat) : SameRegisters s (l.foldl (fun s l => (s.writeBackLine (d / 2) l).dropRline (d / 2) l) s) :=
    .foldl (fun s l => (SameRegisters.writeBackLine (s := s) (d / 2) l).trans (.dropRline ..)) l s
  exact (hleave _).trans (.ite (.of_cores rfl) .refl)
theorem SameRegisters.writeL2cfg (d : Nat) (v : Word) : SameRegisters s (writeL2cfg s d v) :=
  (SameRegisters.modDie ..).trans (.ite (.setRemsz ..) .refl)
theorem SameRegisters.setScore (pk h : Nat) (f : Nat → Nat) : SameRegisters s (setScore s pk h f) :=
  (SameRegisters.modPanel ..).trans (.ite ((SameRegisters.modPanel ..).trans (.modPkg ..)) .refl)
theorem SameRegisters.apertureWrite (p off bytes data : Nat) : SameRegisters s (apertureWrite s p off bytes data) :=
  .ite (.modPanel ..) (.modPanel ..)

theorem SameRegisters.controlWrite {g addr : Nat} {v : Word} (h : controlWrite s g addr v = some t) : SameRegisters s t := by
  revert h
  unfold Machine.controlWrite
  dsimp only
  refine .of_ite (.of_some .refl) (.of_ite (.of_ite (.of_some .refl) (.of_ite (fun h => nomatch h) (.of_some ?_))) ?_)
  · exact .ite (.writeL2cfg ..) (.of_cores rfl)
  · refine .of_ite (.of_some (.modDie ..)) (.of_ite (.of_some (.modDie ..)) (.of_ite (.of_some (.of_cores rfl)) ?_))
    refine .of_ite (.of_some (.ite (.modPkg ..) .refl)) (.of_ite (.of_some (.modPkg ..)) (.of_ite (.of_some (.setScore ..)) ?_))
    exact .of_ite (.of_some (.modPkg ..)) (.of_ite (.of_some (.of_cores rfl)) (.of_some .refl))

theorem SameRegisters.foremanWrites {pa n v : Nat} (h : foremanWrites s pa n v = some t) : SameRegisters s t := by
  unfold Machine.foremanWrites at h
  dsimp only at h
  split at h
  · exact Option.some.inj h ▸ .apertureWrite ..
  · split at h
    · exact Option.some.inj h ▸ .refl
    · exact .controlWrite h

/-! ### Engines' accesses -/

theorem SameRegisters.write (pa n v : Nat) : SameRegisters s (s.write pa n v) := .of_cores rfl
theorem SameRegisters.padWrite (head : Bool) (pa n v : Nat) : SameRegisters s (padWrite s head pa n v) := .ite .refl (.write ..)

theorem SameRegisters.localWrite (a : Agent) (p : Place53) (n v : Nat) : SameRegisters s (localWrite s a p n v).1 := by
  unfold Machine.localWrite
  dsimp only
  split
  · exact .refl
  · split
    · exact .padWrite ..
    · split
      · cases hf : Machine.foremanWrites s p.pa n v with
        | none => exact .refl
        | some t => exact .foremanWrites hf
      · exact (Background.reachHbm ..).sameRegisters.trans (.write ..)

theorem SameRegisters.refusedFar (a : Agent) (p : Place53) : SameRegisters s (refusedFar s a p).1 := by
  unfold Machine.refusedFar
  split
  · exact .setSticky ..
  · exact .refl

theorem SameRegisters.replayStore (a : Agent) (pa n v : Nat) : SameRegisters s (replayStore s a pa n v).1 := by
  unfold Machine.replayStore
  split
  · exact .refl
  · exact .ite (.write ..) (.modCore a.core _ (by exact fun _ _ => rfl))

theorem SameRegisters.farWrite (a : Agent) (p : Place53) (n v : Nat) : SameRegisters s (farWrite s a p n v).1 := by
  have hhome : SameRegisters s (if farRefused s a p n true then Machine.refusedFar s a p else Machine.localWrite s a p n v).1 := by
    split
    · exact .refusedFar ..
    · exact .localWrite ..
  unfold Machine.farWrite
  dsimp only
  split
  · exact .replayStore ..
  · split
    · exact .localWrite ..
    · split
      · exact hhome
      · split
        · exact (State.addRline_sameStrands ‹_›).sameRegisters
        · exact hhome

theorem SameRegisters.writeVa (a : Agent) (fuel : Nat) : ∀ (s : State) (va : Nat) (l : List Byte), SameRegisters s (writeVa s a fuel va l).1 := by
  induction fuel with
  | zero => exact fun _ _ _ => .refl
  | succ fuel ih =>
    intro s va l
    unfold Machine.writeVa
    dsimp only
    split
    · exact .refl
    · have htranslate := (Background.translateFor (s := s) a.core a.dom (va % 2 ^ 56) .store).sameRegisters
      revert htranslate
      rcases Machine.translateFor s a.core a.dom (va % 2 ^ 56) .store with ⟨t, r | p⟩
      · exact id
      · intro htranslate
        have hwrite := htranslate.trans (.farWrite a p (Nat.min l.length (64 - va % 2 ^ 56 % 64))
          (ofBytesLE (l.take (Nat.min l.length (64 - va % 2 ^ 56 % 64)))))
        revert hwrite
        dsimp only
        rcases Machine.farWrite t a p _ _ with ⟨u, _ | cause⟩
        · exact fun hwrite => hwrite.trans (ih u ..)
        · exact id

/-! ### Messages -/

theorem SameRegisters.postSystem (c n skind : Nat) (target : Word) (sfn : Nat) (w0 w1 w2 w3 w4 w5 : Word) :
    SameRegisters s (s.postSystem c n skind target sfn w0 w1 w2 w3 w4 w5) := .of_cores rfl
theorem Core.setRing_strand (k : Core) (p : Nat) (r : Ring) (n : Nat) : (k.setRing p r).strand n = k.strand n := rfl

theorem SameRegisters.ringFails (c p cause kind va : Nat) (write : Option Nat) : SameRegisters s (ringFails s c p cause kind va write) := by
  unfold Machine.ringFails
  dsimp only
  refine .ite (.modCore c _ (by exact fun _ _ => rfl)) (SameRegisters.trans (.modCore c _ (by exact fun _ _ => rfl)) (.postSystem ..))

/-- A word that a ring entry brings poisoned. -/
def poisonedEntryWord (c va : Nat) (s : State) (i : Nat) : State :=
  match translate s c (s.core c).domain (va + 8 * i) with
  | (s, .ok pl) => { s with poison := (pl.pa / 8) :: s.poison.filter (fun w => decide (w ≠ pl.pa / 8)) }
  | (s, .error _) => s
theorem SameRegisters.poisonedEntryWord (c va i : Nat) : SameRegisters s (poisonedEntryWord c va s i) := by
  have htranslate := (Background.translate (s := s) c (s.core c).domain (va + 8 * i)).sameRegisters
  unfold Machine.poisonedEntryWord
  revert htranslate
  rcases Machine.translate s c _ _ with ⟨t, r | p⟩
  · exact id
  · exact fun h => h.trans (.of_cores rfl)
theorem SameRegisters.poisonEntry (c va : Nat) (bad : BitVec 8) : SameRegisters s (poisonEntry s c va bad) :=
  .foldl (fun s i => SameRegisters.poisonedEntryWord (s := s) c va i) _ s

theorem SameRegisters.spill (c p : Nat) (m : Msg) (bad : BitVec 8) (kind : SlotKind) (src flit : Nat) :
    SameRegisters s (spill s c p m bad kind src flit).1 := by
  have hwrite := SameRegisters.writeVa (s.agent c) 2 s (ringVa (s.core c).spillq p ((s.core c).ring p).tail) m.bytes
  unfold Machine.spill
  revert hwrite
  dsimp only
  rcases Machine.writeVa s (s.agent c) 2 _ m.bytes with ⟨t, _ | ⟨cause, kind, at_⟩⟩
  · intro hwrite
    dsimp only
    exact hwrite.trans (SameRegisters.trans (.poisonEntry c _ bad) (.modCore c _ (by exact fun _ _ => rfl)))
  · exact fun hwrite => hwrite.trans (.ringFails ..)

theorem SameRegisters.accept (c p : Nat) (m : Msg) (bad : BitVec 8) (kind : SlotKind) (src flit : Nat) :
    SameRegisters s (accept s c p m bad kind src flit).1 := by
  unfold Machine.accept
  dsimp only
  split
  · dsimp only
    exact .modCore c _ (by exact fun _ _ => rfl)
  · split
    · exact .refl
    · exact .spill ..

/-! ### Hods that are parked -/

theorem SameRegisters.tellSlot (c i : Nat) (st : HodStatus) (cause parkAddr : Nat) : SameRegisters s (tellSlot s c i st cause parkAddr) := .postSystem ..
theorem SameRegisters.emptySlot (c i : Nat) : SameRegisters s (emptySlot s c i) :=
  SameRegisters.trans (t := s.zeroRange (slotPa s c i) 0x4100) (.of_cores rfl) (.modCore c (fun k => clearBusy k i) fun _ _ => rfl)

theorem SameRegisters.parkSlot (c i : Nat) (st : HodStatus) (cause : Nat) : SameRegisters s (parkSlot s c i st cause).1 := by
  have hmark : SameRegisters s (s.write (slotPa s c i + 5) 2 (st.code + 256 * cause)) := .write ..
  unfold Machine.parkSlot
  revert hmark
  dsimp only
  generalize s.write (slotPa s c i + 5) 2 (st.code + 256 * cause) = t
  intro hmark
  have hstay (u : State) (h : SameRegisters s u) : SameRegisters s (Machine.tellSlot u c i st cause 0) := h.trans (.tellSlot ..)
  cases t.launchOf c with
  | none => exact hstay t hmark
  | some l =>
    dsimp only
    cases l.freeEntry with
    | none => exact hstay t hmark
    | some e =>
      dsimp only
      split
      · exact hstay _ (hmark.trans (Background.reportPoison ..).sameRegisters)
      · have hwrite := SameRegisters.writeVa ((t.correct (slotPa t c i) 0x4100).agent c) 270 (t.correct (slotPa t c i) 0x4100) (parkVa l e)
          ((t.correct (slotPa t c i) 0x4100).readBytes (slotPa (t.correct (slotPa t c i) 0x4100) c i) 0x4100)
        replace hwrite := hmark.trans ((Background.correct ..).sameRegisters.trans hwrite)
        revert hwrite
        rcases Machine.writeVa _ _ 270 _ _ with ⟨u, _ | e⟩
        · intro hwrite
          dsimp only
          exact hwrite.trans (SameRegisters.trans (.tellSlot c i st cause (parkVa l e)) (SameRegisters.trans (.modLaunch ..) (.emptySlot c i)))
        · exact hstay u

/-! ### Traps (R364, R365) -/

theorem SameRegisters.sendFault (c n : Nat) (p : Word × Word × Word × Word × Word × Word) : SameRegisters s (sendFault s c n p) := .postSystem ..

theorem SameRegisters.deliverTrap (c n cause : Nat) (p : Word × Word × Word × Word × Word × Word) : SameRegisters s (deliverTrap s c n cause p) := by
  unfold Machine.deliverTrap
  dsimp only
  split
  · have haccept := SameRegisters.accept (s := s) c 2 ⟨stamp (headerTo 3 (engineIdent c 0 0)) c n 0, header1 0x11 (s.core c).domain, p.1, p.2.1,
      p.2.2.1, p.2.2.2.1, p.2.2.2.2.1, p.2.2.2.2.2⟩ 0 (.trapped n (s.strand c n).act) 0 0
    revert haccept
    rcases Machine.accept s c 2 _ 0 _ 0 0 with ⟨t, _ | _⟩
    · exact fun haccept => haccept.trans (.sendFault ..)
    · exact id
  · exact .sendFault ..

variable {c n cause detail kind : Nat} {addr pc next : Word} {row : Option Nat}

/-- Parking the hod of a stop that traps changes the strand's hod, and sticky bits where the park area lies on another package. -/
theorem parkOnTrap_strand (s : State) (c n cause : Nat) :
    ∃ h l, (parkOnTrap s c n cause).1.strand c n = { s.strand c n with hod := h, sticky := l } := by
  unfold parkOnTrap
  split
  · exact ⟨_, _, rfl⟩
  · rename_i i _
    dsimp only
    have hgone := State.strand_modStrand_same s c n (fun t => { t with hod := none })
    split
    · obtain ⟨l, hl⟩ := (SameRegisters.parkSlot (s := s.modStrand c n (fun t => { t with hod := none })) c i .fault cause).strand c n
      exact ⟨none, l, by rw [hl, hgone]⟩
    · exact ⟨none, _, hgone⟩
theorem parkOnTrap_none (h : (s.strand c n).hod = none) : parkOnTrap s c n cause = (s, 0) := by
  rw [parkOnTrap, h]

theorem dropSample_strand (s : State) (c n : Nat) : ∃ x, (dropSample s c n).strand c n = { s.strand c n with samp := x } := by
  unfold dropSample
  split
  · exact ⟨_, rfl⟩
  · exact ⟨none, State.strand_modStrand_same s c n (fun t => { t with samp := none })⟩
theorem dropSample_core (s : State) (c n : Nat) : ∃ l, (dropSample s c n).core c = { s.core c with strands := l } := by
  unfold dropSample
  split
  · exact ⟨_, rfl⟩
  · exact ⟨_, State.core_modCore_same s c (fun k => k.setStrand n { k.strand n with samp := none })⟩
theorem dropSample_mem (s : State) (c n : Nat) : (dropSample s c n).mem = s.mem := by
  unfold dropSample
  split <;> rfl

/-- A trap's record in its strand (R364). -/
def trapped (t : Strand) (cause what : Nat) (addr pc next : Word) : Strand :=
  { t with trapc := word (cause + what * 256), trapa := addr, trappc := pc, mode := .parked, wait := .none, imx := [], pc := next,
           deadline := none, fol := if t.fol = 1 then 2 else t.fol, folq := [] }

/-- The detail that a trap reports: of a translation fault its kind (R363, Table 1). -/
def trapWhat (cause detail kind : Nat) : Nat := if cause = 0x07 then kind else detail

/-- The state in which a trap is recorded and not yet delivered. -/
def trapState (s : State) (c n cause detail kind : Nat) (addr pc next : Word) : State :=
  ((dropSample (parkOnTrap s c n cause).1 c n).modStrand c n (fun t => trapped t cause (trapWhat cause detail kind) addr pc next)).modCore c
    (fun k => { k with replay := k.replay.map (fun r => { r with trapped := true }) })

theorem takeTrap_eq : takeTrap s c n cause detail kind addr pc next none =
    deliverTrap (trapState s c n cause detail kind addr pc next) c n cause
      (trapPayload (trapState s c n cause detail kind addr pc next) c n cause (trapWhat cause detail kind) kind addr pc
        (word (parkOnTrap s c n cause).2)) := rfl

theorem trapState_strand (s : State) (c n cause detail kind : Nat) (addr pc next : Word) :
    ∃ h l x, (trapState s c n cause detail kind addr pc next).strand c n =
      trapped { s.strand c n with hod := h, sticky := l, samp := x } cause (trapWhat cause detail kind) addr pc next := by
  obtain ⟨h, l, hpark⟩ := parkOnTrap_strand s c n cause
  obtain ⟨x, hdrop⟩ := dropSample_strand (parkOnTrap s c n cause).1 c n
  refine ⟨h, l, x, ?_⟩
  rw [hpark] at hdrop
  rw [trapState, State.strand, State.core_modCore_same]
  refine (State.strand_modStrand_same ..).trans ?_
  rw [hdrop]

/-- What a trap leaves of its strand: all but its record, its hod, its sample and its sticky bits. -/
theorem takeTrap_strand (s : State) (c n cause detail kind : Nat) (addr pc next : Word) :
    ∃ h l x, (takeTrap s c n cause detail kind addr pc next none).strand c n =
      trapped { s.strand c n with hod := h, sticky := l, samp := x } cause (trapWhat cause detail kind) addr pc next := by
  obtain ⟨h, l, x, hstate⟩ := trapState_strand s c n cause detail kind addr pc next
  rw [takeTrap_eq]
  obtain ⟨l', hdeliver⟩ := (SameRegisters.deliverTrap (s := trapState s c n cause detail kind addr pc next) c n cause
    (trapPayload (trapState s c n cause detail kind addr pc next) c n cause (trapWhat cause detail kind) kind addr pc
      (word (parkOnTrap s c n cause).2))).strand c n
  exact ⟨h, l', x, by rw [hdeliver, hstate]; rfl⟩

/-- A trap of a strand without a hod leaves the core's own state and memory, but for its strands and its replay. -/
theorem trapState_core (h : (s.strand c n).hod = none) : ∃ l, (trapState s c n cause detail kind addr pc next).core c =
    { s.core c with strands := l, replay := (s.core c).replay.map (fun r => { r with trapped := true }) } := by
  obtain ⟨l, hdrop⟩ := dropSample_core s c n
  rw [trapState, parkOnTrap_none h, State.core_modCore_same, State.modStrand, State.core_modCore_same, hdrop]
  exact ⟨_, rfl⟩
theorem trapState_mem (h : (s.strand c n).hod = none) : (trapState s c n cause detail kind addr pc next).mem = s.mem := by
  rw [trapState, parkOnTrap_none h]
  exact dropSample_mem s c n

theorem trapIsLocal_trapState (h : (s.strand c n).hod = none) :
    trapIsLocal (trapState s c n cause detail kind addr pc next) c n cause = trapIsLocal s c n cause := by
  obtain ⟨l, hcore⟩ := trapState_core (cause := cause) (detail := detail) (kind := kind) (addr := addr) (pc := pc) (next := next) h
  obtain ⟨_, _, _, hstrand⟩ := trapState_strand s c n cause detail kind addr pc next
  rw [trapIsLocal, trapIsLocal, hcore, hstrand, routineEntry, routineEntry, State.read, State.read, State.read, State.read, trapState_mem h]
  dsimp only [trapped]
  rw [Option.isNone_map]
  rfl

theorem identOf_trapState (h : (s.strand c n).hod = none) (hreplay : (s.core c).replay = none) :
    (trapState s c n cause detail kind addr pc next).identOf c n = s.identOf c n := by
  obtain ⟨l, hcore⟩ := trapState_core (cause := cause) (detail := detail) (kind := kind) (addr := addr) (pc := pc) (next := next) h
  rw [State.identOf, State.identOf, State.seenCore, State.seenCore, hcore, hreplay]
  rfl

theorem State.inject_flit (s : State) (f : Flit) : ∃ f' ∈ (s.inject f).flits, f'.cls = f.cls ∧ f'.msg = f.msg :=
  ⟨_, List.mem_append_right _ (List.mem_singleton_self _), rfl, rfl⟩
theorem State.post_flit (s : State) (c cls : Nat) (m : Msg) (owner : Option Issuer) (rsp : Bool) (hodOwner : Option Nat) (fwd src : Nat) :
    ∃ f ∈ (s.post c cls m owner rsp hodOwner fwd src).flits, f.cls = cls ∧ f.msg = m :=
  s.inject_flit { s.flitFrom c cls m with owner := owner, rsp := rsp, hodOwner := hodOwner, fwd := fwd, src := src }

/-- A SYSTEM message is a flit of the class SYS. -/
theorem postSystem_flit (s : State) (c n skind : Nat) (target : Word) (sfn : Nat) (w0 w1 w2 w3 w4 w5 : Word) :
    ∃ f ∈ (s.postSystem c n skind target sfn w0 w1 w2 w3 w4 w5).flits, f.cls = 4 ∧
      f.msg = ⟨stamp (headerTo 3 target) c n skind, header1 sfn (s.core c).domain, w0, w1, w2, w3, w4, w5⟩ := s.post_flit ..

theorem word_mod_of_lt {x k : Nat} (hk : k ≤ 64) : (word x).toNat % 2 ^ k = x % 2 ^ k := by
  have hdvd : 2 ^ k ∣ 2 ^ 64 := Nat.pow_dvd_pow 2 hk
  rw [word, BitVec.toNat_ofNat, Nat.mod_mod_of_dvd _ hdvd]

/-- The function of a message whose domain is one of the 65,536. -/
theorem msgSfn_header1 {m : Msg} {sfn dom : Nat} (h : m.h1 = header1 sfn dom) (hsfn : sfn < 256) (hdom : dom < 65536) : msgSfn m = sfn := by
  rw [msgSfn, h, fieldOf, bits, header1, word, BitVec.toNat_ofNat]
  omega

theorem sendFault_flit (s : State) (c n : Nat) (p : Word × Word × Word × Word × Word × Word) : ∃ f ∈ (sendFault s c n p).flits, f.cls = 4 ∧
    f.msg.h1 = header1 0x10 (s.core c).domain ∧ f.msg.w0 = p.1 ∧ f.msg.w1 = p.2.1 ∧ f.msg.w2 = p.2.2.1 ∧ f.msg.w3 = p.2.2.2.1 := by
  rw [sendFault]
  obtain ⟨f, hf, hcls, hmsg⟩ := postSystem_flit s c n (skindOf c)
    (match (s.core c).replay with | some r => foremanIdent r.panel | none => s.supvOf c) 0x10 p.1 p.2.1 p.2.2.1 p.2.2.2.1 p.2.2.2.2.1 p.2.2.2.2.2
  exact ⟨f, hf, hcls, by rw [hmsg], by rw [hmsg], by rw [hmsg], by rw [hmsg], by rw [hmsg]⟩

theorem takeTrap_flit (hcause : cause < 256) (hdetail : detail < 256) (hkind : kind < 256) (h : (s.strand c n).hod = none)
    (hlocal : trapIsLocal s c n cause = false) (hreplay : (s.core c).replay = none) (hdom : (s.core c).domain < 65536) :
    ∃ f ∈ (takeTrap s c n cause detail kind addr pc next none).flits, f.cls = 4 ∧ msgSfn f.msg = 0x10 ∧
      f.msg.w0.toNat % 2 ^ 24 = cause + trapWhat cause detail kind * 2 ^ 8 + kind * 2 ^ 16 ∧ f.msg.w1 = addr ∧ f.msg.w2 = pc ∧
      f.msg.w3 = s.identOf c n := by
  have hwhat : trapWhat cause detail kind < 256 := by rw [trapWhat]; split <;> assumption
  obtain ⟨l, hcore⟩ := trapState_core (cause := cause) (detail := detail) (kind := kind) (addr := addr) (pc := pc) (next := next) h
  rw [takeTrap_eq, deliverTrap, if_neg (by rw [trapIsLocal_trapState h, hlocal]; decide)]
  obtain ⟨f, hf, hcls, h1, h2, h3, h4, h5⟩ := sendFault_flit (trapState s c n cause detail kind addr pc next) c n
    (trapPayload (trapState s c n cause detail kind addr pc next) c n cause (trapWhat cause detail kind) kind addr pc
      (word (parkOnTrap s c n cause).2))
  refine ⟨f, hf, hcls, msgSfn_header1 h1 (by decide) (by rw [hcore]; exact hdom), ?_, h3, h4, h5.trans (identOf_trapState h hreplay)⟩
  rw [h2, trapPayload]
  dsimp only
  rw [word_mod_of_lt (by decide)]
  split <;> omega

theorem resumeStrand_strand (s : State) (c n : Nat) :
    (resumeStrand s c n).strand c n = { s.strand c n with mode := .running, mtrap := none } := by
  unfold resumeStrand
  dsimp only
  refine Eq.trans ?_ (State.strand_modStrand_same _ c n (fun t => { t with mode := .running, mtrap := none }))
  rw [State.strand, State.core_modCore_same, State.strand]
  split <;> rfl

end Rules

/-- Settles O38: the record of a trap in its strand, its message, and the return. -/
theorem trapEntry : Obligations.TrapEntry := by
  intro s c n cause detail kind addr pc next hcause hdetail hkind t what old new
  obtain ⟨h, l, x, hstrand⟩ := takeTrap_strand s c n cause detail kind addr pc next
  have hnew : new = trapped { old with hod := h, sticky := l, samp := x } cause what addr pc next := hstrand
  rw [resumeStrand_strand, hnew]
  refine ⟨rfl, rfl, rfl, rfl, rfl, rfl, rfl, rfl, rfl, rfl, rfl, rfl, rfl, rfl, rfl, fun _ => rfl, fun _ => rfl, ?_, rfl, ?_⟩
  · exact fun hhod hlocal hreplay hdom => takeTrap_flit hcause hdetail hkind hhod hlocal hreplay hdom
  · rw [show t.strand c n = new from rfl, hnew]
    rfl

end Sys2Proof.Machine
end

section
/-! PROOFS. The system instructions, and what a foreman's packets do (chapters 16 and 19). -/

open Sys2Proof

namespace Sys2Proof.Machine

/-! ### Waiting, shootdowns and the routine table (R324–R326) -/

section Strands

variable {s : State} {c n : Nat} {g : Fin 8} {d a b : Fin 32}

/-- The conditions that a WAITX still waits for. -/
def waitLeft (s : State) (c n : Nat) (a : Fin 32) : Nat := waitMask s c n &&& ((s.w a.val).toNat % 32)
/-- The deadline of a WAITX has passed. -/
def waitPast (s : State) (c n : Nat) (a : Fin 32) : Bool :=
  match (s.strand c n).deadline with | some t => decide (fieldOf (s.w a.val) 63 32 ≠ 0 ∧ t ≤ s.cycle) | none => false

theorem State.strandReady.waitx (h : s.strandReady c n g [a.val] [d.val]) : exec (.waitx g d a) s =
    if decide (waitLeft (s.correctRegs [a.val]) c n a = 0) || waitPast (s.correctRegs [a.val]) c n a then
      .next (((s.correctRegs [a.val]).setW d (word (waitLeft (s.correctRegs [a.val]) c n a))).advance 4)
    else if ((s.correctRegs [a.val]).strand c n).deadline = none then
      .next ((s.correctRegs [a.val]).modStrand c n (fun t =>
        { t with deadline := some ((s.correctRegs [a.val]).cycle + fieldOf ((s.correctRegs [a.val]).w a.val) 63 32) }))
    else .next (s.correctRegs [a.val]) := by
  have hexec : exec (.waitx g d a) s = execWaitx g d a s := rfl
  rw [hexec, execWaitx, onStrand_strand h.runs, guarded_true h.guard, if_neg (by simp [h.written]), needing_ready h.read h.sound]
  rfl

/-- The shootdown that a TLBINV starts. -/
def shootOf (s : State) (c n : Nat) (sc : Scope) (d a b : Fin 32) : Shoot :=
  { id := s.fresh, core := c, strand := n, dom := fieldOf (s.w d.val) 15 0, lo := fieldOf (s.w a.val) 55 16 * 65536,
    hi := if (s.w b.val).toNat = 0 then 0 else fieldOf (s.w a.val) 55 16 * 65536 + ceilDiv (s.w b.val).toNat 65536 * 65536,
    scope := sc, left := shootTargets s c (fieldOf (s.w d.val) 15 0) sc, mark := s.fresh }

theorem State.strandReady.tlbinv {sc : Scope} (h : s.strandReady c n g [d.val, a.val, b.val] [])
    (hdom : isForeman c = true ∨ fieldOf ((s.correctRegs [d.val, a.val, b.val]).w d.val) 15 0 = (s.core c).domain)
    (haudit : (s.strand c n).audit = false) : exec (.tlbinv g sc d a b) s =
      .next (({ s.correctRegs [d.val, a.val, b.val] with shoots := (s.correctRegs [d.val, a.val, b.val]).shoots ++
        [shootOf (s.correctRegs [d.val, a.val, b.val]) c n sc d a b] } : State).tickFresh.modStrand c n
          (fun t => { t with wait := .shootdown (s.correctRegs [d.val, a.val, b.val]).fresh })) := by
  have hexec : exec (.tlbinv g sc d a b) s = execTlbinv g sc d a b s := rfl
  have hmay : (!isForeman c && decide (fieldOf ((s.correctRegs [d.val, a.val, b.val]).w d.val) 15 0 ≠
      ((s.correctRegs [d.val, a.val, b.val]).core c).domain)) = false := by
    rw [State.correctRegs_core]
    rcases hdom with hf | hd
    · simp [hf]
    · rw [decide_eq_false (not_not_intro hd), Bool.and_false]
  rw [hexec, execTlbinv, onStrand_strand h.runs, guarded_true h.guard, needing_ready h.read h.sound]
  dsimp only
  rw [if_neg (by rw [hmay]; decide), if_neg (by rw [State.correctRegs_strand, haudit]; decide)]
  rfl

theorem correctRegs_shoots (s : State) (rs : List Nat) : (s.correctRegs rs).shoots = s.shoots := by
  obtain ⟨e, p, k, h⟩ := State.correctRegs_eq s rs
  rw [h]

theorem mem_shootTargets (s : State) (c dom : Nat) (sc : Scope) : corePkg c ∈ shootTargets s c dom sc := by
  rw [shootTargets]
  split
  · exact List.mem_cons_self ..
  · exact List.mem_singleton_self _

/-- What a TLBINV has started. -/
theorem State.strandReady.tlbinv_spec {sc : Scope} (h : s.strandReady c n g [d.val, a.val, b.val] [])
    (hdom : isForeman c = true ∨ fieldOf ((s.correctRegs [d.val, a.val, b.val]).w d.val) 15 0 = (s.core c).domain)
    (haudit : (s.strand c n).audit = false) : ∃ t x, exec (.tlbinv g sc d a b) s = .next t ∧ t.shoots = s.shoots ++ [x] ∧
      x = shootOf (s.correctRegs [d.val, a.val, b.val]) c n sc d a b ∧ (t.strand c n).wait = .shootdown x.id ∧ t.mem = s.mem := by
  refine ⟨_, _, h.tlbinv hdom haudit, ?_, rfl, ?_, State.correctRegs_mem ..⟩
  · exact congrArg (· ++ _) (correctRegs_shoots ..)
  · rw [State.strand_modStrand_same]
    rfl

theorem shootOf_hi (s : State) (c n : Nat) (sc : Scope) (d a b : Fin 32) : (shootOf s c n sc d a b).hi =
    if (s.w b.val).toNat = 0 then 0 else fieldOf (s.w a.val) 55 16 * 65536 + ((s.w b.val).toNat + 65535) / 65536 * 65536 := by
  rw [shootOf, ceilDiv, Nat.add_sub_assoc (by decide)]

theorem State.strandReady.rtset (h : s.strandReady c n g [a.val, b.val, b.val + 1] []) (haudit : (s.strand c n).audit = false)
    (hfree : bytesInFlight (s.correctRegs [a.val, b.val, b.val + 1]) c n
      (padBase c + 0x15800 + 16 * (((s.correctRegs [a.val, b.val, b.val + 1]).w a.val).toNat % 64)) 16 = false) :
    exec (.rtset g a b) s = .next (((s.correctRegs [a.val, b.val, b.val + 1]).write
      (padBase c + 0x15800 + 16 * (((s.correctRegs [a.val, b.val, b.val + 1]).w a.val).toNat % 64)) 16
      (((s.correctRegs [a.val, b.val, b.val + 1]).w b.val).toNat +
        2 ^ 64 * ((s.correctRegs [a.val, b.val, b.val + 1]).w (b.val + 1)).toNat)).advance 4) := by
  have hexec : exec (.rtset g a b) s = execRtset g a b s := rfl
  have hfield (x : Word) : fieldOf x 5 0 = x.toNat % 64 := congrArg (· % 64) (Nat.div_one _)
  rw [hexec, execRtset, onStrand_strand h.runs, guarded_true h.guard, needing_ready h.read h.sound,
    if_neg (by rw [State.correctRegs_strand, haudit]; decide)]
  dsimp only
  rw [hfield, hfree]
  rfl

end Strands

/-! ### Foreman strands (R210, R323, R327) -/

section Foremen

variable {s t u v : State} {c n : Nat} {g : Fin 8} {d a b : Fin 32}

theorem onForeman_core {reads writes : List Nat} {k : Nat → Nat → State → Result} (hcur : s.cur = .strand c n) (h : isForeman c = false) :
    onForeman g reads writes s k = .next (s.trap 0x08 0 0) := by
  rw [onForeman, onStrand_strand hcur, h]
  rfl
theorem State.strandReady.onForeman {reads writes : List Nat} {k : Nat → Nat → State → Result} (h : s.strandReady c n g reads writes)
    (hf : isForeman c = true) : onForeman g reads writes s k = k c n (s.correctRegs reads) := by
  rw [Machine.onForeman, onStrand_strand h.runs, if_neg (by rw [hf]; decide), guarded_true h.guard, if_neg (by simp [h.written]),
    needing_ready h.read h.sound]

theorem fieldOf_bit (x : Word) : fieldOf x 0 0 = x.toNat % 2 := congrArg (· % 2) (Nat.div_one _)
theorem fieldOf_two (x : Word) : fieldOf x 1 0 = x.toNat % 4 := congrArg (· % 4) (Nat.div_one _)

theorem exec_resume : exec (.resume g d a b) s = onForeman g [a.val, b.val] [d.val] s fun c n s =>
    if [0, 1, 3, 5].contains (fieldOf (s.w a.val) 39 36) then .next (sendPacket s c n d.val 0x19 (fieldOf (s.w b.val) 0 0) (s.w a.val))
    else .next ((s.setW d.val 1).advance 4) := rfl
theorem exec_preempt : exec (.preempt g d a b) s = onForeman g [a.val, b.val] [d.val] s fun c n s =>
    if fieldOf (s.w b.val) 1 0 = 3 then .next ((s.setW d.val 2).advance 4)
    else .next (sendPacket s c n d.val 0x18 (fieldOf (s.w b.val) 1 0) (s.w a.val)) := rfl

theorem State.strandReady.resume (h : s.strandReady c n g [a.val, b.val] [d.val]) (hf : isForeman c = true)
    (hkind : fieldOf ((s.correctRegs [a.val, b.val]).w a.val) 39 36 ∈ [0, 1, 3, 5]) : exec (.resume g d a b) s =
      .next (sendPacket (s.correctRegs [a.val, b.val]) c n d.val 0x19 (((s.correctRegs [a.val, b.val]).w b.val).toNat % 2)
        ((s.correctRegs [a.val, b.val]).w a.val)) := by
  rw [exec_resume, h.onForeman hf, if_pos (List.contains_iff_mem.2 hkind), fieldOf_bit]
theorem State.strandReady.preempt (h : s.strandReady c n g [a.val, b.val] [d.val]) (hf : isForeman c = true)
    (haction : ((s.correctRegs [a.val, b.val]).w b.val).toNat % 4 ≠ 3) : exec (.preempt g d a b) s =
      .next (sendPacket (s.correctRegs [a.val, b.val]) c n d.val 0x18 (((s.correctRegs [a.val, b.val]).w b.val).toNat % 4)
        ((s.correctRegs [a.val, b.val]).w a.val)) := by
  rw [exec_preempt, h.onForeman hf, fieldOf_two, if_neg haction]
theorem State.strandReady.preempt_three (h : s.strandReady c n g [a.val, b.val] [d.val]) (hf : isForeman c = true)
    (haction : ((s.correctRegs [a.val, b.val]).w b.val).toNat % 4 = 3) :
    exec (.preempt g d a b) s = .next (((s.correctRegs [a.val, b.val]).setW d.val (BitVec.ofNat 64 2)).advance 4) := by
  have htwo : BitVec.ofNat 64 2 = (2 : Word) := rfl
  rw [exec_preempt, h.onForeman hf, fieldOf_two, if_pos haction, htwo]

variable {x : Nat}

/-- A core that no PREEMPT has stopped, or whose launch is ending, has no image. -/
theorem contextOpen_false (h : (s.core x).preempted = false ∨ launchEnding s x = true) : contextOpen s x = false := by
  rw [contextOpen]
  rcases h with h | h
  · rw [h]
    rfl
  · rw [h, Bool.not_true, Bool.and_false]
theorem contextOpen_true (h : (s.core x).preempted = true) (h' : launchEnding s x = false) : contextOpen s x = true := by
  rw [contextOpen, h, h']
  rfl

/-! CTXSAVE matches on what it meets in half a megabyte. The two rules below take such a match apart as it stands, whatever its branches are,
so that no check of a proof step evaluates what is matched on. -/

/-- The match on an address that may not be there, where there is none. -/
theorem match_address_none {M : Option Nat → (Nat → Result) → (PUnit.{1} → Result) → Result} {o : Option Nat} {f : Nat → Result}
    {k : PUnit.{1} → Result} (hM : ∀ f k, M none f k = k ⟨⟩) (h : o = none) : M o f k = k ⟨⟩ := by
  rw [h, hM]
/-- The match on an access that may have failed, where it has not. -/
theorem match_access_done {M : State × Option (Nat × Nat × Nat) → (State → Nat → Nat → Nat → Result) → (State → Result) → Result}
    {r : State × Option (Nat × Nat × Nat)} {f : State → Nat → Nat → Nat → Result} {k : State → Result}
    (hM : ∀ s f k, M (s, none) f k = k s) (h : r = (s, none)) : M r f k = k s := by
  rw [h, hM]

section Ctx

variable (h : s.strandReady c n g [a.val, b.val] [d.val]) (hf : isForeman c = true)
  (halign : fieldOf ((s.correctRegs [a.val, b.val]).w b.val) 55 0 % 4096 = 0)
  (himage : imageCore c ((s.correctRegs [a.val, b.val]).w a.val) = some x)

include h hf halign himage

theorem State.strandReady.ctxsave_closed (hclosed : contextOpen (s.correctRegs [a.val, b.val]) x = false) :
    exec (.ctxsave g d a b) s = .next (((s.correctRegs [a.val, b.val]).setW d.val (BitVec.ofNat 64 0)).advance 4) := by
  have hzero : BitVec.ofNat 64 0 = (0 : Word) := rfl
  have hexec : exec (.ctxsave g d a b) s = execCtxsave g d a b s := rfl
  rw [hexec, execCtxsave, h.onForeman hf]
  refine (if_neg (not_not_intro halign)).trans ?_
  rw [himage, hzero]
  exact if_pos (by rw [hclosed]; rfl)

theorem State.strandReady.ctxload_closed (hclosed : contextOpen (s.correctRegs [a.val, b.val]) x = false) :
    exec (.ctxload g d a b) s = .next (((s.correctRegs [a.val, b.val]).setW d.val (BitVec.ofNat 64 0)).advance 4) := by
  have hexec : exec (.ctxload g d a b) s = execCtxload g d a b s := rfl
  rw [hexec, execCtxload, h.onForeman hf]
  dsimp only
  rw [if_neg (not_not_intro halign)]
  have hzero : BitVec.ofNat 64 0 = (0 : Word) := rfl
  simp only [himage]
  rw [hzero, if_pos (by rw [hclosed]; rfl)]

theorem State.strandReady.ctxsave_writes (hopen : contextOpen (s.correctRegs [a.val, b.val]) x = true)
    (hbanks : ∀ i, i < 2 → bankStands (s.correctRegs [a.val, b.val]) x i = true) (hpoison : imagePoison (s.correctRegs [a.val, b.val]) x = none)
    (hrefused : firstRefused (s.correctRegs [a.val, b.val]) c (fieldOf ((s.correctRegs [a.val, b.val]).w b.val) 55 0)
      (coreImage (s.correctRegs [a.val, b.val]) x (s.correctRegs [a.val, b.val]).fresh).length .store = (u, none))
    (hwrite : writeVa u (u.agent c) ((coreImage (s.correctRegs [a.val, b.val]) x (s.correctRegs [a.val, b.val]).fresh).length / 64 + 2)
      (fieldOf ((s.correctRegs [a.val, b.val]).w b.val) 55 0)
      (coreImage (s.correctRegs [a.val, b.val]) x (s.correctRegs [a.val, b.val]).fresh) = (v, none)) :
    exec (.ctxsave g d a b) s =
      .next ((({ v with shelf := Table.set v.shelf (s.correctRegs [a.val, b.val]).fresh (x, v.core x) } : State).tickFresh.setW d.val
        (BitVec.ofNat 64 (coreImage (s.correctRegs [a.val, b.val]) x (s.correctRegs [a.val, b.val]).fresh).length)).advance 4) := by
  have hexec : exec (.ctxsave g d a b) s = execCtxsave g d a b s := rfl
  have hall : (List.range 2).all (bankStands (s.correctRegs [a.val, b.val]) x) = true :=
    List.all_eq_true.2 fun i hi => hbanks i (List.mem_range.1 hi)
  rw [hexec, execCtxsave, h.onForeman hf]
  refine (if_neg (not_not_intro halign)).trans ?_
  rw [himage]
  refine (if_neg (by rw [hopen]; decide)).trans ((if_neg (by rw [hall]; decide)).trans ?_)
  refine (match_address_none (by intros; rfl) hpoison).trans ?_
  refine (match_access_done (by intros; rfl) hrefused).trans ?_
  exact match_access_done (by intros; rfl) hwrite

theorem State.strandReady.ctxload_loads {head l : List Byte} (hopen : contextOpen (s.correctRegs [a.val, b.val]) x = true)
    (hhead : readVa (s.correctRegs [a.val, b.val]) ((s.correctRegs [a.val, b.val]).agent c) .load 70
      (fieldOf ((s.correctRegs [a.val, b.val]).w b.val) 55 0) 4096 = (u, .ok head)) (hmagic : ofBytesLE head % 2 ^ 32 = 0x43580001)
    (hread : readVa u (u.agent c) .load (headedLength (ofBytesLE head) / 64 + 2) (fieldOf ((s.correctRegs [a.val, b.val]).w b.val) 55 0)
      (headedLength (ofBytesLE head)) = (v, .ok l)) :
    exec (.ctxload g d a b) s = .next (((loadCore v x l).setW d.val (BitVec.ofNat 64 (headedLength (ofBytesLE head)))).advance 4) := by
  have hexec : exec (.ctxload g d a b) s = execCtxload g d a b s := rfl
  rw [hexec, execCtxload, h.onForeman hf]
  dsimp only
  rw [if_neg (not_not_intro halign)]
  simp only [himage, hhead, hread]
  rw [if_neg (by rw [hopen]; decide), if_neg (not_not_intro hmagic)]
  rfl

end Ctx

end Foremen

/-- Settles O39: each system instruction by its own conditions. -/
theorem supervision : Obligations.Supervision := by
  intro s c n g sc d a b h one two inv table left answer va limit
  have hone : s.strandReady c n g [a.val] [d.val] := h.mono (by simp) (List.Subset.refl _)
  have hinv : s.strandReady c n g [d.val, a.val, b.val] [] := h.mono (by simp) (List.nil_subset _)
  have htable : s.strandReady c n g [a.val, b.val, b.val + 1] [] := h.mono (by simp) (List.nil_subset _)
  have htwo : s.strandReady c n g [a.val, b.val] [d.val] := h.mono (by simp) (List.Subset.refl _)
  refine ⟨fun hdone => ?_, fun hleft hnone => ?_, ?_, fun haudit hfree => htable.rtset haudit hfree, fun hf => ?_,
    fun hf => ⟨htwo.resume hf, htwo.preempt hf, htwo.preempt_three hf, fun t halign himage => ⟨fun hclosed => ?_, ?_, ?_⟩⟩⟩
  · rw [hone.waitx]
    refine if_pos ?_
    rw [Bool.or_eq_true]
    refine hdone.imp (fun h => decide_eq_true h) ?_
    rintro ⟨hlimit, t, ht, hpast⟩
    rw [waitPast, show ((s.correctRegs [a.val]).strand c n).deadline = some t from ht]
    exact decide_eq_true ⟨hlimit, hpast⟩
  · rw [hone.waitx, if_neg, if_pos hnone]
    rw [waitPast, show ((s.correctRegs [a.val]).strand c n).deadline = none from hnone, Bool.or_false, decide_eq_true_eq]
    exact hleft
  · intro dom lo len hdom haudit
    obtain ⟨t, x, hexec, hshoots, rfl, hwait, hmem⟩ := hinv.tlbinv_spec (sc := sc) hdom haudit
    exact ⟨t, _, hexec, hshoots, rfl, rfl, rfl, shootOf_hi .., mem_shootTargets .., hwait, hmem⟩
  · exact ⟨onForeman_core h.runs hf, onForeman_core h.runs hf, onForeman_core h.runs hf, onForeman_core h.runs hf⟩
  · exact ⟨htwo.ctxsave_closed hf halign himage (contextOpen_false hclosed), htwo.ctxload_closed hf halign himage (contextOpen_false hclosed)⟩
  · intro u v hpre hend hbanks hpoison l hrefused hwrite
    exact htwo.ctxsave_writes hf halign himage (contextOpen_true hpre hend) hbanks hpoison hrefused hwrite
  · intro u v head l hpre hend hhead hmagic hread
    exact htwo.ctxload_loads hf halign himage (contextOpen_true hpre hend) hhead hmagic hread

/-! ### Packets (R323, R366–R370) -/

section Packets

variable {s : State} {r : Nat} {p : Packet} {n : Nat}

theorem strandResume_eq (h : s.packet? r = some p) (hsfn : p.sfn = 0x19) (hkind : fieldOf p.target 39 36 = 0)
    (hn : parkedStrand s (coreOfIdent p.target) p.target = some n) (hpre : (s.core (coreOfIdent p.target)).preempted = false) (ha : p.action = 0) :
    exec (.strandResume r) s = .next (ackPacket (resumeStrand s (coreOfIdent p.target) n) p 0) := by
  have hexec : exec (.strandResume r) s = execStrandResume r s := rfl
  rw [hexec, execStrandResume, h]
  refine (whenever_true ?_).trans (congrArg _ ?_)
  · rw [hpre, Bool.not_false, Bool.and_true]
    exact decide_eq_true ⟨hsfn, hkind, ha⟩
  · simp only [hn]

theorem strandEnd_eq (h : s.packet? r = some p) (hsfn : p.sfn = 0x19) (hkind : fieldOf p.target 39 36 = 0)
    (hn : parkedStrand s (coreOfIdent p.target) p.target = some n) (hpre : (s.core (coreOfIdent p.target)).preempted = false) (ha : p.action = 1)
    (hend : mayEnd (dropRefused s (coreOfIdent p.target) n) (coreOfIdent p.target) n = true) : exec (.strandEnd r) s =
      .next (ackPacket (endNow (dropRefused s (coreOfIdent p.target) n) (coreOfIdent p.target) n) p 0) := by
  have hexec : exec (.strandEnd r) s = execStrandEnd r s := rfl
  rw [hexec, execStrandEnd, h]
  refine (whenever_true ?_).trans (congrArg _ ?_)
  · rw [hpre, Bool.not_false, Bool.and_true]
    exact decide_eq_true ⟨hsfn, hkind, ha⟩
  · simp only [hn, hend, if_true]

/-- A packet for a strand of a pre-empted core waits there. -/
theorem strandPackets_wait (h : s.packet? r = some p) (hpre : (s.core (coreOfIdent p.target)).preempted = true) :
    exec (.strandResume r) s = .next s ∧ exec (.strandEnd r) s = .next s := by
  have hresume : exec (.strandResume r) s = execStrandResume r s := rfl
  have hend : exec (.strandEnd r) s = execStrandEnd r s := rfl
  rw [hresume, hend, execStrandResume, execStrandEnd, h]
  exact ⟨whenever_false (by rw [hpre, Bool.not_true, Bool.and_false]), whenever_false (by rw [hpre, Bool.not_true, Bool.and_false])⟩

section Cores

variable (h : s.packet? r = some p) (hsfn : p.sfn = 0x18) (hlaunch : (s.core (coreOfIdent p.target)).launch ≠ 0)
  (hending : launchEnding s (coreOfIdent p.target) = false)

include h hsfn hlaunch hending

theorem preemptCore_eq (hforeman : isForeman (coreOfIdent p.target) = false) (hpre : (s.core (coreOfIdent p.target)).preempted = false)
    (hstands : ∀ n, n < 4 → atBoundary s (coreOfIdent p.target) n = true) :
    (p.action = 0 → exec (.preemptCore r) s = .next (ackPacket (stopCore s (coreOfIdent p.target)) p 0)) ∧
    (p.action = 1 → exec (.preemptCore r) s = .next (stopCore s (coreOfIdent p.target))) := by
  have hexec : exec (.preemptCore r) s = execPreemptCore r s := rfl
  have hall : (List.range 4).all (fun n => atBoundary s (coreOfIdent p.target) n) = true :=
    List.all_eq_true.2 fun n hn => hstands n (List.mem_range.1 hn)
  have hrun : decide ((s.core (coreOfIdent p.target)).launch = 0) = false := decide_eq_false hlaunch
  rw [hexec, execPreemptCore, h]
  constructor
  · intro ha
    have h0 : forCore p 0 = true := decide_eq_true ⟨hsfn, ha⟩
    refine (whenever_true (by rw [h0, Bool.true_or])).trans (congrArg _ ?_)
    simp [hrun, hforeman, hpre, hending, h0, hall]
  · intro ha
    have h1 : forCore p 1 = true := decide_eq_true ⟨hsfn, ha⟩
    have h0 : forCore p 0 = false := decide_eq_false fun h => absurd (ha.symm.trans h.2) (by decide)
    refine (whenever_true (by rw [h1, Bool.or_true])).trans (congrArg _ ?_)
    simp [hrun, hforeman, hpre, hending, h0, hall]

theorem preemptSave_eq (ha : p.action = 1) (hpre : (s.core (coreOfIdent p.target)).preempted = true)
    (hsaved : (s.core (coreOfIdent p.target)).saved = false) (hmay : maySave s (coreOfIdent p.target) = true) :
    exec (.preemptSave r) s = .next (ackPacket ((holdAccs ((List.range 4).foldl (fun s n => peerLoss s (coreOfIdent p.target) n) s)
      (coreOfIdent p.target)).modCore (coreOfIdent p.target) (fun k => { k with saved := true })) p 0) := by
  have hexec : exec (.preemptSave r) s = execPreemptSave r s := rfl
  have h1 : forCore p 1 = true := decide_eq_true ⟨hsfn, ha⟩
  rw [hexec, execPreemptSave, h]
  exact whenever_true (by simp [h1, hpre, hsaved, hlaunch, hending, hmay])

theorem preemptResume_eq (ha : p.action = 2) (hpre : (s.core (coreOfIdent p.target)).preempted = true)
    (hsaved : (s.core (coreOfIdent p.target)).saved = false) :
    exec (.preemptResume r) s = .next (ackPacket (resumeCore s (coreOfIdent p.target)) p 0) := by
  have hexec : exec (.preemptResume r) s = execPreemptResume r s := rfl
  rw [hexec, execPreemptResume, h]
  refine (whenever_true (decide_eq_true ⟨hsfn, ha⟩)).trans (congrArg _ (if_neg ?_))
  simp [hpre, hsaved, hlaunch, hending]

end Cores

/-- A supervisor's request becomes a packet to the strand that it names. -/
theorem strandAction_spec {q : Nat} {m : Msg} {l : Launch} (h : sysHead s q 0x14 = some m)
    (hl : (dropSys s q).launchOf (coreOfIdent m.w3) = some l) (hsent : sentBy m l.supv = true) (hkind : fieldOf m.w3 39 36 = 0) :
    ∃ t k, exec (.strandAction q) s = .next t ∧ t.packets = s.packets ++ [k] ∧ k.sfn = 0x19 ∧ k.target = m.w3 ∧ k.action = m.w0.toNat % 2 := by
  have hexec : exec (.strandAction q) s = execStrandAction q s := rfl
  rw [hexec, execStrandAction, h]
  refine ⟨_, { id := (dropSys s q).fresh, sfn := 0x19, action := fieldOf m.w0 0 0, target := m.w3, back := none }, if_neg ?_, rfl, rfl, rfl,
    fieldOf_bit m.w0⟩
  rw [hl, Option.map_some, Option.getD_some, hsent, hkind]
  decide

end Packets

/-- Settles O40: each packet of a foreman, and a supervisor's request. -/
theorem preemption : Obligations.Preemption := by
  refine ⟨fun s r p h => ⟨fun n hsfn hkind hn => ⟨strandResume_eq h hsfn hkind hn, strandEnd_eq h hsfn hkind hn, strandPackets_wait h⟩,
    fun hsfn hlaunch hforeman hending => ⟨preemptCore_eq h hsfn hlaunch hending hforeman, preemptSave_eq h hsfn hlaunch hending,
      preemptResume_eq h hsfn hlaunch hending⟩⟩, fun s p m l h hl hsent hkind => strandAction_spec h hl hsent hkind⟩

end Sys2Proof.Machine
end

section
/-! PROOFS. Bonds, following and their joints (chapter 16). -/

open Sys2Proof

namespace Sys2Proof.Machine

/-! ### The instructions (R316–R319) -/

section Instructions

variable {s : State} {c n : Nat} {g : Fin 8} {a : Fin 32} {m : Fin 16}

theorem State.strandReady.gang (h : s.strandReady c n g [a.val] []) : exec (.gang g a) s =
    .next (if gangBad (s.correctRegs [a.val]) c (((s.correctRegs [a.val]).w a.val).toNat % 65536) then (s.correctRegs [a.val]).trap 0x13 0 0
      else waitAtJoint (s.correctRegs [a.val]) c n (.gang (((s.correctRegs [a.val]).w a.val).toNat % 65536))) := by
  have hexec : exec (.gang g a) s = execGang g a s := rfl
  have hfield (x : Word) : fieldOf x 15 0 = x.toNat % 65536 := congrArg (· % 65536) (Nat.div_one _)
  rw [hexec, execGang, onStrand_strand h.runs, guarded_true h.guard, needing_ready h.read h.sound]
  dsimp only
  rw [hfield]

variable (hcur : s.cur = .strand c n) (hg : s.predicate g = true)

include hcur hg

theorem execUngang_eq : exec (.ungang g) s = .next (if (s.core c).bond.isNone then s.trap 0x13 0 0 else waitAtJoint s c n .ungang) := by
  have hexec : exec (.ungang g) s = execUngang g s := rfl
  rw [hexec, execUngang, onStrand_strand hcur, guarded_true hg]
theorem execFollow_eq : exec (.follow g) s = .next (if (s.core c).bond.isNone then s.trap 0x13 0 0 else waitAtJoint s c n .follow) := by
  have hexec : exec (.follow g) s = execFollow g s := rfl
  rw [hexec, execFollow, onStrand_strand hcur, guarded_true hg]
theorem execDetach_eq : exec (.detach g) s = .next (s.advance 4) := by
  have hexec : exec (.detach g) s = execDetach g s := rfl
  rw [hexec, execDetach, onStrand_strand hcur, guarded_true hg]

theorem execRejoin_leader (hlead : leaderOf s c = some c) : exec (.rejoin g m) s =
    .next (if followersBehind s c n then s else if (detachedMembers s c n).isEmpty then s.advance 4 else waitAtJoint s c n (.rejoin m)) := by
  have hexec : exec (.rejoin g m) s = execRejoin g m s := rfl
  rw [hexec, execRejoin, onStrand_strand hcur, guarded_true hg]
  exact if_pos hlead
theorem execRejoin_follower (hlead : leaderOf s c ≠ some c) : exec (.rejoin g m) s =
    if !(s.strand c n).followed then .next (s.trap 0x13 0 0) else if (s.strand c n).fol = 1 then .next (s.advance 4)
    else .next (waitAtJoint s c n (.rejoin m)) := by
  have hexec : exec (.rejoin g m) s = execRejoin g m s := rfl
  rw [hexec, execRejoin, onStrand_strand hcur, guarded_true hg]
  exact if_neg hlead

end Instructions

/-! ### GANG (R316) -/

section Gang

variable {s : State} {c n r : Nat} {cores : List Nat} {strandOf named : Nat → Nat}

/-- The GANG in which each core of a rectangle waits, and none of a pre-empted core. -/
def gangsFound (s : State) (cores : List Nat) : List (Option (Nat × Nat × Nat)) :=
  cores.map (fun m => if (s.core m).preempted then none else (gangOf (s.core m)).map (fun x => (m, x.1, x.2)))

theorem gangsFound_of (h : ∀ m ∈ cores, (s.core m).preempted = false ∧ gangOf (s.core m) = some (strandOf m, named m)) :
    gangsFound s cores = cores.map (fun m => some (m, strandOf m, named m)) := by
  refine List.map_congr_left fun m hm => ?_
  obtain ⟨hpre, hgang⟩ := h m hm
  rw [hpre, hgang]
  rfl
theorem all_found (f : Nat → Nat × Nat × Nat) : (cores.map (fun m => some (f m))).any (·.isNone) = false := by
  rw [List.any_map]
  exact List.any_eq_false.2 fun m _ => Bool.false_ne_true
theorem found_id (f : Nat → Nat × Nat × Nat) : (cores.map (fun m => some (f m))).filterMap id = cores.map f := by
  rw [List.filterMap_map]
  exact congrFun (List.filterMap_eq_map (f := f)) cores

/-- The GANGs of a package that wait for one of some rectangles, as core and strand. -/
def gangsWaiting (s : State) (c : Nat) (rects : List Nat) : List (Nat × Nat) :=
  (List.range 1024).filterMap (fun i => (gangOf (s.core (corePkg c * 2048 + i))).bind (fun x =>
    if rects.contains x.2 then some (corePkg c * 2048 + i, x.1) else none))

/-- A GANG joint that every core of its rectangle waits at. -/
theorem gangJoint_eq (hgang : gangOf (s.core c) = some (n, r))
    (h : ∀ m ∈ rectCores (corePkg c) r, (s.core m).preempted = false ∧ gangOf (s.core m) = some (strandOf m, named m)) :
    exec (.gangJoint c) s =
      if ((rectCores (corePkg c) r).map (fun m => (m, strandOf m, named m))).all (fun x => decide (x.2.2 = r)) then
        .next (((rectCores (corePkg c) r).map (fun m => (m, strandOf m, named m))).foldl
          (fun s x => leaveJoint (s.modCore x.1 (fun k => { k with bond := some r })) x.1 x.2.1) s)
      else .next (
        if (gangsWaiting s c (r :: ((rectCores (corePkg c) r).map (fun m => (m, strandOf m, named m))).map (·.2.2))).any
          (fun x => (s.core x.1).preempted) then s
        else (gangsWaiting s c (r :: ((rectCores (corePkg c) r).map (fun m => (m, strandOf m, named m))).map (·.2.2))).foldl
          (fun s x => jointTrap s x.1 x.2) s) := by
  have hexec : exec (.gangJoint c) s = execGangJoint c s := rfl
  have hfound := gangsFound_of h
  unfold gangsFound at hfound
  rw [hexec, execGangJoint, hgang]
  unfold gangsWaiting
  simp only [hfound, all_found, found_id, Bool.false_eq_true, if_false]

theorem gangJoint_forms (hgang : gangOf (s.core c) = some (n, r))
    (h : ∀ m ∈ rectCores (corePkg c) r, (s.core m).preempted = false ∧ gangOf (s.core m) = some (strandOf m, r)) :
    exec (.gangJoint c) s = .next ((rectCores (corePkg c) r).foldl (fun s m =>
      leaveJoint (s.modCore m (fun k => { k with bond := some r })) m (strandOf m)) s) := by
  rw [gangJoint_eq (named := fun _ => r) hgang h, if_pos (by simp), List.foldl_map]

theorem gangJoint_traps (hgang : gangOf (s.core c) = some (n, r))
    (h : ∀ m ∈ rectCores (corePkg c) r, (s.core m).preempted = false ∧ gangOf (s.core m) = some (strandOf m, named m))
    (hother : ∃ m ∈ rectCores (corePkg c) r, named m ≠ r)
    (hrun : ∀ x ∈ gangsWaiting s c (r :: (rectCores (corePkg c) r).map named), (s.core x.1).preempted = false) :
    exec (.gangJoint c) s = .next ((gangsWaiting s c (r :: (rectCores (corePkg c) r).map named)).foldl (fun s x => jointTrap s x.1 x.2) s) := by
  have hnames : ((rectCores (corePkg c) r).map (fun m => (m, strandOf m, named m))).map (·.2.2) = (rectCores (corePkg c) r).map named := by
    rw [List.map_map]
    rfl
  rw [gangJoint_eq hgang h, hnames, if_neg, if_neg]
  · rw [List.any_eq_true]
    rintro ⟨x, hx, hpre⟩
    exact Bool.false_ne_true ((hrun x hx).symm.trans hpre)
  · obtain ⟨m, hm, hne⟩ := hother
    rw [List.all_map, List.all_eq_true]
    exact fun hall => hne (of_decide_eq_true (hall m hm))

end Gang

/-! ### UNGANG, FOLLOW and REJOIN (R317–R319) -/

section Joints

variable {s : State} {c n k : Nat}

theorem ungangJoint_dissolves (hbond : bondCores s c ≠ []) (h : ∀ m ∈ bondCores s c, (ungangStrand s m).isSome = true ∧
      ∀ q ∈ (s.core m).mq, q.op ≠ .mmag ∧ q.op ≠ .mrot ∧ q.op ≠ .mrotBuf) :
    exec (.ungangJoint c) s = .next ((bondCores s c).foldl (fun s m =>
      let s := releaseRejoins s m
      let s := match ungangStrand s m with | some n => leaveJoint s m n | none => s
      s.modCore m (fun k => (List.range 4).foldl (fun k n => k.setStrand n { k.strand n with fol := 0, folq := [] }) { k with bond := none })) s) := by
  have hexec : exec (.ungangJoint c) s = execUngangJoint c s := rfl
  rw [hexec, execUngangJoint]
  refine whenever_true ?_
  rw [Bool.and_eq_true, List.all_eq_true]
  refine ⟨by simpa using hbond, fun m hm => ?_⟩
  obtain ⟨hwaits, hqueue⟩ := h m hm
  rw [hwaits, Bool.true_and, List.all_eq_true]
  exact fun q hq => decide_eq_true (hqueue q hq)

theorem followJoint_follows (hbond : bondCores s c ≠ []) (h : ∀ m ∈ bondCores s c, waitsAtJoint s m n .follow = true) :
    exec (.followJoint c n) s = .next ((bondCores s c).foldl (fun s m =>
      let s := leaveJoint s m n
      if leaderOf s m = some m then s else s.modStrand m n (fun t => { t with fol := 1, folq := [], followed := true })) s) := by
  have hexec : exec (.followJoint c n) s = execFollowJoint c n s := rfl
  rw [hexec, execFollowJoint]
  refine whenever_true ?_
  rw [Bool.and_eq_true, List.all_eq_true]
  exact ⟨by simpa using hbond, h⟩

/-- The detached members that wait in a REJOIN at another marker. -/
def awayMembers (s : State) (c n k : Nat) : List Nat :=
  (detachedMembers s c n).filter (fun m => !(s.core m).preempted && (match rejoinMarker (s.strand m n) with
    | some j => decide (j ≠ k) | none => false))

theorem rejoinJoint_eq (hmarker : rejoinMarker (s.strand c n) = some k) (hlead : leaderOf s c = some c) (hpre : (s.core c).preempted = false) :
    exec (.rejoinJoint c n) s =
      if !(awayMembers s c n k).isEmpty then
        .next ((awayMembers s c n k).foldl (fun s m => (jointTrap s m n).modStrand m n (fun t => { t with fol := 3 })) s)
      else if ((detachedMembers s c n).filter (fun m => awaitedAt s k m n)).all (fun m => waitsAtJoint s m n (.rejoin k)) then
        .next (leaveJoint (((detachedMembers s c n).filter (fun m => awaitedAt s k m n)).foldl
          (fun s m => (leaveJoint s m n).modStrand m n (fun t => { t with fol := 1, folq := [] })) s) c n)
      else .next s := by
  have hexec : exec (.rejoinJoint c n) s = execRejoinJoint c n s := rfl
  rw [hexec, execRejoinJoint, hmarker]
  exact if_neg (by rw [hlead, hpre]; simp)

theorem rejoinMarker_of_waits {m : Nat} (h : waitsAtJoint s m n (.rejoin k) = true) : rejoinMarker (s.strand m n) = some k := by
  rw [waitsAtJoint, Bool.and_eq_true, decide_eq_true_eq] at h
  obtain ⟨⟨_, hwait⟩, _⟩ := h
  rw [rejoinMarker, hwait]

/-- Where every detached strand waits at the marker, none waits at another. -/
theorem awayMembers_of_waits (h : ∀ m ∈ detachedMembers s c n, waitsAtJoint s m n (.rejoin k) = true) : awayMembers s c n k = [] := by
  refine List.filter_eq_nil_iff.2 fun m hm => ?_
  rw [rejoinMarker_of_waits (h m hm)]
  simp

theorem rejoinJoint_follows (hmarker : rejoinMarker (s.strand c n) = some k) (hlead : leaderOf s c = some c) (hpre : (s.core c).preempted = false)
    (h : ∀ m ∈ detachedMembers s c n, waitsAtJoint s m n (.rejoin k) = true) : exec (.rejoinJoint c n) s =
      .next (leaveJoint ((detachedMembers s c n).foldl (fun s m =>
        (leaveJoint s m n).modStrand m n (fun t => { t with fol := 1, folq := [] })) s) c n) := by
  have hthere : (detachedMembers s c n).filter (fun m => awaitedAt s k m n) = detachedMembers s c n :=
    List.filter_eq_self.2 fun m hm => by rw [awaitedAt, h m hm, Bool.or_true]
  rw [rejoinJoint_eq hmarker hlead hpre, awayMembers_of_waits h, hthere]
  exact if_pos (List.all_eq_true.2 h)

theorem rejoinJoint_traps (hmarker : rejoinMarker (s.strand c n) = some k) (hlead : leaderOf s c = some c) (hpre : (s.core c).preempted = false)
    (h : awayMembers s c n k ≠ []) : exec (.rejoinJoint c n) s =
      .next ((awayMembers s c n k).foldl (fun s m => (jointTrap s m n).modStrand m n (fun t => { t with fol := 3 })) s) := by
  rw [rejoinJoint_eq hmarker hlead hpre]
  exact if_pos (by simpa using h)

end Joints

/-- Settles O41: the instructions by their bond, and each joint by those that wait at it. -/
theorem bonds : Obligations.Bonds := by
  refine ⟨?_, ?_, ?_, ?_, ?_⟩
  · intro s c n g a m h t r waits
    refine ⟨fun hbad => ?_, fun hbad => ?_, fun hbond => ⟨?_, ?_⟩, fun hbond => ⟨?_, ?_⟩, execDetach_eq h.runs h.guard, fun hlead hbehind => ?_,
      fun hlead hbehind haway => ?_, fun hlead hbehind hnone => ?_, fun hlead hfollowed hfol => ?_, fun hlead hfollowed hfol => ?_,
      fun hlead hfollowed => ?_⟩
    · exact h.gang.trans (congrArg _ (if_neg (by rw [hbad]; decide)))
    · exact h.gang.trans (congrArg _ (if_pos hbad))
    · rw [execUngang_eq h.runs h.guard, if_neg (by rw [Option.isNone_eq_false_iff.2 hbond]; decide)]
      rfl
    · rw [execFollow_eq h.runs h.guard, if_neg (by rw [Option.isNone_eq_false_iff.2 hbond]; decide)]
      rfl
    · rw [execUngang_eq h.runs h.guard, hbond]
      rfl
    · rw [execFollow_eq h.runs h.guard, hbond]
      rfl
    · rw [execRejoin_leader h.runs h.guard hlead, if_pos hbehind]
    · rw [execRejoin_leader h.runs h.guard hlead, if_neg (by rw [hbehind]; decide), if_neg (by simpa using haway)]
      rfl
    · rw [execRejoin_leader h.runs h.guard hlead, if_neg (by rw [hbehind]; decide), hnone]
      rfl
    · rw [execRejoin_follower h.runs h.guard hlead, hfollowed, if_neg (by decide), if_neg hfol]
      rfl
    · rw [execRejoin_follower h.runs h.guard hlead, hfollowed, if_neg (by decide), if_pos hfol]
    · rw [execRejoin_follower h.runs h.guard hlead, hfollowed]
      rfl
  · exact fun s c n r strandOf hgang h => gangJoint_forms hgang h
  · intro s c n r strandOf named hgang h hother
    have htraps := gangJoint_traps hgang h hother
    unfold gangsWaiting at htraps
    exact htraps
  · exact fun s c n hbond => ⟨ungangJoint_dissolves hbond, followJoint_follows hbond⟩
  · intro s c n k hmarker hlead hpre away
    exact ⟨rejoinJoint_follows hmarker hlead hpre, rejoinJoint_traps hmarker hlead hpre⟩

end Sys2Proof.Machine
end

section
/-! PROOFS. Sends and deques (chapters 10 and 16). -/

open Sys2Proof

namespace Sys2Proof.Machine

/-! ### SEND, SENDT and SENDR (R300) -/

section Sending

variable {s : State} {c n : Nat} {g : Fin 8} {reply : Bool} {d : Option Nat}

/-- What tells the strand that its message was sent, or that it had no allowance for it: its k register. -/
def answerSend (s : State) (d : Option Nat) (x : Word) : State := match d with
  | none => s.advance 4
  | some d => (s.setK d x).advance 4

variable (hcur : s.cur = .strand c n) (hg : s.predicate g = true) (hsound : sendRefused s c (s.strand c n).b reply = none)

include hcur hg hsound

theorem sendForm_sends (hfence : releasedBelow s c n (s.strand c n).relMark = true)
    (hhave : (if reply then (s.strand c n).rres || decide (0 < (s.strand c n).arsp) else decide (0 < (s.strand c n).allow)) = true) :
    sendForm g reply d s = .next (answerSend (sendNow s c n reply) d 0) := by
  rw [sendForm, onStrand_strand hcur, guarded_true hg]
  dsimp only
  rw [hsound]
  dsimp only
  rw [hhave, if_neg (by decide), if_neg (by rw [fencePending, hfence]; decide)]
  cases d <;> rfl

/-- Without an allowance a send with a k register answers 1, and SENDT traps. -/
theorem sendForm_waits
    (hhave : (if reply then (s.strand c n).rres || decide (0 < (s.strand c n).arsp) else decide (0 < (s.strand c n).allow)) = false) :
    sendForm g reply d s = .next (match d with
      | none => s.trap 0x0D 0 0
      | some d => (s.setK d 1).advance 4) := by
  rw [sendForm, onStrand_strand hcur, guarded_true hg]
  dsimp only
  rw [hsound]
  dsimp only
  rw [hhave, if_pos (by decide)]
  cases d <;> rfl

end Sending

section Allowance

variable {t : Strand}

theorem request_held (h : 0 < t.allow) : (if false then t.rres || decide (0 < t.arsp) else decide (0 < t.allow)) = true := decide_eq_true h
theorem request_spent (h : t.allow = 0) : (if false then t.rres || decide (0 < t.arsp) else decide (0 < t.allow)) = false :=
  decide_eq_false (by omega)
theorem reply_held (h : t.rres = true ∨ 0 < t.arsp) :
    (if true then t.rres || decide (0 < t.arsp) else decide (0 < t.allow)) = true := by simpa using h
theorem reply_spent (hres : t.rres = false) (h : t.arsp = 0) :
    (if true then t.rres || decide (0 < t.arsp) else decide (0 < t.allow)) = false := by simp [hres, h]

end Allowance

/-! ### What a strand's own update leaves of its core -/

section OwnUpdates

variable {s : State} {c n len : Nat}

/-- An update of a strand leaves the other fields of its core, and the other cores. -/
theorem State.core_modStrand (c' : Nat) (f : Strand → Strand) :
    ∃ l, (s.modStrand c n f).core c' = { s.core c' with strands := l } := by
  rw [State.modStrand]
  by_cases h : c = c'
  · subst h
    exact ⟨_, State.core_modCore_same ..⟩
  · exact ⟨_, State.core_modCore_other _ _ h⟩
theorem State.dequeEnds_modStrand (c' : Nat) (f : Strand → Strand) :
    ((s.modStrand c n f).core c').dqhead = (s.core c').dqhead ∧ ((s.modStrand c n f).core c').dqtail = (s.core c').dqtail := by
  obtain ⟨l, h⟩ := State.core_modStrand (s := s) (c := c) (n := n) c' f
  rw [h]
  exact ⟨rfl, rfl⟩
theorem dequeNext_modStrand (c' : Nat) (f : Strand → Strand) (p : Word) :
    dequeNext ((s.modStrand c n f).core c') p = dequeNext (s.core c') p := by
  obtain ⟨l, h⟩ := State.core_modStrand (s := s) (c := c) (n := n) c' f
  rw [h, dequeNext, dequeNext]

theorem State.dequeEnds_retires (h : s.cur = .strand c n) (d : Nat) (x : Word) (c' : Nat) :
    (((s.setK d x).advance len).core c').dqhead = (s.core c').dqhead ∧ (((s.setK d x).advance len).core c').dqtail = (s.core c').dqtail := by
  rw [State.advance_strand (s := s.setK d x) h, State.setK, State.modMe, State.modMe, (State.dequeEnds_modStrand ..).1,
    (State.dequeEnds_modStrand ..).2]
  exact State.dequeEnds_modStrand ..

end OwnUpdates

/-! ### DQPUSH and DQPOP (R304) -/

section Deques

variable {s : State} {c n : Nat} {g d : Fin 8}

/-- The state that DQPUSH leaves. -/
def dequePush (s : State) (c n : Nat) : State :=
  ((s.modStrand c n (fun t => { t with b := stampedB s c n })).write (dequePa c (s.core c).dqhead) 64 (stampedB s c n).toNat).modCore c
    (fun k => { k with dqhead := dequeNext k k.dqhead })

theorem Msg.toNat_lt (m : Msg) : m.toNat < 2 ^ (8 * 64) := by
  have hword (x : Word) : x.toNat < 2 ^ 64 := x.isLt
  have h0 := hword (m.get 0)
  have h1 := hword (m.get 1)
  have h2 := hword (m.get 2)
  have h3 := hword (m.get 3)
  have h4 := hword (m.get 4)
  have h5 := hword (m.get 5)
  have h6 := hword (m.get 6)
  have h7 := hword (m.get 7)
  have hsum : m.toNat = (m.get 0).toNat + 2 ^ 64 * ((m.get 1).toNat + 2 ^ 64 * ((m.get 2).toNat + 2 ^ 64 * ((m.get 3).toNat +
    2 ^ 64 * ((m.get 4).toNat + 2 ^ 64 * ((m.get 5).toNat + 2 ^ 64 * ((m.get 6).toNat + 2 ^ 64 * ((m.get 7).toNat + 2 ^ 64 * 0))))))) := rfl
  omega

theorem dequePush_cur : (dequePush s c n).cur = s.cur := by
  rw [dequePush, State.modCore_cur, State.write_cur, State.modStrand_cur]
theorem dequePush_mem : (dequePush s c n).mem = Memory.writeN s.mem (dequePa c (s.core c).dqhead) 64 (stampedB s c n).toNat := by
  rw [dequePush, State.modCore_mem, State.write_mem, State.modStrand_mem]
theorem dequePush_head : ((dequePush s c n).core c).dqhead = dequeNext (s.core c) (s.core c).dqhead := by
  rw [dequePush, State.core_modCore_same]
  dsimp only
  rw [State.core, State.write_cores]
  exact (dequeNext_modStrand ..).trans (congrArg _ (State.dequeEnds_modStrand ..).1)
theorem dequePush_tail : ((dequePush s c n).core c).dqtail = (s.core c).dqtail := by
  rw [dequePush, State.core_modCore_same]
  dsimp only
  rw [State.core, State.write_cores]
  exact (State.dequeEnds_modStrand ..).2

variable (hcur : s.cur = .strand c n) (hg : s.predicate g = true) (hvalid : dequeValid (s.core c) = true)

include hcur hg hvalid

theorem execDqpush_pushes (hhdr : headerReserved (s.strand c n).b = false) (hkind : msgKind (s.strand c n).b = 0)
    (hroom : dequeNext (s.core c) (s.core c).dqhead ≠ (s.core c).dqtail) (hrel : releasedBelow s c n s.fresh = true) :
    exec (.dqpush g d) s = .next (((dequePush s c n).setK d 0).advance 4) := by
  have hexec : exec (.dqpush g d) s = execDqpush g d s := rfl
  rw [hexec, execDqpush, onStrand_strand hcur, guarded_true hg]
  dsimp only
  rw [hvalid, if_neg (by decide), hhdr, if_neg (by decide), if_neg (not_not.2 hkind), if_neg (by simpa using hroom), hrel, if_neg (by decide),
    dequePush]

theorem execDqpop_empty (hempty : dequeEmpty (s.core c) = true) : exec (.dqpop g d) s = .next ((s.setK d 1).advance 4) := by
  have hexec : exec (.dqpop g d) s = execDqpop g d s := rfl
  rw [hexec, execDqpop, onStrand_strand hcur, guarded_true hg]
  dsimp only
  rw [hvalid, if_neg (by decide), hempty, if_pos rfl]

theorem execDqpop_pops {u : State} {m : Msg} (hempty : dequeEmpty (s.core c) = false)
    (hready : loadReady s c n (dequePa c (dequePrev (s.core c) (s.core c).dqhead)) 64 = true)
    (hentry : dequeEntry s c (dequePrev (s.core c) (s.core c).dqhead) c = (u, .ok m)) :
    exec (.dqpop g d) s = .next ((((dequePop u c).modStrand c n (fun t => { t with b := m })).setK d 0).advance 4) := by
  have hexec : exec (.dqpop g d) s = execDqpop g d s := rfl
  rw [hexec, execDqpop, onStrand_strand hcur, guarded_true hg]
  dsimp only
  rw [hvalid, if_neg (by decide), hempty, if_neg (by decide), hready, if_neg (by decide), hentry]

theorem execDqpush_effect (hhdr : headerReserved (s.strand c n).b = false) (hkind : msgKind (s.strand c n).b = 0)
    (hroom : dequeNext (s.core c) (s.core c).dqhead ≠ (s.core c).dqtail) (hrel : releasedBelow s c n s.fresh = true) :
    ∃ v, exec (.dqpush g d) s = .next v ∧ v.read (dequePa c (s.core c).dqhead) 64 = (stampedB s c n).toNat ∧
      (v.core c).dqhead = dequeNext (s.core c) (s.core c).dqhead ∧ (v.core c).dqtail = (s.core c).dqtail ∧ (d ≠ 0 → v.k d = 0) ∧
      ∀ x, (x < dequePa c (s.core c).dqhead ∨ dequePa c (s.core c).dqhead + 64 ≤ x) → v.byteAt x = s.byteAt x := by
  have hcurp : (dequePush s c n).cur = .strand c n := dequePush_cur.trans hcur
  have hcur' : ((dequePush s c n).setK d 0).cur = .strand c n := (State.modMe_cur _).trans hcurp
  have hmem : (((dequePush s c n).setK d 0).advance 4).mem = Memory.writeN s.mem (dequePa c (s.core c).dqhead) 64 (stampedB s c n).toNat :=
    (State.advance_mem hcur').trans ((State.modMe_mem _).trans dequePush_mem)
  obtain ⟨hhead, htail⟩ := State.dequeEnds_retires (s := dequePush s c n) (len := 4) hcurp d 0 c
  refine ⟨_, execDqpush_pushes hcur hg hvalid hhdr hkind hroom hrel, ?_, hhead.trans dequePush_head, htail.trans dequePush_tail, ?_, ?_⟩
  · rw [State.read, hmem, Memory.readN_writeN]
    exact Nat.mod_eq_of_lt (Msg.toNat_lt _)
  · intro hd
    have hne : d.val ≠ 0 := fun h => hd (Fin.ext h)
    rw [State.k_advance hcur', State.k_setK, if_neg hne]
  · intro x hx
    rw [State.byteAt, hmem]
    exact Memory.get_writeN_other _ _ _ _ hx

end Deques

/-! ### DQSTEAL and the deque unit's answer (R304, R305) -/

section Stealing

variable {s : State} {c n : Nat} {g d : Fin 8} {a : Fin 32}

/-- The request of a DQSTEAL. -/
def stealOf (u : State) (c n target d : Nat) : Steal := { id := u.fresh, core := c, strand := n, target := target, d := d, len := 4 }
/-- A strand that has sent the request of its DQSTEAL waits for the answer. -/
def askSteal (u : State) (c n target d : Nat) : State :=
  ({ u with steals := u.steals ++ [stealOf u c n target d] }.tickFresh).modStrand c n (fun t => { t with wait := .steal u.fresh })

theorem State.strandReady.dqsteal (h : s.strandReady c n g [a.val] [])
    (harea : sameArea (s.correctRegs [a.val]) ((s.correctRegs [a.val]).seenCore c)
      (corePkg c * 2048 + ((s.correctRegs [a.val]).w a.val).toNat % 1024) = true)
    (hacq : (inFlight (s.correctRegs [a.val]) c n).any (·.ord.acq) = false) :
    exec (.dqsteal g d a) s =
      .next (askSteal (s.correctRegs [a.val]) c n (corePkg c * 2048 + ((s.correctRegs [a.val]).w a.val).toNat % 1024) d.val) := by
  have hexec : exec (.dqsteal g d a) s = execDqsteal g d a s := rfl
  have hfield (x : Word) : fieldOf x 9 0 = x.toNat % 1024 := congrArg (· % 1024) (Nat.div_one _)
  rw [hexec, execDqsteal, onStrand_strand h.runs, guarded_true h.guard, needing_ready h.read h.sound]
  dsimp only
  rw [hfield, harea, if_neg (by decide), hacq, if_neg (by decide)]
  rfl

/-- What the deque unit's answer leaves of the strand that waits for it. -/
def stealAnswered (x : Steal) (v : Word) (t : Strand) : Strand := { t.setMask x.d v with wait := .none, pc := t.pc + word x.len, imx := [] }

variable {r : Nat} {x : Steal} {u : State} {m : Msg}

theorem stealAnswered_wait (v : Word) (t : Strand) : (stealAnswered x v t).wait = .none := rfl
theorem stealAnswered_b (v : Word) (t : Strand) : (stealAnswered x v t).b = t.b := by
  rw [stealAnswered, Strand.setMask]
  split <;> rfl
theorem stealAnswered_mask (h : x.d ≠ 0) (v : Word) (t : Strand) : (stealAnswered x v t).mask x.d = v := by
  rw [stealAnswered, Strand.setMask, if_neg h, Strand.mask, if_neg h]
  exact Table.get_set_same ..

/-- The requests to deque units without one of them. -/
def stealDone (s : State) (r : Nat) : State := { s with steals := s.steals.filter (fun y => decide (y.id ≠ r)) }

theorem Background.dequeEntry {p : Word} {by_ : Nat} (h : dequeEntry s c p by_ = (u, .ok m)) : Background s u := by
  rw [Machine.dequeEntry] at h
  split at h
  · cases h
  · cases h
    exact .correct ..

variable (hfind : s.steals.find? (fun x => decide (x.id = r)) = some x) (hwait : (s.strand x.core x.strand).wait = .steal r)
  (hvalid : dequeValid (s.core x.target) = true)

include hfind hwait hvalid

theorem execDequeStealRequest_empty (hempty : dequeEmpty (s.core x.target) = true) :
    exec (.dequeStealRequest r) s = .next ((stealDone s r).modStrand x.core x.strand (stealAnswered x 1)) := by
  have hexec : exec (.dequeStealRequest r) s = execDequeStealRequest r s := rfl
  rw [hexec, execDequeStealRequest, hfind]
  refine (if_neg (not_not.2 hwait)).trans ((if_neg ?_).trans (if_pos hempty))
  exact fun h => absurd (hvalid.symm.trans (Bool.not_eq_true' _ ▸ h)) (by decide)

theorem execDequeStealRequest_takes (hempty : dequeEmpty (s.core x.target) = false)
    (hentry : dequeEntry (stealDone s r) x.target (s.core x.target).dqtail x.core = (u, .ok m)) :
    exec (.dequeStealRequest r) s = .next (((dequeSteal u x.target).modStrand x.core x.strand (fun t => { t with b := m })).modStrand
      x.core x.strand (stealAnswered x 0)) := by
  have hexec : exec (.dequeStealRequest r) s = execDequeStealRequest r s := rfl
  rw [hexec, execDequeStealRequest, hfind]
  rw [stealDone] at hentry
  refine (if_neg (not_not.2 hwait)).trans ((if_neg ?_).trans ((if_neg (ne_true_of_eq_false hempty)).trans ?_))
  · exact fun h => absurd (hvalid.symm.trans (Bool.not_eq_true' _ ▸ h)) (by decide)
  · rw [show dequeEntry { s with steals := s.steals.filter (fun y => decide (y.id ≠ r)) } x.target
      (State.core { s with steals := s.steals.filter (fun y => decide (y.id ≠ r)) } x.target).dqtail x.core = (u, .ok m) from hentry]
    rfl

theorem execDequeStealRequest_takes_effect (hempty : dequeEmpty (s.core x.target) = false)
    (hentry : dequeEntry (stealDone s r) x.target (s.core x.target).dqtail x.core = (u, .ok m)) :
    ∃ t, exec (.dequeStealRequest r) s = .next t ∧ (t.strand x.core x.strand).wait = .none ∧ (t.strand x.core x.strand).b = m ∧
      (t.core x.target).dqtail = dequeNext (s.core x.target) (s.core x.target).dqtail ∧
      (x.d ≠ 0 → (t.strand x.core x.strand).mask x.d = 0) ∧ t.mem = s.mem := by
  have hread := Background.dequeEntry hentry
  refine ⟨_, execDequeStealRequest_takes hfind hwait hvalid hempty hentry, ?_, ?_, ?_, fun hd => ?_, hread.mem⟩
  · rw [State.strand_modStrand_same, stealAnswered_wait]
  · rw [State.strand_modStrand_same, stealAnswered_b, State.strand_modStrand_same]
  · rw [(State.dequeEnds_modStrand ..).2, (State.dequeEnds_modStrand ..).2, dequeSteal, State.core_modCore_same]
    obtain ⟨tlb, hcore⟩ := hread.core x.target
    rw [hcore]
    rfl
  · rw [State.strand_modStrand_same, stealAnswered_mask hd]

end Stealing

section Settled

/-- Settles O42: each outcome is one branch of the instruction, and the deque's ends and entries are read off the state that the branch leaves. -/
theorem sends : Obligations.Sends := by
  unfold Obligations.Sends
  refine ⟨?_, fun s r x hfind hwait hvalid => ⟨fun hempty => ?_, fun u m hempty hentry =>
    execDequeStealRequest_takes_effect hfind hwait hvalid hempty hentry⟩⟩
  · intro s c n g d a h
    refine ⟨fun hrel => ⟨fun hsound hallow => ⟨?_, ?_⟩, fun hsound hallow => ?_⟩, fun hsound hallow => ⟨?_, ?_⟩, fun hsound hres hallow => ?_,
      fun hvalid => ⟨fun hhdr hkind hroom hrel => execDqpush_effect h.runs h.guard hvalid hhdr hkind hroom hrel,
        fun u m hempty hready hentry => execDqpop_pops h.runs h.guard hvalid hempty hready hentry,
        fun hempty => execDqpop_empty h.runs h.guard hvalid hempty⟩, ?_⟩
    · exact sendForm_sends (d := some d.val) h.runs h.guard hsound hrel (request_held hallow)
    · exact sendForm_sends (d := none) h.runs h.guard hsound hrel (request_held hallow)
    · exact sendForm_sends (d := some d.val) h.runs h.guard hsound hrel (reply_held hallow)
    · exact sendForm_waits (d := some d.val) h.runs h.guard hsound (request_spent hallow)
    · exact sendForm_waits (d := none) h.runs h.guard hsound (request_spent hallow)
    · exact sendForm_waits (d := some d.val) h.runs h.guard hsound (reply_spent hres hallow)
    · intro u target harea hacq
      refine ⟨_, stealOf u c n target d.val, h.dqsteal harea hacq, ?_, rfl, rfl, ?_, ?_⟩
      · exact congrArg (· ++ [stealOf u c n target d.val]) (State.correctRegs_steals ..)
      · rw [askSteal, State.strand_modStrand_same]
        rfl
      · exact (Background.correctRegs [a.val]).mem
  · refine ⟨_, execDequeStealRequest_empty hfind hwait hvalid hempty, ?_, ?_, fun hd => ?_⟩
    · rw [State.strand_modStrand_same, stealAnswered_wait]
    · rw [State.strand_modStrand_same, stealAnswered_b]
      rfl
    · rw [State.strand_modStrand_same, stealAnswered_mask hd]

end Settled

end Sys2Proof.Machine
end

section
/-! PROOFS. The hod instructions (chapter 16). -/

open Sys2Proof

namespace Sys2Proof.Machine

/-! ### The operand (R306) -/

section Operand

variable {s u v : State} {c n : Nat} {g k : Fin 8} {sel : Fin 16} {d a b : Fin 32} {w : HodAt} {h : HodImage} {resume : Bool}
  {reads writes : List Nat}

/-- The operand of a hod instruction names a hod that no access of the strand touches. -/
structure hodFound (s : State) (c n at_ : Nat) (resume : Bool) (u : State) (w : HodAt) (h : HodImage) : Prop where
  operand : hodOperand s c at_ resume = (u, .ok (w, h))
  free : hodBusy s c n at_ resume = false

theorem State.strandReady.hodForm {r : Nat} {effect : Nat → Nat → HodAt → HodImage → State → Except (Nat × Nat × Nat) State}
    (hs : s.strandReady c n g (r :: reads) writes)
    (hf : hodFound (s.correctRegs (r :: reads)) c n (fieldOf (s.w r) 55 0) resume u w h) (hk : effect c n w h u = .ok v) :
    Machine.hodForm g r reads writes resume effect s = .next (v.advance 4) := by
  rw [Machine.hodForm, onStrand_strand hs.runs, guarded_true hs.guard, if_neg (by simp [hs.written]), needing_ready hs.read hs.sound,
    State.correctRegs_w, hf.free, if_neg (by decide), hf.operand]
  dsimp only
  rw [hk]

theorem execHodset_edits (hs : s.strandReady c n g [a.val, b.val, b.val + 1] [])
    (hf : hodFound (s.correctRegs [a.val, b.val, b.val + 1]) c n (fieldOf (s.w a.val) 55 0) false u w h) (hlow : lowStop h ≤ k.val)
    (hstop : stopValid (u.w b.val).toNat = true) (hlt : k.val < hodNstop h) :
    exec (.hodset g k a b) s = .next ((hodWrite u c w (withStops h ((stopsOf h).set k.val (stopFrom u b)))).advance 4) :=
  hs.hodForm hf (if_neg (by simp [hstop]; omega))

theorem execHodins_edits (hs : s.strandReady c n g [a.val, b.val, b.val + 1] [])
    (hf : hodFound (s.correctRegs [a.val, b.val, b.val + 1]) c n (fieldOf (s.w a.val) 55 0) false u w h) (hlow : lowStop h ≤ k.val)
    (hstop : stopValid (u.w b.val).toNat = true) (hle : k.val ≤ hodNstop h) (hroom : hodNstop h ≠ 8) :
    exec (.hodins g k a b) s =
      .next ((hodWrite u c w (withStops h ((stopsOf h).take k.val ++ stopFrom u b :: (stopsOf h).drop k.val))).advance 4) :=
  hs.hodForm hf (if_neg (by simp [hstop]; omega))

theorem execHoddel_edits (hs : s.strandReady c n g [a.val] [])
    (hf : hodFound (s.correctRegs [a.val]) c n (fieldOf (s.w a.val) 55 0) false u w h) (hlow : lowStop h ≤ k.val)
    (hlt : k.val < hodNstop h) (hmore : hodNstop h ≠ 1) :
    exec (.hoddel g k a) s = .next ((hodWrite u c w (withStops h ((stopsOf h).eraseIdx k.val))).advance 4) :=
  hs.hodForm hf (if_neg (by omega))

theorem execHodget_reads (hs : s.strandReady c n g [a.val] [d.val])
    (hf : hodFound (s.correctRegs [a.val]) c n (fieldOf (s.w a.val) 55 0) false u w h) (hsel : sel.val < 8 → sel.val < hodNstop h) :
    exec (.hodget g sel d a) s = .next ((u.setW d (BitVec.ofNat 64 (hodSelect h sel.val))).advance 4) :=
  hs.hodForm hf (if_neg (by omega))

theorem execHodpark_parks (hs : s.strandReady c n g [a.val, b.val] [])
    (hf : hodFound (s.correctRegs [a.val, b.val]) c n (fieldOf (s.w a.val) 55 0) false u w h) (hst : hodStatus h = 0 ∨ hodStatus h = 3)
    (hrep : (u.core c).replay = none) :
    exec (.hodpark g a b) s = .next ((parkHod u c w .parked ((u.w b).toNat % 256)).advance 4) := by
  have hfield (x : Word) : fieldOf x 7 0 = x.toNat % 256 := congrArg (· % 256) (Nat.div_one _)
  refine hs.hodForm hf ((if_neg (by omega)).trans ((if_neg (by simp [hrep])).trans ?_))
  rw [hfield]

end Operand

/-! ### HODNEXT and HODRESUME (R196, R308, R311) -/

section Sending

variable {s u x : State} {c n : Nat} {g : Fin 8} {a : Fin 32} {w : HodAt} {h : HodImage}

/-- What a hod's place belongs to: its core's launch, or the launch of the park area. -/
def launchAt (v : State) (w : HodAt) : Option Launch := match w with
  | .slot t _ => v.launchOf t
  | .park l _ => v.launch? l
/-- A hod leaves a landing slot: nothing on the core holds it any more. -/
def leaveSlot (s : State) (w : HodAt) : State := match w with
  | .slot t i => dropHeld s t i
  | .park _ _ => s

theorem releaseRemote_samp (bound : Nat) (need : Bool) : ((releaseRemote s c n bound need).strand c n).samp = (s.strand c n).samp := by
  rw [releaseRemote]
  split
  · obtain ⟨l, hl⟩ := (SameRegisters.writeBackAll (s := s) (corePkg c)).strand c n
    refine Eq.trans (b := (((s.writeBackAll (corePkg c)).modStrand c n (fun t =>
      { t with relSys := t.relSys && decide (bound < t.relMark) })).strand c n).samp) rfl ?_
    rw [State.strand_modStrand_same, hl]
  · rfl

theorem execHodnext_leaves (hs : s.strandReady c n g [a.val] [])
    (hop : hodOperand (s.correctRegs [a.val]) c (fieldOf (s.w a.val) 55 0) false = (u, .ok (w, h)))
    (hrel : releasedBelow u c n u.fresh = true) (hallow : (u.core c).hodAllow ≠ 0) (hsamp : (u.strand c n).samp = none)
    {h' : HodImage} (hnext : h' = setHodField (setHodField h 4 1 (if hodStatus h = 0 then hodCur h else hodCur h + 1)) 56 1 0)
    (hx : x = releaseRemote u c n u.fresh (u.strand c n).relSys)
    (hrep : ((hodWrite x c w h').core c).replay = none) (hdig : strandDigest x c n = none) :
    exec (.hodnext g a) s = .next ((if hodCur h' = hodNstop h' then parkHod (leaveSlot (hodWrite x c w h') w) c w .done 0
      else forwardHod (leaveSlot (hodWrite x c w h') w) c w (launchAt (leaveSlot (hodWrite x c w h') w) w) h' (engineIdent c 2 0)).advance 4) := by
  have hexec : exec (.hodnext g a) s = execHodnext g a s := rfl
  have hsampx : (x.strand c n).samp = none := by rw [hx, releaseRemote_samp, hsamp]
  rw [hexec, execHodnext, onStrand_strand hs.runs, guarded_true hs.guard, needing_ready hs.read hs.sound, State.correctRegs_w, hop]
  dsimp only
  rw [if_neg (by simp [hrel, hallow]), ← hx, ← hnext, hsampx, Option.isSome_none, if_neg Bool.false_ne_true, hdig]
  dsimp only
  rw [hrep, Option.isSome_none, if_neg Bool.false_ne_true]
  cases w <;> exact (apply_ite (fun t : State => Host.Outcome.next (t.advance 4)) _ _ _).symm

theorem execHodresume_sends (hs : s.strandReady c n g [a.val] [])
    (hf : hodFound (s.correctRegs [a.val]) c n (fieldOf (s.w a.val) 55 0) true u w h)
    (hwho : isForeman c = true ∨ ((identFields (word (hodSupv h))).2.2.1 ≠ 4 ∧ (identFields (word (hodSupv h))).1 = corePkg c ∧
      (identFields (word (hodSupv h))).2.1 = coreIdx (u.seenCore c)))
    (hst : 4 ≤ hodStatus h) (hcur : hodCur h ≠ hodNstop h) (hallow : (u.core c).hodAllow ≠ 0) (hrep : (u.core c).replay = none) :
    exec (.hodresume g a) s = .next ((forwardHod (hodWrite u c w (setHodField h 6 1 0)) c w (launchAt u w) (setHodField h 6 1 0)
      (u.identOf c n)).advance 4) := by
  have hexec : exec (.hodresume g a) s = execHodresume g a s := rfl
  rw [hexec, execHodresume, onStrand_strand hs.runs, guarded_true hs.guard, needing_ready hs.read hs.sound, State.correctRegs_w,
    hf.free, if_neg (by decide), hf.operand]
  dsimp only
  rw [if_neg (by rcases hwho with hwho | hwho <;> simp [hwho]), if_neg (by omega), if_neg hcur, if_neg hallow, hrep, Option.isSome_none,
    if_neg Bool.false_ne_true]
  cases w <;> rfl

end Sending

/-! ### HODNEW (R307) -/

section Building

variable {s t u v w : State} {c n i : Nat} {g : Fin 8} {d a : Fin 32} {x y tile : List Byte}

theorem State.setW_cores (r : Nat) (x : Word) : (s.setW r x).cores = s.cores := by
  rw [State.setW]
  split <;> rfl
theorem State.endCommand_cores (r : Nat) (x : Word) : (s.endCommand r x).cores = s.cores := by
  rw [State.endCommand]
  split <;> rfl

/-- Retiring leaves the landing slots and the hods that a strand has built. -/
theorem State.advance_hods (c n len : Nat) :
    ((s.advance len).core c).hodarea = (s.core c).hodarea ∧ ((s.advance len).strand c n).built = (s.strand c n).built := by
  have hcores (t : State) (ht : t.cores = s.cores) : (t.core c).hodarea = (s.core c).hodarea ∧ (t.strand c n).built = (s.strand c n).built := by
    rw [State.strand, State.strand, State.core, State.core, ht]
    exact ⟨rfl, rfl⟩
  rw [State.advance, State.jump]
  split
  · rename_i c' n' _
    refine ⟨?_, ?_⟩
    · obtain ⟨l, hl⟩ := State.core_modStrand (s := s) (c := c') (n := n') c
        (fun t => { t with pc := s.pc + word len, imx := [], wait := .none, deadline := none })
      rw [hl]
    · by_cases hsame : c' = c ∧ n' = n
      · obtain ⟨rfl, rfl⟩ := hsame
        rw [State.strand_modStrand_same]
      · rw [State.strand_modStrand_other _ _ (not_and_or.1 hsame)]
  · split
    · exact hcores _ rfl
    · exact hcores _ (State.endCommand_cores ..)
  · exact hcores _ rfl

theorem slotBusy_setBusy (k : Core) (hi : i < 40) : slotBusy (setBusy k i) i = true := by
  have hlt : 24 + i < 64 := by omega
  have hset : (word (2 ^ (24 + i))).toNat = 2 ^ (24 + i) := by
    rw [word, BitVec.toNat_ofNat]
    exact Nat.mod_eq_of_lt (Nat.pow_lt_pow_right (by omega) hlt)
  have hbit : (k.hodarea ||| word (2 ^ (24 + i))).toNat.testBit (24 + i) = true := by
    rw [BitVec.toNat_or, Nat.testBit_or, hset, Nat.testBit_two_pow_self, Bool.or_true]
  rw [slotBusy, setBusy, bit, decide_eq_true_eq]
  rw [Nat.testBit_eq_decide_div_mod_eq] at hbit
  exact of_decide_eq_true hbit

theorem freeLanding_lt {k : Core} (h : freeLanding k = some i) : i < 16 := by
  have hmem := List.mem_of_find?_eq_some h
  have hslots : nslot k < 16 := Nat.mod_lt _ (by decide)
  rw [List.mem_range] at hmem
  omega

/-- A hod that HODNEW has built in a landing slot: the slot is busy and the strand has the hod. -/
def hodBuilt (w : State) (c n i pa : Nat) (tile : List Byte) : State :=
  (((w.writeBytes pa tile).modCore c (fun k => setBusy k i)).modStrand c n (fun t => { t with built := t.built ++ [i] }))

theorem hodBuilt_retires (pa len : Nat) (x : Word) (hi : i < 40) :
    slotBusy ((((hodBuilt w c n i pa tile).setW d.val x).advance len).core c) i = true ∧
      i ∈ ((((hodBuilt w c n i pa tile).setW d.val x).advance len).strand c n).built := by
  obtain ⟨harea, hbuilt⟩ := State.advance_hods (s := (hodBuilt w c n i pa tile).setW d.val x) c n len
  refine ⟨?_, ?_⟩
  · rw [slotBusy, harea, State.core, State.setW_cores]
    obtain ⟨l, hl⟩ := State.core_modStrand (s := (w.writeBytes pa tile).modCore c (fun k => setBusy k i)) (c := c) (n := n) c
      (fun t => { t with built := t.built ++ [i] })
    have hcore : ((hodBuilt w c n i pa tile).core c).hodarea = (setBusy ((w.writeBytes pa tile).core c) i).hodarea := by
      rw [hodBuilt, hl, State.core_modCore_same]
    exact (congrArg (fun a : BitVec _ => bit a.toNat (24 + i)) hcore).trans (slotBusy_setBusy _ hi)
  · rw [hbuilt, State.strand, State.core, State.setW_cores]
    have hstrand : ((hodBuilt w c n i pa tile).strand c n).built =
        (((w.writeBytes pa tile).modCore c (fun k => setBusy k i)).strand c n).built ++ [i] := by
      rw [hodBuilt, State.strand_modStrand_same]
    exact (congrArg (i ∈ ·) hstrand).mpr (List.mem_append_right _ (List.mem_singleton_self i))

theorem State.seenCore_own (h : (s.core c).replay = none) : s.seenCore c = c := by rw [State.seenCore, h]

theorem hodWrite_slot_replay {p : Nat} {h : HodImage} (hrep : (w.core c).replay = none) :
    ((hodWrite w c (.slot p i) h).core c).replay = none := by
  rw [hodWrite, hrep, Option.isSome_none, if_neg Bool.false_ne_true, setSlotImage, State.core, State.write_cores]
  exact hrep

variable (hs : s.strandReady c n g [a.val] [d.val]) (hown : (s.core c).replay = none) (halign : fieldOf (s.w a) 55 0 % 8 = 0)
  (hrel : releasedBelow (s.correctRegs [a.val]) c n (s.correctRegs [a.val]).fresh = true)
  (hhead : hodSource (s.correctRegs [a.val]) c n (fieldOf (s.w a) 55 0) 64 = (u, .ok x)) (himage : hodImageValid (ofBytesLE x) = true)

include hs hown halign hrel hhead himage

theorem execHodnew_full (hfree : freeLanding (u.core c) = none) : exec (.hodnew g d a) s = .next ((u.setW d 0).advance 4) := by
  have hexec : exec (.hodnew g d a) s = execHodnew g d a s := rfl
  have hme : (s.correctRegs [a.val]).seenCore c = c := State.seenCore_own (by rw [State.correctRegs_core, hown])
  rw [hexec, execHodnew, onStrand_strand hs.runs, guarded_true hs.guard, hs.written, if_neg (by decide), needing_ready hs.read hs.sound,
    State.correctRegs_w]
  dsimp only
  rw [if_neg (not_not.2 halign), hrel, if_neg (by decide), hhead]
  dsimp only
  rw [himage, if_neg (by decide), hme, hfree]

theorem execHodnew_builds (hfree : freeLanding (u.core c) = some i)
    (hstops : hodSource u c n (fieldOf (s.w a) 55 0 + 64) (16 * hodNstop (ofBytesLE x)) = (v, .ok y)) {h : HodImage}
    (hh : h = ofBytesLE x + 2 ^ 512 * ofBytesLE y)
    (hvalid : ∀ j, j < hodNstop h → stopValid (hodStop h j) = true)
    (htile : hodSource v c n (hodTaddr h % 2 ^ 56) (hodLen h) = (w, .ok tile)) (hrep : (w.core c).replay = none) :
    ∃ z, exec (.hodnew g d a) s = .next z ∧ slotBusy (z.core c) i = true ∧ i ∈ (z.strand c n).built := by
  have hexec : exec (.hodnew g d a) s = execHodnew g d a s := rfl
  have hme : (s.correctRegs [a.val]).seenCore c = c := State.seenCore_own (by rw [State.correctRegs_core, hown])
  have hany : (List.range (hodNstop h)).any (fun j => !stopValid (hodStop h j)) = false :=
    List.any_eq_false.2 fun j hj => by rw [hvalid j (List.mem_range.1 hj)]; decide
  rw [hexec, execHodnew, onStrand_strand hs.runs, guarded_true hs.guard, hs.written, if_neg (by decide), needing_ready hs.read hs.sound,
    State.correctRegs_w]
  dsimp only
  rw [if_neg (not_not.2 halign), hrel, if_neg (by decide), hhead]
  dsimp only
  rw [himage, if_neg (by decide), hme, hfree]
  dsimp only
  rw [hstops]
  dsimp only
  rw [← hh, hany, if_neg (by decide), htile]
  dsimp only
  rw [hodWrite_slot_replay hrep, Option.isSome_none, if_neg Bool.false_ne_true]
  have hi : i < 40 := Nat.lt_trans (freeLanding_lt hfree) (by decide)
  exact ⟨_, rfl, hodBuilt_retires (hi := hi) ..⟩

end Building

section Settled

/-- Settles O43: each instruction by its frame, with the operand found. -/
theorem hodInstructions : Obligations.HodInstructions := by
  unfold Obligations.HodInstructions
  intro s c n g k sel d a b h hown at_ operand found launchOf edits
  have hall : s.strandReady c n g [a.val, b.val, b.val + 1] [] := h.mono (List.Subset.refl _) (List.nil_subset _)
  have htwo : s.strandReady c n g [a.val, b.val] [] := h.mono (by simp) (List.nil_subset _)
  have hone : s.strandReady c n g [a.val] [] := h.mono (by simp) (List.nil_subset _)
  have hwrites : s.strandReady c n g [a.val] [d.val] := h.mono (by simp) (List.Subset.refl _)
  refine ⟨fun u w x hf hlow hstop => ⟨fun hlt => execHodset_edits hall ⟨hf.1, hf.2⟩ hlow hstop hlt,
      fun hle hroom => execHodins_edits hall ⟨hf.1, hf.2⟩ hlow hstop hle hroom⟩,
    fun u w x hf => ⟨fun hlow hlt hmore => execHoddel_edits hone ⟨hf.1, hf.2⟩ hlow hlt hmore,
      fun hsel => execHodget_reads hwrites ⟨hf.1, hf.2⟩ hsel⟩, ?_,
    fun u w x hf hst hrep => execHodpark_parks htwo ⟨hf.1, hf.2⟩ hst hrep, ?_, ?_⟩
  · intro u w x hop hrel hallow hsamp h' x' v hrep hdig
    refine (execHodnext_leaves hone hop hrel hallow hsamp (h' := h') rfl rfl hrep hdig).trans ?_
    cases w <;> rfl
  · intro u w x hf hwho hst hcur hallow hrep
    refine (execHodresume_sends hone ⟨hf.1, hf.2⟩ hwho hst hcur hallow hrep).trans ?_
    cases w <;> rfl
  · intro t va halign hrel u x hhead himage hrep
    have hva : va = fieldOf (s.w a) 55 0 := congrArg (fieldOf · 55 0) (State.correctRegs_w ..)
    rw [hva] at halign hhead
    refine ⟨fun hfree => execHodnew_full hwrites hown halign hrel hhead himage hfree, ?_⟩
    intro i v y w tile hfree hstops h' hvalid _ htile hrepw
    rw [hva] at hstops
    exact execHodnew_builds hwrites hown halign hrel hhead himage hfree hstops rfl hvalid htile hrepw

end Settled

end Sys2Proof.Machine
end

section
/-! PROOFS. Hods between cores, and BULK frames (chapters 10 and 20). -/

open Sys2Proof

namespace Sys2Proof.Machine

/-! ### The pull (R196) -/

section Pulling

variable {s u : State} {c i id cause : Nat} {x : Slot} {f : HodFwd} {l : List Byte}

theorem State.fwd?_id (h : s.fwd? id = some f) : f.id = id :=
  of_decide_eq_true (List.find?_some (p := fun f : HodFwd => decide (f.id = id)) h)

section Instruction

variable (hwait : waitingHod (s.core c) = some (x, id)) (hfree : freeLanding (s.core c) = some i) (hfwd : s.fwd? id = some f)
  (hsound : x.bad = 0)

include hwait hfree hfwd hsound

theorem execHodPull_lands (hpkg : corePkg f.core = corePkg c) (hpull : pullHod s c f = (u, .ok l)) :
    exec (.hodPull c) s = .next (landHod u c i x f l) := by
  have hexec : exec (.hodPull c) s = execHodPull c s := rfl
  rw [hexec, execHodPull, hwait, hfree]
  dsimp only
  rw [hfwd]
  dsimp only
  rw [if_neg (not_not.2 hsound), if_pos hpkg, hpull]

theorem execHodPull_fails (hpkg : corePkg f.core = corePkg c) (hpull : pullHod s c f = (u, .error cause)) :
    exec (.hodPull c) s = .next (pullFails u c x f cause) := by
  have hexec : exec (.hodPull c) s = execHodPull c s := rfl
  rw [hexec, execHodPull, hwait, hfree]
  dsimp only
  rw [hfwd]
  dsimp only
  rw [if_neg (not_not.2 hsound), if_pos hpkg, hpull]

theorem execHodPull_fetched (hpkg : corePkg f.core ≠ corePkg c) (hfetch : f.fetched = some l) :
    exec (.hodPull c) s = .next (landHod s c i x f l) := by
  have hexec : exec (.hodPull c) s = execHodPull c s := rfl
  rw [hexec, execHodPull, hwait, hfree]
  dsimp only
  rw [hfwd]
  dsimp only
  rw [if_neg (not_not.2 hsound), if_neg hpkg, hfetch]

end Instruction

/-- A message of the HOD partition whose hod has landed. -/
def markLanded (x : Slot) (id i : Nat) (y : Slot) : Slot := if y.part = 3 ∧ y.slot = x.slot then { y with kind := .hod id (some i) } else y

/-- A well-formed hod that lands: what is left once its bytes lie in the slot. -/
theorem landHod_good (hgood : hodWellFormed (ofBytesLE (l.take 192)) = true) : ∃ t : State,
    landHod u c i x f l = ((t.modCore c (fun k => setBusy k i)).modFwd f.id (fun f => { f with ack := some 0 })).modCore c
      (fun k => { k with inbox := k.inbox.map (markLanded x f.id i) }) := by
  rw [landHod, hgood]
  exact ⟨_, if_pos rfl⟩

theorem markLanded_kind {y : Slot} (hpart : (markLanded x id i y).part = 3) (hslot : (markLanded x id i y).slot = x.slot) :
    (markLanded x id i y).kind = .hod id (some i) := by
  by_cases h : y.part = 3 ∧ y.slot = x.slot
  · rw [markLanded, if_pos h]
  · rw [markLanded, if_neg h] at hpart hslot
    exact absurd ⟨hpart, hslot⟩ h

theorem landHod_effect (hi : i < 40) (hgood : hodWellFormed (ofBytesLE (l.take 192)) = true) :
    slotBusy ((landHod u c i x f l).core c) i = true ∧ (∀ y ∈ (landHod u c i x f l).fwds, y.id = f.id → y.ack = some 0) ∧
      ∀ y ∈ ((landHod u c i x f l).core c).inbox, y.part = 3 → y.slot = x.slot → y.kind = .hod f.id (some i) := by
  obtain ⟨t, hland⟩ := landHod_good (u := u) (c := c) (i := i) (x := x) (f := f) hgood
  rw [hland, State.core_modCore_same]
  refine ⟨?_, ?_, ?_⟩
  · have hcore : (((t.modCore c (fun k => setBusy k i)).modFwd f.id (fun f => { f with ack := some 0 })).core c).hodarea =
        (setBusy (t.core c) i).hodarea := congrArg Core.hodarea (State.core_modCore_same (s := t) c (fun k => setBusy k i))
    exact (congrArg (fun a : BitVec _ => bit a.toNat (24 + i)) hcore).trans (slotBusy_setBusy _ hi)
  · intro y hy hid
    obtain ⟨y', _, rfl⟩ := List.mem_map.1 (show y ∈ (List.map (fun x => if x.id = f.id then { x with ack := some 0 } else x) t.fwds) from hy)
    split at hid
    · rw [if_pos ‹_›]
    · contradiction
  · intro y hy hpart hslot
    obtain ⟨y', _, rfl⟩ := List.mem_map.1 hy
    exact markLanded_kind hpart hslot

end Pulling

/-! ### The acknowledgement (R196) -/

section Acknowledging

variable {s : State} {r : Nat} {f : HodFwd}

/-- The forwards without one of them. -/
def fwdGone (s : State) (r : Nat) : State := { s with fwds := s.fwds.filter (fun x => decide (x.id ≠ r)) }

theorem execHodAck_answers {cause : Nat} (hfwd : s.fwd? r = some f) (hans : hodAnswered s f = true) (hrsp : rspStopped s f.sender = false)
    (hack : f.ack = some cause) : exec (.hodAck r) s =
      .next (if cause = 0 then freeHod (fwdGone s r) f.sender f.place else parkHod (fwdGone s r) f.sender f.place .fault cause) := by
  have hexec : exec (.hodAck r) s = execHodAck r s := rfl
  rw [hexec, execHodAck, hfwd]
  dsimp only
  rw [hack]
  dsimp only
  rw [hans, hrsp, if_neg (by decide)]
  exact (apply_ite Host.Outcome.next _ _ _).symm

end Acknowledging

/-! ### BULK frames (R386) -/

section Frames

variable {s v : State} {r id : Nat} {b : Bulk} {q : CopyReq} {l : List Byte}

/-- The frames without one of them. -/
def bulkGone (s : State) (r : Nat) : State := { s with bulks := s.bulks.filter (fun x => decide (x.id ≠ r)) }

variable (hfind : s.bulks.find? (fun b => decide (b.id = r)) = some b)

include hfind

theorem bulk_id : b.id = r := of_decide_eq_true (List.find?_some (p := fun b : Bulk => decide (b.id = r)) hfind)

section Arriving

variable (hlink : b.pkg = corePkg b.core ∨ s.bulkDown (corePkg b.core) b.pkg = false)

include hlink

theorem execBulkTransfer_copies (hkind : ∀ id, b.kind ≠ .hodPull id) : exec (.bulkTransfer r) s = .next (bulkCopy s b) := by
  have hexec : exec (.bulkTransfer r) s = execBulkTransfer r s := rfl
  rw [hexec, execBulkTransfer, hfind]
  refine (if_neg ?_).trans ?_
  · rintro ⟨hne, hdown⟩
    rcases hlink with h | h
    · exact hne h
    · rw [h] at hdown
      cases hdown
  · split
    · exact absurd ‹_› (hkind _)
    · rfl

theorem execBulkTransfer_pulls {f : HodFwd} (hkind : b.kind = .hodPull id) (hfwd : (bulkGone s r).fwd? id = some f)
    (hroot : rootAdmits (bulkGone s r) (2 * b.pkg) b.dom (corePkg b.core) = true ∨
      rootAdmits (bulkGone s r) (2 * b.pkg + 1) b.dom (corePkg b.core) = true)
    (hpull : pullHod (bulkGone s r) f.core f = (v, .ok l)) :
    exec (.bulkTransfer r) s = .next (v.modFwd id (fun f => { f with fetched := some l })) := by
  have hexec : exec (.bulkTransfer r) s = execBulkTransfer r s := rfl
  rw [bulkGone] at hfwd hroot hpull
  rw [hexec, execBulkTransfer, hfind]
  refine (if_neg ?_).trans ?_
  · rintro ⟨hne, hdown⟩
    rcases hlink with h | h
    · exact hne h
    · rw [h] at hdown
      cases hdown
  · rw [hkind]
    dsimp only
    rw [hfwd]
    dsimp only
    rw [if_neg, hpull]
    exact fun h => absurd ((Bool.or_eq_true _ _).mpr hroot) (by rw [Bool.not_eq_true'] at h; rw [h]; decide)

end Arriving

variable (hreq : (s.core b.core).copy.q.find? (fun q => decide (q.id = b.req)) = some q)

include hreq

theorem bulkCopy_reads {pa k : Nat} {attr : BitVec 9} (hkind : b.kind = .copyRead pa k attr) (hopen : foOpen s b.dom ⟨pa, attr, 16⟩ = true)
    (hpad : burstRefused s ⟨b.core, b.dom, isForeman b.core, false, none⟩ pa k false = none)
    (hread : burstRead (bulkGone s r) ⟨b.core, b.dom, isForeman b.core, false, none⟩ 70 ⟨pa, attr, 16⟩ k = (v, .ok l)) :
    bulkCopy s b = v.setCopy b.core { q with inflight := 0, buf := some l } := by
  have hid := bulk_id hfind
  rw [bulkGone] at hread
  rw [bulkCopy, hreq]
  dsimp only
  rw [hkind, hid]
  dsimp only
  rw [hopen, if_neg (by decide), hpad]
  dsimp only
  rw [hread]

theorem bulkCopy_writes {pa : Nat} {attr : BitVec 9} {data : List Byte} (hkind : b.kind = .copyWrite pa attr data)
    (hopen : foOpen s b.dom ⟨pa, attr, 16⟩ = true)
    (hpad : burstRefused s ⟨b.core, b.dom, isForeman b.core, false, none⟩ pa data.length true = none)
    (hwrite : burstWrite (bulkGone s r) ⟨b.core, b.dom, isForeman b.core, false, none⟩ 70 ⟨pa, attr, 16⟩ data = (v, none)) :
    bulkCopy s b = v.setCopy b.core
      { q with inflight := 0, buf := none, cursor := q.cursor + (q.buf.map List.length).getD 0, written := q.written + data.length } := by
  have hid := bulk_id hfind
  rw [bulkGone] at hwrite
  rw [bulkCopy, hreq]
  dsimp only
  rw [hkind, hid]
  dsimp only
  rw [hopen, if_neg (by decide), hpad]
  dsimp only
  rw [hwrite]

end Frames

section Settled

/-- Settles O44: the pull, the acknowledgement and the frame, each by its branches. -/
theorem hodTransport : Obligations.HodTransport := by
  unfold Obligations.HodTransport
  refine ⟨fun s c i id x f hwait hfree hfwd hsound => ⟨fun hpkg => ⟨fun u l hpull => ⟨execHodPull_lands hwait hfree hfwd hsound hpkg hpull,
      fun hgood => ?_⟩, fun u cause hpull => execHodPull_fails hwait hfree hfwd hsound hpkg hpull⟩,
      fun l hpkg hfetch => execHodPull_fetched hwait hfree hfwd hsound hpkg hfetch⟩, ?_, ?_⟩
  · refine ⟨_, execHodPull_lands hwait hfree hfwd hsound hpkg hpull, ?_⟩
    rw [← State.fwd?_id hfwd]
    exact landHod_effect (Nat.lt_trans (freeLanding_lt hfree) (by decide)) hgood
  · intro s r f hfwd hans hrsp u
    exact ⟨fun hack => execHodAck_answers hfwd hans hrsp hack,
      fun cause hack hne => (execHodAck_answers hfwd hans hrsp hack).trans (congrArg Host.Outcome.next (if_neg hne))⟩
  · intro s r b hfind hlink gone a
    refine ⟨execBulkTransfer_copies hfind hlink, fun q hreq => ⟨?_, ?_⟩, ?_⟩
    · intro pa k attr v l hkind hopen hpad hread
      rw [execBulkTransfer_copies hfind hlink fun id h => (by rw [hkind] at h; cases h), bulkCopy_reads hfind hreq hkind hopen hpad hread]
    · intro pa attr data hkind hopen hpad hwrite
      rw [execBulkTransfer_copies hfind hlink fun id h => (by rw [hkind] at h; cases h),
        bulkCopy_writes hfind hreq hkind hopen hpad (Prod.ext rfl hwrite)]
      rfl
    · intro id f v l hkind hfwd hroot hpull
      exact execBulkTransfer_pulls hfind hlink hkind hfwd hroot hpull

end Settled

end Sys2Proof.Machine
end

section
/-! PROOFS. Launches: queued, refused, started, ended, aborted and watched (chapter 18). -/

open Sys2Proof

namespace Sys2Proof.Machine

/-! ### Receiving a LAUNCH (R348, R349) -/

theorem statusWord_refused (reason cause kind : Nat) :
    statusWord 2 reason cause kind = 2 + 256 * reason + 65536 * cause + 2 ^ 24 * kind := by
  rw [statusWord]
  omega
theorem statusWord_step (reason : Nat) : statusWord 2 reason 0 0 = 2 + 256 * reason := by
  rw [statusWord]
  omega
theorem statusWord_plain (st : Nat) : statusWord st 0 0 0 = st := by
  rw [statusWord]
  omega

section Receiving

variable {s : State} {p : Nat} {m : Msg}

/-- A package with another launch in the queue of a panel's foreman. -/
def queueLaunch (t : State) (p : Nat) (m : Msg) : State :=
  { t with launches := t.launches ++ [Launch.queuedOf t.fresh p m], fresh := t.fresh + 1 }

variable (hhead : sysHead s p 0x01 = some m) (hboot : ∀ n, (s.pkg (p / 8)).boot ≠ .failed n)

include hhead hboot

theorem execLaunch_refuses {reason : Nat} (h : packetRefused (dropSys s p) p m = some reason) :
    exec (.launch p) s = .next (writeStatus (dropSys s p) p m (2 + 256 * reason) 0) := by
  have hexec : exec (.launch p) s = execLaunch p s := rfl
  rw [hexec, execLaunch, hhead]
  dsimp only
  split
  · exact absurd ‹_› (hboot _)
  · rw [h]
    exact congrArg (fun st => Host.Outcome.next (writeStatus (dropSys s p) p m st 0)) (statusWord_step reason)

theorem execLaunch_queues (h : packetRefused (dropSys s p) p m = none) :
    exec (.launch p) s = .next (writeStatus (queueLaunch (dropSys s p) p m) p m 0 0) := by
  have hexec : exec (.launch p) s = execLaunch p s := rfl
  rw [hexec, execLaunch, hhead]
  dsimp only
  split
  · exact absurd ‹_› (hboot _)
  · rw [h]
    exact congrArg (fun st => Host.Outcome.next (writeStatus (queueLaunch (dropSys s p) p m) p m st 0)) (statusWord_plain 0)

end Receiving

/-! ### Starting (R348, steps 3 to 6) -/

section Starting

variable {s t u : State} {p c c' r : Nat} {l : Launch} {i : Image} {marks : List Nat}

/-- What a launch's core is given of it. -/
structure coreOfLaunch (s : State) (l : Launch) (c : Nat) : Prop where
  launch : (s.core c).launch = l.id
  domain : (s.core c).domain = l.dom
  audseed : (s.core c).audseed = l.packet.w3

theorem prepareCore_own : coreOfLaunch (prepareCore s l i r c) l c := by
  unfold prepareCore
  dsimp only
  refine ⟨?_, ?_, ?_⟩ <;> rw [State.core_modCore_same]

theorem prepareCore_other (h : c ≠ c') : (prepareCore s l i r c).core c' = s.core c' := by
  unfold prepareCore
  dsimp only
  rw [State.core_modCore_other _ _ h, State.core]
  simp only [State.writeBytes_cores, State.wipe_cores]
  rfl

theorem prepareCore_keeps (h : coreOfLaunch s l c') : coreOfLaunch (prepareCore s l i r c) l c' := by
  by_cases hc : c = c'
  · exact hc ▸ prepareCore_own
  · obtain ⟨hlaunch, hdomain, hseed⟩ := h
    have hsame := prepareCore_other (s := s) (l := l) (i := i) (r := r) hc
    exact ⟨hsame ▸ hlaunch, hsame ▸ hdomain, hsame ▸ hseed⟩

/-- Every core that the context engine has prepared belongs to the launch. -/
theorem foldl_prepareCore (l : Launch) (i : Image) : ∀ (cs : List (Nat × Nat)) (s : State),
    (∀ c, coreOfLaunch s l c → coreOfLaunch (cs.foldl (fun s x => prepareCore s l i x.2 x.1) s) l c) ∧
      ∀ x ∈ cs, coreOfLaunch (cs.foldl (fun s x => prepareCore s l i x.2 x.1) s) l x.1
  | [], _ => ⟨fun _ h => h, fun _ h => nomatch h⟩
  | y :: cs, s => by
    obtain ⟨hkeep, hall⟩ := foldl_prepareCore l i cs (prepareCore s l i y.2 y.1)
    refine ⟨fun c h => hkeep c (prepareCore_keeps h), fun x hx => ?_⟩
    rcases List.mem_cons.1 hx with rfl | hx
    · exact hkeep _ prepareCore_own
    · exact hall x hx

/-- A launch that runs: the launch as it was when its marks were in order, without its image. -/
def runningOf (l : Launch) : Launch := { l with state := .running, image := none, shoots := [] }

theorem startLaunch_runs (s : State) (l : Launch) (i : Image) : ∃ u : State, (∀ c ∈ l.cores, coreOfLaunch u l c) ∧
    startLaunch s l i = l.cores.foldl (fun s c => firstMessage s (runningOf l) c) (writeStatus u l.panel l.packet 1 0) := by
  refine ⟨(runningOf l).cores.zipIdx.foldl (fun s x => prepareCore s (runningOf l) i x.2 x.1)
    ((putEntries s (runningOf l) l.marked (entryOn true)).modLaunch l.id (fun _ => runningOf l)), fun c hc => ?_, ?_⟩
  · obtain ⟨x, hx, rfl⟩ : ∃ x ∈ (runningOf l).cores.zipIdx, x.1 = c := by
      have hmem : c ∈ ((runningOf l).cores.zipIdx).map Prod.fst := by
        rw [List.zipIdx_map_fst]
        exact hc
      exact List.mem_map.1 hmem
    obtain ⟨hlaunch, hdomain, hseed⟩ := (foldl_prepareCore (runningOf l) i _ _).2 x hx
    exact ⟨hlaunch, hdomain, hseed⟩
  · rw [startLaunch, statusWord_plain]
    rfl

/-- A launch runs: its cores belong to it, its status block says so, and the foreman's first messages are on their way. -/
def launchRuns (p : Nat) (l : Launch) (regs : Nat) (out : Result) : Prop := ∃ (u : State) (x : Launch),
  x.id = l.id ∧ x.packet = l.packet ∧ x.state = .running ∧ x.regs = regs ∧
  (∀ c ∈ l.cores, (u.core c).launch = l.id ∧ (u.core c).domain = l.dom ∧ (u.core c).audseed = l.packet.w3) ∧
  out = .next (l.cores.foldl (fun s c => firstMessage s x c) (writeStatus u p l.packet 1 0))

theorem launchRuns_startLaunch (s : State) (l : Launch) (i : Image) (hpanel : l.panel = p) :
    launchRuns p l l.regs (.next (startLaunch s l i)) := by
  obtain ⟨u, hcores, hstart⟩ := startLaunch_runs s l i
  refine ⟨u, runningOf l, rfl, rfl, rfl, rfl, fun c hc => ?_, ?_⟩
  · obtain ⟨hlaunch, hdomain, hseed⟩ := hcores c hc
    exact ⟨hlaunch, hdomain, hseed⟩
  · rw [hstart, hpanel]

theorem settledStart_panel (h : settledStart s p = some (l, i)) : l.panel = p := by
  obtain ⟨x, _, hx⟩ := List.exists_of_findSome?_eq_some h
  split at hx
  · obtain ⟨j, _, hj⟩ := Option.map_eq_some_iff.1 hx
    cases hj
    exact (‹_ ∧ _ ∧ _›).1
  · cases hx

theorem startable_panel (h : startable s p = some l) : l.panel = p := by
  have hfound := List.find?_some h
  simp only [Bool.and_eq_true, decide_eq_true_eq] at hfound
  exact hfound.1.1.1

/-- A launch whose image is read, with its leaf entries that do not carry FO. -/
def startingOf (l : Launch) (i : Image) (marks : List Nat) : Launch :=
  { l with state := .starting, header := (List.range 16).map (fun n => word (headField i.head (8 * n) 8)), regs := i.regs,
           marked := marks, units := (((footEntries i).filterMap id).map (fun e => l.pkg * 512 + e.1)).eraseDups }

theorem beginLaunch_starts (hmarks : unmarkedLeaves t l i.head = (u, [])) :
    beginLaunch t l i = startLaunch (grantUnits u (startingOf l i []) i) (startingOf l i []) i := by
  rw [beginLaunch, hmarks]
  rfl
theorem beginLaunch_unmaps (hmarks : unmarkedLeaves t l i.head = (u, marks)) (hne : marks ≠ []) :
    beginLaunch t l i = ((unmapMarks (grantUnits u (startingOf l i marks) i) (startingOf l i marks) i.head).1.modLaunch l.id
      (fun _ => { startingOf l i marks with image := some i,
                                            shoots := (unmapMarks (grantUnits u (startingOf l i marks) i) (startingOf l i marks) i.head).2 })) := by
  rw [beginLaunch, hmarks]
  exact if_neg fun h => hne (List.isEmpty_iff.1 h)

theorem execLaunchStart_settled (h : settledStart s p = some (l, i)) : exec (.launchStart p) s = .next (startLaunch s l i) := by
  have hexec : exec (.launchStart p) s = execLaunchStart p s := rfl
  rw [hexec, execLaunchStart, h]

section Waiting

variable (hsettled : settledStart s p = none) (hstart : startable s p = some l)

include hsettled hstart

theorem execLaunchStart_begins (hread : readImage s l = (t, .ok i)) : exec (.launchStart p) s = .next (beginLaunch t l i) := by
  have hexec : exec (.launchStart p) s = execLaunchStart p s := rfl
  rw [hexec, execLaunchStart, hsettled, hstart]
  dsimp only
  rw [hread]

theorem execLaunchStart_refuses {reason cause kind va : Nat} (hread : readImage s l = (t, .error (reason, cause, kind, va))) :
    exec (.launchStart p) s = .next (writeStatus { t with launches := t.launches.filter (fun x => decide (x.id ≠ l.id)) } p l.packet
      (2 + 256 * reason + 65536 * cause + 2 ^ 24 * kind) va) := by
  have hexec : exec (.launchStart p) s = execLaunchStart p s := rfl
  rw [hexec, execLaunchStart, hsettled, hstart]
  dsimp only
  rw [hread]
  dsimp only
  rw [statusWord_refused]

end Waiting

end Starting

/-! ### LAUNCH END and LAUNCH ABORT (R360, R361) -/

section Ending

variable {s : State} {p sfn : Nat} {m : Msg} {l : Launch} {f : State → Launch → State}

/-- The launch stops at once. -/
def abortLaunch (s : State) (l : Launch) : State :=
  abortParked (cancelParked (((l.cores.filter (runsOn s l)).foldl abortCore s).modLaunch l.id (fun x => { x with state := .ending })) l) l

theorem exec_launchEnd : exec (.launchEnd p) s = endRequest p 0x02 (fun s l => s.modLaunch l.id (fun x => { x with endAsked := true })) s := rfl
theorem exec_launchAbort : exec (.launchAbort p) s = endRequest p 0x03 abortLaunch s := rfl

section Requests

variable (hhead : sysHead s p sfn = some m) (hnamed : namedLaunch (dropSys s p) p m = some l)

include hhead hnamed

theorem endRequest_obeyed (hmay : mayEndLaunch (dropSys s p) l m = true) : endRequest p sfn f s = .next (f (dropSys s p) l) := by
  rw [endRequest, hhead]
  dsimp only
  rw [hnamed]
  dsimp only
  rw [if_pos hmay]
theorem endRequest_handedOn (hmay : mayEndLaunch (dropSys s p) l m = false) :
    endRequest p sfn f s = .next ((dropSys s p).handOn (foremanOf p) l.supv m 0x03 sfn) := by
  rw [endRequest, hhead]
  dsimp only
  rw [hnamed]
  dsimp only
  rw [if_neg (ne_true_of_eq_false hmay)]

end Requests

/-! ### The end of a launch (R360–R362) -/

variable {n st : Nat} (hfind : s.launch? n = some l)

include hfind

theorem execLaunchQuiescence_running (hrun : l.state = .running) (hask : l.packet.w0.getLsbD 31 = true ∨ l.endAsked = true)
    (hquiet : quiescent s l = true) : exec (.launchQuiescence n) s = .next (finishLaunch s l 3) := by
  have hexec : exec (.launchQuiescence n) s = execLaunchQuiescence n s := rfl
  have hbit : bit l.packet.w0.toNat 31 = l.packet.w0.getLsbD 31 := by
    rw [bit, BitVec.getLsbD, Nat.testBit_eq_decide_div_mod_eq]
  rw [hexec, execLaunchQuiescence, hfind]
  dsimp only
  rw [hrun]
  refine whenever_true (k := fun s => finishLaunch s l 3) ?_
  rw [hbit, hquiet, Bool.and_true, Bool.or_eq_true]
  exact hask

theorem execLaunchQuiescence_ending (hend : l.state = .ending) (hopen : l.closing = none) (hwound : woundUp (cancelParked s l) l = true) :
    exec (.launchQuiescence n) s = .next (finishLaunch (cancelParked s l) l 4) := by
  have hexec : exec (.launchQuiescence n) s = execLaunchQuiescence n s := rfl
  rw [hexec, execLaunchQuiescence, hfind]
  dsimp only
  rw [hend, hopen]
  exact whenever_true hwound

theorem execLaunchQuiescence_closing (hend : l.state = .ending) (hclosing : l.closing = some st) (hsettled : marksSettled s l = true) :
    exec (.launchQuiescence n) s = .next (closeLaunch s l st) := by
  have hexec : exec (.launchQuiescence n) s = execLaunchQuiescence n s := rfl
  rw [hexec, execLaunchQuiescence, hfind]
  dsimp only
  rw [hend, hclosing]
  exact whenever_true hsettled

/-! ### The watchdog (R359) -/

theorem execWatchdogStall_clears (hstill : isStill s l = false) :
    exec (.watchdogStall n) s = .next (s.modLaunch n (fun x => { x with still := none, reported := false })) := by
  have hexec : exec (.watchdogStall n) s = execWatchdogStall n s := rfl
  rw [hexec, execWatchdogStall, hfind]
  dsimp only
  rw [if_pos (Or.inr (by rw [hstill]; decide))]

/-- The report of a stall. -/
def reportStall (s : State) (n : Nat) (l : Launch) : State :=
  let ents := (launchWaits s l).take (fieldOf (l.header[1]?.getD 0) 63 48)
  let repva : Nat := fieldOf (l.header[13]?.getD 0) 55 0
  let u := ents.zipIdx.foldl (fun s e =>
    (writeVa s (s.firmware (foremanOf l.panel) l.dom) 2 (repva + 64 * e.2) (waitBytes e.1.1 e.1.2)).1) s
  (u.modLaunch n (fun x => { x with reported := true })).foremanSends (foremanOf l.panel) l.supv 0x12
    (word ents.length) (word (waitCounts u l).1) (word (waitCounts u l).2) (word repva) 0 0

variable (hrun : l.state = .running) (hstill : isStill s l = true)

include hrun hstill

theorem execWatchdogStall_begins (hnone : l.still = none) :
    exec (.watchdogStall n) s = .next (s.modLaunch n (fun x => { x with still := some s.cycle })) := by
  have hexec : exec (.watchdogStall n) s = execWatchdogStall n s := rfl
  rw [hexec, execWatchdogStall, hfind]
  dsimp only
  rw [if_neg (by simp [hrun, hstill]), hnone]

theorem execWatchdogStall_reports {t : Nat} (hsince : l.still = some t) (htime : t + 2 ^ 22 ≤ s.cycle) (hnew : l.reported = false) :
    exec (.watchdogStall n) s = .next (reportStall s n l) := by
  have hexec : exec (.watchdogStall n) s = execWatchdogStall n s := rfl
  rw [hexec, execWatchdogStall, hfind]
  dsimp only
  rw [if_neg (by simp [hrun, hstill]), hsince]
  exact whenever_true (k := fun s => reportStall s n l) (by rw [hnew, decide_eq_true (show t + 4194304 ≤ s.cycle from htime)]; rfl)

theorem execWatchdogStall_waits {t : Nat} (hsince : l.still = some t) (hwait : s.cycle < t + 2 ^ 22 ∨ l.reported = true) :
    exec (.watchdogStall n) s = .next s := by
  have hexec : exec (.watchdogStall n) s = execWatchdogStall n s := rfl
  rw [hexec, execWatchdogStall, hfind]
  dsimp only
  rw [if_neg (by simp [hrun, hstill]), hsince]
  refine whenever_false ?_
  rw [Bool.and_eq_false_iff, decide_eq_false_iff_not, Bool.not_eq_false']
  exact hwait.imp_left fun h => by omega

end Ending

section Settled

/-- Settles O45: each event by its branches; a started launch's cores are those that the context engine has prepared. -/
theorem launchEvents : Obligations.LaunchEvents := by
  unfold Obligations.LaunchEvents
  refine ⟨fun s p m hhead hboot => ⟨fun reason h => execLaunch_refuses hhead hboot h, fun h => execLaunch_queues hhead hboot h⟩, ?_, ?_, ?_⟩
  · intro s t p l runs
    refine ⟨fun i h => ?_, fun hsettled hstart => ⟨fun reason cause kind va hread => execLaunchStart_refuses hsettled hstart hread, ?_⟩⟩
    · rw [execLaunchStart_settled h]
      exact launchRuns_startLaunch s l i (settledStart_panel h)
    · intro i u marks hread hmarks x off
      have hbegin := execLaunchStart_begins hsettled hstart hread
      refine ⟨fun hnone => ?_, fun hne => ?_⟩
      · subst hnone
        rw [hbegin, beginLaunch_starts hmarks]
        have hpanel : (startingOf l i []).panel = p := (rfl : _ = l.panel).trans (startable_panel hstart)
        exact launchRuns_startLaunch _ _ i hpanel
      · rw [hbegin, beginLaunch_unmaps hmarks hne]
        rfl
  · intro s p m l t mine hnamed
    refine ⟨fun hhead => ?_, fun hhead => ?_⟩
    · rw [exec_launchEnd]
      exact ⟨endRequest_obeyed hhead hnamed, endRequest_handedOn hhead hnamed⟩
    · rw [exec_launchAbort]
      exact ⟨endRequest_obeyed hhead hnamed, endRequest_handedOn hhead hnamed⟩
  · intro s n l hfind
    exact ⟨execLaunchQuiescence_running hfind, execLaunchQuiescence_ending hfind, fun st => execLaunchQuiescence_closing hfind,
      fun hrun hstill => execWatchdogStall_begins hfind hrun hstill,
      fun t hrun hstill hsince htime hnew => execWatchdogStall_reports hfind hrun hstill hsince htime hnew,
      fun t hrun hstill hsince hwait => execWatchdogStall_waits hfind hrun hstill hsince hwait,
      fun _ hstill => execWatchdogStall_clears hfind hstill⟩

end Settled

end Sys2Proof.Machine
end

section
/-! PROOFS. Dispatch and the idle step (chapter 18). -/

open Sys2Proof

namespace Sys2Proof.Machine

/-! ### The start of an activation (R144, R145, R353) -/

section Starting

variable {s t : State} {c n cls : Nat} {x : Slot}

/-- The fields of a strand that the start of an activation fixes for good: the others may still take the launch's image, the copied words, a
hod or a sample. -/
def startFields (t : Strand) : SMode × Word × Nat × Nat × Word × BitVec 8 := (t.mode, t.pc, t.frame, t.cls, t.actseq, t.mbad)

theorem startFields_setVec (t : Strand) (r : Nat) (v : VWord) : startFields (t.setVec r v) = startFields t := rfl
theorem startFields_setMask (t : Strand) (r : Nat) (v : Word) : startFields (t.setMask r v) = startFields t := by
  rw [Strand.setMask]
  split <;> rfl
theorem startFields_foldl {α : Type} {f : Strand → α → Strand} (hf : ∀ t x, startFields (f t x) = startFields t) :
    ∀ (l : List α) (t : Strand), startFields (l.foldl f t) = startFields t
  | [], _ => rfl
  | x :: l, t => (startFields_foldl hf l (f t x)).trans (hf t x)
theorem startFields_control (t : Strand) (fctl scb : Word) : startFields { t with fctl := fctl, scb := scb } = startFields t := rfl
theorem startFields_hod (t : Strand) (i : Nat) : startFields { t with hod := some i } = startFields t := rfl
theorem startFields_fromImage (l : Launch) (t : Strand) : startFields (fromImage l t) = startFields t := by
  unfold fromImage
  dsimp only
  rw [startFields_control, startFields_foldl (f := fun t r => t.setMask r (word (imageWord l 0x1100 r))) (fun t r => startFields_setMask ..),
    startFields_foldl (f := fun (t : Strand) (p : Nat × VWord) => t.setVec p.1 p.2) (fun t p => startFields_setVec ..)]

theorem foldl_cores {α : Type} {f : State → α → State} (hf : ∀ s x, (f s x).cores = s.cores) :
    ∀ (l : List α) (s : State), (l.foldl f s).cores = s.cores
  | [], _ => rfl
  | x :: l, s => (foldl_cores hf l (f s x)).trans (hf s x)
theorem State.strand_of_cores (h : t.cores = s.cores) : t.strand c n = s.strand c n := by
  rw [State.strand, State.strand, State.core, State.core, h]
theorem State.core_of_cores (h : t.cores = s.cores) : t.core c = s.core c := by rw [State.core, State.core, h]

theorem copyWords_cores (f k : Nat) (m : Msg) (bad : BitVec 8) : (copyWords s c f k m bad).cores = s.cores := by
  refine foldl_cores (fun s i => ?_) _ s
  split <;> rfl
theorem frameImage_cores (l : Launch) (f : Nat) : (frameImage s l c f).cores = s.cores := foldl_cores (fun _ _ => State.write_cores ..) _ s

theorem startFields_takeSample (audmaps : Nat) (q : Word) (m : Msg) :
    startFields ((takeSample s c n cls audmaps q m).strand c n) = startFields (s.strand c n) := by
  unfold takeSample
  split
  · rfl
  · dsimp only
    split
    · rfl
    · split
      · exact congrArg startFields ((Background.reportPoison ..).strand c n)
      · split
        · rfl
        · rw [State.strand_modStrand_same]
          rfl

/-- What an activation's strand takes after its start: its hod, and its sample. -/
theorem startFields_taken (audit : Bool) (audmaps : Nat) (q : Word) (m : Msg) {F : SMode × Word × Nat × Nat × Word × BitVec 8}
    (h : startFields (s.strand c n) = F) : startFields ((if audit then takeSample s c n cls audmaps q m else s).strand c n) = F := by
  split
  · exact (startFields_takeSample ..).trans h
  · exact h

theorem startActivation_fields : startFields ((startActivation s c n x cls).strand c n) =
    (.running, word (entryPc (routineEntry s c cls)), (freeFrame (s.core c)).getD 0, cls, (s.core c).actseq, x.bad) := by
  unfold startActivation
  dsimp only
  refine startFields_taken _ _ _ _ ?_
  have hgiven (o : Option Launch) (t : State) (f k : Nat) (m : Msg) (bad : BitVec 8) {F : SMode × Word × Nat × Nat × Word × BitVec 8}
      (h : startFields (t.strand c n) = F) : startFields ((match o with
        | some l => ((frameImage t l c f).modStrand c n (fromImage l)).modCore c (coreImageRegs l)
        | none => copyWords t c f k m bad).strand c n) = F := by
    cases o with
    | some l =>
      dsimp only
      have hcore (k : Core) : (coreImageRegs l k).strand n = k.strand n := rfl
      rw [State.strand, State.core_modCore_same, hcore]
      exact (congrArg startFields (State.strand_modStrand_same ..)).trans ((startFields_fromImage ..).trans
        ((congrArg startFields (State.strand_of_cores (frameImage_cores ..))).trans h))
    | none => exact (congrArg startFields (State.strand_of_cores (copyWords_cores ..))).trans h
  split
  · rw [State.strand_modStrand_same]
    refine (startFields_hod ..).trans ((congrArg startFields (State.strand_of_cores (State.write_cores ..))).trans ?_)
    refine hgiven _ _ _ _ _ _ ?_
    rw [State.strand_modStrand_same]
    rfl
  · refine hgiven _ _ _ _ _ _ ?_
    rw [State.strand_modStrand_same]
    rfl

end Starting

/-! ### What dispatch chooses (R352, R353) -/

section Choosing

variable {s : State} {c n cls : Nat} {x : Slot}

theorem best_mem {y : Slot × Nat} : ∀ {l : List (Slot × Nat)}, best s c l = some y → y ∈ l
  | [], h => nomatch h
  | z :: l, h => by
    rw [best] at h
    split at h
    · cases h
      exact List.mem_cons_self
    · split at h
      · cases h
        exact List.mem_cons_of_mem _ (best_mem ‹_›)
      · cases h
        exact List.mem_cons_self

/-- What dispatch starts is an eligible candidate, on a free strand. -/
structure chosenOf (s : State) (c n cls : Nat) (x : Slot) : Prop where
  strand : n < 4
  free : strandFree s c n = true
  candidate : (x, cls) ∈ candidates (s.core c)
  eligible : eligible s c n cls = true

theorem choose_chosen (h : choose s c = some (n, x, cls)) : chosenOf s c n cls x := by
  obtain ⟨m, hm, hsome⟩ := List.exists_of_findSome?_eq_some h
  split at hsome
  · obtain ⟨y, hy, heq⟩ := Option.map_eq_some_iff.1 hsome
    cases heq
    obtain ⟨hcand, helig⟩ := List.mem_filter.1 (best_mem hy)
    exact ⟨List.mem_range.1 hm, ‹_›, hcand, helig⟩
  · cases hsome

theorem chosenOf.frame (h : chosenOf s c n cls x) : some ((freeFrame (s.core c)).getD 0) = freeFrame (s.core c) := by
  have hfree := h.eligible
  unfold Machine.eligible at hfree
  obtain ⟨f, hf⟩ := Option.isSome_iff_exists.1 (Bool.and_eq_true _ _ ▸ hfree).2
  rw [hf]
  rfl

theorem chosenOf.cont {y : Cont} (h : chosenOf s c n cls x) (hkind : x.kind = .cont y) : cls = y.cls := by
  obtain ⟨z, _, hz⟩ := List.mem_filterMap.1 h.candidate
  obtain ⟨k, hk, heq⟩ := Option.map_eq_some_iff.1 hz
  cases heq
  rw [candClass, hkind] at hk
  exact (Option.some.inj hk).symm

end Choosing

/-! ### DISPATCH (R351–R354) -/

section Dispatching

variable {s : State} {c n cls : Nat} {x : Slot}

theorem execDispatch_turnsAway {z : Slot × Nat} (hrun : (s.core c).preempted = false)
    (hbad : (candidates (s.core c)).find? (fun x => !entryGood (routineEntry s c x.2)) = some z) :
    exec (.dispatch c) s = .next (turnAway s c z.1 z.2) := by
  have hexec : exec (.dispatch c) s = execDispatch c s := rfl
  rw [hexec, execDispatch, hrun, if_neg Bool.false_ne_true, hbad]

variable (hrun : (s.core c).preempted = false)
  (hgood : (candidates (s.core c)).find? (fun x => !entryGood (routineEntry s c x.2)) = none) (hstuck : stuckTrap s c = none)
  (hchoose : choose s c = some (n, x, cls))

include hrun hgood hstuck hchoose

theorem execDispatch_continues {y : Cont} (hkind : x.kind = .cont y) :
    exec (.dispatch c) s = .next (continueActivation s c n x y) := by
  have hexec : exec (.dispatch c) s = execDispatch c s := rfl
  rw [hexec, execDispatch, hrun, if_neg Bool.false_ne_true, hgood]
  dsimp only
  rw [hstuck]
  dsimp only
  rw [hchoose]
  dsimp only
  rw [hkind]

theorem execDispatch_starts (hkind : ∀ y, x.kind ≠ .cont y) : exec (.dispatch c) s = .next (startActivation s c n x cls) := by
  have hexec : exec (.dispatch c) s = execDispatch c s := rfl
  rw [hexec, execDispatch, hrun, if_neg Bool.false_ne_true, hgood]
  dsimp only
  rw [hstuck]
  dsimp only
  rw [hchoose]
  dsimp only
  split
  · exact absurd ‹_› (hkind _)
  · rfl

theorem execDispatch_effect : ∃ t, exec (.dispatch c) s = .next t ∧ (t.strand c n).mode = .running ∧ (t.strand c n).cls = cls ∧
    ((∀ y, x.kind ≠ .cont y) → (t.strand c n).pc = BitVec.ofNat 64 (entryPc (routineEntry s c cls)) ∧
      some (t.strand c n).frame = freeFrame (s.core c) ∧ (t.strand c n).actseq = (s.core c).actseq ∧ (t.strand c n).mbad = x.bad) ∧
    (∀ y, x.kind = .cont y → y.cls = cls → (t.strand c n).pc = y.pc ∧ (t.strand c n).frame = y.frame ∧ (t.strand c n).act = y.act ∧
      t.mem = s.mem) := by
  have hchosen := choose_chosen hchoose
  by_cases hkind : ∃ y, x.kind = .cont y
  · obtain ⟨y, hkind⟩ := hkind
    refine ⟨_, execDispatch_continues hrun hgood hstuck hchoose hkind, ?_, ?_, fun h => absurd hkind (h y), ?_⟩
    · rw [continueActivation, State.strand_modStrand_same]
      rfl
    · rw [continueActivation, State.strand_modStrand_same, hchosen.cont hkind]
      rfl
    · intro y' hkind' _
      cases hkind.symm.trans hkind'
      refine ⟨?_, ?_, ?_, rfl⟩ <;> rw [continueActivation, State.strand_modStrand_same] <;> rfl
  · have hother (y : Cont) : x.kind ≠ .cont y := fun h => hkind ⟨y, h⟩
    have hfields := startActivation_fields (s := s) (c := c) (n := n) (cls := cls) (x := x)
    rw [startFields] at hfields
    simp only [Prod.mk.injEq] at hfields
    obtain ⟨hmode, hpc, hframe, hcls, hseq, hbad⟩ := hfields
    refine ⟨_, execDispatch_starts hrun hgood hstuck hchoose hother, hmode, hcls, fun _ => ⟨hpc, ?_, hseq, hbad⟩,
      fun y h => absurd h (hother y)⟩
    rw [hframe]
    exact hchosen.frame

end Dispatching

/-! ### The idle step (R356) -/

section Idling

variable {s : State} {c slot : Nat}

/-- A core has nothing to start, a free strand and frame, and may look at the deques. -/
structure idleCore (s : State) (c slot : Nat) : Prop where
  none : candidates (s.core c) = []
  strand : ∃ n, n < 4 ∧ strandFree s c n = true
  frame : (freeFrame (s.core c)).isSome = true
  running : (s.core c).preempted = false
  launched : (s.core c).launch ≠ 0
  due : (s.core c).idleAt = 0 ∨ (s.core c).idleAt + 16 ≤ s.cycle
  slot : (s.core c).freeSlot 0 = some slot

/-- The core has looked at the deques in this cycle. -/
def idleTried (s : State) (c : Nat) : State := s.modCore c (fun k => { k with idleAt := s.cycle })

theorem idleCore.idle (h : idleCore s c slot) : ((candidates (s.core c)).isEmpty && (List.range 4).any (strandFree s c) &&
    (freeFrame (s.core c)).isSome && !(s.core c).preempted && decide ((s.core c).launch ≠ 0) &&
    decide ((s.core c).idleAt = 0 ∨ (s.core c).idleAt + 16 ≤ s.cycle)) = true := by
  obtain ⟨hnone, ⟨n, hn, hfree⟩, hframe, hrun, hlaunch, hdue, _⟩ := h
  have hany : (List.range 4).any (strandFree s c) = true := List.any_eq_true.2 ⟨n, List.mem_range.2 hn, hfree⟩
  rw [hnone, hany, hframe, hrun, decide_eq_true hlaunch, decide_eq_true hdue]
  rfl

variable (h : idleCore s c slot)

include h

theorem execIdleStep_own (hvalid : dequeValid (s.core c) = true) (hwork : dequeEmpty (s.core c) = false) :
    exec (.idleStep c) s = .next (dequePop (stolenEntry (idleTried s c) c slot c (dequePrev (s.core c) (s.core c).dqhead)) c) := by
  have hexec : exec (.idleStep c) s = execIdleStep c s := rfl
  rw [hexec, execIdleStep, h.idle, if_neg (by decide), h.slot]
  dsimp only
  rw [hvalid, hwork, if_pos (by decide), idleTried]

theorem execIdleStep_victim {v : Nat} (hempty : dequeEmpty (s.core c) = true)
    (hnext : nextVictim (stealVictims s c) (s.core c).stealAt = some v) (hother : v ≠ c) (hvalid : dequeValid (s.core v) = true)
    (hwork : dequeEmpty (s.core v) = false) : exec (.idleStep c) s =
      .next (dequeSteal (stolenEntry ((idleTried s c).modCore c (fun k => { k with stealAt := coreIdx v })) c slot v (s.core v).dqtail) v) := by
  have hexec : exec (.idleStep c) s = execIdleStep c s := rfl
  have hvictims : stealVictims (idleTried s c) c = stealVictims s c := by
    rw [stealVictims, stealVictims, State.launchOf, State.launchOf, idleTried, State.core_modCore_same]
    rfl
  have hcore : ((idleTried s c).modCore c (fun k => { k with stealAt := coreIdx v })).core v = s.core v := by
    rw [State.core_modCore_other _ _ (Ne.symm hother), idleTried, State.core_modCore_other _ _ (Ne.symm hother)]
  rw [hexec, execIdleStep, h.idle, if_neg (by decide), h.slot]
  dsimp only
  rw [hempty, if_neg (by simp), show s.modCore c (fun k => { k with idleAt := s.cycle }) = idleTried s c from rfl, hvictims, hnext]
  dsimp only
  rw [hcore, hvalid, hwork, if_pos (by decide)]

end Idling

section Settled

/-- Settles O46: dispatch by its branches, with the start of an activation; the idle step by the deque that it finds. -/
theorem dispatchEvents : Obligations.DispatchEvents := by
  unfold Obligations.DispatchEvents
  refine ⟨fun s c n cls x hrun hgood hstuck hchoose => ?_, fun s c x hrun hbad => execDispatch_turnsAway hrun hbad, ?_⟩
  · have hchosen := choose_chosen hchoose
    exact ⟨hchosen.strand, hchosen.free, hchosen.eligible, execDispatch_effect hrun hgood hstuck hchoose⟩
  · intro s c slot hnone hstrand hframe hrun hlaunch hdue hslot t
    have hidle : idleCore s c slot := ⟨hnone, hstrand, hframe, hrun, hlaunch, hdue, hslot⟩
    exact ⟨fun hvalid hwork => execIdleStep_own hidle hvalid hwork,
      fun v hempty hnext hother hvalid hwork => execIdleStep_victim hidle hempty hnext hother hvalid hwork⟩

end Settled

end Sys2Proof.Machine
end

section
/-! PROOFS. Walks, shootdowns, scrubbing, windows, replay and quarantine (chapters 2, 4, 7 and 19). -/

open Sys2Proof

namespace Sys2Proof.Machine

/-! ### A shootdown over a line that a remote partition holds twice (R39, R73) -/

section HeldTwice

variable {s : State} {g line : Nat} {r : RLine}

/-- The write-back of a line looks at the first copy alone. -/
theorem State.writeBackLine_clean (h : s.rline g line = some r) (hclean : r.dirty = 0) : s.writeBackLine g line = s := by
  rw [State.writeBackLine, h]
  exact if_pos hclean

/-- A copy of line 0 that a store has made dirty. -/
def dirtyCopy : RLine := { RLine.none_ 0 0 with dirty := 1 }
/-- A shootdown of the whole of domain 1 by core 0 that every package has obeyed. -/
def obeyedShoot : Shoot := { id := 0, core := 0, strand := 0, dom := 1, lo := 0, hi := 0, scope := .package, left := [], mark := 0 }
/-- A machine whose package 0 holds line 0 twice, once clean and once dirty, with that shootdown. -/
def heldTwice : State := { State.reset with shoots := [obeyedShoot], rlines := [.none_ 0 0, dirtyCopy] }
/-- What the acknowledgement starts from. -/
def heldTwiceAcked : State := { heldTwice with shoots := [] }

theorem heldTwiceAcked_writeBackAll : heldTwiceAcked.writeBackAll 0 = heldTwiceAcked := by
  have hlines : heldTwiceAcked.dirtyLines 0 = [0] := rfl
  have hfirst : heldTwiceAcked.rline 0 0 = some (.none_ 0 0) := rfl
  rw [State.writeBackAll, hlines, List.foldl_cons, List.foldl_nil]
  exact State.writeBackLine_clean hfirst rfl

theorem settleShoot_heldTwice : (settleShoot heldTwiceAcked obeyedShoot).rlines = [.none_ 0 0, dirtyCopy] := by
  have hpkgs : (heldTwiceAcked.rlines.map (·.pkg)).eraseDups.filter (fun g => obeyedShoot.reaches g) = [0] := by decide
  rw [settleShoot, hpkgs, List.foldl_cons, List.foldl_nil, heldTwiceAcked_writeBackAll]
  rfl

theorem execShootdownAck_heldTwice : ∃ t, exec (.shootdownAck 0) heldTwice = .next t ∧ t.rlines = [.none_ 0 0, dirtyCopy] := by
  have hexec : exec (.shootdownAck 0) heldTwice = execShootdownAck 0 heldTwice := rfl
  have hfind : heldTwice.shoots.find? (fun x => decide (x.id = 0)) = some obeyedShoot := rfl
  have hquiet : (obeyedShoot.left.isEmpty && !obeyedShoot.burstsLeft heldTwice) = true := rfl
  rw [hexec, execShootdownAck, hfind]
  exact ⟨_, whenever_true hquiet, settleShoot_heldTwice⟩

end HeldTwice

section Settled

/-- Refutes O47: the clause on the acknowledgement of a shootdown speaks of every line that a remote partition holds. Where package 0 holds
line 0 in two copies, a clean one before a dirty one, the write-back finds the clean one and writes nothing, and the dirty one stays. -/
theorem not_pointingEvents : ¬ Obligations.PointingEvents := by
  unfold Obligations.PointingEvents
  rintro ⟨_, hshoot, _⟩
  obtain ⟨t, hack, _, _, hclean, _⟩ := (hshoot heldTwice 0 obeyedShoot rfl).2 rfl rfl
  obtain ⟨u, hexec, hlines⟩ := execShootdownAck_heldTwice
  rw [hexec] at hack
  cases hack
  have hdirty : dirtyCopy.dirty = 0 := hclean dirtyCopy (by rw [hlines]; exact List.mem_cons_of_mem _ List.mem_cons_self) rfl
  exact absurd hdirty (by decide)

end Settled

end Sys2Proof.Machine
end

section
/-! PROOFS. Flits: injection, starvation, hops and ejection (chapter 10). -/

open Sys2Proof

namespace Sys2Proof.Machine

/-! ### One flit changes (R175) -/

section Changing

variable {s t : State} {i j : Nat} {f : Flit} {k : Flit → Flit}

theorem State.flit?_id (h : s.flit? i = some f) : f.id = i :=
  of_decide_eq_true (List.find?_some (p := fun f : Flit => decide (f.id = i)) h)
theorem State.flit?_mem (h : s.flit? i = some f) : f ∈ s.flits := List.mem_of_find?_eq_some h

/-- A search by number after the flits of a number have changed, which keep that number. -/
theorem find?_modFlit (hk : ∀ f, (k f).id = f.id) (j : Nat) : ∀ l : List Flit,
    (l.map (fun f => if f.id = i then k f else f)).find? (fun f => decide (f.id = j)) =
      (l.find? (fun f => decide (f.id = j))).map (fun f => if f.id = i then k f else f)
  | [] => rfl
  | f :: l => by
    have hid : (if f.id = i then k f else f).id = f.id := by
      split
      · exact hk f
      · rfl
    rw [List.map_cons, List.find?_cons, List.find?_cons, hid]
    split
    · rfl
    · exact find?_modFlit hk j l

theorem flit?_modFlit_same (hk : ∀ f, (k f).id = f.id) (h : s.flit? i = some f) : (s.modFlit i k).flit? i = some (k f) := by
  have hfound : (s.modFlit i k).flit? i = (s.flit? i).map (fun f => if f.id = i then k f else f) := find?_modFlit hk i s.flits
  rw [hfound, h]
  exact congrArg some (if_pos (State.flit?_id h))
theorem flit?_modFlit_other (hk : ∀ f, (k f).id = f.id) (hne : j ≠ i) : (s.modFlit i k).flit? j = s.flit? j := by
  have hfound : (s.modFlit i k).flit? j = (s.flit? j).map (fun f => if f.id = i then k f else f) := find?_modFlit hk j s.flits
  rw [hfound]
  cases h : s.flit? j with
  | none => rfl
  | some f => exact congrArg some (if_neg fun hid => hne ((State.flit?_id h).symm.trans hid))

end Changing

/-! ### The output that a flit takes (R177) -/

section Outputs

variable {s : State} {x y i : Nat} {f : Flit}

/-- A flit is on the link from router (x, y) to a neighbour. -/
def onLink (s : State) (x y age : Nat) (p : Nat × Nat) (f : Flit) (z : Flit) : Flit :=
  { z with loc := .at_ p.1 p.2 (linkArrival s y p.2) (routerKey f.pkg x y), age := age }
/-- A flit takes a link of router (x, y). -/
def takesLink (s : State) (x y : Nat) (f : Flit) (p : Nat × Nat) (age : Nat) : State :=
  s.tickFresh.modFlit f.id (onLink s x y age p f)
/-- A flit goes into the ejection queue of its router. -/
def intoQueue (z : Flit) : Flit := { z with loc := .queued }
/-- A flit takes the ejection port of router (x, y). -/
def takesPort (s : State) (x y : Nat) (f : Flit) : State :=
  { s.modFlit f.id intoQueue with
    ports := Table.modify (0, 0) s.ports (routerKey f.pkg x y) (fun q => (s.cycle + 1, q.2)) }

/-- The free links of a router that shorten a flit's way. -/
def shorterLinks (s : State) (x y : Nat) (f : Flit) : List (Nat × Nat) :=
  (freeLinks s f.pkg x y).filter (fun p => decide (f.distance p.1 p.2 < f.distance x y))

theorem assignFlit_port (h : ejects s x y f = true) : assignFlit s x y f = takesPort s x y f := if_pos h

theorem getElem?_pick {α : Type} {l : List α} (h : l ≠ []) (n : Nat) : ∃ p ∈ l, l[n % l.length]? = some p :=
  ⟨_, List.getElem_mem (Nat.mod_lt n (List.length_pos_iff.2 h)), List.getElem?_eq_getElem _⟩

theorem assignFlit_shortens (h : ejects s x y f = false) (hgood : shorterLinks s x y f ≠ []) :
    ∃ p ∈ shorterLinks s x y f, assignFlit s x y f = takesLink s x y f p f.age := by
  obtain ⟨p, hp, hpick⟩ := getElem?_pick hgood (Config.pick s.fresh)
  refine ⟨p, hp, ?_⟩
  have hne : (shorterLinks s x y f).isEmpty = false := by rw [List.isEmpty_eq_false_iff]; exact hgood
  rw [shorterLinks] at hne hpick
  rw [assignFlit, h, if_neg Bool.false_ne_true]
  dsimp only
  rw [hne, if_neg Bool.false_ne_true, hpick]
  rfl

theorem assignFlit_deflects (h : ejects s x y f = false) (hfree : freeLinks s f.pkg x y ≠ []) (hnone : shorterLinks s x y f = []) :
    ∃ p ∈ freeLinks s f.pkg x y, assignFlit s x y f = takesLink s x y f p (Nat.min 1023 (f.age + 1)) := by
  obtain ⟨p, hp, hpick⟩ := getElem?_pick hfree (Config.pick s.fresh)
  refine ⟨p, hp, ?_⟩
  rw [shorterLinks] at hnone
  rw [assignFlit, h, if_neg Bool.false_ne_true]
  dsimp only
  rw [hnone, List.isEmpty_nil, if_pos rfl, hpick]
  rfl

/-- Where a link is free and the ejection port does not take the flit, it takes one of them. -/
theorem assignFlit_link (h : ejects s x y f = false) (hfree : freeLinks s f.pkg x y ≠ []) :
    ∃ p ∈ freeLinks s f.pkg x y, ∃ age, assignFlit s x y f = takesLink s x y f p age := by
  by_cases hgood : shorterLinks s x y f = []
  · obtain ⟨p, hp, hlink⟩ := assignFlit_deflects h hfree hgood
    exact ⟨p, hp, _, hlink⟩
  · obtain ⟨p, hp, hlink⟩ := assignFlit_shortens h hgood
    exact ⟨p, List.mem_of_mem_filter hp, _, hlink⟩

/-- A router that is not the flit's destination has a neighbour that is nearer to it. -/
theorem neighbour_nearer (hx : x < 32) (hy : y < 32) (hdx : f.dx < 32) (hdy : f.dy < 32) (hne : f.dx ≠ x ∨ f.dy ≠ y) :
    ∃ p ∈ neighbours x y, f.distance p.1 p.2 < f.distance x y := by
  have hclose (a b : Nat) (ha : a < 32) (hb : b < 32) (h : b ≠ a) :
      axisDistance ((a + 1) % 32) b < axisDistance a b ∨ axisDistance ((a + 31) % 32) b < axisDistance a b := by
    have hmin (m n : Nat) : Nat.min m n = min m n := rfl
    simp only [axisDistance, hmin]
    omega
  rcases hne with hne | hne
  · rcases hclose x f.dx hx hdx hne with h | h
    · exact ⟨_, List.mem_cons_self, Nat.add_lt_add_right h _⟩
    · exact ⟨_, List.mem_cons_of_mem _ List.mem_cons_self, Nat.add_lt_add_right h _⟩
  · rcases hclose y f.dy hy hdy hne with h | h
    · exact ⟨_, List.mem_cons_of_mem _ (List.mem_cons_of_mem _ List.mem_cons_self), Nat.add_lt_add_left h _⟩
    · exact ⟨_, List.mem_cons_of_mem _ (List.mem_cons_of_mem _ (List.mem_cons_of_mem _ List.mem_cons_self)), Nat.add_lt_add_left h _⟩

theorem ejects_away (hne : f.dx ≠ x ∨ f.dy ≠ y) : ejects s x y f = false := by
  rw [ejects, decide_eq_false, Bool.false_and, Bool.false_and, Bool.false_and]
  rintro ⟨hdx, hdy, _⟩
  exact hne.elim (fun h => h hdx) (fun h => h hdy)

theorem execFlitHop_alone {r : Nat} (h : arrivedAt s r = [f]) : exec (.flitHop r) s = .next (assignFlit s (r % 32) (r / 32 % 32) f) := by
  have hexec : exec (.flitHop r) s = execFlitHop r s := rfl
  rw [hexec, execFlitHop, hopAt, h]
  rfl

theorem execFlitHop_nearer {r : Nat} (h : arrivedAt s r = [f]) (hdx : f.dx < 32) (hdy : f.dy < 32)
    (hne : f.dx ≠ r % 32 ∨ f.dy ≠ r / 32 % 32) (hfree : freeLinks s f.pkg (r % 32) (r / 32 % 32) = neighbours (r % 32) (r / 32 % 32)) :
    ∃ p ∈ neighbours (r % 32) (r / 32 % 32), f.distance p.1 p.2 < f.distance (r % 32) (r / 32 % 32) ∧
      exec (.flitHop r) s = .next (takesLink s (r % 32) (r / 32 % 32) f p f.age) := by
  obtain ⟨q, hq, hnear⟩ := neighbour_nearer (Nat.mod_lt _ (by decide)) (Nat.mod_lt _ (by decide)) hdx hdy hne
  have hgood : shorterLinks s (r % 32) (r / 32 % 32) f ≠ [] :=
    List.ne_nil_of_mem (List.mem_filter.2 ⟨hfree ▸ hq, decide_eq_true hnear⟩)
  obtain ⟨p, hp, hlink⟩ := assignFlit_shortens (ejects_away hne) hgood
  obtain ⟨hmem, hshort⟩ := List.mem_filter.1 hp
  exact ⟨p, hfree ▸ hmem, of_decide_eq_true hshort, by rw [execFlitHop_alone h, hlink]⟩

theorem execFlitHop_deflects {r : Nat} (h : arrivedAt s r = [f]) (hej : ejects s (r % 32) (r / 32 % 32) f = false)
    (hfree : freeLinks s f.pkg (r % 32) (r / 32 % 32) ≠ [])
    (hfar : ∀ p ∈ freeLinks s f.pkg (r % 32) (r / 32 % 32), f.distance (r % 32) (r / 32 % 32) ≤ f.distance p.1 p.2) :
    ∃ p ∈ freeLinks s f.pkg (r % 32) (r / 32 % 32),
      exec (.flitHop r) s = .next (takesLink s (r % 32) (r / 32 % 32) f p (Nat.min 1023 (f.age + 1))) := by
  have hnone : shorterLinks s (r % 32) (r / 32 % 32) f = [] :=
    List.filter_eq_nil_iff.2 fun p hp => by rw [decide_eq_true_eq]; exact Nat.not_lt.2 (hfar p hp)
  obtain ⟨p, hp, hlink⟩ := assignFlit_deflects hej hfree hnone
  exact ⟨p, hp, by rw [execFlitHop_alone h, hlink]⟩

end Outputs

/-! ### Injection (R179) -/

section Injecting

variable {s : State} {i w : Nat} {f : Flit}

theorem mayInject_of (hloc : f.loc = .waiting w) (harr : arrivedAt s (routerKey f.pkg f.sx f.sy) = [])
    (hport : (Table.get (0, 0) s.ports (routerKey f.pkg f.sx f.sy)).2 ≠ s.cycle + 1) (hheld : heldBack s f = false)
    (hfree : freeLinks s f.pkg f.sx f.sy ≠ []) : mayInject s f = true := by
  have hlink : (freeLinks s f.pkg f.sx f.sy).isEmpty = false := by rw [List.isEmpty_eq_false_iff]; exact hfree
  unfold mayInject
  simp only [hloc, harr, hheld, hlink, List.isEmpty_nil, decide_eq_true hport, Bool.not_false, Bool.or_true, Bool.and_true]

theorem injectNow_ports : (Table.get (0, 0) (injectNow s f).ports (routerKey f.pkg f.sx f.sy)).2 = (assignFlit s f.sx f.sy f).cycle + 1 := by
  rw [injectNow]
  dsimp only
  rw [Table.get_modify_same]

/-- What an injected flit's output is, and what stays. -/
theorem assignFlit_injected (hfind : s.flit? i = some f) (hfree : freeLinks s f.pkg f.sx f.sy ≠ []) :
    (assignFlit s f.sx f.sy f).cycle = s.cycle ∧ (assignFlit s f.sx f.sy f).starving = s.starving ∧
      (∀ j, j ≠ i → (assignFlit s f.sx f.sy f).flit? j = s.flit? j) ∧
      ∃ g, (assignFlit s f.sx f.sy f).flit? i = some g ∧ ((ejects s f.sx f.sy f = true ∧ g.loc = .queued) ∨ (ejects s f.sx f.sy f = false ∧
        ∃ p ∈ freeLinks s f.pkg f.sx f.sy, g.loc = .at_ p.1 p.2 (linkArrival s f.sy p.2) (routerKey f.pkg f.sx f.sy))) := by
  have hid := State.flit?_id hfind
  cases hej : ejects s f.sx f.sy f with
  | true =>
    rw [assignFlit_port hej, takesPort, hid]
    exact ⟨rfl, rfl, fun j hj => flit?_modFlit_other (k := intoQueue) (fun _ => rfl) hj, intoQueue f,
      flit?_modFlit_same (fun _ => rfl) hfind, .inl ⟨rfl, rfl⟩⟩
  | false =>
    obtain ⟨p, hp, age, hlink⟩ := assignFlit_link hej hfree
    rw [hlink, takesLink, hid]
    exact ⟨rfl, rfl, fun j hj => flit?_modFlit_other (s := s.tickFresh) (k := onLink s f.sx f.sy age p f) (fun _ => rfl) hj,
      onLink s f.sx f.sy age p f f, flit?_modFlit_same (s := s.tickFresh) (fun _ => rfl) hfind, .inr ⟨rfl, p, hp, rfl⟩⟩

theorem execFlitInjection_effect (hfind : s.flit? i = some f) (hmay : mayInject s f = true) (hfree : freeLinks s f.pkg f.sx f.sy ≠ []) :
    ∃ t, exec (.flitInjection i) s = .next t ∧ (Table.get (0, 0) t.ports (routerKey f.pkg f.sx f.sy)).2 = s.cycle + 1 ∧
      t.starving = s.starving.filter (fun q => !decide (q.1 = routerKey f.pkg f.sx f.sy ∧ q.2 = i)) ∧ (∀ j, j ≠ i → t.flit? j = s.flit? j) ∧
      (∃ g, t.flit? i = some g ∧ ((ejects s f.sx f.sy f = true ∧ g.loc = .queued) ∨ (ejects s f.sx f.sy f = false ∧
        ∃ p ∈ freeLinks s f.pkg f.sx f.sy, g.loc = .at_ p.1 p.2 (linkArrival s f.sy p.2) (routerKey f.pkg f.sx f.sy)))) := by
  have hexec : exec (.flitInjection i) s = .next (injectNow s f) := by
    have hstep : exec (.flitInjection i) s = execFlitInjection i s := rfl
    rw [hstep, execFlitInjection, hfind]
    exact whenever_true hmay
  obtain ⟨hcycle, hstarving, hothers, hout⟩ := assignFlit_injected hfind hfree
  have hflits : (injectNow s f).flits = (assignFlit s f.sx f.sy f).flits := rfl
  refine ⟨_, hexec, injectNow_ports.trans (congrArg (· + 1) hcycle), ?_, fun j hj => ?_, ?_⟩
  · rw [injectNow, ← State.flit?_id hfind, ← hstarving]
  · rw [State.flit?, hflits]
    exact hothers j hj
  · rw [State.flit?, hflits]
    exact hout

theorem execInjectionStarvation_signals {r : Nat} (hfind : s.flit? i = some f) (hr : routerKey f.pkg f.sx f.sy = r) (hloc : f.loc = .waiting w)
    (hlong : w + 128 ≤ s.cycle) (hquiet : ∀ q ∈ s.starving, q.1 ≠ r) :
    ∃ g ∈ s.flits, routerKey g.pkg g.sx g.sy = r ∧ g.starved s.cycle = true ∧
      exec (.injectionStarvation r) s = .next { s with starving := Table.set s.starving r g.id } := by
  have hnone : s.starving.any (fun q => decide (q.1 = r)) = false :=
    List.any_eq_false.2 fun q hq => by rw [decide_eq_true_eq]; exact hquiet q hq
  have hstarved : f.starved s.cycle = true := by rw [Flit.starved, hloc]; exact decide_eq_true hlong
  obtain ⟨g, hg⟩ := Option.isSome_iff_exists.1 (List.find?_isSome (p := fun f : Flit => decide (routerKey f.pkg f.sx f.sy = r) && f.starved s.cycle)
    |>.2 ⟨f, State.flit?_mem hfind, by rw [hstarved, decide_eq_true hr]; rfl⟩)
  have hgood := List.find?_some hg
  rw [Bool.and_eq_true, decide_eq_true_eq] at hgood
  refine ⟨g, List.mem_of_find?_eq_some hg, hgood.1, hgood.2, ?_⟩
  have hexec : exec (.injectionStarvation r) s = .next (signalStarvation s r) := rfl
  rw [hexec, signalStarvation, hnone, if_neg Bool.false_ne_true, hg]

end Injecting

/-! ### Ejection (R178, R181) -/

section Ejecting

variable {s : State} {i : Nat} {f : Flit} (hfind : s.flit? i = some f) (hloc : f.loc = .queued ∨ f.loc = .held)

include hfind hloc

theorem execFlitEjection_eq : exec (.flitEjection i) s =
    if f.seq ≠ s.nextSeq f then .next (s.modFlit i (fun f => { f with loc := .held }))
    else if f.badHeader then .next (handBroken ((leaveQueue s f).giveBack f none) f)
    else .next ((if f.single then s.countCore (f.pkg * 2048 + f.dy * 32 + f.dx) 1 else s).modFlit i (fun f => { f with single := false })) := by
  have hexec : exec (.flitEjection i) s = execFlitEjection i s := rfl
  rw [hexec, execFlitEjection, hfind]
  exact if_neg fun h => hloc.elim h.1 h.2

end Ejecting

section Settled

/-- Settles O48: a router's choice by its branches, with a neighbour that is nearer on the torus; the ejection by its cases. -/
theorem groutEvents : Obligations.GroutEvents := by
  unfold Obligations.GroutEvents
  refine ⟨fun s i w f hfind => ?_, fun s r f harr => ?_⟩
  · refine ⟨fun hloc harr hport hheld hfree =>
      execFlitInjection_effect hfind (mayInject_of hloc harr hport hheld hfree) hfree,
      fun hloc hlong hquiet => execInjectionStarvation_signals hfind rfl hloc hlong hquiet, fun hloc => ⟨fun hseq => ?_, ?_, ?_⟩⟩
    · rw [execFlitEjection_eq hfind hloc, if_pos hseq]
    · intro hseq hhead hsingle
      rw [execFlitEjection_eq hfind hloc, if_neg (not_not.2 hseq), hhead, if_neg Bool.false_ne_true, hsingle, if_pos rfl]
    · intro hseq hhead
      rw [execFlitEjection_eq hfind hloc, if_neg (not_not.2 hseq), hhead, if_pos rfl]
  · intro x y q takes
    refine ⟨fun hej => ?_, fun hdx hdy hne hfree => execFlitHop_nearer harr hdx hdy hne hfree,
      fun hej hfree hfar => execFlitHop_deflects harr hej hfree hfar⟩
    rw [execFlitHop_alone harr, assignFlit_port hej]
    rfl

end Settled

end Sys2Proof.Machine
end

section
/-! PROOFS. Messages, counters, spill rings and allowances at their endpoint (chapters 10, 19 and 20). -/

open Sys2Proof

namespace Sys2Proof.Machine

/-! ### Arrival (R187, R192, R409) -/

section Arriving

variable {s u : State} {c p slot src flit i : Nat} {m : Msg} {bad : BitVec 8} {kind : SlotKind} {f : Flit}

theorem accept_slot (hrun : (s.core c).preempted = false) (hring : ((s.core c).ring p).ents = []) (hslot : (s.core c).freeSlot p = some slot) :
    accept s c p m bad kind src flit =
      (s.modCore c (fun k => { k with inbox := k.inbox ++ [⟨p, slot, m, bad, s.cycle, kind, src⟩] }), true) := by
  rw [accept, hring, hrun, if_pos (by decide), hslot]

variable (hfront : s.frontFlit i = some f) (hdep : f.dep = 0)

include hfront hdep

section Taking

variable (htakes : takesFrom s f.goal f = true)

include htakes

theorem execMessageArrival_takes (hkind : msgKind f.msg = 0 ∨ (msgKind f.msg = 4 ∧ isCounter f.msg = false)) (hsound : f.bad &&& 3 = 0)
    (haccept : accept s f.goal (if f.cls = 4 then 2 else if f.cls = 1 then 1 else 0) f.msg f.bad .message f.src f.id = (u, true)) :
    exec (.messageArrival i) s = .next (takeFlit u f) := by
  have hexec : exec (.messageArrival i) s = execMessageArrival i s := rfl
  have hcounter : isCounter f.msg = false := by
    rcases hkind with h | h
    · exact (congrArg (fun k : Nat => decide (k = 1) || (decide (k = 4) && _)) h).trans rfl
    · exact h.2
  have htwo : msgKind f.msg ≠ 2 := by omega
  have hthree : msgKind f.msg ≠ 3 := by omega
  rw [hexec, execMessageArrival, hfront]
  dsimp only
  rw [if_neg (by simp [hdep, hcounter, htakes]), arriveAt, if_neg (by omega), arriveCore, if_neg (fun h => h.1 hsound), if_neg htwo, if_neg (fun h => hthree h.1), haccept]
  rfl

variable (hkind : msgKind f.msg = 1) (hring : ringFull (s.core f.goal) 0 = false) (hsound : f.bad &&& 3 = 0)
  (hvalid : (s.read (counterPa f.goal (fieldOf f.msg.h1 57 50)) 8).testBit 39 = true)

include hkind hring hsound hvalid

theorem execCounterMessage_eq : exec (.counterMessage i) s = .next (taken f
    (if fieldOf f.msg.h1 49 34 < s.read (counterPa f.goal (fieldOf f.msg.h1 57 50)) 8 % 65536
      then (s.write (counterPa f.goal (fieldOf f.msg.h1 57 50)) 8
        (s.read (counterPa f.goal (fieldOf f.msg.h1 57 50)) 8 - fieldOf f.msg.h1 49 34), true)
      else match accept s f.goal 0 f.msg f.bad (.fired (s.read (counterPa f.goal (fieldOf f.msg.h1 57 50)) 8 / 2 ^ 32 % 64)) 1 f.id with
        | (v, false) => (v, false)
        | (v, true) => (v.write (counterPa f.goal (fieldOf f.msg.h1 57 50)) 8 (s.read (counterPa f.goal (fieldOf f.msg.h1 57 50)) 8 -
            s.read (counterPa f.goal (fieldOf f.msg.h1 57 50)) 8 % 65536 +
            s.read (counterPa f.goal (fieldOf f.msg.h1 57 50)) 8 / 2 ^ 16 % 65536), true))) := by
  have hexec : exec (.counterMessage i) s = execCounterMessage i s := rfl
  have hcounter : isCounter f.msg = true := by
    rw [isCounter, hkind]
    rfl
  have hlow (x : Nat) : bits x 15 0 = x % 65536 := congrArg (· % 65536) (Nat.div_one _)
  have hbit (x : Nat) : bit x 39 = x.testBit 39 := (Nat.testBit_eq_decide_div_mod_eq ..).symm
  rw [hexec, execCounterMessage, hfront]
  dsimp only
  rw [if_neg (by simp [hdep, hcounter, htakes]), countAt, if_neg (by omega), applyCounter, hring, if_neg Bool.false_ne_true, if_neg (not_not.2 hsound), hbit, hvalid, if_neg (by decide), hlow] <;> rfl

theorem execCounterMessage_counts
    (hless : fieldOf f.msg.h1 49 34 < s.read (counterPa f.goal (fieldOf f.msg.h1 57 50)) 8 % 65536) :
    exec (.counterMessage i) s = .next (takeFlit (s.write (counterPa f.goal (fieldOf f.msg.h1 57 50)) 8
      (s.read (counterPa f.goal (fieldOf f.msg.h1 57 50)) 8 - fieldOf f.msg.h1 49 34)) f) := by
  rw [execCounterMessage_eq hfront hdep htakes hkind hring hsound hvalid, if_pos hless, taken]

theorem execCounterMessage_fires
    (hdone : s.read (counterPa f.goal (fieldOf f.msg.h1 57 50)) 8 % 65536 ≤ fieldOf f.msg.h1 49 34)
    (haccept : accept s f.goal 0 f.msg f.bad (.fired (s.read (counterPa f.goal (fieldOf f.msg.h1 57 50)) 8 / 2 ^ 32 % 64)) 1 f.id = (u, true)) :
    exec (.counterMessage i) s = .next (takeFlit (u.write (counterPa f.goal (fieldOf f.msg.h1 57 50)) 8
      (s.read (counterPa f.goal (fieldOf f.msg.h1 57 50)) 8 - s.read (counterPa f.goal (fieldOf f.msg.h1 57 50)) 8 % 65536 +
        s.read (counterPa f.goal (fieldOf f.msg.h1 57 50)) 8 / 2 ^ 16 % 65536)) f) := by
  rw [execCounterMessage_eq hfront hdep htakes hkind hring hsound hvalid, if_neg (Nat.not_lt.2 hdone), haccept, taken]

end Taking

/-- A message for a core that does not take it. -/
theorem execLateMessage_eq (htakes : takesFrom s f.goal f = false) : exec (.lateMessage i) s =
    if msgKind f.msg = 2 ∨ f.via.isSome then .next (failMessage s f)
    else .next ((takeFlit s f).handOn f.goal (foremanIdent (panelKey f.goal)) f.msg 0x05 (aboutOf f.msg)) := by
  have hexec : exec (.lateMessage i) s = execLateMessage i s := rfl
  rw [hexec, execLateMessage, hfront]
  exact if_neg (by simp [hdep, htakes])

end Arriving

/-! ### Spill rings (R188, R191) -/

section Rings

variable {s u : State} {t p slot i : Nat} {e : RingEnt} {rest : List RingEnt} {m : Msg} {bad : BitVec 8} {f : Flit}

theorem execSpillRedelivery_moves (hents : ((s.core t).ring p).ents = e :: rest) (hrun : (s.core t).preempted = false)
    (hread : ((s.core t).ring p).rfail = false) (hkind : ∀ id, e.kind ≠ .wake id) (hslot : (s.core t).freeSlot p = some slot)
    (hspilled : readSpilled s t p e.pos = (u, .ok (m, bad))) : exec (.spillRedelivery t p) s = .next (u.modCore t (fun k =>
      { (k.setRing p { k.ring p with ents := rest, reported := false }) with inbox := k.inbox ++ [⟨p, slot, m, bad, e.arr, e.kind, e.src⟩] })) := by
  have hexec : exec (.spillRedelivery t p) s = execSpillRedelivery t p s := rfl
  rw [hexec, execSpillRedelivery]
  dsimp only
  rw [hents]
  dsimp only
  rw [if_neg (by simp [hrun, hread])]
  split
  · exact absurd ‹_› (hkind _)
  · rw [hslot]
    dsimp only
    rw [hspilled]

variable (hdue : ((s.core t).ring p).tried = 0)

include hdue

theorem execSpillRetry_reads {y : Msg × BitVec 8} (hread : ((s.core t).ring p).rfail = true) (hwrite : ((s.core t).ring p).wfail = none)
    (hents : ((s.core t).ring p).ents = e :: rest) (hspilled : readSpilled s t p e.pos = (u, .ok y)) :
    exec (.spillRetry t p) s = .next (u.modCore t (fun k => k.setRing p { k.ring p with rfail := false, reported := false })) := by
  have hexec : exec (.spillRetry t p) s = execSpillRetry t p s := rfl
  have hfailed : ((s.core t).ring p).failed = true := by rw [Ring.failed, hread, Bool.true_or]
  rw [hexec, execSpillRetry]
  dsimp only
  rw [whenever_true (by rw [hfailed, decide_eq_true (Or.inl hdue)]; rfl), hread, if_pos rfl, hwrite, retryRead, hents]
  dsimp only
  rw [hspilled]

/-- A ring whose failed write is tried again. -/
def ringTried (s : State) (t p : Nat) : State := s.modCore t (fun k => k.setRing p { k.ring p with wfail := none, tried := s.cycle })

theorem execSpillRetry_writes (hread : ((s.core t).ring p).rfail = false) (hwrite : ((s.core t).ring p).wfail = some i)
    (hfront : s.frontFlit i = some f) (hcounter : isCounter f.msg = false) (htakes : takesFrom (ringTried s t p) f.goal f = true) :
    exec (.spillRetry t p) s = .next (taken f (arriveAt (ringTried s t p) f)) := by
  have hexec : exec (.spillRetry t p) s = execSpillRetry t p s := rfl
  have hfailed : ((s.core t).ring p).failed = true := by rw [Ring.failed, hwrite, Option.isSome_some, Bool.or_true]
  have hfront' : (ringTried s t p).frontFlit i = some f := hfront
  rw [hexec, execSpillRetry]
  dsimp only
  rw [whenever_true (by rw [hfailed, decide_eq_true (Or.inl hdue)]; rfl), hread, if_neg Bool.false_ne_true, hwrite]
  dsimp only
  rw [retryWrite]
  dsimp only
  rw [← ringTried, hfront']
  dsimp only
  rw [if_pos htakes, hcounter, if_neg Bool.false_ne_true]

end Rings

/-! ### Allowances (R186) -/

section Returning

variable {s : State} {r : Nat} {x : Ret}

/-- The allowances on their way without one of them. -/
def retGone (s : State) (r : Nat) : State := { s with rets := s.rets.filter (fun y => decide (y.id ≠ r)) }

variable (hfind : s.rets.find? (fun x => decide (x.id = r)) = some x) (hrsp : rspStopped s x.core = false)

include hfind hrsp

theorem execAllowanceReturn_copy (hkind : x.kind = 2) :
    exec (.allowanceReturn r) s = .next ((retGone s r).modCopy x.core (fun e => { e with allow := e.allow + 1 })) := by
  have hexec : exec (.allowanceReturn r) s = execAllowanceReturn r s := rfl
  rw [hexec, execAllowanceReturn, hfind]
  dsimp only
  rw [hrsp, if_neg Bool.false_ne_true, hkind]
  rfl
theorem execAllowanceReturn_hod (hkind : x.kind = 3) :
    exec (.allowanceReturn r) s = .next ((retGone s r).modCore x.core (fun k => { k with hodAllow := k.hodAllow + 1 })) := by
  have hexec : exec (.allowanceReturn r) s = execAllowanceReturn r s := rfl
  rw [hexec, execAllowanceReturn, hfind]
  dsimp only
  rw [hrsp, if_neg Bool.false_ne_true, hkind]
  rfl
theorem execAllowanceReturn_request (hkind : x.kind = 0) (hsent : x.failedPkg = none) :
    exec (.allowanceReturn r) s = .next ((retGone s r).modStrand x.core x.strand (fun t => { t with allow := t.allow + 1 })) := by
  have hexec : exec (.allowanceReturn r) s = execAllowanceReturn r s := rfl
  rw [hexec, execAllowanceReturn, hfind]
  dsimp only
  rw [hrsp, if_neg Bool.false_ne_true, hkind, hsent]
  rfl
theorem execAllowanceReturn_reply (hkind : x.kind = 1) (hsent : x.failedPkg = none) :
    exec (.allowanceReturn r) s = .next ((retGone s r).modStrand x.core x.strand (fun t => { t with arsp := t.arsp + 1 })) := by
  have hexec : exec (.allowanceReturn r) s = execAllowanceReturn r s := rfl
  rw [hexec, execAllowanceReturn, hfind]
  dsimp only
  rw [hrsp, if_neg Bool.false_ne_true, hkind, hsent]
  rfl
theorem execAllowanceReturn_failed {g : Nat} (hkind : x.kind = 4) (hfailed : x.failedPkg = some g) :
    exec (.allowanceReturn r) s = .next (setSticky (retGone s r) x.core x.strand x.act g) := by
  have hexec : exec (.allowanceReturn r) s = execAllowanceReturn r s := rfl
  rw [hexec, execAllowanceReturn, hfind]
  dsimp only
  rw [hrsp, if_neg Bool.false_ne_true, hkind, hfailed]
  rfl

end Returning

/-! ### At the Nelyen port (R379–R381) -/

section Crossing

variable {s : State} {i : Nat} {f : Flit} {m : Msg} {dom : Nat}

theorem fieldOf_word {x : Nat} (h : x < 2 ^ 64) (hi lo : Nat) : fieldOf (word x) hi lo = bits x hi lo := by
  rw [fieldOf, word, BitVec.toNat_ofNat, Nat.mod_eq_of_lt h]

theorem msgKind_remoteForm : msgKind (remoteForm m dom) = 4 := by
  have hlt : m.h0.toNat % 2 ^ 60 < 2 ^ 60 := Nat.mod_lt _ (by decide)
  have hform : (remoteForm m dom).h0 = word (4 * 2 ^ 60 + m.h0.toNat % 2 ^ 60) := rfl
  rw [msgKind, hform, fieldOf_word (by omega), bits]
  omega

/-- A DIRECT message as it travels: handler 16 + CLASS, and the domain. -/
theorem remoteHeader_direct (hdom : dom < 65536) (hkind : msgKind m = 0) :
    fieldOf (remoteHeader m dom) 63 56 = 16 + msgClass m ∧ fieldOf (remoteHeader m dom) 55 40 = dom := by
  have hcls : msgClass m < 64 := Nat.mod_lt _ (by decide)
  have hlt : (16 + msgClass m) * 2 ^ 56 + dom * 2 ^ 40 < 2 ^ 64 := by omega
  rw [remoteHeader, if_neg (by omega), fieldOf_word hlt, fieldOf_word hlt, bits, bits]
  constructor <;> omega

/-- A COUNTER message as it travels: handler 80, with the counter's index and the decrement. -/
theorem remoteHeader_counter (hdom : dom < 65536) (hkind : msgKind m = 1) : fieldOf (remoteHeader m dom) 63 56 = 80 ∧
    fieldOf (remoteHeader m dom) 23 16 = fieldOf m.h1 57 50 ∧ fieldOf (remoteHeader m dom) 15 0 = fieldOf m.h1 49 34 := by
  have hidx : fieldOf m.h1 57 50 < 256 := Nat.mod_lt _ (by decide)
  have hdec : fieldOf m.h1 49 34 < 65536 := Nat.mod_lt _ (by decide)
  rw [remoteHeader, if_pos hkind]
  generalize fieldOf m.h1 57 50 = idx at hidx ⊢
  generalize fieldOf m.h1 49 34 = dec at hdec ⊢
  have hlt : 80 * 2 ^ 56 + dom * 2 ^ 40 + idx * 2 ^ 16 + dec < 2 ^ 64 := by omega
  rw [fieldOf_word hlt, fieldOf_word hlt, fieldOf_word hlt, bits, bits, bits]
  refine ⟨?_, ?_, ?_⟩ <;> omega

theorem entered_msg (h : msgKind f.msg < 2) : (entered s f).msg = remoteForm f.msg f.dom := if_pos h

variable (hport : atPort s i = some f)

include hport

theorem execRemoteMessage_crosses (hkind : msgKind f.msg ≠ 1) : exec (.remoteMessage i) s = .next (crossPort s f) := by
  have hexec : exec (.remoteMessage i) s = execRemoteMessage i s := rfl
  rw [hexec, execRemoteMessage, hport]
  exact if_neg hkind
theorem execRemoteCounter_crosses (hkind : msgKind f.msg = 1) : exec (.remoteCounter i) s = .next (crossPort s f) := by
  have hexec : exec (.remoteCounter i) s = execRemoteCounter i s := rfl
  rw [hexec, execRemoteCounter, hport]
  exact if_neg (not_not.2 hkind)

omit hport

variable (hsound : f.bad.getLsbD 0 = false)

include hsound

theorem crossPort_enters (hlink : f.cutOff s = false) (htakes : portTakes s f.target f = true) :
    crossPort s f = (leaveQueue s f).inject (entered s f) := by
  rw [crossPort, hsound, if_neg Bool.false_ne_true, hlink, htakes, if_neg (by decide)]
theorem crossPort_fails (h : f.cutOff s = true ∨ portTakes s f.target f = false) : crossPort s f = failMessage s f := by
  rw [crossPort, hsound, if_neg Bool.false_ne_true]
  refine if_pos ?_
  rcases h with h | h
  · rw [h, Bool.true_or]
  · rw [h, Bool.not_false, Bool.or_true]

end Crossing

section Settled

/-- Settles O49: each event by its branches, with the header that a message takes for its way to another package. -/
theorem messageEvents : Obligations.MessageEvents := by
  unfold Obligations.MessageEvents
  refine ⟨fun s c p slot src flit m bad kind hrun hring hslot => accept_slot hrun hring hslot, ?_,
    fun s u t p slot e rest m bad hents hrun hread hkind hslot hspilled =>
      execSpillRedelivery_moves hents hrun hread hkind hslot hspilled,
    fun s t p hdue => ⟨fun v e rest y hread hwrite hents hspilled => execSpillRetry_reads hdue hread hwrite hents hspilled, ?_⟩, ?_, ?_⟩
  · intro s u i f hfront hdep t idx dec e count
    refine ⟨fun htakes => ⟨fun hkind hsound haccept => execMessageArrival_takes hfront hdep htakes hkind hsound haccept,
      fun hkind hring hsound hvalid => ⟨execCounterMessage_counts hfront hdep htakes hkind hring hsound hvalid,
        execCounterMessage_fires hfront hdep htakes hkind hring hsound hvalid⟩⟩, fun htakes => ?_⟩
    rw [execLateMessage_eq hfront hdep htakes]
    refine ⟨fun hkind hvia => if_neg (by simp [hkind, hvia]), fun hkind hvia => ?_, fun hkind => ?_⟩
    · exact (if_pos (Or.inr (Option.isSome_iff_ne_none.2 hvia))).trans (congrArg Host.Outcome.next (if_neg hkind))
    · exact (if_pos (Or.inl hkind)).trans (congrArg Host.Outcome.next (if_pos hkind))
  · intro i f hread hwrite hfront hcounter u htakes
    exact execSpillRetry_writes hdue hread hwrite hfront hcounter htakes
  · intro s r x hfind hrsp t
    exact ⟨execAllowanceReturn_copy hfind hrsp, execAllowanceReturn_hod hfind hrsp,
      fun hsent => ⟨fun hkind => execAllowanceReturn_request hfind hrsp hkind hsent, fun hkind => execAllowanceReturn_reply hfind hrsp hkind hsent⟩,
      fun g hfailed hkind => execAllowanceReturn_failed hfind hrsp hkind hfailed⟩
  · intro s i f hport hsound m crossed
    refine ⟨rfl, fun hlink htakes => ?_, fun hdom => ⟨fun hkind => ?_, fun hkind => ?_⟩, fun hfail => ?_⟩
    · have hcross := crossPort_enters hsound hlink htakes
      exact ⟨fun hkind => (execRemoteMessage_crosses hport hkind).trans (congrArg _ hcross),
        fun hkind => (execRemoteCounter_crosses hport hkind).trans (congrArg _ hcross)⟩
    · have hm : m = remoteForm f.msg f.dom := entered_msg (by omega)
      rw [hm]
      exact ⟨msgKind_remoteForm, remoteHeader_direct hdom hkind⟩
    · have hm : m = remoteForm f.msg f.dom := entered_msg (by omega)
      rw [hm]
      exact ⟨msgKind_remoteForm, remoteHeader_counter hdom hkind⟩
    · have hcross := crossPort_fails hsound hfail
      exact ⟨fun hkind => (execRemoteMessage_crosses hport hkind).trans (congrArg _ hcross),
        fun hkind => (execRemoteCounter_crosses hport hkind).trans (congrArg _ hcross)⟩

end Settled

end Sys2Proof.Machine
end

section
/-! PROOFS. Accesses that another package performs, fills, write-backs and links (chapters 4, 12 and 20). -/

open Sys2Proof

namespace Sys2Proof.Machine

/-! ### The handlers of accesses (R380) -/

section Handling

variable {s u v : State} {r x : Nat} {a : Acc} {p : Piece}

theorem remoteReady_alone (hpieces : a.pieces = [p]) (hplace : p.place = .remote) (hready : pieceReady s a 0 p = true)
    (hopen : channelReady s a.dom a.seq p = true) : remoteReady s a = [0] := by
  rw [remoteReady, hpieces]
  simp only [List.length_singleton, List.range_one, List.filter_cons, List.getElem?_cons_zero, List.filter_nil, hplace, hready, hopen,
    decide_true, Bool.true_or, Bool.and_true, if_true]

theorem remoteHandler_performs {op : AccOp} (hacc : s.acc? r = some a) (hpieces : a.pieces = [p]) (hplace : p.place = .remote)
    (hready : pieceReady s a 0 p = true) (hopen : channelReady s a.dom a.seq p = true) (hop : a.op = op) :
    remoteHandler op r s = .next (performRemote s.tickFresh a 0 p) := by
  have hpick (n : Nat) : ([0] : List Nat)[n % ([0] : List Nat).length]? = some 0 := by
    rw [List.length_singleton, Nat.mod_one]
    rfl
  rw [remoteHandler, hacc]
  dsimp only
  rw [remoteReady_alone hpieces hplace hready hopen, hpick]
  dsimp only
  rw [hpieces, List.getElem?_cons_zero]
  exact whenever_true (decide_eq_true hop)

/-- What the target makes of a piece. -/
def atTarget (s : State) (a : Acc) (p : Piece) : State :=
  if a.sync then (releaseFor s a).dropCopy (corePkg a.core) p.pa else releaseFor s a
/-- The port of the target admits a piece. -/
def targetAdmits (t : State) (a : Acc) (p : Piece) : Bool :=
  !t.cannotReach (corePkg a.core) (paPkg p.pa) (featureOf a.op p.n) &&
    portAdmits t a.core a.dom (corePkg a.core) p.pa p.n (decide (a.op ≠ .load))

theorem targetAdmits_not (t : State) : (t.cannotReach (corePkg a.core) (paPkg p.pa) (featureOf a.op p.n) ||
    !portAdmits t a.core a.dom (corePkg a.core) p.pa p.n (decide (a.op ≠ .load))) = !targetAdmits t a p := by
  rw [targetAdmits, Bool.not_and, Bool.not_not]

theorem performRemote_done (hadmit : targetAdmits (atTarget s a p) a p = true) (hperform : performAt (atTarget s a p) a p = (v, .ok x)) :
    performRemote s a 0 p = setPiece v a.id 0 p (.ok x) := by
  rw [performRemote, ← atTarget, targetAdmits_not, hadmit, if_neg (by decide), hperform]
theorem performRemote_lost (hadmit : targetAdmits (atTarget s a p) a p = false) :
    performRemote s a 0 p = losePiece (atTarget s a p) a 0 p := by
  rw [performRemote, ← atTarget, targetAdmits_not, hadmit, if_pos (by decide)]
theorem performRemote_fails {e : Nat × Nat} (hadmit : targetAdmits (atTarget s a p) a p = true)
    (hperform : performAt (atTarget s a p) a p = (v, .error e)) :
    performRemote s a 0 p = if e.1 = 0x1B then setPiece v a.id 0 p (.error e) else losePiece v a 0 p := by
  rw [performRemote, ← atTarget, targetAdmits_not, hadmit, if_neg (by decide), hperform]

/-- The outcomes of a piece at its target. -/
theorem performRemote_outcome (h : (targetAdmits (atTarget s a p) a p = true ∧ performAt (atTarget s a p) a p = (v, .ok x) ∧
      u = setPiece v a.id 0 p (.ok x)) ∨ (targetAdmits (atTarget s a p) a p = false ∧ u = losePiece (atTarget s a p) a 0 p) ∨
    (∃ e, targetAdmits (atTarget s a p) a p = true ∧ performAt (atTarget s a p) a p = (v, .error e) ∧
      u = if e.1 = 0x1B then setPiece v a.id 0 p (.error e) else losePiece v a 0 p)) : performRemote s a 0 p = u := by
  rcases h with ⟨hadmit, hperform, rfl⟩ | ⟨hadmit, rfl⟩ | ⟨e, hadmit, hperform, rfl⟩
  · exact performRemote_done hadmit hperform
  · exact performRemote_lost hadmit
  · exact performRemote_fails hadmit hperform

end Handling

/-! ### The bytes of a line (R71) -/

section Lines

theorem Memory.readN_div (m : List Host.Cell) (n : Nat) : ∀ i a, Memory.readN m a (i + n) / 2 ^ (8 * i) = Memory.readN m (a + i) n
  | 0, a => by rw [Nat.zero_add, Nat.mul_zero, Nat.pow_zero, Nat.div_one, Nat.add_zero]
  | i + 1, a => by
    have hbyte : (Memory.get m a).toNat < 256 := (Memory.get m a).isLt
    have hpow : 2 ^ (8 * (i + 1)) = 256 * 2 ^ (8 * i) := by rw [Nat.mul_add, Nat.pow_add, Nat.mul_comm]
    have hstep : Memory.readN m a (i + 1 + n) / 256 = Memory.readN m (a + 1) (i + n) := by
      rw [Nat.add_right_comm, Memory.readN]
      omega
    rw [hpow, ← Nat.div_div_eq_div_mul, hstep, Memory.readN_div m n i (a + 1), Nat.add_assoc, Nat.add_comm 1 i]
theorem Memory.readN_mod (m : List Host.Cell) (k : Nat) : ∀ n a, Memory.readN m a (n + k) % 2 ^ (8 * n) = Memory.readN m a n
  | 0, a => by
    rw [Nat.mul_zero, Nat.pow_zero, Nat.mod_one]
    rfl
  | n + 1, a => by
    have hbyte : (Memory.get m a).toNat < 256 := (Memory.get m a).isLt
    have hpow : 2 ^ (8 * (n + 1)) = 256 * 2 ^ (8 * n) := by rw [Nat.mul_add, Nat.pow_add, Nat.mul_comm]
    have hrest := Memory.readN_mod m k n (a + 1)
    rw [Nat.add_right_comm, Memory.readN, Memory.readN, hpow, Nat.mod_mul, ← hrest]
    have hdiv (x : Nat) : ((Memory.get m a).toNat + 256 * x) / 256 = x := by omega
    rw [hdiv]
    omega

/-- n bytes at an offset of a line, from the whole line. -/
theorem Memory.readN_within (m : List Host.Cell) (a : Nat) {off n k : Nat} (h : off + n ≤ k) :
    Memory.readN m a k / 2 ^ (8 * off) % 2 ^ (8 * n) = Memory.readN m (a + off) n := by
  obtain ⟨j, rfl⟩ := Nat.exists_eq_add_of_le h
  rw [Nat.add_assoc, Memory.readN_div, Memory.readN_mod]

theorem Memory.readN_lt (m : List Host.Cell) (n a : Nat) : Memory.readN m a n < 2 ^ (8 * n) := by
  have hmod := Memory.readN_mod m 0 n a
  rw [Nat.add_zero] at hmod
  rw [← hmod]
  exact Nat.mod_lt _ (Nat.two_pow_pos _)

/-- A number's bytes add up to it. -/
theorem sum_bytes (x : Nat) : ∀ k, (List.range k).foldl (fun acc i => acc + x / 2 ^ (8 * i) % 256 * 2 ^ (8 * i)) 0 = x % 2 ^ (8 * k)
  | 0 => (Nat.mod_one x).symm
  | k + 1 => by
    have hpow : 2 ^ (8 * (k + 1)) = 2 ^ (8 * k) * 256 := by rw [Nat.mul_add, Nat.pow_add]
    rw [List.range_succ, List.foldl_append, sum_bytes x k, List.foldl_cons, List.foldl_nil, hpow, Nat.mod_mul,
      Nat.mul_comm (x / 2 ^ (8 * k) % 256)]

theorem mergeLine_zero (new old : BitVec 512) : mergeLine 0 new old = old := by
  have hsum := sum_bytes old.toNat 64
  rw [Nat.mod_eq_of_lt old.isLt] at hsum
  have hpick : (fun (acc i : Nat) => acc + ((if (0 : BitVec 64).getLsbD i then new else old).toNat / 2 ^ (8 * i) % 256) * 2 ^ (8 * i)) =
      fun acc i => acc + old.toNat / 2 ^ (8 * i) % 256 * 2 ^ (8 * i) := by
    funext acc i
    rw [BitVec.ofNat_eq_ofNat, BitVec.getLsbD_zero, if_neg Bool.false_ne_true]
  rw [mergeLine, hpick, hsum, BitVec.ofNat_toNat, BitVec.setWidth_eq]

theorem lineMask_ne_zero {off n : Nat} (hn : 0 < n) (h : off + n ≤ 64) : lineMask off n ≠ 0 := by
  have hpos : 0 < 2 ^ n - 1 := Nat.sub_pos_of_lt (Nat.one_lt_two_pow (by omega))
  have hlt : (2 ^ n - 1) * 2 ^ off < 2 ^ 64 := by
    calc (2 ^ n - 1) * 2 ^ off < 2 ^ n * 2 ^ off := Nat.mul_lt_mul_of_pos_right (Nat.sub_lt (Nat.two_pow_pos n) Nat.one_pos) (Nat.two_pow_pos off)
      _ = 2 ^ (n + off) := (Nat.pow_add ..).symm
      _ ≤ 2 ^ 64 := Nat.pow_le_pow_right (by decide) (by omega)
  intro hzero
  have hnat := congrArg BitVec.toNat hzero
  rw [lineMask, BitVec.toNat_ofNat, Nat.mod_eq_of_lt hlt] at hnat
  exact absurd hnat (Nat.mul_pos hpos (Nat.two_pow_pos off)).ne'

end Lines

/-! ### A fill (R71, R72) -/

section Filling

variable {s t : State} {r g line dom off : Nat} {a : Acc} {p : Piece} {l : RLine}

theorem addRline_keeps (h : s.addRline l = some t) : t.mem = s.mem ∧ t.accs = s.accs := by
  rw [State.addRline] at h
  split at h
  · cases h
    exact ⟨rfl, rfl⟩
  · split at h
    · cases h
    · split at h <;> cases h <;> exact ⟨rfl, rfl⟩

theorem poisonMask_clean (h : s.poison = []) : poisonMask s line = 0 := by
  have hnone (a n : Nat) : s.poisonedAt a n = none := by
    rw [State.poisonedAt, h]
    rfl
  rw [poisonMask]
  simp only [hnone, Option.isSome_none, Bool.false_eq_true, if_false, List.foldl_const]
  exact Function.iterate_fixed rfl _

/-- A line that a fill has brought whole. -/
structure wholeLine (s : State) (line : Nat) (x : RLine) : Prop where
  sound : x.poison = 0
  valid : x.valid = BitVec.allOnes 64
  data : x.data = BitVec.ofNat 512 (s.read (line * 64) 64)

theorem fillRemote_whole (hnew : s.rline g line = none) (hclean : s.poison = []) : (fillRemote s g dom line).1.mem = s.mem ∧
    (fillRemote s g dom line).1.accs = s.accs ∧ wholeLine s line (fillRemote s g dom line).2 := by
  have hreach : Background s ((reachHbm s false dom (line * 64) 64 false).correct (line * 64) 64) :=
    (Background.reachHbm ..).trans (.correct ..)
  rw [fillRemote]
  generalize (reachHbm s false dom (line * 64) 64 false).correct (line * 64) 64 = u at hreach
  have hold : u.rlineOr g line = .none_ g line := by
    rw [State.rlineOr, State.rline, hreach.rlines]
    exact congrArg (Option.getD · _) hnew
  dsimp only
  rw [hold, poisonMask_clean (hreach.poison.trans hclean)]
  have hall : (0 : BitVec 64) ||| ~~~(0 : BitVec 64) = BitVec.allOnes 64 := by decide
  refine ⟨?_, ?_, ⟨rfl, hall, ?_⟩⟩
  · split
    · exact (addRline_keeps ‹_›).1.trans hreach.mem
    · exact hreach.mem
  · split
    · exact (addRline_keeps ‹_›).2.trans hreach.accs
    · exact hreach.accs
  · exact (mergeLine_zero _ _).trans (congrArg (BitVec.ofNat 512) (hreach.read ..))

theorem wholeLine.bytes {x : RLine} {n : Nat} (h : wholeLine s line x) (hn : off + n ≤ 64) : x.bytes off n = s.read (line * 64 + off) n := by
  rw [RLine.bytes, h.data, BitVec.toNat_ofNat, State.read, State.read, Nat.mod_eq_of_lt (Memory.readN_lt s.mem 64 (line * 64))]
  exact Memory.readN_within s.mem (line * 64) hn

theorem fillWanted_alone (hpieces : a.pieces = [p]) (hplace : p.place = .rpart) (hop : a.op = .load) (hn : 0 < p.n)
    (hline : p.pa % 64 + p.n ≤ 64) (hready : pieceReady s a 0 p = true) (hnew : s.rline (corePkg a.core) (p.pa / 64) = none) :
    fillWanted s a = some 0 := by
  have hmissing : lineMask (p.pa % 64) p.n &&& (0 : BitVec 64) ≠ lineMask (p.pa % 64) p.n := by
    rw [BitVec.ofNat_eq_ofNat, BitVec.and_zero]
    exact (lineMask_ne_zero hn hline).symm
  rw [fillWanted, hpieces, List.length_singleton, List.range_one, List.find?_cons, List.getElem?_cons_zero]
  dsimp only
  rw [hnew, Option.map_none, Option.getD_none, decide_eq_true (⟨hplace, hop, hmissing⟩ : _ ∧ _ ∧ _), hready]
  rfl

theorem setPiece_loaded {x : Nat} {b : Acc} (hacc : s.acc? r = some a) (hpieces : a.pieces = [p])
    (h : (setPiece s r 0 p (.ok x)).acc? r = some b) : b.pieces = [{ p with got := x, done := true }] := by
  have hset : setPiece s r 0 p (.ok x) = s.setAcc { a with pieces := a.pieces.set 0 { p with got := x, done := true } } := by
    rw [setPiece, hacc]
  have hgot := acc?_setAcc (b := { a with pieces := a.pieces.set 0 { p with got := x, done := true } }) hacc rfl
  rw [hset, hgot] at h
  cases h
  rw [hpieces]
  rfl

theorem setPiece_mem {i x : Nat} : (setPiece s r i p (.ok x)).mem = s.mem := by
  rw [setPiece]
  split <;> rfl

theorem meetRemote_new (n : Nat) : meetRemote s (.none_ g line) off n = s := by
  rw [meetRemote]
  refine (if_pos rfl).trans (if_neg (not_not.2 ?_))
  exact BitVec.zero_and

theorem execRemoteLineFill_brings (hacc : s.acc? r = some a) (hpieces : a.pieces = [p]) (hplace : p.place = .rpart) (hop : a.op = .load)
    (hn : 0 < p.n) (hline : p.pa % 64 + p.n ≤ 64) (hready : pieceReady s a 0 p = true)
    (hnew : s.rline (corePkg a.core) (p.pa / 64) = none) (hlink : s.cannotReach (corePkg a.core) (paPkg p.pa) 2 = false)
    (hadmit : portAdmits s a.core a.dom (corePkg a.core) p.pa p.n false = true) (hclean : s.poison = []) :
    exec (.remoteLineFill r) s = .next (setPiece (fillRemote s (corePkg a.core) a.dom (p.pa / 64)).1 r 0 p (.ok (s.read p.pa p.n))) := by
  have hexec : exec (.remoteLineFill r) s = execRemoteLineFill r s := rfl
  have hold : s.rlineOr (corePkg a.core) (p.pa / 64) = .none_ (corePkg a.core) (p.pa / 64) := by rw [State.rlineOr, hnew, Option.getD_none]
  obtain ⟨_, _, hwhole⟩ := fillRemote_whole (dom := a.dom) hnew hclean
  have hbytes : (fillRemote s (corePkg a.core) a.dom (p.pa / 64)).2.bytes (p.pa % 64) p.n = s.read p.pa p.n := by
    rw [hwhole.bytes hline, Nat.div_add_mod']
  obtain ⟨hsound, hvalid, _⟩ := hwhole
  have hpoison : (fillRemote s (corePkg a.core) a.dom (p.pa / 64)).2.poisonIn (p.pa % 64) p.n = none := by
    rw [RLine.poisonIn, List.find?_eq_none]
    intro i _
    rw [hsound]
    simp
  have hall : (List.range p.n).find? (fun i => !(fillRemote s (corePkg a.core) a.dom (p.pa / 64)).2.valid.getLsbD (p.pa % 64 + i)) = none := by
    rw [List.find?_eq_none]
    intro i hi
    have hlt : p.pa % 64 + i < 64 := by
      have := List.mem_range.1 hi
      omega
    rw [hvalid, BitVec.getLsbD_allOnes, decide_eq_true hlt]
    decide
  rw [hexec, execRemoteLineFill, hacc]
  dsimp only
  rw [fillWanted_alone hpieces hplace hop hn hline hready hnew]
  dsimp only
  rw [hpieces, List.getElem?_cons_zero]
  dsimp only
  rw [hlink, hadmit, if_neg (by decide), hold, meetRemote_new, hpoison, hall, hbytes]

theorem execRemoteLineFill_effect (hacc : s.acc? r = some a) (hpieces : a.pieces = [p]) (hplace : p.place = .rpart) (hop : a.op = .load)
    (hn : 0 < p.n) (hline : p.pa % 64 + p.n ≤ 64) (hready : pieceReady s a 0 p = true)
    (hnew : s.rline (corePkg a.core) (p.pa / 64) = none) (hlink : s.cannotReach (corePkg a.core) (paPkg p.pa) 2 = false)
    (hadmit : portAdmits s a.core a.dom (corePkg a.core) p.pa p.n false = true) (hclean : s.poison = []) :
    ∃ t, exec (.remoteLineFill r) s = .next t ∧ t.mem = s.mem ∧
      (∀ x, t.acc? r = some x → ∃ q, x.pieces = [q] ∧ q.done = true ∧ q.got = s.read p.pa p.n) := by
  obtain ⟨hmem, haccs, _⟩ := fillRemote_whole (dom := a.dom) hnew hclean
  refine ⟨_, execRemoteLineFill_brings hacc hpieces hplace hop hn hline hready hnew hlink hadmit hclean, setPiece_mem.trans hmem, fun x hx => ?_⟩
  have hfilled : (fillRemote s (corePkg a.core) a.dom (p.pa / 64)).1.acc? r = some a := by
    rw [State.acc?, haccs]
    exact hacc
  exact ⟨_, setPiece_loaded hfilled hpieces hx, rfl, rfl⟩

end Filling

/-! ### Write-backs, links and lanes (R71, R382, R385) -/

section Links

variable {s : State} {g peer line port lane : Nat} {r : RLine}

theorem execRemoteRcWriteback_eq : exec (.remoteRcWriteback g line) s = .next (s.writeBackLine g line) := rfl

theorem writeBackLine_back (h : s.rline g line = some r) (hdirty : r.dirty ≠ 0) (htakes : takesBack s r = true) :
    s.writeBackLine g line =
      (writeBackBytes (if r.single = 0 then s else s.countRemote g line (countWords r.single)) r).setRline r.cleaned := by
  rw [State.writeBackLine, h]
  exact (if_neg hdirty).trans (if_pos htakes)
theorem writeBackLine_refused (h : s.rline g line = some r) (hdirty : r.dirty ≠ 0) (htakes : takesBack s r = false) :
    s.writeBackLine g line = r.writers.foldl (fun s w => setSticky s w.1 w.2.1 w.2.2 (paPkg (line * 64)))
      (s.setRline { r.cleaned with valid := r.valid &&& ~~~r.dirty }) := by
  rw [State.writeBackLine, h]
  exact (if_neg hdirty).trans (if_neg (ne_true_of_eq_false htakes))

theorem recordPeer_word (g' : Nat) : (recordPeer s g peer).capability g' = s.capability g' := by
  rw [State.capability, State.capability, recordPeer]
  by_cases h : g = g'
  · subst h
    rw [State.pkg_modPkg_same]
  · rw [State.pkg_modPkg_other _ _ h]
theorem recordPeer_own : Table.get 0 ((recordPeer s g peer).pkg g).peers peer = s.capability peer := by
  rw [recordPeer, State.pkg_modPkg_same]
  exact Table.get_set_same ..
theorem recordPeer_other (h : peer ≠ g) : (recordPeer s peer g).pkg g = s.pkg g := State.pkg_modPkg_other _ _ h

theorem execLinkTraining_exchanges {cap : Word} (hne : g ≠ peer) (hthere : s.linkDown g peer = false) (hback : s.linkDown peer g = false) :
    ∃ t, exec (.linkTraining g peer cap) s = .next t ∧ t = recordPeer (recordPeer s g peer) peer g ∧
      Table.get 0 (t.pkg g).peers peer = s.capability peer ∧ Table.get 0 (t.pkg peer).peers g = s.capability g := by
  have hexec : exec (.linkTraining g peer cap) s = execLinkTraining g peer cap s := rfl
  refine ⟨_, ?_, rfl, ?_, ?_⟩
  · rw [hexec, execLinkTraining]
    exact whenever_true (k := fun s => recordPeer (recordPeer s g peer) peer g) (by rw [decide_eq_true hne, hthere, hback]; rfl)
  · rw [recordPeer_other hne.symm, recordPeer_own]
  · rw [recordPeer_own, recordPeer_word]

/-- A lane or a buffer bank of a port out of service. -/
def losesLane (lane : Nat) (bank : Bool) (q : Port) : Port :=
  if bank then { q with banks := q.banks &&& ~~~(BitVec.ofNat 4 (2 ^ lane)) } else { q with lanes := q.lanes &&& ~~~(BitVec.ofNat 4 (2 ^ lane)) }

theorem getLsbD_losesLane (q : Port) (bank : Bool) {i : Nat} (hi : i < 4) :
    ((losesLane lane bank q).lanes &&& (losesLane lane bank q).banks).getLsbD i = ((q.lanes &&& q.banks).getLsbD i && !decide (i = lane)) := by
  have hmask : (BitVec.ofNat 4 (2 ^ lane)).getLsbD i = decide (i = lane) := by
    rw [BitVec.getLsbD_ofNat, decide_eq_true hi, Bool.true_and, Nat.testBit_two_pow]
    exact decide_eq_decide.2 eq_comm
  have hnot : (~~~(BitVec.ofNat 4 (2 ^ lane))).getLsbD i = !decide (i = lane) := by
    rw [BitVec.getLsbD_not, hmask, decide_eq_true hi, Bool.true_and]
  rw [BitVec.getLsbD_and, BitVec.getLsbD_and]
  cases bank with
  | false =>
    refine (congrArg (· && q.banks.getLsbD i) ((BitVec.getLsbD_and ..).trans (congrArg _ hnot))).trans ?_
    ac_rfl
  | true =>
    refine (congrArg (q.lanes.getLsbD i && ·) ((BitVec.getLsbD_and ..).trans (congrArg _ hnot))).trans ?_
    ac_rfl

theorem length_filter_without {l : List Nat} (hl : l.Nodup) (f : Nat → Bool) (hlane : lane ∈ l) (h : f lane = true) :
    (l.filter (fun i => f i && !decide (i = lane))).length + 1 = (l.filter f).length := by
  have hmem : lane ∈ l.filter f := List.mem_filter.2 ⟨hlane, h⟩
  have herase : l.filter (fun i => f i && !decide (i = lane)) = (l.filter f).erase lane := by
    rw [(hl.filter f).erase_eq_filter, List.filter_filter]
    refine List.filter_congr fun i _ => ?_
    rw [Bool.and_comm]
    rfl
  rw [herase, List.length_erase_of_mem hmem]
  exact Nat.sub_add_cancel (List.length_pos_of_mem hmem)

theorem capacity_losesLane {q : Port} (bank : Bool) (hlane : lane < 4) (hl : q.lanes.getLsbD lane = true) (hb : q.banks.getLsbD lane = true) :
    (losesLane lane bank q).capacity + 16 = q.capacity := by
  have hgood : (q.lanes &&& q.banks).getLsbD lane = true := by rw [BitVec.getLsbD_and, hl, hb]; rfl
  have hcount := length_filter_without List.nodup_range (fun i => (q.lanes &&& q.banks).getLsbD i) (List.mem_range.2 hlane) hgood
  have hfilter : (List.range 4).filter (fun i => ((losesLane lane bank q).lanes &&& (losesLane lane bank q).banks).getLsbD i) =
      (List.range 4).filter (fun i => (q.lanes &&& q.banks).getLsbD i && !decide (i = lane)) :=
    List.filter_congr fun i hi => getLsbD_losesLane q bank (List.mem_range.1 hi)
  rw [Port.capacity, Port.capacity, hfilter]
  omega

theorem State.port_modPort_same (p : Nat) (f : Port → Port) : (s.modPort g p f).port g p = f (s.port g p) := by
  rw [State.port, State.modPort, State.pkg_modPkg_same]
  exact Table.get_modify_same ..
theorem State.port_modPort_other {p j : Nat} (f : Port → Port) (h : j ≠ p) : (s.modPort g p f).port g j = s.port g j := by
  rw [State.port, State.modPort, State.pkg_modPkg_same]
  exact Table.get_modify_other _ _ _ h.symm

theorem execLaneFailure_eq (bank : Bool) : exec (.laneFailure port lane bank) s =
    .next (portChanged (s.modPort (port / 12) (port % 12) (losesLane lane bank)) (port / 12) (port % 12)) := rfl

end Links

section Settled

/-- Settles O50: each handler by what the port admits, the fill by the bytes of the line that it brings, and a lane by the count of those
left. -/
theorem remoteEvents : Obligations.RemoteEvents := by
  unfold Obligations.RemoteEvents
  refine ⟨?_, fun s r a p hacc hpieces hplace hop hn hline hready hnew hlink hadmit hclean =>
      execRemoteLineFill_effect hacc hpieces hplace hop hn hline hready hnew hlink hadmit hclean,
    fun s g line r h => ⟨fun hclean => ?_, fun hdirty htakes => ?_, fun hdirty htakes => ?_⟩,
    fun s g peer cap hne hthere hback => execLinkTraining_exchanges hne hthere hback, ?_⟩
  · intro s u v r x a p hacc hpieces hplace hready hopen g w t admitted hout done
    have hdone {op : AccOp} (hop : a.op = op) : remoteHandler op r s = done := by
      rw [remoteHandler_performs hacc hpieces hplace hready hopen hop, performRemote_outcome hout]
    exact ⟨hdone, hdone, hdone, hdone, hdone, hdone, hdone, hdone, hdone, hdone, hdone, hdone, hdone, hdone⟩
  · rw [execRemoteRcWriteback_eq, State.writeBackLine_clean h hclean]
  · rw [execRemoteRcWriteback_eq, writeBackLine_back h hdirty htakes]
  · rw [execRemoteRcWriteback_eq, writeBackLine_refused h hdirty htakes]
  · intro s port lane bank hlane p hl hb
    refine ⟨_, execLaneFailure_eq bank, ?_, fun j hj => State.port_modPort_other _ hj⟩
    rw [State.port_modPort_same]
    exact capacity_losesLane bank hlane hl hb

end Settled

end Sys2Proof.Machine
end

section
/-! PROOFS. Host accesses, modes, clock, reset, SPDM and control space (chapters 0, 1 and 20). -/

open Sys2Proof

namespace Sys2Proof.Machine

/-! ### Host accesses (R388, R390) -/

section HostAccesses

variable {s : State} {g addr k v p : Nat}

theorem State.answers_of (h : ∀ n, (s.pkg g).boot ≠ .failed n) : s.answers g = true := by
  rw [State.answers]
  split
  · exact absurd ‹_› (h _)
  · rfl

theorem inPad_paOf (hg : g < 16384) (haddr : addr < 0x6000000000) : inPad (paOf g addr) = false := by
  refine inPad_of_hbm ?_ ?_
  · rw [isHbm, decide_eq_true_eq, paLocal, paOf]
    omega
  · rw [paOf]
    omega

section Served

variable (hans : s.answers g = true) (hk : 0 < k) (hline : addr % 64 + k ≤ 64) (haddr : addr < 0x6000000000)
  (hopen : hostOpen s g (paOf g addr) = true)

include hans hk hline haddr hopen

theorem execCxlMemAccess_reads : exec (.cxlMemAccess g addr k none) s = .next (hostRead s g (paOf g addr) k) := by
  have hexec : exec (.cxlMemAccess g addr k none) s = execCxlMemAccess g addr k none s := rfl
  rw [hexec, execCxlMemAccess.eq_def]
  refine (if_neg ?_).trans ((if_pos (by omega)).trans (whenever_true hopen))
  rw [hans]
  simp
  omega

theorem execCxlMemAccess_writes (hpad : inPad (paOf g addr) = false) : exec (.cxlMemAccess g addr k (some v)) s =
    .next ((hostReach s g (paOf g addr) k true).write (paOf g addr) k v) := by
  have hexec : exec (.cxlMemAccess g addr k (some v)) s = execCxlMemAccess g addr k (some v) s := rfl
  rw [hexec, execCxlMemAccess.eq_def]
  refine (if_neg ?_).trans ((if_pos (by omega)).trans ((whenever_true hopen).trans
    (congrArg Host.Outcome.next (if_neg (ne_true_of_eq_false hpad)))))
  rw [hans]
  simp
  omega

end Served

theorem Background.hostReach (pa n : Nat) (write : Bool) : Background s (hostReach s g pa n write) := .ite (fun _ => .refl) fun _ => .reachHbm ..

theorem hostRead_gets (hpad : inPad addr = false) (hclean : s.poison = []) : (hostRead s g addr k).mem = s.mem ∧
    ((hostRead s g addr k).pkg g).hostReads = (s.pkg g).hostReads ++ [some (s.read addr k)] := by
  have hreach : Background s (hostReach s g addr k false) := .hostReach ..
  have hmet : (hostReach s g addr k false).poisonMet false addr k = none := by
    rw [State.poisonMet, hpad, Bool.false_and, if_neg Bool.false_ne_true, hreach.poisonedAt, State.poisonedAt, hclean]
    rfl
  rw [hostRead, hmet]
  dsimp only
  rw [hpad, if_neg Bool.false_ne_true]
  have hfixed := hreach.trans (.correct addr k)
  generalize (hostReach s g addr k false).correct addr k = u at hfixed
  refine ⟨hfixed.mem, ?_⟩
  have hpkg : ((hostGets u g (some (u.read addr k))).pkg g).hostReads = (u.pkg g).hostReads ++ [some (u.read addr k)] := by
    rw [hostGets, State.pkg_modPkg_same]
  refine hpkg.trans ?_
  rw [hfixed.read, State.pkg, hfixed.pkgs]
  rfl

/-! ### The inbox aperture (R390) -/

/-- The message that the host's line makes. -/
def apertureMsg (p data : Nat) : Msg :=
  ⟨word ((word (data / 2 ^ (64 * 0))).toNat / 2 ^ 35 * 2 ^ 35 + p / 8 * 2 ^ 21 + 5 * 2 ^ 6 + (word (data / 2 ^ (64 * 0))).toNat % 64),
    word (data / 2 ^ (64 * 1)), word (data / 2 ^ (64 * 2)), word (data / 2 ^ (64 * 3)), word (data / 2 ^ (64 * 4)), word (data / 2 ^ (64 * 5)),
    word (data / 2 ^ (64 * 6)), word (data / 2 ^ (64 * 7))⟩

theorem apertureMsg_skind (p data : Nat) : fieldOf (apertureMsg p data).h0 8 6 = 5 := by
  have hword (a b x : Nat) (hx : x < 64) : fieldOf (word (a * 2 ^ 35 + b * 2 ^ 21 + 5 * 2 ^ 6 + x)) 8 6 = 5 := by
    rw [fieldOf, bits, word, BitVec.toNat_ofNat]
    omega
  exact hword _ _ _ (Nat.mod_lt _ (by decide))

theorem execInboxApertureWrite_eq (hboot : ∀ n, (s.pkg (p / 8)).boot ≠ .failed n) (off data : Nat) :
    exec (.inboxApertureWrite p off k data) s = .next (apertureWrite s p off k data) := by
  have hexec : exec (.inboxApertureWrite p off k data) s = execInboxApertureWrite p off k data s := rfl
  rw [hexec, execInboxApertureWrite]
  split
  · exact absurd ‹_› (hboot _)
  · rfl

theorem apertureWrite_queues (data : Nat) (hroom : (s.panel p).aperture.length < 16) : apertureWrite s p 0 64 data =
    s.modPanel p (fun x => Panel.drain p 16 { x with aperture := x.aperture ++ [apertureMsg p data] }) := by
  rw [apertureWrite, if_pos ⟨rfl, rfl, hroom⟩]
  rfl
theorem apertureWrite_drops {off : Nat} (data : Nat) (h : off ≠ 0 ∨ k ≠ 64 ∨ 16 ≤ (s.panel p).aperture.length) :
    apertureWrite s p off k data = s.modPanel p (fun x => { x with drop := (x.drop + 1) % 65536 }) := by
  refine if_neg ?_
  rintro ⟨hoff, hk, hroom⟩
  omega

end HostAccesses

/-! ### Modes (R14, R15, R393) -/

section Modes

variable {s : State} {g : Nat} {m : Msg} {mine : Nat → Bool}

section Requests

variable (hans : s.answers g = true) (hhead : sysHead s (g * 8) 0x41 = some m) (hmine : mine (fieldOf m.w0 7 0) = true)

include hans hhead hmine

/-- The answers to a MODE request that concerns an event. -/
theorem modeRequest_eq : modeRequest g mine s =
    if msgSkind m ≠ 5 ∧ msgSkind m ≠ 3 then .next (foremanStore (dropSys s (g * 8)) (g * 8) (fieldOf m.w2 55 0) 4)
    else if !modeGood m then .next (foremanStore (dropSys s (g * 8)) (g * 8) (fieldOf m.w2 55 0) 3)
    else if fieldOf m.w0 7 0 = 6 then
      .next (foremanStore ((if fieldOf m.w0 15 8 = 0xFF then List.range 8 else [fieldOf m.w0 15 8]).foldl
        (fun s p => setAging s (g * 8 + p) m.w1.toNat) (dropSys s (g * 8))) (g * 8) (fieldOf m.w2 55 0) 0)
    else .next ((dropSys s (g * 8)).modPkg g (fun p =>
      { p with held := p.held ++ [⟨fieldOf m.w0 7 0, fieldOf m.w0 15 8, fieldOf m.w0 19 16, m.w1, fieldOf m.w2 55 0⟩] })) := by
  rw [modeRequest, hans, if_pos rfl, hhead]
  dsimp only
  rw [hmine, if_neg (by decide)]

theorem modeRequest_held (hhost : msgSkind m = 5) (hgood : modeGood m = true) (hmode : fieldOf m.w0 7 0 ≠ 6) :
    modeRequest g mine s = .next ((dropSys s (g * 8)).modPkg g (fun p =>
      { p with held := p.held ++ [⟨fieldOf m.w0 7 0, fieldOf m.w0 15 8, fieldOf m.w0 19 16, m.w1, fieldOf m.w2 55 0⟩] })) := by
  rw [modeRequest_eq hans hhead hmine, if_neg (by omega), hgood, if_neg (by decide), if_neg hmode]
theorem modeRequest_aging (hhost : msgSkind m = 5) (hgood : modeGood m = true) (hmode : fieldOf m.w0 7 0 = 6) (hone : fieldOf m.w0 15 8 < 8) :
    modeRequest g mine s = .next (foremanStore (setAging (dropSys s (g * 8)) (g * 8 + fieldOf m.w0 15 8) m.w1.toNat) (g * 8)
      (fieldOf m.w2 55 0) 0) := by
  rw [modeRequest_eq hans hhead hmine, if_neg (by omega), hgood, if_neg (by decide), if_pos hmode, if_neg (by omega)]
  rfl
theorem modeRequest_bad (hhost : msgSkind m = 5) (hbad : modeGood m = false) :
    modeRequest g mine s = .next (foremanStore (dropSys s (g * 8)) (g * 8) (fieldOf m.w2 55 0) 3) := by
  rw [modeRequest_eq hans hhead hmine, if_neg (by omega), hbad, if_pos (by decide)]
theorem modeRequest_foreign (hstrand : msgSkind m = 0) :
    modeRequest g mine s = .next (foremanStore (dropSys s (g * 8)) (g * 8) (fieldOf m.w2 55 0) 4) := by
  rw [modeRequest_eq hans hhead hmine, if_pos (by omega)]

end Requests

theorem exec_modeRemoteCache : exec (.modeRemoteCache g) s = modeRequest g (fun n => decide (n ≤ 1 ∨ 8 ≤ n)) s := rfl
theorem exec_modeL2Partitioning : exec (.modeL2Partitioning g) s = modeRequest g (fun n => decide (n = 2)) s := rfl
theorem exec_modeL2PartitionClass : exec (.modeL2PartitionClass g) s = modeRequest g (fun n => decide (n = 3)) s := rfl
theorem exec_modeCimPower : exec (.modeCimPower g) s = modeRequest g (fun n => decide (n = 4)) s := rfl
theorem exec_modeWaitListCap : exec (.modeWaitListCap g) s = modeRequest g (fun n => decide (n = 5)) s := rfl
theorem exec_modeAgingInterval : exec (.modeAgingInterval g) s = modeRequest g (fun n => decide (n = 6)) s := rfl
theorem exec_modeVcReservePolicy : exec (.modeVcReservePolicy g) s = modeRequest g (fun n => decide (n = 7)) s := rfl

theorem execModeChangeApply_applies {r : ModeReq} {rest : List ModeReq} (hheld : (s.pkg g).held = r :: rest) (hquiet : modeQuiet s g r = true) :
    exec (.modeChangeApply g) s =
      .next (foremanStore (applyMode (s.modPkg g (fun p => { p with held := rest })) g r) (g * 8) r.reply 0) := by
  have hexec : exec (.modeChangeApply g) s = execModeChangeApply g s := rfl
  rw [hexec, execModeChangeApply, hheld]
  exact whenever_true hquiet

theorem execPortReserveApply_applies {port : Nat} (hnew : (s.port (port / 12) (port % 12)).policy ≠ (s.pkg (port / 12)).policy)
    (hfit : reservesFit s (port / 12) (port % 12) (s.pkg (port / 12)).policy = true) :
    exec (.portReserveApply port) s = .next (portChanged (s.modPort (port / 12) (port % 12)
      (fun q => { q with policy := (s.pkg (port / 12)).policy })) (port / 12) (port % 12)) := by
  have hexec : exec (.portReserveApply port) s = execPortReserveApply port s := rfl
  rw [hexec, execPortReserveApply, whenever_true (by rw [decide_eq_true hnew, hfit]; rfl)]

theorem execClockThrottle_falls {watts : Nat} : ∃ t, exec (.clockThrottle g watts) s = .next t ∧
    (2600 < watts → 1300 ≤ (s.pkg g).clock → (t.pkg g).clock = (s.pkg g).clock - 100) := by
  refine ⟨_, rfl, fun hwatts hclock => ?_⟩
  rw [State.pkg_modPkg_same]
  exact (if_pos hwatts).trans (Nat.max_eq_right (by omega))

end Modes

/-! ### Reset and the boot chain (R394) -/

section Resetting

variable {s : State} {g flash : Nat}

/-- What the boot chain ends with. -/
def bootOutcome (bad : Option Nat) : Boot := bad.elim .booted .failed

theorem bootFrom_outcome : ∀ (left n : Nat) (t : Table (BitVec 384)),
    (bootFrom g flash left n t).2 = bootOutcome ((List.range' n left).find? (fun n => !stageGood g flash n))
  | 0, _, _ => rfl
  | left + 1, n, t => by
    rw [bootFrom, List.range'_succ, List.find?_cons]
    cases h : stageGood g flash n with
    | true =>
      rw [if_pos rfl]
      exact bootFrom_outcome left (n + 1) _
    | false => rfl

theorem Memory.get_filter (keep : Nat → Bool) (x : Nat) (hx : keep x = true) :
    ∀ m : List Host.Cell, Memory.get (m.filter (fun c => keep c.1)) x = Memory.get m x
  | [] => rfl
  | (k, b) :: m => by
    have hrest := Memory.get_filter keep x hx m
    by_cases hk : keep k = true
    · rw [List.filter_cons_of_pos (p := fun c : Host.Cell => keep c.1) hk, Memory.get, Memory.get, hrest]
    · have hne : k ≠ x := fun h => hk (h ▸ hx)
      rw [List.filter_cons_of_neg (p := fun c : Host.Cell => keep c.1) hk, hrest, Memory.get, if_neg hne]

/-- A package that has been reset, before its boot chain tells how it ended. -/
def resetPackage (s : State) (g : Nat) : State := clearOverflow (clearPackage s g) g

theorem resetPackage_byteAt {x : Nat} (h : inOverflow x = false ∨ paPkg x ≠ g) : (resetPackage s g).byteAt x = s.byteAt x := by
  refine Memory.get_filter (fun pa => !(inOverflow pa && decide (paPkg pa = g))) x ?_ s.mem
  rcases h with h | h
  · rw [h, Bool.false_and, Bool.not_false]
  · rw [decide_eq_false h, Bool.and_false, Bool.not_false]

theorem resetPackage_core {c : Nat} (h : corePkg c = g) : (resetPackage s g).core c = .init := by
  refine (Table.get_filter .init (fun c => decide (corePkg c ≠ g)) s.cores c).trans (if_neg ?_)
  rw [decide_eq_true_eq]
  exact not_not.2 h

theorem execPackageReset_eq : exec (.packageReset g flash) s = .next ((resetPackage s g).modPkg g (fun p =>
    { p with meas := (bootFrom g flash 4 1 []).1, boot := (bootFrom g flash 4 1 []).2 })) := by
  have hexec : exec (.packageReset g flash) s = execPackageReset g flash s := rfl
  rw [hexec, execPackageReset]
  rcases bootFrom g flash 4 1 [] with ⟨t, b⟩
  rfl

theorem execPackageReset_boot : (((resetPackage s g).modPkg g (fun p =>
    { p with meas := (bootFrom g flash 4 1 []).1, boot := (bootFrom g flash 4 1 []).2 })).pkg g).boot =
      bootOutcome ([1, 2, 3, 4].find? (fun n => !stageGood g flash n)) := by
  rw [State.pkg_modPkg_same, bootFrom_outcome]
  rfl

end Resetting

/-! ### SPDM (R395) -/

theorem execSpdmUnsupportedRequest_answers {s : State} {g req : Nat} (h : req ∉ [0x84, 0xE1, 0xE3, 0x81, 0x82, 0x83, 0xE0]) :
    exec (.spdmUnsupportedRequest g req) s = spdmAnswer g 0x7F req [0x07, req] s := by
  have hexec : exec (.spdmUnsupportedRequest g req) s = execSpdmUnsupportedRequest g req s := rfl
  rw [hexec, execSpdmUnsupportedRequest, if_neg]
  rw [List.contains_iff_mem]
  exact h

/-! ### Control space (R75, R76) -/

section L2Config

variable {s t u : State} {d g n : Nat} {v : Word}

/-- The configuration of every die's L2 is as it was. -/
structure SameL2cfg (s t : State) : Prop where
  l2cfg : ∀ d, (t.die d).l2cfg = (s.die d).l2cfg

theorem SameL2cfg.of_dies (h : t.dies = s.dies) : SameL2cfg s t := ⟨fun d => by rw [State.die, State.die, h]⟩
theorem SameL2cfg.refl : SameL2cfg s s := .of_dies rfl
theorem SameL2cfg.trans (h : SameL2cfg s t) (h' : SameL2cfg t u) : SameL2cfg s u := ⟨fun d => (h'.l2cfg d).trans (h.l2cfg d)⟩
theorem SameL2cfg.ite {p : Prop} [Decidable p] {a b : State} (ha : SameL2cfg s a) (hb : SameL2cfg s b) : SameL2cfg s (if p then a else b) := by
  split
  · exact ha
  · exact hb
theorem SameL2cfg.foldl {α : Type} {f : State → α → State} (hf : ∀ s x, SameL2cfg s (f s x)) :
    ∀ (l : List α) (s : State), SameL2cfg s (l.foldl f s)
  | [], _ => .refl
  | x :: l, s => (hf s x).trans (SameL2cfg.foldl hf l (f s x))

theorem SameL2cfg.trainOn (dom pa : Nat) : SameL2cfg s (trainOn s dom pa) := by
  refine ⟨fun d => ?_⟩
  rw [Machine.trainOn]
  by_cases h : dieOfSlice (homeSlice pa) = d
  · rw [h, State.die_modDie_same]
    split <;> rfl
  · rw [State.die, State.modDie_dies, Table.get_set_other _ _ _ h, State.die]
theorem wakeFor_dies (pa : Nat) : (wakeFor s pa).dies = s.dies := by
  rw [wakeFor]
  split <;> rfl
theorem useLine_dies (dom pa n : Nat) (write : Bool) : (useLine s dom pa n write).dies = s.dies := by
  have hwoken (p : Prop) [Decidable p] : (if p then s else wakeFor s pa).dies = s.dies := by
    split
    · rfl
    · exact wakeFor_dies pa
  have hhit (p : Prop) [Decidable p] : (if p then wakeFor s pa else s).dies = s.dies := by
    split
    · exact wakeFor_dies pa
    · rfl
  unfold useLine
  dsimp only
  split
  · exact hhit _
  · split
    · exact hwoken _
    · split
      · exact hwoken _
      · exact hwoken _
theorem SameL2cfg.reachHbm (fo : Bool) (dom pa n : Nat) (write : Bool) : SameL2cfg s (reachHbm s fo dom pa n write) :=
  .ite (.of_dies (wakeFor_dies pa)) ((SameL2cfg.trainOn ..).trans (.of_dies (useLine_dies ..)))
theorem SameL2cfg.writeBackByte (r : RLine) (i : Nat) : SameL2cfg s (writeBackByte r s i) := .ite (.of_dies rfl) .refl
theorem SameL2cfg.dropRline (g line : Nat) : SameL2cfg s (s.dropRline g line) := .of_dies rfl
theorem SameL2cfg.setRline (r : RLine) : SameL2cfg s (s.setRline r) := .of_dies rfl
theorem SameL2cfg.setSticky (w : Nat × Nat × Nat) (pkg : Nat) : SameL2cfg s (setSticky s w.1 w.2.1 w.2.2 pkg) := .of_dies rfl
theorem SameL2cfg.writeBackBytes (r : RLine) : SameL2cfg s (writeBackBytes s r) := by
  unfold Machine.writeBackBytes
  have hbytes (s : State) : SameL2cfg s ((List.range 64).foldl (Machine.writeBackByte r) s) :=
    .foldl (fun s i => SameL2cfg.writeBackByte (s := s) r i) (List.range 64) s
  have hwords (s : State) (l m : List Nat) : SameL2cfg s (if r.zeroed then ({ s with poison := l, single := m } : State).clearRecord (r.line * 64)
      else { s with poison := l, single := m }) := .ite (.of_dies rfl) (.of_dies rfl)
  exact (SameL2cfg.reachHbm ..).trans ((hbytes _).trans (hwords ..))
theorem SameL2cfg.writeBackLine (g line : Nat) : SameL2cfg s (s.writeBackLine g line) := by
  unfold State.writeBackLine
  split
  · exact .refl
  · rename_i r _
    dsimp only
    split
    · exact .refl
    · split
      · refine SameL2cfg.trans ?_ ((SameL2cfg.writeBackBytes r).trans (.of_dies rfl))
        exact .ite .refl (.of_dies rfl)
      · exact (SameL2cfg.setRline _).trans (.foldl (fun s w => SameL2cfg.setSticky (s := s) w (paPkg (line * 64))) r.writers _)

/-- A new size of the remote partition stands in REMSZ, and the fields above it stay. -/
theorem setRemsz_l2cfg (hn : n < 16) : ((setRemsz s d n).die d).l2cfg.toNat = (s.die d).l2cfg.toNat / 16 * 16 + n := by
  have hleave (l : List Nat) : SameL2cfg s (l.foldl (fun s l => (s.writeBackLine (d / 2) l).dropRline (d / 2) l) s) :=
    .foldl (fun s l => (SameL2cfg.writeBackLine (s := s) (d / 2) l).trans (SameL2cfg.dropRline (d / 2) l)) l s
  have hslices (p : Prop) [Decidable p] (t : State) (l : Table Slice) : SameL2cfg t (if p then { t with slices := l } else t) :=
    .ite (.of_dies rfl) .refl
  unfold setRemsz
  dsimp only
  rw [State.die_modDie_same]
  have hset (x : Word) : (word (x.toNat / 16 * 16 + n)).toNat = x.toNat / 16 * 16 + n := by
    have := x.isLt
    rw [word, BitVec.toNat_ofNat]
    omega
  exact (hset _).trans (congrArg (fun x : Word => x.toNat / 16 * 16 + n) (((hleave _).trans (hslices _ _ _)).l2cfg d))

theorem setDpart_l2cfg (hn : n < 2) : fieldOf ((setDpart s d n).die d).l2cfg 8 8 = n := by
  have hlow : fieldOf (s.die d).l2cfg 7 0 < 256 := Nat.mod_lt _ (by decide)
  rw [setDpart, State.die_modDie_same]
  refine (fieldOf_word ?_ 8 8).trans ?_
  · omega
  · rw [bits]
    omega

theorem writeL2cfg_dpart : fieldOf ((writeL2cfg s d v).die d).l2cfg 8 8 = fieldOf v 8 8 := by
  have hbit : fieldOf v 8 8 < 2 := Nat.mod_lt _ (by decide)
  have hpart := setDpart_l2cfg (s := s) (d := d) hbit
  rw [writeL2cfg]
  split
  · rename_i hsize
    rw [fieldOf, bits, setRemsz_l2cfg (by omega)]
    rw [fieldOf, bits] at hpart
    omega
  · exact hpart
theorem writeL2cfg_remsz (hsize : fieldOf v 3 0 ≤ 8) : fieldOf ((writeL2cfg s d v).die d).l2cfg 3 0 = fieldOf v 3 0 := by
  have hremsz := setRemsz_l2cfg (s := setDpart s d (fieldOf v 8 8)) (d := d) (n := fieldOf v 3 0) (by omega)
  rw [writeL2cfg, if_pos hsize, fieldOf, bits, hremsz]
  omega

theorem execControlRegisterWrite_eq {addr : Nat} (hans : s.answers g = true) :
    exec (.controlRegisterWrite g addr v) s = .next ((controlWrite s g addr v).getD s) := by
  have hexec : exec (.controlRegisterWrite g addr v) s = execControlRegisterWrite g addr v s := rfl
  rw [hexec, execControlRegisterWrite]
  exact whenever_true hans

/-- A write to the registers of a die's L2. -/
theorem controlWrite_l2 {addr o : Nat} (halign : addr % 8 = 0) (hrange : 0x6100100000 ≤ addr ∧ addr < 0x6100120000)
    (hdie : g * 2 + (addr - 0x6100100000) / 0x10000 = d) (ho : addr % 0x10000 = o) (hreg : ¬ (o ≠ 0 ∧ (o < 0x100 ∨ 0x180 ≤ o))) :
    controlWrite s g addr v =
      if !dieQuiet s d then none else some (if o = 0 then writeL2cfg s d v else setL2pcls s d ((o - 0x100) / 8) v) := by
  subst hdie ho
  exact (if_neg (not_not.2 halign)).trans ((if_pos hrange).trans (if_neg hreg))

theorem controlWrite_l2cfg (hquiet : dieQuiet s (2 * g) = true) : controlWrite s g 0x6100100000 v = some (writeL2cfg s (2 * g) v) := by
  rw [controlWrite_l2 (d := 2 * g) (o := 0) (by decide) (by decide) (by omega) (by decide) (by decide), hquiet, if_neg (by decide), if_pos rfl]
theorem controlWrite_l2cfg_held (hbusy : dieQuiet s (2 * g) = false) : controlWrite s g 0x6100100000 v = none := by
  rw [controlWrite_l2 (d := 2 * g) (o := 0) (by decide) (by decide) (by omega) (by decide) (by decide), hbusy, if_pos (by decide)]
theorem controlWrite_l2pcls (hn : n < 16) (hquiet : dieQuiet s (2 * g + 1) = true) :
    controlWrite s g (0x6100110100 + 8 * n) v = some (setL2pcls s (2 * g + 1) n v) := by
  have hreg : (0x100 + 8 * n - 0x100) / 8 = n := by omega
  rw [controlWrite_l2 (d := 2 * g + 1) (o := 0x100 + 8 * n) (by omega) (by omega) (by omega) (by omega) (by omega), hquiet, if_neg (by decide),
    if_neg (by omega), hreg]

end L2Config

section Settled

/-- Settles O51: each event by its branches; the L2's configuration by what a write-back leaves of the dies. -/
theorem platformEvents : Obligations.PlatformEvents := by
  unfold Obligations.PlatformEvents
  refine ⟨fun s g addr k v hboot hg hk hline haddr hopen => ⟨?_, fun hclean => ?_⟩,
    fun s p data hboot => ⟨fun hroom => ?_, fun off k h => ?_⟩, ?_,
    fun s g r rest hheld hquiet => execModeChangeApply_applies hheld hquiet,
    fun s port hnew hfit => execPortReserveApply_applies hnew hfit, fun s g watts => execClockThrottle_falls, fun s g flash => ?_, ?_, ?_⟩
  · have hreach : Background s (hostReach s g (paOf g addr) k true) := .hostReach ..
    refine ⟨_, execCxlMemAccess_writes (State.answers_of hboot) hk hline haddr hopen (inPad_paOf hg haddr), State.read_write .., fun x hx => ?_⟩
    rw [State.byteAt, State.write_mem, hreach.mem]
    exact Memory.get_writeN_other _ _ _ _ hx
  · obtain ⟨hmem, hreads⟩ := hostRead_gets (s := s) (g := g) (k := k) (inPad_paOf hg haddr) hclean
    exact ⟨_, execCxlMemAccess_reads (State.answers_of hboot) hk hline haddr hopen, hmem, hreads⟩
  · exact ⟨_, apertureMsg p data, (execInboxApertureWrite_eq hboot 0 data).trans (congrArg Host.Outcome.next (apertureWrite_queues data hroom)),
      apertureMsg_skind p data, rfl, rfl⟩
  · rw [execInboxApertureWrite_eq hboot, apertureWrite_drops data h]
  · intro s g m hans hhead mode t answer held
    refine ⟨fun hhost hgood => ⟨fun hmode => ?_, fun hmode => ?_, fun hmode => ?_, fun hmode => ?_, fun hmode => ?_, fun hmode => ?_,
      fun hmode hone => ?_⟩, fun hhost hbad hmode => ?_, fun hstrand hmode => ?_⟩
    · rw [exec_modeRemoteCache]
      exact modeRequest_held hans hhead (decide_eq_true (by omega)) hhost hgood (by omega)
    · rw [exec_modeL2Partitioning]
      exact modeRequest_held hans hhead (decide_eq_true hmode) hhost hgood (by omega)
    · rw [exec_modeL2PartitionClass]
      exact modeRequest_held hans hhead (decide_eq_true hmode) hhost hgood (by omega)
    · rw [exec_modeCimPower]
      exact modeRequest_held hans hhead (decide_eq_true hmode) hhost hgood (by omega)
    · rw [exec_modeWaitListCap]
      exact modeRequest_held hans hhead (decide_eq_true hmode) hhost hgood (by omega)
    · rw [exec_modeVcReservePolicy]
      exact modeRequest_held hans hhead (decide_eq_true hmode) hhost hgood (by omega)
    · rw [exec_modeAgingInterval]
      exact modeRequest_aging hans hhead (decide_eq_true hmode) hhost hgood hmode hone
    · rw [exec_modeWaitListCap]
      exact modeRequest_bad hans hhead (decide_eq_true hmode) hhost hbad
    · rw [exec_modeWaitListCap]
      exact modeRequest_foreign hans hhead (decide_eq_true hmode) hstrand
  · refine ⟨_, execPackageReset_eq, fun x hx => resetPackage_byteAt hx, fun c hc => resetPackage_core hc, execPackageReset_boot.trans ?_⟩
    cases [1, 2, 3, 4].find? (fun n => !stageGood g flash n) <;> rfl
  · intro s g req answers
    exact ⟨⟨_, rfl⟩, ⟨_, rfl⟩, ⟨_, rfl⟩, ⟨_, rfl⟩, ⟨_, rfl⟩, ⟨_, rfl⟩, ⟨_, rfl⟩, fun h => ⟨_, execSpdmUnsupportedRequest_answers h⟩⟩
  · intro s g n v hans
    refine ⟨fun hquiet => ?_, fun hbusy => ?_, fun hn hquiet => ?_⟩
    · refine ⟨_, (execControlRegisterWrite_eq hans).trans (congrArg (fun o => Host.Outcome.next (Option.getD o s)) (controlWrite_l2cfg hquiet)),
        writeL2cfg_dpart, writeL2cfg_remsz⟩
    · rw [execControlRegisterWrite_eq hans, controlWrite_l2cfg_held hbusy]
      rfl
    · rw [execControlRegisterWrite_eq hans, controlWrite_l2pcls hn hquiet]
      rfl

end Settled

end Sys2Proof.Machine
end
